-- ==== Sys2Proof/Word.lean ====
section
/-! DEFINITION. The word types of KW-LMK-4 and the messages that reach it from another package. -/

namespace Sys2Proof

/-- A 64-bit register value (R21). -/
abbrev W := BitVec 64

/-- A byte of memory. -/
abbrev Byte := BitVec 8

/-- A vector register (R28). -/
abbrev V512 := BitVec 512

/-- A 6-bit register field: bit 5 selects the core-shared bank (R24). -/
abbrev R6 := BitVec 6

/-- Sparse data by number. In canonical form the keys rise strictly and no entry equals the value that an unlisted key
reads as (Machine/Tbl.lean). -/
abbrev Tbl (α : Type) := List (Nat × α)

/-- What can cross a package boundary towards this package (R347): blocks of a put, reads of a get, SENDM messages,
forwarded pushes, and the answers of the remote package to this package's own puts and gets. -/
inductive XMsg where
  /-- a put block of operation `op` of engine `eng`, for the bound pair `ctx`: the runs of bytes that it writes in one 64-byte block, each
  with its GLB address (R225); `pkg`: the other package -/
  | put (pkg eng op ctx : Nat) (runs : List (Nat × List Byte))
  /-- a get read of `len` bytes in the bound pair `ctx` at GLB address `va` -/
  | get (pkg eng op ctx va len : Nat)
  /-- a SENDM message with target word `t` and data `d` for the bound pair `ctx` (R236) -/
  | sendm (ctx : Nat) (t d : W)
  /-- a push of item `w` with its token bit, forwarded by entry `fwd` of package `pkg`, to the queue named by `h` (R348) -/
  | push (pkg fwd ctx : Nat) (h w : W) (tok : Bool)
  /-- the remote package has taken the push of this package's forwarder `fwd`: context · 64 + entry (R348) -/
  | taken (fwd : Nat)
  /-- the remote package's answer to operation `op` of copy engine `eng`: the data of a get, or the acknowledgement of a
  put; `cause` is 0, or a cause met on the remote package (R348) -/
  | answer (eng op : Nat) (data : List Byte) (cause : Nat)
  deriving DecidableEq, Repr

end Sys2Proof
end

