-- ==== Sys2Proof/Syntax.lean ====
section
/-! DEFINITION. The instruction set: one constructor per row of the opcode table. Fields carry the widths of the
encoding (Table 03-1); an event row (a step of a hardware agent, of firmware, of the host or of the environment) carries
the unit or message it concerns and whatever the agent is free to choose. The constructor qctl is the QCTL word (R158),
whose operation stands in a register; qctlDrain, qctlClose and qctlOpen are its three operations. -/

namespace Sys2Proof

inductive Instr where
  /-- ADD. Writes the 64-bit sum a + b, modulo 2^64, to rd (R93). -/
  | add (d : BitVec 6) (a : BitVec 6) (b : BitVec 6)
  /-- SUB. Writes the difference a − b, modulo 2^64, to rd (R93). -/
  | sub (d : BitVec 6) (a : BitVec 6) (b : BitVec 6)
  /-- MUL. Writes the low 64 bits of a × b to rd (R93). -/
  | mul (d : BitVec 6) (a : BitVec 6) (b : BitVec 6)
  /-- MULH. Writes bits 127:64 of the signed product of a and b to rd (R93). -/
  | mulh (d : BitVec 6) (a : BitVec 6) (b : BitVec 6)
  /-- MULHU. Writes bits 127:64 of the unsigned product of a and b to rd (R93). -/
  | mulhu (d : BitVec 6) (a : BitVec 6) (b : BitVec 6)
  /-- DIV. Writes the signed quotient, truncated toward zero and defined at the borders, taking 3 further turns (R94). -/
  | div (d : BitVec 6) (a : BitVec 6) (b : BitVec 6)
  /-- DIVU. Writes the unsigned quotient, giving all ones for division by zero, taking 3 further turns (R94). -/
  | divu (d : BitVec 6) (a : BitVec 6) (b : BitVec 6)
  /-- REM. Writes the signed remainder, which takes the sign of the dividend, taking 3 further turns (R94). -/
  | rem (d : BitVec 6) (a : BitVec 6) (b : BitVec 6)
  /-- REMU. Writes the unsigned remainder, giving a for division by zero, taking 3 further turns (R94). -/
  | remu (d : BitVec 6) (a : BitVec 6) (b : BitVec 6)
  /-- AND. Writes a AND b to rd (R93). -/
  | and (d : BitVec 6) (a : BitVec 6) (b : BitVec 6)
  /-- OR. Writes a OR b to rd (R93). -/
  | or (d : BitVec 6) (a : BitVec 6) (b : BitVec 6)
  /-- XOR. Writes a XOR b to rd (R93). -/
  | xor (d : BitVec 6) (a : BitVec 6) (b : BitVec 6)
  /-- ANDN. Writes a AND NOT b to rd (R93). -/
  | andn (d : BitVec 6) (a : BitVec 6) (b : BitVec 6)
  /-- SLL. Shifts a left by b[5:0], shifting in zeros (R93). -/
  | sll (d : BitVec 6) (a : BitVec 6) (b : BitVec 6)
  /-- SRL. Shifts a right logically by b[5:0] (R93). -/
  | srl (d : BitVec 6) (a : BitVec 6) (b : BitVec 6)
  /-- SRA. Shifts a right arithmetically by b[5:0] (R93). -/
  | sra (d : BitVec 6) (a : BitVec 6) (b : BitVec 6)
  /-- ROR. Rotates a right by b[5:0] (R93). -/
  | ror (d : BitVec 6) (a : BitVec 6) (b : BitVec 6)
  /-- MIN. Writes the signed minimum of a and b (R93). -/
  | min (d : BitVec 6) (a : BitVec 6) (b : BitVec 6)
  /-- MAX. Writes the signed maximum of a and b (R93). -/
  | max (d : BitVec 6) (a : BitVec 6) (b : BitVec 6)
  /-- MINU. Writes the unsigned minimum of a and b (R93). -/
  | minu (d : BitVec 6) (a : BitVec 6) (b : BitVec 6)
  /-- MAXU. Writes the unsigned maximum of a and b (R93). -/
  | maxu (d : BitVec 6) (a : BitVec 6) (b : BitVec 6)
  /-- SLT. Writes 1 if a is less than b as signed values, and 0 otherwise (R93). -/
  | slt (d : BitVec 6) (a : BitVec 6) (b : BitVec 6)
  /-- SLTU. Writes 1 if a is less than b as unsigned values, and 0 otherwise (R93). -/
  | sltu (d : BitVec 6) (a : BitVec 6) (b : BitVec 6)
  /-- SEQ. Writes 1 if a equals b, and 0 otherwise (R93). -/
  | seq (d : BitVec 6) (a : BitVec 6) (b : BitVec 6)
  /-- CLZ. Writes the number of leading zero bits of a (R93). -/
  | clz (d : BitVec 6) (a : BitVec 6)
  /-- CTZ. Writes the number of trailing zero bits of a (R93). -/
  | ctz (d : BitVec 6) (a : BitVec 6)
  /-- POPC. Writes the number of 1 bits of a (R93). -/
  | popc (d : BitVec 6) (a : BitVec 6)
  /-- BREV. Writes the bit-reversed value of a (R93). -/
  | brev (d : BitVec 6) (a : BitVec 6)
  /-- SEXTB. Writes a[7:0] sign-extended (R93). -/
  | sextb (d : BitVec 6) (a : BitVec 6)
  /-- SEXTH. Writes a[15:0] sign-extended (R93). -/
  | sexth (d : BitVec 6) (a : BitVec 6)
  /-- SEXTW. Writes a[31:0] sign-extended (R93). -/
  | sextw (d : BitVec 6) (a : BitVec 6)
  /-- BEXT. Extracts the field of a that b positions, zero-extended (R95). -/
  | bext (d : BitVec 6) (a : BitVec 6) (b : BitVec 6)
  /-- BINS. Inserts the low bits of a into the field of rd that b positions (R95). -/
  | bins (d : BitVec 6) (a : BitVec 6) (b : BitVec 6)
  /-- ADDI. Writes a plus the sign-extended imm13 (R96). -/
  | addi (d : BitVec 6) (a : BitVec 6) (i : BitVec 13)
  /-- ANDI. Writes a AND the sign-extended imm13 (R96). -/
  | andi (d : BitVec 6) (a : BitVec 6) (i : BitVec 13)
  /-- ORI. Writes a OR the sign-extended imm13 (R96). -/
  | ori (d : BitVec 6) (a : BitVec 6) (i : BitVec 13)
  /-- XORI. Writes a XOR the sign-extended imm13 (R96). -/
  | xori (d : BitVec 6) (a : BitVec 6) (i : BitVec 13)
  /-- SLLI. Shifts a left by the immediate amount (R75). -/
  | slli (d : BitVec 6) (a : BitVec 6) (sh : BitVec 6)
  /-- SRLI. Shifts a right logically by the immediate amount (R75). -/
  | srli (d : BitVec 6) (a : BitVec 6) (sh : BitVec 6)
  /-- SRAI. Shifts a right arithmetically by the immediate amount (R75). -/
  | srai (d : BitVec 6) (a : BitVec 6) (sh : BitVec 6)
  /-- RORI. Rotates a right by the immediate amount (R75). -/
  | rori (d : BitVec 6) (a : BitVec 6) (sh : BitVec 6)
  /-- SLTI. Writes 1 if a is less than the immediate as signed values (R96). -/
  | slti (d : BitVec 6) (a : BitVec 6) (i : BitVec 13)
  /-- SLTIU. Writes 1 if a is less than the sign-extended immediate as unsigned values (R96). -/
  | sltiu (d : BitVec 6) (a : BitVec 6) (i : BitVec 13)
  /-- LIH. Writes SInt(imm19) shifted left by 13 (R97). -/
  | lih (d : BitVec 6) (i : BitVec 19)
  /-- LIS. Shifts rd left by 19 and inserts the unsigned imm19 (R97). -/
  | lis (d : BitVec 6) (i : BitVec 19)
  /-- PADD. Adds a signed byte count to the pointer's low field, faulting on carry or borrow (R99). -/
  | padd (d : BitVec 6) (a : BitVec 6) (b : BitVec 6)
  /-- PADDE. Adds a signed element count, scaled by the pointer's format, to the low field (R99). -/
  | padde (d : BitVec 6) (a : BitVec 6) (b : BitVec 6)
  /-- PDIFF. Writes the signed byte difference of two pointers in the same space (R100). -/
  | pdiff (d : BitVec 6) (a : BitVec 6) (b : BitVec 6)
  /-- PMAKE. Builds a pointer from an attribute word and an offset, with no check (R101). -/
  | pmake (d : BitVec 6) (a : BitVec 6) (b : BitVec 6)
  /-- PGET. Writes the attribute word of a pointer (R98). -/
  | pget (d : BitVec 6) (a : BitVec 6)
  /-- PSET. Replaces a pointer's FMT and BLG (R101). -/
  | pset (d : BitVec 6) (a : BitVec 6) (b : BitVec 6)
  /-- PCHK. Writes 0, or the cause code of the first pointer check that fails, without faulting (R102). -/
  | pchk (d : BitVec 6) (a : BitVec 6) (b : BitVec 6)
  /-- PABS. Rewrites a pointer to an absolute-location space (R103). -/
  | pabs (d : BitVec 6) (a : BitVec 6)
  /-- PREL. Rewrites a pointer relative to the issuing core (R103). -/
  | prel (d : BitVec 6) (a : BitVec 6)
  /-- PADDI. Adds the signed imm13 in bytes to the pointer's low field (R99). -/
  | paddi (d : BitVec 6) (a : BitVec 6) (i : BitVec 13)
  /-- LB. Loads a byte and sign-extends it (R120). -/
  | lb (d : BitVec 6) (a : BitVec 6) (i : BitVec 13)
  /-- LBU. Loads a byte and zero-extends it (R120). -/
  | lbu (d : BitVec 6) (a : BitVec 6) (i : BitVec 13)
  /-- LH. Loads a halfword and sign-extends it (R120). -/
  | lh (d : BitVec 6) (a : BitVec 6) (i : BitVec 13)
  /-- LHU. Loads a halfword and zero-extends it (R120). -/
  | lhu (d : BitVec 6) (a : BitVec 6) (i : BitVec 13)
  /-- LW. Loads a 32-bit word and sign-extends it (R120). -/
  | lw (d : BitVec 6) (a : BitVec 6) (i : BitVec 13)
  /-- LWU. Loads a 32-bit word and zero-extends it (R120). -/
  | lwu (d : BitVec 6) (a : BitVec 6) (i : BitVec 13)
  /-- LD. Loads a doubleword (R120). -/
  | ld (d : BitVec 6) (a : BitVec 6) (i : BitVec 13)
  /-- SB. Stores b[7:0] (R120). -/
  | sb (a : BitVec 6) (b : BitVec 6) (i : BitVec 13)
  /-- SH. Stores b[15:0] (R120). -/
  | sh (a : BitVec 6) (b : BitVec 6) (i : BitVec 13)
  /-- SW. Stores b[31:0] (R120). -/
  | sw (a : BitVec 6) (b : BitVec 6) (i : BitVec 13)
  /-- SD. Stores all 64 bits of b (R120). -/
  | sd (a : BitVec 6) (b : BitVec 6) (i : BitVec 13)
  /-- LDF. Waits until the word is full, reads it and leaves it empty (R121). -/
  | ldf (d : BitVec 6) (a : BitVec 6)
  /-- LDFF. Waits until the word is full, reads it and leaves it full (R121). -/
  | ldff (d : BitVec 6) (a : BitVec 6)
  /-- STE. Waits until the word is empty, writes it and sets it full (R121). -/
  | ste (a : BitVec 6) (b : BitVec 6)
  /-- STF. Writes the word and sets it full without waiting (R121). -/
  | stf (a : BitVec 6) (b : BitVec 6)
  /-- FESET. Sets the word's FE bit full (R121). -/
  | feset (a : BitVec 6)
  /-- FECLR. Sets the word's FE bit empty (R121). -/
  | feclr (a : BitVec 6)
  /-- FESTAT. Reads the word's FE bit into rd (R121). -/
  | festat (d : BitVec 6) (a : BitVec 6)
  /-- AMOADD. Atomically adds b to the memory word and returns the old value (R126). -/
  | amoadd (d : BitVec 6) (a : BitVec 6) (b : BitVec 6) (o : BitVec 2)
  /-- AMOAND. Atomically ANDs b into the word and returns the old value (R126). -/
  | amoand (d : BitVec 6) (a : BitVec 6) (b : BitVec 6) (o : BitVec 2)
  /-- AMOOR. Atomically ORs b into the word and returns the old value (R126). -/
  | amoor (d : BitVec 6) (a : BitVec 6) (b : BitVec 6) (o : BitVec 2)
  /-- AMOXOR. Atomically XORs b into the word and returns the old value (R126). -/
  | amoxor (d : BitVec 6) (a : BitVec 6) (b : BitVec 6) (o : BitVec 2)
  /-- AMOMIN. Atomically stores the signed minimum and returns the old value (R126). -/
  | amomin (d : BitVec 6) (a : BitVec 6) (b : BitVec 6) (o : BitVec 2)
  /-- AMOMAX. Atomically stores the signed maximum and returns the old value (R126). -/
  | amomax (d : BitVec 6) (a : BitVec 6) (b : BitVec 6) (o : BitVec 2)
  /-- AMOMINU. Atomically stores the unsigned minimum and returns the old value (R126). -/
  | amominu (d : BitVec 6) (a : BitVec 6) (b : BitVec 6) (o : BitVec 2)
  /-- AMOMAXU. Atomically stores the unsigned maximum and returns the old value (R126). -/
  | amomaxu (d : BitVec 6) (a : BitVec 6) (b : BitVec 6) (o : BitVec 2)
  /-- AMOSWAP. Atomically swaps b with the word and returns the old value (R126). -/
  | amoswap (d : BitVec 6) (a : BitVec 6) (b : BitVec 6) (o : BitVec 2)
  /-- AMOCAS. Writes b only if the word equals e0, and returns the old value (R126). -/
  | amocas (d : BitVec 6) (a : BitVec 6) (b : BitVec 6) (o : BitVec 2)
  /-- AMOFADD. Atomically adds b to the word as a floating-point value and returns the old value (R126). -/
  | amofadd (d : BitVec 6) (a : BitVec 6) (b : BitVec 6) (o : BitVec 2)
  /-- AMOFMIN. Atomically stores the floating-point minimum and returns the old value (R126). -/
  | amofmin (d : BitVec 6) (a : BitVec 6) (b : BitVec 6) (o : BitVec 2)
  /-- AMOFMAX. Atomically stores the floating-point maximum and returns the old value (R126). -/
  | amofmax (d : BitVec 6) (a : BitVec 6) (b : BitVec 6) (o : BitVec 2)
  /-- REDADD. No-return atomic add, which in global space does not wait for its grant (R129). -/
  | redadd (a : BitVec 6) (b : BitVec 6) (o : BitVec 2)
  /-- REDAND. No-return atomic AND (R129). -/
  | redand (a : BitVec 6) (b : BitVec 6) (o : BitVec 2)
  /-- REDOR. No-return atomic OR (R129). -/
  | redor (a : BitVec 6) (b : BitVec 6) (o : BitVec 2)
  /-- REDXOR. No-return atomic XOR (R129). -/
  | redxor (a : BitVec 6) (b : BitVec 6) (o : BitVec 2)
  /-- REDMIN. No-return atomic signed minimum (R129). -/
  | redmin (a : BitVec 6) (b : BitVec 6) (o : BitVec 2)
  /-- REDMAX. No-return atomic signed maximum (R129). -/
  | redmax (a : BitVec 6) (b : BitVec 6) (o : BitVec 2)
  /-- REDMINU. No-return atomic unsigned minimum (R129). -/
  | redminu (a : BitVec 6) (b : BitVec 6) (o : BitVec 2)
  /-- REDMAXU. No-return atomic unsigned maximum (R129). -/
  | redmaxu (a : BitVec 6) (b : BitVec 6) (o : BitVec 2)
  /-- REDFADD. No-return atomic floating-point add (R129). -/
  | redfadd (a : BitVec 6) (b : BitVec 6) (o : BitVec 2)
  /-- REDFMIN. No-return atomic floating-point minimum (R129). -/
  | redfmin (a : BitVec 6) (b : BitVec 6) (o : BitVec 2)
  /-- REDFMAX. No-return atomic floating-point maximum (R129). -/
  | redfmax (a : BitVec 6) (b : BitVec 6) (o : BitVec 2)
  /-- FENCE. Parks the slot until its chunk has committed, its no-return AMOs have been performed and its remote stores within the scope have been acknowledged (R136). -/
  | fence (b : BitVec 6)
  /-- MONARM. Arms the lowest-numbered free monitor on a 64-byte block and returns its number (R137). -/
  | monarm (d : BitVec 6) (a : BitVec 6)
  /-- MONWAIT. Returns at once if a monitor has triggered, and otherwise parks in PARK-MON until a trigger or the timeout (R137). -/
  | monwait (d : BitVec 6)
  /-- MONCLR. Disarms every monitor whose block contains the address, or all four for x0 (R137). -/
  | monclr (a : BitVec 6)
  /-- WAITMSG. Parks until the mailbox holds a message for this slot, and returns the message count (R138). -/
  | waitmsg (d : BitVec 6)
  /-- CCUT. Ends the current chunk (R139). -/
  | ccut
  /-- QUIESCE. Joins or starts the parade for the scope and parks in PARK-BAR until the parade releases it (R139). -/
  | quiesce (b : BitVec 6)
  /-- YIELD. Ends the chunk and leaves the slot's next home turn vacant (R139). -/
  | yield
  /-- VLD. Loads consecutive lanes from one 64-byte span under the governing mask (R131). -/
  | vld (v : BitVec 5) (x : BitVec 6) (m : BitVec 3)
  /-- VST. Stores consecutive enabled lanes (R131). -/
  | vst (v : BitVec 5) (x : BitVec 6) (m : BitVec 3)
  /-- VLDS. Loads the lanes at a signed stride (R131). -/
  | vlds (v : BitVec 5) (x : BitVec 6) (y : BitVec 6) (m : BitVec 3)
  /-- VSTS. Stores the lanes at a signed stride (R131). -/
  | vsts (v : BitVec 5) (x : BitVec 6) (y : BitVec 6) (m : BitVec 3)
  /-- VLDX. Loads each lane from the base plus a scaled vector index (R131). -/
  | vldx (v : BitVec 5) (x : BitVec 6) (y : BitVec 5) (m : BitVec 3)
  /-- VSTX. Stores each lane to the base plus a scaled vector index (R131). -/
  | vstx (v : BitVec 5) (x : BitVec 6) (y : BitVec 5) (m : BitVec 3)
  /-- VLDB. Decodes 16 consecutive block, sparse or entropy-coded elements into FP32 lanes (R133). -/
  | vldb (v : BitVec 5) (x : BitVec 6) (y : BitVec 5) (m : BitVec 3)
  /-- ELD. Loads e0 to e7 from 64 bytes (R134). -/
  | eld (a : BitVec 6)
  /-- EST. Stores e0 to e7 to 64 bytes (R134). -/
  | est (a : BitVec 6)
  /-- EMOV. Writes one e register from a register (R134). -/
  | emov (d : BitVec 3) (b : BitVec 6)
  /-- EGET. Reads one e register into rd (R134). -/
  | eget (d : BitVec 6) (a : BitVec 3)
  /-- BEQ. Branches if a equals b (R104). -/
  | beq (a : BitVec 6) (b : BitVec 6) (i : BitVec 13)
  /-- BNE. Branches if a differs from b (R104). -/
  | bne (a : BitVec 6) (b : BitVec 6) (i : BitVec 13)
  /-- BLT. Branches if a is less than b as signed values (R104). -/
  | blt (a : BitVec 6) (b : BitVec 6) (i : BitVec 13)
  /-- BGE. Branches if a is greater than or equal to b as signed values (R104). -/
  | bge (a : BitVec 6) (b : BitVec 6) (i : BitVec 13)
  /-- BLTU. Branches if a is less than b as unsigned values (R104). -/
  | bltu (a : BitVec 6) (b : BitVec 6) (i : BitVec 13)
  /-- BGEU. Branches if a is greater than or equal to b as unsigned values (R104). -/
  | bgeu (a : BitVec 6) (b : BitVec 6) (i : BitVec 13)
  /-- BTOK. Holds the next item of the queue end for this slot, and branches if that item is a token (R106). -/
  | btok (a : BitVec 6) (i : BitVec 13)
  /-- NEXT. Advances the iteration position, claiming a chunk from the nest when the current chunk is exhausted, and branches (R107). -/
  | next (i : BitVec 13)
  /-- JAL. Writes PC + 4 to x28 and jumps by disp25 halfwords (R105). -/
  | jal (i : BitVec 25)
  /-- JMP. Jumps by disp25 halfwords (R105). -/
  | jmp (i : BitVec 25)
  /-- JALR. Jumps to a + imm and writes the link to rd (R105). -/
  | jalr (d : BitVec 6) (a : BitVec 6) (i : BitVec 13)
  /-- SPAWN. Sends a task record to a core or group target as a release, without waiting for the outcome (R143). -/
  | spawn (a : BitVec 6) (b : BitVec 6)
  /-- SPAWNL. Sends a task record and parks until the target reports whether it landed the record or pushed it (R143). -/
  | spawnl (d : BitVec 6) (a : BitVec 6) (b : BitVec 6)
  /-- QUIT. Frees the issuing slot, disarms its monitors, returns a held item and leaves its group (R144). -/
  | quit
  /-- DINIT. Initialises a FREE counter with a count (R146). -/
  | dinit (a : BitVec 6) (b : BitVec 6)
  /-- DARM. Arms a FREE counter with a record and a count, or releases the record at once for a count of 0 (R146). -/
  | darm (d : BitVec 6) (a : BitVec 6) (b : BitVec 6)
  /-- DBIND. Binds a record to a counter and returns any record it displaces (R146). -/
  | dbind (d : BitVec 6) (a : BitVec 6) (b : BitVec 6)
  /-- DDEC. Decrements a counter and releases its record when the count reaches 0 (R146). -/
  | ddec (a : BitVec 6)
  /-- DSTAT. Reads a counter's state, target bits and count (R146). -/
  | dstat (d : BitVec 6) (a : BitVec 6)
  /-- GNEW. Allocates a free group on the issuing core's virtual die (R148). -/
  | gnew (d : BitVec 6)
  /-- GJOIN. Makes the slot a pending member of the group (R148). -/
  | gjoin (a : BitVec 6)
  /-- GLEAVE. Makes the slot leave the group at the next boundary, counting as its arrival if needed (R148). -/
  | gleave (a : BitVec 6)
  /-- GBAR. Counts an arrival at the group barrier and parks until the generation completes (R149). -/
  | gbar (d : BitVec 6) (a : BitVec 6)
  /-- GFREE. Frees a group that has no members (R148). -/
  | gfree (a : BitVec 6)
  /-- ITERI. Checks a nest descriptor, latches its fields and binds the slot to it (R151). -/
  | iteri (a : BitVec 6)
  /-- QNEW. Allocates a queue record in the issuing cluster from the descriptor in e0 to e3 (R155). -/
  | qnew (d : BitVec 6)
  /-- QBIND. Binds a queue end of the core to a queue for pop, push or both (R156). -/
  | qbind (d : BitVec 6) (a : BitVec 6) (b : BitVec 6)
  /-- QUNBIND. Unbinds a queue end and wakes the slots parked on it (R156). -/
  | qunbind (d : BitVec 6)
  /-- QCTL: applies the operation held in register b to the queue of end d (R158). -/
  | qctl (d : BitVec 6) (b : BitVec 6)
  /-- QCTL_DRAIN. Discards every item of the queue and wakes its producers (R158). -/
  | qctlDrain (d : BitVec 6)
  /-- QCTL_CLOSE. Closes the queue, so that pushes fault and pops of an empty queue deliver the end token (R158). -/
  | qctlClose (d : BitVec 6)
  /-- QCTL_OPEN. Clears the queue's closed state (R158). -/
  | qctlOpen (d : BitVec 6)
  /-- QTOK. Pushes b with its token bit set (R158). -/
  | qtok (d : BitVec 6) (b : BitVec 6)
  /-- QSTAT. Reads a snapshot of the queue's state at its home (R159). -/
  | qstat (d : BitVec 6) (a : BitVec 6)
  /-- QFREE. Frees the queue, discarding its items and incrementing GEN (R159). -/
  | qfree (a : BitVec 6)
  /-- QREF. Starts a stream on the indirect engine that turns popped indices into pushed values (R160). -/
  | qref (d : BitVec 6) (a : BitVec 6) (b : BitVec 6)
  /-- FADD. Writes the rounded floating-point sum (R108). -/
  | fadd (d : BitVec 6) (a : BitVec 6) (b : BitVec 6) (p : BitVec 2)
  /-- FSUB. Writes the rounded floating-point difference (R108). -/
  | fsub (d : BitVec 6) (a : BitVec 6) (b : BitVec 6) (p : BitVec 2)
  /-- FMUL. Writes the rounded floating-point product (R108). -/
  | fmul (d : BitVec 6) (a : BitVec 6) (b : BitVec 6) (p : BitVec 2)
  /-- FDIV. Writes the rounded floating-point quotient (R108). -/
  | fdiv (d : BitVec 6) (a : BitVec 6) (b : BitVec 6) (p : BitVec 2)
  /-- FSQRT. Writes the rounded square root (R108). -/
  | fsqrt (d : BitVec 6) (a : BitVec 6) (p : BitVec 2)
  /-- FMA. Writes a × b + rd with one rounding (R108). -/
  | fma (d : BitVec 6) (a : BitVec 6) (b : BitVec 6) (p : BitVec 2)
  /-- FMIN. Writes the lesser operand, ordering −0 below +0 (R109). -/
  | fmin (d : BitVec 6) (a : BitVec 6) (b : BitVec 6) (p : BitVec 2)
  /-- FMAX. Writes the greater operand, ordering −0 below +0 (R109). -/
  | fmax (d : BitVec 6) (a : BitVec 6) (b : BitVec 6) (p : BitVec 2)
  /-- FEQ. Writes 1 if the operands are equal (R109). -/
  | feq (d : BitVec 6) (a : BitVec 6) (b : BitVec 6) (p : BitVec 2)
  /-- FLT. Writes 1 if a is less than b (R109). -/
  | flt (d : BitVec 6) (a : BitVec 6) (b : BitVec 6) (p : BitVec 2)
  /-- FLE. Writes 1 if a is less than or equal to b (R109). -/
  | fle (d : BitVec 6) (a : BitVec 6) (b : BitVec 6) (p : BitVec 2)
  /-- FCLASS. Writes a one-hot class mask of the operand (R109). -/
  | fclass (d : BitVec 6) (a : BitVec 6) (p : BitVec 2)
  /-- FNEG. Inverts the operand's sign bit (R108). -/
  | fneg (d : BitVec 6) (a : BitVec 6) (p : BitVec 2)
  /-- FABS. Clears the operand's sign bit (R108). -/
  | fabs (d : BitVec 6) (a : BitVec 6) (p : BitVec 2)
  /-- FCVTI. Converts to INT64 with rounding and saturation (R110). -/
  | fcvti (d : BitVec 6) (a : BitVec 6) (p : BitVec 2)
  /-- FCVTU. Converts to UINT64 with rounding and saturation (R110). -/
  | fcvtu (d : BitVec 6) (a : BitVec 6) (p : BitVec 2)
  /-- ICVTF. Converts a signed INT64 to FP32 or FP64 (R110). -/
  | icvtf (d : BitVec 6) (a : BitVec 6) (p : BitVec 2)
  /-- FCVTF. Converts between floating-point precisions (R110). -/
  | fcvtf (d : BitVec 6) (a : BitVec 6) (t : BitVec 2) (p : BitVec 2)
  /-- HSIFT. Inserts a {score, id} pair into a TCM top-k heap and returns the displaced or rejected pair (R113). -/
  | hsift (d : BitVec 6) (a : BitVec 6) (b : BitVec 6)
  /-- HINIT. Initialises a heap with a capacity and zeroed entries (R113). -/
  | hinit (a : BitVec 6) (b : BitVec 6)
  /-- VADD. Adds the lanes (R173). -/
  | vadd (v : BitVec 5) (a : BitVec 5) (b : BitVec 5) (m : BitVec 3) (t : BitVec 2)
  /-- VSUB. Subtracts the lanes (R173). -/
  | vsub (v : BitVec 5) (a : BitVec 5) (b : BitVec 5) (m : BitVec 3) (t : BitVec 2)
  /-- VMUL. Multiplies the lanes, keeping the low bits (R173). -/
  | vmul (v : BitVec 5) (a : BitVec 5) (b : BitVec 5) (m : BitVec 3) (t : BitVec 2)
  /-- VMIN. Takes the signed minimum of the lanes (R173). -/
  | vmin (v : BitVec 5) (a : BitVec 5) (b : BitVec 5) (m : BitVec 3) (t : BitVec 2)
  /-- VMAX. Takes the signed maximum of the lanes (R173). -/
  | vmax (v : BitVec 5) (a : BitVec 5) (b : BitVec 5) (m : BitVec 3) (t : BitVec 2)
  /-- VMINU. Takes the unsigned minimum of the lanes (R173). -/
  | vminu (v : BitVec 5) (a : BitVec 5) (b : BitVec 5) (m : BitVec 3) (t : BitVec 2)
  /-- VMAXU. Takes the unsigned maximum of the lanes (R173). -/
  | vmaxu (v : BitVec 5) (a : BitVec 5) (b : BitVec 5) (m : BitVec 3) (t : BitVec 2)
  /-- VABS. Takes the absolute value of each lane (R173). -/
  | vabs (v : BitVec 5) (a : BitVec 5) (m : BitVec 3) (t : BitVec 2)
  /-- VNEG. Negates each lane (R173). -/
  | vneg (v : BitVec 5) (a : BitVec 5) (m : BitVec 3) (t : BitVec 2)
  /-- VMAD. Writes a × b + d in each lane (R173). -/
  | vmad (v : BitVec 5) (a : BitVec 5) (b : BitVec 5) (m : BitVec 3) (t : BitVec 2)
  /-- VAND. ANDs the lanes (R173). -/
  | vand (v : BitVec 5) (a : BitVec 5) (b : BitVec 5) (m : BitVec 3) (t : BitVec 2)
  /-- VOR. ORs the lanes (R173). -/
  | vor (v : BitVec 5) (a : BitVec 5) (b : BitVec 5) (m : BitVec 3) (t : BitVec 2)
  /-- VXOR. XORs the lanes (R173). -/
  | vxor (v : BitVec 5) (a : BitVec 5) (b : BitVec 5) (m : BitVec 3) (t : BitVec 2)
  /-- VANDN. Writes a AND NOT b in each lane (R173). -/
  | vandn (v : BitVec 5) (a : BitVec 5) (b : BitVec 5) (m : BitVec 3) (t : BitVec 2)
  /-- VNOT. Inverts each lane (R173). -/
  | vnot (v : BitVec 5) (a : BitVec 5) (m : BitVec 3) (t : BitVec 2)
  /-- VSHL. Shifts each lane left (R173). -/
  | vshl (v : BitVec 5) (a : BitVec 5) (b : BitVec 5) (m : BitVec 3) (t : BitVec 2)
  /-- VSHR. Shifts each lane right logically (R173). -/
  | vshr (v : BitVec 5) (a : BitVec 5) (b : BitVec 5) (m : BitVec 3) (t : BitVec 2)
  /-- VSRA. Shifts each lane right arithmetically (R173). -/
  | vsra (v : BitVec 5) (a : BitVec 5) (b : BitVec 5) (m : BitVec 3) (t : BitVec 2)
  /-- VFADD. Adds floating-point lanes (R174). -/
  | vfadd (v : BitVec 5) (a : BitVec 5) (b : BitVec 5) (m : BitVec 3) (t : BitVec 2)
  /-- VFSUB. Subtracts floating-point lanes (R174). -/
  | vfsub (v : BitVec 5) (a : BitVec 5) (b : BitVec 5) (m : BitVec 3) (t : BitVec 2)
  /-- VFMUL. Multiplies floating-point lanes (R174). -/
  | vfmul (v : BitVec 5) (a : BitVec 5) (b : BitVec 5) (m : BitVec 3) (t : BitVec 2)
  /-- VFMA. Writes a × b + d in each lane with one rounding (R174). -/
  | vfma (v : BitVec 5) (a : BitVec 5) (b : BitVec 5) (m : BitVec 3) (t : BitVec 2)
  /-- VFMIN. Takes the floating-point minimum of each lane (R174). -/
  | vfmin (v : BitVec 5) (a : BitVec 5) (b : BitVec 5) (m : BitVec 3) (t : BitVec 2)
  /-- VFMAX. Takes the floating-point maximum of each lane (R174). -/
  | vfmax (v : BitVec 5) (a : BitVec 5) (b : BitVec 5) (m : BitVec 3) (t : BitVec 2)
  /-- VFABS. Clears the sign of every lane (R174). -/
  | vfabs (v : BitVec 5) (a : BitVec 5) (t : BitVec 2)
  /-- VFNEG. Inverts the sign of every lane (R174). -/
  | vfneg (v : BitVec 5) (a : BitVec 5) (t : BitVec 2)
  /-- VEXP2B. Computes 2^a rounded to BF16 precision (R175). -/
  | vexp2b (v : BitVec 5) (a : BitVec 5) (m : BitVec 3) (t : BitVec 2)
  /-- VRCPB. Computes 1/a rounded to BF16 precision (R175). -/
  | vrcpb (v : BitVec 5) (a : BitVec 5) (m : BitVec 3) (t : BitVec 2)
  /-- VRSQB. Computes 1/√a rounded to BF16 precision (R175). -/
  | vrsqb (v : BitVec 5) (a : BitVec 5) (m : BitVec 3) (t : BitVec 2)
  /-- VCEQ. Writes a mask of equal lanes (R176). -/
  | vceq (d : BitVec 3) (a : BitVec 5) (b : BitVec 5) (m : BitVec 3) (t : BitVec 2)
  /-- VCNE. Writes a mask of unequal lanes (R176). -/
  | vcne (d : BitVec 3) (a : BitVec 5) (b : BitVec 5) (m : BitVec 3) (t : BitVec 2)
  /-- VCLT. Writes a mask of signed less-than lanes (R176). -/
  | vclt (d : BitVec 3) (a : BitVec 5) (b : BitVec 5) (m : BitVec 3) (t : BitVec 2)
  /-- VCLE. Writes a mask of signed less-or-equal lanes (R176). -/
  | vcle (d : BitVec 3) (a : BitVec 5) (b : BitVec 5) (m : BitVec 3) (t : BitVec 2)
  /-- VCLTU. Writes a mask of unsigned less-than lanes (R176). -/
  | vcltu (d : BitVec 3) (a : BitVec 5) (b : BitVec 5) (m : BitVec 3) (t : BitVec 2)
  /-- VFCEQ. Writes a mask of floating-point equal lanes (R176). -/
  | vfceq (d : BitVec 3) (a : BitVec 5) (b : BitVec 5) (m : BitVec 3) (t : BitVec 2)
  /-- VFCLT. Writes a mask of floating-point less-than lanes (R176). -/
  | vfclt (d : BitVec 3) (a : BitVec 5) (b : BitVec 5) (m : BitVec 3) (t : BitVec 2)
  /-- VFCLE. Writes a mask of floating-point less-or-equal lanes (R176). -/
  | vfcle (d : BitVec 3) (a : BitVec 5) (b : BitVec 5) (m : BitVec 3) (t : BitVec 2)
  /-- VSEL. Selects each lane from va or vb by a mask (R177). -/
  | vsel (v : BitVec 5) (a : BitVec 5) (b : BitVec 5) (m : BitVec 3) (t : BitVec 2)
  /-- MAND. ANDs two mask registers (R177). -/
  | mand (d : BitVec 3) (a : BitVec 3) (b : BitVec 3)
  /-- MOR. ORs two mask registers (R177). -/
  | mor (d : BitVec 3) (a : BitVec 3) (b : BitVec 3)
  /-- MNOT. Inverts a mask register (R177). -/
  | mnot (d : BitVec 3) (a : BitVec 3)
  /-- MPOPC. Counts the lanes set in both a mask and the governing mask (R177). -/
  | mpopc (d : BitVec 5) (a : BitVec 3) (m : BitVec 3) (t : BitVec 2)
  /-- VBCAST. Broadcasts a scalar to the enabled lanes (R178). -/
  | vbcast (v : BitVec 5) (x : BitVec 5) (m : BitVec 3) (t : BitVec 2)
  /-- VEXT. Extracts one lane to a scalar register (R178). -/
  | vext (d : BitVec 5) (a : BitVec 5) (y : BitVec 5) (t : BitVec 2)
  /-- VINS. Inserts a scalar into one lane (R178). -/
  | vins (v : BitVec 5) (x : BitVec 5) (y : BitVec 5) (t : BitVec 2)
  /-- VPERM. Permutes the lanes by vector indices (R178). -/
  | vperm (v : BitVec 5) (a : BitVec 5) (b : BitVec 5) (m : BitVec 3) (t : BitVec 2)
  /-- VSLIDE. Slides the lanes by a signed scalar amount (R178). -/
  | vslide (v : BitVec 5) (a : BitVec 5) (y : BitVec 5) (m : BitVec 3) (t : BitVec 2)
  /-- VIOTA. Writes in each lane the count of mask bits below it (R178). -/
  | viota (v : BitVec 5) (m : BitVec 3) (t : BitVec 2)
  /-- VCOMPRESS. Packs the enabled lanes toward lane 0 (R178). -/
  | vcompress (v : BitVec 5) (a : BitVec 5) (m : BitVec 3) (t : BitVec 2)
  /-- VREDADD. Sums the enabled lanes into lane 0 (R179). -/
  | vredadd (v : BitVec 5) (a : BitVec 5) (m : BitVec 3) (t : BitVec 2)
  /-- VREDMAX. Writes the signed maximum of the enabled lanes to lane 0 (R179). -/
  | vredmax (v : BitVec 5) (a : BitVec 5) (m : BitVec 3) (t : BitVec 2)
  /-- VFREDADD. Sums the enabled floating-point lanes in a fixed tree (R180). -/
  | vfredadd (v : BitVec 5) (a : BitVec 5) (m : BitVec 3) (t : BitVec 2)
  /-- VFREDMAX. Writes the floating-point maximum of the enabled lanes, found in a fixed tree (R180). -/
  | vfredmax (v : BitVec 5) (a : BitVec 5) (m : BitVec 3) (t : BitVec 2)
  /-- VSCAN. Forms an inclusive integer scan with a carry-in (R181). -/
  | vscan (v : BitVec 5) (a : BitVec 5) (b : BitVec 5) (m : BitVec 3) (t : BitVec 2)
  /-- VFSCAN. Forms an inclusive floating-point scan with a carry-in (R181). -/
  | vfscan (v : BitVec 5) (a : BitVec 5) (b : BitVec 5) (m : BitVec 3) (t : BitVec 2)
  /-- VSEGSCAN. Forms a segmented integer scan under head flags (R181). -/
  | vsegscan (v : BitVec 5) (a : BitVec 5) (b : BitVec 5) (m : BitVec 3) (t : BitVec 2)
  /-- VFSEGSCAN. Forms a segmented floating-point scan under head flags (R181). -/
  | vfsegscan (v : BitVec 5) (a : BitVec 5) (b : BitVec 5) (m : BitVec 3) (t : BitVec 2)
  /-- VCVT. Converts the lanes between floating-point formats by code (R182). -/
  | vcvt (v : BitVec 5) (a : BitVec 5) (c : BitVec 5) (r : BitVec 3) (t : BitVec 2)
  /-- VCVTI. Converts floating-point lanes to integers with saturation (R183). -/
  | vcvti (v : BitVec 5) (a : BitVec 5) (c : BitVec 5) (r : BitVec 3) (t : BitVec 2)
  /-- VCVTF. Converts integer lanes to floating-point values (R183). -/
  | vcvtf (v : BitVec 5) (a : BitVec 5) (c : BitVec 5) (r : BitVec 3) (t : BitVec 2)
  /-- VQUANT. Quantises 16 FP32 lanes into a two-block MX image (R184). -/
  | vquant (v : BitVec 5) (a : BitVec 5) (c : BitVec 5) (r : BitVec 3)
  /-- VDEQ. Dequantises a two-block MX image into 16 FP32 lanes (R185). -/
  | vdeq (v : BitVec 5) (a : BitVec 5) (c : BitVec 5) (r : BitVec 3)
  /-- VPACK. Narrows two vectors into one (R186). -/
  | vpack (v : BitVec 5) (a : BitVec 5) (b : BitVec 5) (r : BitVec 3) (t : BitVec 2)
  /-- VUNPK. Widens one half of a vector exactly (R186). -/
  | vunpk (v : BitVec 5) (a : BitVec 5) (h : BitVec 5) (r : BitVec 3) (t : BitVec 2)
  /-- MMA. Launches a matrix multiply from the descriptor in e0 to e7 and parks in PARK-ENG (R198). -/
  | mma (d : BitVec 6)
  /-- MMAS. Launches a multiply with a 2:4 sparse A (R199). -/
  | mmas (d : BitVec 6)
  /-- MMAX. Launches a multiply by the B rows that an index list selects (R200). -/
  | mmax (d : BitVec 6)
  /-- MDELTA. Launches a mirror invocation that multiplies the quantised input change, or refreshes (R214). -/
  | mdelta (d : BitVec 6)
  /-- MREFRESH. Launches a mirror invocation that always refreshes (R214). -/
  | mrefresh (d : BitVec 6)
  /-- MINV. Invalidates a mirror record so that its next invocation refreshes (R216). -/
  | minv (d : BitVec 6) (a : BitVec 6)
  /-- MLOADB. Loads a B tile into the B-store and returns its handle (R201). -/
  | mloadb (d : BitVec 6)
  /-- MFREEB. Invalidates a B-store handle and frees its rows once its users complete (R202). -/
  | mfreeb (a : BitVec 6)
  /-- MSTC. Writes the kept bank to C and releases it (R203). -/
  | mstc (d : BitVec 6)
  /-- MGROUP. Launches a walk of group records, gating expert records by residency (R208). -/
  | mgroup (d : BitVec 6)
  /-- MPRI. Sets the base priority of one slot's operations on the engine (R205). -/
  | mpri (d : BitVec 6) (a : BitVec 6) (b : BitVec 6)
  /-- MSTAT. Reads a counter of the engine (R218). -/
  | mstat (d : BitVec 6) (a : BitVec 6)
  /-- COPY. Launches a strided multi-plane copy and returns a ticket (R227). -/
  | copy (d : BitVec 6)
  /-- GATHER. Launches a gather of records through an index list (R233). -/
  | gather (d : BitVec 6)
  /-- SCATTER. Launches a scatter of records through an index list (R233). -/
  | scatter (d : BitVec 6)
  /-- ISECT. Launches an intersection of two ascending index lists (R234). -/
  | isect (d : BitVec 6)
  /-- RSORT. Launches a stable radix sort of 64-bit keys (R235). -/
  | rsort (d : BitVec 6)
  /-- BBINIT. Initialises a byte-barrier word (R230). -/
  | bbinit (a : BitVec 6) (b : BitVec 6)
  /-- BBEXPECT. Adds expected bytes to a byte barrier (R230). -/
  | bbexpect (a : BitVec 6) (b : BitVec 6)
  /-- BBWAIT. Returns the barrier word when PHASE differs from the operand, and otherwise parks until the next flip (R230). -/
  | bbwait (d : BitVec 6) (a : BitVec 6) (b : BitVec 6)
  /-- SENDM. Sends a 64-bit message to a core's mailbox (R236). -/
  | sendm (a : BitVec 6) (b : BitVec 6)
  /-- ELOOK. Reads the residency status of an expert key (R238). -/
  | elook (d : BitVec 6) (a : BitVec 6)
  /-- EREQ. Requests a page-in of an expert and optionally waits until it is resident (R238). -/
  | ereq (d : BitVec 6) (a : BitVec 6) (b : BitVec 6)
  /-- EPIN. Waits for an expert to become resident and pins it (R238). -/
  | epin (d : BitVec 6) (a : BitVec 6)
  /-- EUNPIN. Decrements an expert's pin count (R238). -/
  | eunpin (d : BitVec 6) (a : BitVec 6)
  /-- EHINT. Records a residency hint for an expert without waiting (R238). -/
  | ehint (a : BitVec 6) (b : BitVec 6)
  /-- ROUTE. Assigns a token to the best-ranked expert with capacity, or logs a drop (R241). -/
  | route (d : BitVec 6) (a : BitVec 6) (b : BitVec 6)
  /-- TRAP. Raises family 11, subcode n (R162). -/
  | trap (a : BitVec 6) (b : BitVec 6)
  /-- BREAK. Raises cause 368 (R162). -/
  | brk
  /-- SYSRD. Reads a system register by index (R164). -/
  | sysrd (d : BitVec 6) (hi : BitVec 6) (lo : BitVec 6)
  /-- SYSWR. Writes a system register by index (R164). -/
  | syswr (d : BitVec 6) (hi : BitVec 6) (lo : BitVec 6)
  /-- CFLUSH. Writes back and invalidates committed dirty lines of a range, or of the whole L1D (R165). -/
  | cflush (a : BitVec 6) (b : BitVec 6)
  /-- IFLUSH. Discards the slot's fetch buffer (R166). -/
  | iflush
  /-- ERET. Returns from a trap handler to TXPC and restores UE from NEST (R163). -/
  | eret
  /-- TINV. Drops translations, writes back lines and squashes chunks of a pair, a page or the model records (R300). -/
  | tinv (a : BitVec 6) (b : BitVec 6)
  /-- FREEZE. Pre-empts a context and saves it to its safety net (R330). -/
  | freeze (d : BitVec 6) (a : BitVec 6)
  /-- THAW. Restores a frozen context onto its current placement (R332). -/
  | thaw (d : BitVec 6) (a : BitVec 6)
  /-- NUDGE. Returns a FAULTED slot to RUN, or reissues a parked slot's instruction (R167). -/
  | nudge (d : BitVec 6) (a : BitVec 6)
  /-- C_NOP. Compact no-operation (R80). -/
  | cNop
  /-- C_RET. Compact return through x28 (R80). -/
  | cRet
  /-- C_YIELD. Compact YIELD (R80). -/
  | cYield
  /-- C_LI. Loads a signed 6-bit immediate (R80). -/
  | cLi (d : BitVec 5) (i : BitVec 6)
  /-- C_ADDI. Adds a signed 6-bit immediate to rd (R80). -/
  | cAddi (d : BitVec 5) (i : BitVec 6)
  /-- C_MOV. Copies ra to rd (R80). -/
  | cMov (d : BitVec 5) (a : BitVec 5)
  /-- C_ADD. Adds ra to rd (R80). -/
  | cAdd (d : BitVec 5) (a : BitVec 5)
  /-- C_SUB. Subtracts ra from rd (R80). -/
  | cSub (d : BitVec 5) (a : BitVec 5)
  /-- C_LD. Loads a doubleword with a scaled offset (R80). -/
  | cLd (d : BitVec 3) (b : BitVec 3) (i : BitVec 5)
  /-- C_SD. Stores a doubleword with a scaled offset (R80). -/
  | cSd (d : BitVec 3) (b : BitVec 3) (i : BitVec 5)
  /-- C_BEQZ. Branches if the register is zero (R80). -/
  | cBeqz (a : BitVec 3) (i : BitVec 8)
  /-- C_BNEZ. Branches if the register is non-zero (R80). -/
  | cBnez (a : BitVec 3) (i : BitVec 8)
  /-- C_J. Jumps by an 11-bit displacement (R80). -/
  | cJ (i : BitVec 11)
  /-- C_SLLI. Shifts rd left by an immediate (R80). -/
  | cSlli (d : BitVec 5) (sh : BitVec 6)
  /-- C_SRLI. Shifts rd right logically by an immediate (R80). -/
  | cSrli (d : BitVec 5) (sh : BitVec 6)
  /-- C_AND. ANDs ra into rd (R80). -/
  | cAnd (d : BitVec 5) (a : BitVec 5)
  /-- MONITOR_TIMEOUT. MONTO cycles expire for a slot parked in MONWAIT, which returns with the timeout bit set (R137). -/
  | monitorTimeout (k : Nat)
  /-- WAITMSG_TIMEOUT. MONTO cycles expire for a slot parked in WAITMSG, which returns 0 (R138). -/
  | waitmsgTimeout (k : Nat)
  /-- COUNTER_BANK_STEP. A counter step from another cluster arrives at a bank and is applied in arrival order (R147). -/
  | counterBankStep (n : Nat)
  /-- GROUP_REQUEST_ARRIVAL. A group instruction's request arrives at the group unit and is applied (R149). -/
  | groupRequestArrival (n : Nat)
  /-- STREAM_ITEM. A QREF stream pops one index, reads the element or takes the fill value, and pushes the result (R161). -/
  | streamItem (cl : Nat) (j : Nat)
  /-- QUEUE_PUSH_ARRIVAL. A push arrives at the queue home and is handed to a consumer, appended, spilled, listed as waiting or refused (R157). -/
  | queuePushArrival (n : Nat)
  /-- QUEUE_POP_ARRIVAL. A pop or BTOK request arrives at the queue home and takes the head item or joins the consumer list (R281). -/
  | queuePopArrival (n : Nat)
  /-- QUEUE_CONTROL_ARRIVAL. A QBIND, QUNBIND, QCTL, QSTAT or QFREE request arrives at a remote queue home and is answered (R141). -/
  | queueControlArrival (n : Nat)
  /-- RESERVATION_ROUND. A reservation request of a multi-end instruction arrives at a queue home, which reserves an item or place or answers no (R91). -/
  | reservationRound (n : Nat)
  /-- COMMIT_ROUND. A commit or release for reserved queue items or places arrives at a queue home and takes effect (R91). -/
  | commitRound (n : Nat)
  /-- NORMALISER_DONE. The subnormal normaliser finishes a slot's 2 home turns and completes its instruction in place (R67). -/
  | normaliserDone (c : Nat)
  /-- MATRIX_LAUNCH_ARRIVAL. A MAT operation arrives at the engine and enters its queue, or waits at the port when the queue is full (R204). -/
  | matrixLaunchArrival (n : Nat)
  /-- ARRAY_IDLE_START. The array falls idle and starts the startable operation with the highest effective priority (R204). -/
  | arrayIdleStart (cl : Nat)
  /-- K_STEP_BOUNDARY. At a k-step boundary a queued operation of strictly higher priority overtakes the running one (R206). -/
  | kStepBoundary (cl : Nat)
  /-- PRIORITY_AGEING. 4,096 engine cycles of waiting raise an operation's effective priority by 1 (R204). -/
  | priorityAgeing (cl : Nat) (j : Nat)
  /-- MIRROR_RESERVATION_GRANT. A mirror operation is granted its record at the slice and checks it (R213). -/
  | mirrorReservationGrant (cl : Nat)
  /-- MATRIX_OPERATION_COMPLETION. A matrix operation finishes its writes, writes its status to rd and wakes its slot (R190). -/
  | matrixOperationCompletion (cl : Nat)
  /-- GROUP_RECORD_WALK. The walker reads one group record, looks its key up and dispatches or parks the tile (R209). -/
  | groupRecordWalk (cl : Nat)
  /-- TILE_MOVE. An idle engine with an empty queue takes the oldest waiting grouped tile from the busiest engine on its die (R210). -/
  | tileMove (cl : Nat)
  /-- TURNSTILE_RELEASE. A release message reaches a die's turnstile and sends the records parked under its key to their engines in park order (R309). -/
  | turnstileRelease (n : Nat)
  /-- TURNSTILE_PARK. A park message reaches the turnstile and the record takes an entry or goes to the overflow list (R308). -/
  | turnstilePark (n : Nat)
  /-- ENGINE_REQUEST_ARRIVAL. A copy or indirect request arrives at its engine, which accepts it or refuses it with a back-off hint (R222). -/
  | engineRequestArrival (n : Nat) (h : Nat)
  /-- REFUSAL_RESEND. A refused request's back-off of h cycles expires and the interface resends it (R222). -/
  | refusalResend (n : Nat)
  /-- ENGINE_BLOCK_WRITE. A copy or indirect engine writes one 64-byte destination block and sets its FE bits full (R224). -/
  | engineBlockWrite (e : Nat) (j : Nat)
  /-- CREDIT. A credit of bytes reaches a byte-barrier word, decrements REMAIN and flips PHASE, waking its waiters (R229). -/
  | credit (n : Nat)
  /-- MAILBOX_MESSAGE_ARRIVAL. A SENDM or completion message reaches a mailbox and completes a waiting read or is kept, or is refused when full (R237). -/
  | mailboxMessageArrival (n : Nat) (h : Nat)
  /-- RESIDENCY_STEP. An expert instruction's request arrives at the entry's slice and is applied indivisibly (R306). -/
  | residencyStep (n : Nat)
  /-- FREEZE_COMPLETION. The safety-net writer finishes the save, the slots become FROZEN and FREEZE completes (R330). -/
  | freezeCompletion (x : Nat)
  /-- THAW_COMPLETION. Images are restored, start messages go out and THAW completes (R332). -/
  | thawCompletion (x : Nat)
  /-- LAND_RECORD. The sequencer lands a task record in a FREE slot in a vacant turn (R273). -/
  | landRecord (c : Nat)
  /-- SEQUENCER_REISSUE. The sequencer reissues a woken instruction in a vacant turn (R270). -/
  | sequencerReissue (k : Nat)
  /-- QUEUE_SPILL_REFILL. The sequencer moves one queue item between the ring and the spill area (R282). -/
  | queueSpillRefill (cl : Nat) (q : Nat)
  /-- DEQUE_SPILL_MOVE. The sequencer moves one ready-deque record between hardware and the spill area (R275). -/
  | dequeSpillMove (c : Nat)
  /-- STEAL_REQUEST. The sequencer sends a steal request to the next victim of the sweep (R276). -/
  | stealRequest (c : Nat)
  /-- STEAL_ANSWER. A victim answers a steal request by refusing or by sending its top record (R277). -/
  | stealAnswer (n : Nat)
  /-- STEAL_SWEEP_DELAY. The 256-cycle wait after an unsuccessful sweep expires and a new sweep begins (R276). -/
  | stealSweepDelay (c : Nat)
  /-- TASK_RECORD_ARRIVAL. A spawned, released or stolen record arrives at a core and waits to land or is pushed onto the deque (R143). -/
  | taskRecordArrival (n : Nat) (h : Nat)
  /-- PINNED_START. A start message reaches a core, which sets its pinned or restored slots to RUN together (R280). -/
  | pinnedStart (n : Nat)
  /-- REPLY. A reply arrives through the reply port and completes a parked instruction in place (R270). -/
  | reply (n : Nat)
  /-- ACKNOWLEDGEMENT. A remote store's acknowledgement arrives and may release a waiting release (R258). -/
  | acknowledgement (n : Nat)
  /-- REMOTE_ACCESS_ARRIVAL. A remote local-space access arrives at a TCM or scratchpad port and is applied after the cycle's local accesses (R257). -/
  | remoteAccessArrival (n : Nat)
  /-- SLICE_RESERVATION_GRANT. A first-in first-out reservation at a slice is granted, and the atomic, FE step, claim or ROUTE step is performed (R127). -/
  | sliceReservationGrant (n : Nat)
  /-- COMMIT_REQUEST. A chunk's signatures arrive at the die commit arbiter, which grants or serialises them (R252). -/
  | commitRequest (k : Nat)
  /-- COMMIT_GRANT. A chunk's final grant makes its writes take effect together and invalidates other copies (R252). -/
  | commitGrant (k : Nat)
  /-- SOLO_GRANT. The package solo grant passes to the oldest requester, whose chunk then cannot be squashed (R254). -/
  | soloGrant
  /-- LINE_WRITEBACK. A committed dirty line is written back to its home on eviction or at the implementation's choice (R245). -/
  | lineWriteback (l : Nat) (drop : Bool)
  /-- PARADE_VISIT. A parade probe visits an interface, adds its counter and colour, and completes a circuit when it returns (R265). -/
  | paradeVisit (x : Nat) (j : Nat)
  /-- QUEUE_STUCK_TIMEOUT. A queue stays stuck for 4,096 cycles and starts or joins a blocked-cycle watch (R328). -/
  | queueStuckTimeout (cl : Nat) (q : Nat)
  /-- TRANSLATION_WALK. A GLB access missing its slice's translations arrives and the slice walks the page table (R291). -/
  | translationWalk (n : Nat)
  /-- FAULT_MESSAGE. A fault message reaches a router and is merged or forwarded toward the ringmaster's fault table (R294). -/
  | faultMessage (n : Nat)
  /-- WAKE. A resolution wake reaches a router or slice and is copied down the tree or wakes the key's waiters (R295). -/
  | wake (n : Nat)
  /-- PAGE_REQUEST_SUCCESS. The host answers a page request with Success, which acts as a retry wake (R297). -/
  | pageRequestSuccess (n : Nat)
  /-- PAGE_REQUEST_INVALID_REQUEST. The host answers a page request with Invalid Request, giving cause 102 to the waiters (R297). -/
  | pageRequestInvalidRequest (n : Nat)
  /-- PAGE_REQUEST_RESPONSE_FAILURE. The host answers with Response Failure, failing this and every later host miss of the function (R297). -/
  | pageRequestResponseFailure (n : Nat)
  /-- DIRTY_LOG_MERGE. A dirty log reaches 128 entries and the residency agent merges it into the page-table entries (R302). -/
  | dirtyLogMerge (cl : Nat)
  /-- PMAP_WRITE. Firmware writes a placement map entry, which is refused while the context runs or when it would duplicate a cluster (R37). -/
  | pmapWrite (j : BitVec 7) (w : BitVec 64)
  /-- DSRWIN_WRITE. Firmware writes a die SRAM window, which is refused under the rules of R37 (R37). -/
  | dsrwinWrite (j : BitVec 2) (w : BitVec 64)
  /-- PTROOT_WRITE. Firmware writes PTROOT, activating the pair when V = 1 unless refused (R299). -/
  | ptrootWrite (w : BitVec 64)
  /-- FLTINFO. Reading pops the oldest unread fault from the die's fault table (R294). -/
  | fltinfo (d : BitVec 6)
  /-- FLTDONE_RETRY. Firmware resolves a fault entry with a retry wake (R295). -/
  | fltdoneRetry (id : BitVec 6)
  /-- FLTDONE_REJECT. Firmware resolves a fault entry by rejecting the address with cause 101 (R295). -/
  | fltdoneReject (id : BitVec 6)
  /-- DHARV. Writing 1 starts a harvest of every dirty log on the die (R302). -/
  | dharv (w : BitVec 64)
  /-- EXREQ. Reading pops the oldest residency request of the die (R307). -/
  | exreq (d : BitVec 6)
  /-- EXDONE_PAGE_IN_DONE. Marks a page-in done, making the entry RESIDENT or PINNED and releasing its parked records and waiters (R307). -/
  | exdonePageInDone (key : BitVec 36)
  /-- EXDONE_PAGE_IN_FAILED. Marks a page-in failed, releasing its records as poisoned and returning the entry to ABSENT (R239). -/
  | exdonePageInFailed (key : BitVec 36)
  /-- EXDONE_EVICTION_DONE. Marks an eviction done, leaving the entry ABSENT, or FETCHING when a page-in follows (R307). -/
  | exdoneEvictionDone (key : BitVec 36)
  /-- EXDONE_REFUSED. Firmware ends a residency command as refused with cause 329 (R307). -/
  | exdoneRefused (key : BitVec 36)
  /-- EXEVICT. Starts the eviction of a resident unpinned expert (R307). -/
  | exevict (w : BitVec 64)
  /-- FRPOP. Reading pops the oldest fault record of the die (R320). -/
  | frpop (d : BitVec 6)
  /-- FAULT_RECORD_ARRIVAL. A fault record reaches the die's queue and is queued or dropped with loss accounting (R320). -/
  | faultRecordArrival (n : Nat)
  /-- FINJECT. Injects a cause into the target slot, which takes the fault at its next opportunity (R322). -/
  | finject (w : BitVec 64)
  /-- SLOTPC. Replaces the PC of a FAULTED target slot (R321). -/
  | slotpc (w : BitVec 64)
  /-- SLOTKILL. Frees a FAULTED target slot with the effects of QUIT (R321). -/
  | slotkill (w : BitVec 64)
  /-- REGISTER_SOFT_ERROR. An uncorrectable error in register or engine state faults the slot with cause 132 or stops the operation with cause 134 (R325). -/
  | registerSoftError (k : Nat) (bank : Nat) (ix : Nat)
  /-- SCRUB. A scrubber reads a line, poisoning uncorrectable words and sending agent records (R326). -/
  | scrub (lv : Nat) (kd : Nat) (ad : Nat)
  /-- HQMAP_WRITE. Firmware maps a host-scope queue to a VF window, or the write is discarded (R342). -/
  | hqmapWrite (w : BitVec 64)
  /-- PUSH. A host write pushes an item with token bit 0, or sets OVF when the queue cannot take it (R343). -/
  | push (vf : Nat) (win : Nat) (w : BitVec 64)
  /-- PUSHT. A host write pushes an item with token bit 1 (R343). -/
  | pusht (vf : Nat) (win : Nat) (w : BitVec 64)
  /-- POP. A host read pops the queue head, returning 0 or the end token when the queue is empty (R343). -/
  | pop (vf : Nat) (win : Nat)
  /-- ACK. A host write of 1 clears OVF (R342). -/
  | ack (vf : Nat) (win : Nat) (w : BitVec 64)
  /-- CKCTL_CHECKPOINT. Starts a checkpoint of all HBM to the safe tier when every context is frozen (R346). -/
  | ckctlCheckpoint
  /-- CKCTL_RESTORE. Restores an image from the safe tier when no context is activated (R346). -/
  | ckctlRestore
  /-- CHECKPOINT_DONE. The checkpoint copy ends with a Global Persistent Flush and CKSTAT reads done (R346). -/
  | checkpointDone
  /-- XPCMD_ENABLE. Enables a scale-up port (R350). -/
  | xpcmdEnable (port : BitVec 4)
  /-- XPCMD_DISABLE. Disables a scale-up port (R350). -/
  | xpcmdDisable (port : BitVec 4)
  /-- XPCMD_RETRAIN. Retrains a scale-up port (R350). -/
  | xpcmdRetrain (port : BitVec 4)
  /-- XQ_FORWARD. A forwarder pops an item of a local queue and pushes it to the remote queue that its XQMAP entry names (R348). -/
  | xqForward (x : Nat) (j : Nat)
  /-- CROSS_PACKAGE_ARRIVAL. A put, get, SENDM or forwarded push arrives from another package and is applied, or is refused for a frozen context (R349). -/
  | crossPackageArrival (m : XMsg)
  /-- JOIN_FAILURE. An unrecoverable die-to-die join error loses every context and reports through AER (R338). -/
  | joinFailure
  /-- POWER_ON. Power-on resets the device and the security controller holds the dies and enters WAIT (R354). -/
  | powerOn
  /-- DOORBELL_LOAD. Verifies the staged image and, if it passes, measures it, initialises memory and starts the ringmasters (R354). -/
  | doorbellLoad
  /-- DOORBELL_RELOAD. Stops the whole device, loses every context and returns to WAIT (R355). -/
  | doorbellReload
  /-- STAGE_ACCESS. A host access to STAGE outside WAIT is discarded or returns all ones, and a write records cause 380 (R353). -/
  | stageAccess (wr : Bool) (off : Nat) (w : BitVec 64)
  /-- MEASUREMENT_EXTEND. A write to MCMD extends Mi with the digest in MEXT0–MEXT3, for i from 4 to 7 (R357). -/
  | measurementExtend (w : BitVec 64)
  /-- ATTCMD. A ringmaster requests an attestation report (R358). -/
  | attcmd (w : BitVec 64)
  /-- ACMD_REPORT. The host requests an attestation report through ATTMBX (R359). -/
  | acmdReport (w : BitVec 64)
  /-- ACMD_CERTIFICATE. The host requests the device identity certificate through ATTMBX (R359). -/
  | acmdCertificate (w : BitVec 64)
  /-- ATTESTATION_SERVICE. The controller serves the oldest queued request, writing the report or certificate and its status (R358). -/
  | attestationService
  /-- WDT_KICK. Restarts the ringmaster's watchdog count (R356). -/
  | wdtKick (w : BitVec 64)
  /-- WATCHDOG_EXPIRED. A ringmaster's watchdog expires, putting the device in FAILED with cause 379 (R356). -/
  | watchdogExpired (die : Nat)
  /-- SECURITY_ALARM. A tamper, glitch, over-temperature or fuse-policy event halts the device and may erase its keys (R360). -/
  | securityAlarm (cause : Nat)
  /-- DEBUG_ACCESS_REFUSED. A debug access refused by the fused debug policy records cause 377 (R360). -/
  | debugAccessRefused
  /-- INJECTED_FAULT_TAKEN. A slot in RUN with a pending FINJECT takes the injected fault at its next home turn, in place of issue (R322). -/
  | injectedFaultTaken (k : Nat)
  /-- ATS_COMPLETION. The host's ATS translation completion for a host-kind leaf reaches the slice, which completes the access, records a miss, or raises cause 123 or 124 (R297). -/
  | atsCompletion (n : Nat) (st : Nat) (pa : Nat)
  /-- PAGE_REQUEST_REENABLE. Page requests of a function are re-enabled after a Response Failure, ending the state in which every host miss takes cause 102 (R297). -/
  | pageRequestReenable (vf : Nat)
  /-- CHECKPOINT_RESTORE_DONE. The restore that CKCTL 2 started finishes and CKSTAT reads done (R346). -/
  | checkpointRestoreDone
  /-- SCALE_UP_PORT_COMMAND_DONE. An enable, disable or retrain command of a scale-up port finishes, which updates XPSTAT and ends the in-progress state that refuses further XPCMD writes (R350). -/
  | scaleUpPortCommandDone (port : BitVec 4) (up : Bool)
  deriving DecidableEq, Repr

end Sys2Proof
end

