-- ==== Sys2Proof/Decode.lean ====
section
/-! DEFINITION. The encoding (R71 to R82): from the bytes of the code window to an instruction or the subcode of family 0, and
back. Decoding is total: every bit pattern is an instruction or an illegal encoding with a stated subcode (R82). -/

namespace Sys2Proof

/-- The lowest-listed check that fails; the lists stand in ascending subcode. -/
def firstErr : List (Bool × Nat) → Option Nat
  | [] => none
  | (c, k) :: r => if c then some k else firstErr r

/-- A field that names q0 to q11 or mb (R23, R24). -/
def qmb (r : R6) : Bool := 48 ≤ r.toNat && r.toNat ≤ 60

/-- A field that names a queue end, g16 to g27. -/
def qend (r : R6) : Bool := 48 ≤ r.toNat && r.toNat ≤ 59

/-- The ty of the source of a VCVT code (Table 07-9). -/
def cvtTy (c : Nat) : Nat := if c < 2 then 0 else if c < 4 then 1 else if c < 6 then 0 else if c < 8 then 2 else if c < 10 then 1 else if c < 12 then 2 else 1

/-- The ty of the source of a VCVTI code (Table 07-10). -/
def cvtiTy (c : Nat) : Nat := if c < 4 then 0 else 1

/-- The ty of the source of a VCVTF code (Table 07-10). -/
def cvtfTy (c : Nat) : Nat := if c = 0 ∨ c = 4 then 0 else if c = 1 ∨ c = 5 then 1 else 2

/-- The encoding checks of Table 03-5 on the fields of an instruction: the lowest-numbered subcode that applies. R118's rule for data fields
leaves out rb of EMOV (log 96). -/
def fieldErr (i : Instr) : Option Nat :=
  match i with
  | .add _ _ _ => none
  | .sub _ _ _ => none
  | .mul _ _ _ => none
  | .mulh _ _ _ => none
  | .mulhu _ _ _ => none
  | .div _ _ _ => none
  | .divu _ _ _ => none
  | .rem _ _ _ => none
  | .remu _ _ _ => none
  | .and _ _ _ => none
  | .or _ _ _ => none
  | .xor _ _ _ => none
  | .andn _ _ _ => none
  | .sll _ _ _ => none
  | .srl _ _ _ => none
  | .sra _ _ _ => none
  | .ror _ _ _ => none
  | .min _ _ _ => none
  | .max _ _ _ => none
  | .minu _ _ _ => none
  | .maxu _ _ _ => none
  | .slt _ _ _ => none
  | .sltu _ _ _ => none
  | .seq _ _ _ => none
  | .clz _ _ => none
  | .ctz _ _ => none
  | .popc _ _ => none
  | .brev _ _ => none
  | .sextb _ _ => none
  | .sexth _ _ => none
  | .sextw _ _ => none
  | .bext _ _ _ => none
  | .bins d _ _ => firstErr [(qmb d, 31)]
  | .addi _ _ _ => none
  | .andi _ _ _ => none
  | .ori _ _ _ => none
  | .xori _ _ _ => none
  | .slli _ _ _ => none
  | .srli _ _ _ => none
  | .srai _ _ _ => none
  | .rori _ _ _ => none
  | .slti _ _ _ => none
  | .sltiu _ _ _ => none
  | .lih _ _ => none
  | .lis d _ => firstErr [(qmb d, 31)]
  | .padd _ _ _ => none
  | .padde _ _ _ => none
  | .pdiff _ _ _ => none
  | .pmake _ _ _ => none
  | .pget _ _ => none
  | .pset _ _ _ => none
  | .pchk _ _ _ => none
  | .pabs _ _ => none
  | .prel _ _ => none
  | .paddi _ _ _ => none
  | .lb d a _ => firstErr [(31 < a.toNat, 23), (qmb d, 31)]
  | .lbu d a _ => firstErr [(31 < a.toNat, 23), (qmb d, 31)]
  | .lh d a _ => firstErr [(31 < a.toNat, 23), (qmb d, 31)]
  | .lhu d a _ => firstErr [(31 < a.toNat, 23), (qmb d, 31)]
  | .lw d a _ => firstErr [(31 < a.toNat, 23), (qmb d, 31)]
  | .lwu d a _ => firstErr [(31 < a.toNat, 23), (qmb d, 31)]
  | .ld d a _ => firstErr [(31 < a.toNat, 23), (qmb d, 31)]
  | .sb a b _ => firstErr [(31 < a.toNat, 23), (qmb b, 31)]
  | .sh a b _ => firstErr [(31 < a.toNat, 23), (qmb b, 31)]
  | .sw a b _ => firstErr [(31 < a.toNat, 23), (qmb b, 31)]
  | .sd a b _ => firstErr [(31 < a.toNat, 23), (qmb b, 31)]
  | .ldf d a => firstErr [(31 < a.toNat, 23), (qmb d, 31)]
  | .ldff d a => firstErr [(31 < a.toNat, 23), (qmb d, 31)]
  | .ste a b => firstErr [(31 < a.toNat, 23), (qmb b, 31)]
  | .stf a b => firstErr [(31 < a.toNat, 23), (qmb b, 31)]
  | .feset a => firstErr [(31 < a.toNat, 23)]
  | .feclr a => firstErr [(31 < a.toNat, 23)]
  | .festat d a => firstErr [(31 < a.toNat, 23), (qmb d, 31)]
  | .amoadd d a b _ => firstErr [(31 < a.toNat, 23), (qmb d || qmb b, 31)]
  | .amoand d a b _ => firstErr [(31 < a.toNat, 23), (qmb d || qmb b, 31)]
  | .amoor d a b _ => firstErr [(31 < a.toNat, 23), (qmb d || qmb b, 31)]
  | .amoxor d a b _ => firstErr [(31 < a.toNat, 23), (qmb d || qmb b, 31)]
  | .amomin d a b _ => firstErr [(31 < a.toNat, 23), (qmb d || qmb b, 31)]
  | .amomax d a b _ => firstErr [(31 < a.toNat, 23), (qmb d || qmb b, 31)]
  | .amominu d a b _ => firstErr [(31 < a.toNat, 23), (qmb d || qmb b, 31)]
  | .amomaxu d a b _ => firstErr [(31 < a.toNat, 23), (qmb d || qmb b, 31)]
  | .amoswap d a b _ => firstErr [(31 < a.toNat, 23), (qmb d || qmb b, 31)]
  | .amocas d a b _ => firstErr [(31 < a.toNat, 23), (qmb d || qmb b, 31)]
  | .amofadd d a b _ => firstErr [(31 < a.toNat, 23), (qmb d || qmb b, 31)]
  | .amofmin d a b _ => firstErr [(31 < a.toNat, 23), (qmb d || qmb b, 31)]
  | .amofmax d a b _ => firstErr [(31 < a.toNat, 23), (qmb d || qmb b, 31)]
  | .redadd a b _ => firstErr [(31 < a.toNat, 23), (qmb b, 31)]
  | .redand a b _ => firstErr [(31 < a.toNat, 23), (qmb b, 31)]
  | .redor a b _ => firstErr [(31 < a.toNat, 23), (qmb b, 31)]
  | .redxor a b _ => firstErr [(31 < a.toNat, 23), (qmb b, 31)]
  | .redmin a b _ => firstErr [(31 < a.toNat, 23), (qmb b, 31)]
  | .redmax a b _ => firstErr [(31 < a.toNat, 23), (qmb b, 31)]
  | .redminu a b _ => firstErr [(31 < a.toNat, 23), (qmb b, 31)]
  | .redmaxu a b _ => firstErr [(31 < a.toNat, 23), (qmb b, 31)]
  | .redfadd a b _ => firstErr [(31 < a.toNat, 23), (qmb b, 31)]
  | .redfmin a b _ => firstErr [(31 < a.toNat, 23), (qmb b, 31)]
  | .redfmax a b _ => firstErr [(31 < a.toNat, 23), (qmb b, 31)]
  | .fence b => firstErr [(3 < b.toNat, 31)]
  | .monarm d a => firstErr [(31 < a.toNat, 23), (qmb d, 31)]
  | .monwait d => firstErr [(qmb d, 31)]
  | .monclr a => firstErr [(31 < a.toNat, 23)]
  | .waitmsg d => firstErr [(qmb d, 31)]
  | .ccut => none
  | .quiesce b => firstErr [(3 < b.toNat, 31)]
  | .yield => none
  | .vld _ x _ => firstErr [(31 < x.toNat, 25)]
  | .vst _ x _ => firstErr [(31 < x.toNat, 25)]
  | .vlds _ x _ _ => firstErr [(31 < x.toNat, 25)]
  | .vsts _ x _ _ => firstErr [(31 < x.toNat, 25)]
  | .vldx _ x _ _ => firstErr [(31 < x.toNat, 25)]
  | .vstx _ x _ _ => firstErr [(31 < x.toNat, 25)]
  | .vldb _ x _ _ => firstErr [(31 < x.toNat, 25)]
  | .eld a => firstErr [(31 < a.toNat, 23)]
  | .est a => firstErr [(31 < a.toNat, 23)]
  | .emov _ _ => none
  | .eget d _ => firstErr [(qmb d, 31)]
  | .beq _ _ _ => none
  | .bne _ _ _ => none
  | .blt _ _ _ => none
  | .bge _ _ _ => none
  | .bltu _ _ _ => none
  | .bgeu _ _ _ => none
  | .btok a _ => firstErr [(!qend a, 29)]
  | .next _ => none
  | .jal _ => none
  | .jmp _ => none
  | .jalr _ a _ => firstErr [(31 < a.toNat, 23)]
  | .spawn a _ => firstErr [(31 < a.toNat, 23), (28 < a.toNat, 30)]
  | .spawnl d a _ => firstErr [(31 < a.toNat, 23), (28 < a.toNat, 30), (qmb d, 31)]
  | .quit => none
  | .dinit _ _ => none
  | .darm d _ _ => firstErr [(31 < d.toNat, 22), (28 < d.toNat, 30)]
  | .dbind d _ _ => firstErr [(31 < d.toNat, 22), (28 < d.toNat, 30)]
  | .ddec _ => none
  | .dstat _ _ => none
  | .gnew _ => none
  | .gjoin _ => none
  | .gleave _ => none
  | .gbar _ _ => none
  | .gfree _ => none
  | .iteri _ => none
  | .qnew _ => none
  | .qbind d _ _ => firstErr [(!qend d, 29)]
  | .qunbind d => firstErr [(!qend d, 29)]
  | .qctl d _ => firstErr [(!qend d, 29)]
  | .qctlDrain d => firstErr [(!qend d, 29)]
  | .qctlClose d => firstErr [(!qend d, 29)]
  | .qctlOpen d => firstErr [(!qend d, 29)]
  | .qtok d _ => firstErr [(!qend d, 29)]
  | .qstat _ a => firstErr [(!qend a, 29)]
  | .qfree _ => none
  | .qref d a _ => firstErr [(!qend d || !qend a, 29)]
  | .fadd _ _ _ p => firstErr [(1 < p.toNat, 13)]
  | .fsub _ _ _ p => firstErr [(1 < p.toNat, 13)]
  | .fmul _ _ _ p => firstErr [(1 < p.toNat, 13)]
  | .fdiv _ _ _ p => firstErr [(1 < p.toNat, 13)]
  | .fsqrt _ _ p => firstErr [(1 < p.toNat, 13)]
  | .fma d _ _ p => firstErr [(1 < p.toNat, 13), (qmb d, 31)]
  | .fmin _ _ _ p => firstErr [(1 < p.toNat, 13)]
  | .fmax _ _ _ p => firstErr [(1 < p.toNat, 13)]
  | .feq _ _ _ p => firstErr [(1 < p.toNat, 13)]
  | .flt _ _ _ p => firstErr [(1 < p.toNat, 13)]
  | .fle _ _ _ p => firstErr [(1 < p.toNat, 13)]
  | .fclass _ _ p => firstErr [(1 < p.toNat, 13)]
  | .fneg _ _ p => firstErr [(1 < p.toNat, 13)]
  | .fabs _ _ p => firstErr [(1 < p.toNat, 13)]
  | .fcvti _ _ p => firstErr [(1 < p.toNat, 13)]
  | .fcvtu _ _ p => firstErr [(1 < p.toNat, 13)]
  | .icvtf _ _ p => firstErr [(1 < p.toNat, 13)]
  | .fcvtf _ _ _ _ => none
  | .hsift _ a _ => firstErr [(31 < a.toNat, 23)]
  | .hinit a _ => firstErr [(31 < a.toNat, 23)]
  | .vadd _ _ _ _ _ => none
  | .vsub _ _ _ _ _ => none
  | .vmul _ _ _ _ _ => none
  | .vmin _ _ _ _ _ => none
  | .vmax _ _ _ _ _ => none
  | .vminu _ _ _ _ _ => none
  | .vmaxu _ _ _ _ _ => none
  | .vabs _ _ _ _ => none
  | .vneg _ _ _ _ => none
  | .vmad _ _ _ _ _ => none
  | .vand _ _ _ _ _ => none
  | .vor _ _ _ _ _ => none
  | .vxor _ _ _ _ _ => none
  | .vandn _ _ _ _ _ => none
  | .vnot _ _ _ _ => none
  | .vshl _ _ _ _ _ => none
  | .vshr _ _ _ _ _ => none
  | .vsra _ _ _ _ _ => none
  | .vfadd _ _ _ _ t => firstErr [(t = 3#2, 16)]
  | .vfsub _ _ _ _ t => firstErr [(t = 3#2, 16)]
  | .vfmul _ _ _ _ t => firstErr [(t = 3#2, 16)]
  | .vfma _ _ _ _ t => firstErr [(t = 3#2, 16)]
  | .vfmin _ _ _ _ t => firstErr [(t = 3#2, 16)]
  | .vfmax _ _ _ _ t => firstErr [(t = 3#2, 16)]
  | .vfabs _ _ t => firstErr [(t = 3#2, 16)]
  | .vfneg _ _ t => firstErr [(t = 3#2, 16)]
  | .vexp2b _ _ _ t => firstErr [(1 < t.toNat, 16)]
  | .vrcpb _ _ _ t => firstErr [(1 < t.toNat, 16)]
  | .vrsqb _ _ _ t => firstErr [(1 < t.toNat, 16)]
  | .vceq _ _ _ _ _ => none
  | .vcne _ _ _ _ _ => none
  | .vclt _ _ _ _ _ => none
  | .vcle _ _ _ _ _ => none
  | .vcltu _ _ _ _ _ => none
  | .vfceq _ _ _ _ t => firstErr [(t = 3#2, 16)]
  | .vfclt _ _ _ _ t => firstErr [(t = 3#2, 16)]
  | .vfcle _ _ _ _ t => firstErr [(t = 3#2, 16)]
  | .vsel _ _ _ _ _ => none
  | .mand _ _ _ => none
  | .mor _ _ _ => none
  | .mnot _ _ => none
  | .mpopc _ _ _ _ => none
  | .vbcast _ _ _ _ => none
  | .vext _ _ _ _ => none
  | .vins _ _ _ _ => none
  | .vperm _ _ _ _ _ => none
  | .vslide _ _ _ _ _ => none
  | .viota _ _ _ => none
  | .vcompress _ _ _ _ => none
  | .vredadd _ _ _ _ => none
  | .vredmax _ _ _ _ => none
  | .vfredadd _ _ _ t => firstErr [(t = 3#2, 16)]
  | .vfredmax _ _ _ t => firstErr [(t = 3#2, 16)]
  | .vscan _ _ _ _ _ => none
  | .vfscan _ _ _ _ t => firstErr [(t = 3#2, 16)]
  | .vsegscan _ _ _ _ _ => none
  | .vfsegscan _ _ _ _ t => firstErr [(t = 3#2, 16)]
  | .vcvt _ _ c r t => firstErr [((c.toNat < 14 && cvtTy c.toNat != t.toNat) || 2 < t.toNat, 16), (r = 5#3 ∨ r = 6#3, 17), (13 < c.toNat, 31)]
  | .vcvti _ _ c r t => firstErr [((c.toNat < 8 && cvtiTy c.toNat != t.toNat) || 1 < t.toNat, 16), (r = 5#3 ∨ r = 6#3, 17), (7 < c.toNat, 31)]
  | .vcvtf _ _ c r t => firstErr [((c.toNat < 8 && cvtfTy c.toNat != t.toNat) || 2 < t.toNat, 16), (r = 5#3 ∨ r = 6#3, 17), (7 < c.toNat, 31)]
  | .vquant _ _ c r => firstErr [(r = 5#3 ∨ r = 6#3, 17), (4 < c.toNat, 31)]
  | .vdeq _ _ c r => firstErr [(r = 5#3 ∨ r = 6#3, 17), (4 < c.toNat, 31)]
  | .vpack _ _ _ r t => firstErr [(1 < t.toNat, 16), (r = 5#3 ∨ r = 6#3, 17)]
  | .vunpk _ _ h r t => firstErr [(t = 0#2 ∨ t = 3#2, 16), (r = 5#3 ∨ r = 6#3, 17), (1 < h.toNat, 31)]
  | .mma d => firstErr [(qmb d, 31)]
  | .mmas d => firstErr [(qmb d, 31)]
  | .mmax d => firstErr [(qmb d, 31)]
  | .mdelta d => firstErr [(qmb d, 31)]
  | .mrefresh d => firstErr [(qmb d, 31)]
  | .minv d _ => firstErr [(qmb d, 31)]
  | .mloadb d => firstErr [(qmb d, 31)]
  | .mfreeb _ => none
  | .mstc d => firstErr [(qmb d, 31)]
  | .mgroup d => firstErr [(qmb d, 31)]
  | .mpri d _ _ => firstErr [(qmb d, 31)]
  | .mstat d _ => firstErr [(qmb d, 31)]
  | .copy d => firstErr [(qmb d, 31)]
  | .gather d => firstErr [(qmb d, 31)]
  | .scatter d => firstErr [(qmb d, 31)]
  | .isect d => firstErr [(qmb d, 31)]
  | .rsort d => firstErr [(qmb d, 31)]
  | .bbinit _ _ => none
  | .bbexpect _ _ => none
  | .bbwait d _ _ => firstErr [(qmb d, 31)]
  | .sendm _ _ => none
  | .elook d _ => firstErr [(qmb d, 31)]
  | .ereq d _ _ => firstErr [(qmb d, 31)]
  | .epin d _ => firstErr [(qmb d, 31)]
  | .eunpin d _ => firstErr [(qmb d, 31)]
  | .ehint _ _ => none
  | .route d _ _ => firstErr [(qmb d, 31)]
  | .trap _ b => firstErr [(15 < b.toNat, 31)]
  | .brk => none
  | .sysrd d _ _ => firstErr [(qmb d, 31)]
  | .syswr _ _ _ => none
  | .cflush _ _ => none
  | .iflush => none
  | .eret => none
  | .tinv _ _ => none
  | .freeze _ _ => none
  | .thaw _ _ => none
  | .nudge _ _ => none
  | .cNop => none
  | .cRet => none
  | .cYield => none
  | .cLi _ _ => none
  | .cAddi _ _ => none
  | .cMov _ _ => none
  | .cAdd _ _ => none
  | .cSub _ _ => none
  | .cLd _ _ _ => none
  | .cSd _ _ _ => none
  | .cBeqz _ _ => none
  | .cBnez _ _ => none
  | .cJ _ => none
  | .cSlli _ _ => none
  | .cSrli _ _ => none
  | .cAnd _ _ => none
  | .monitorTimeout _ => none
  | .waitmsgTimeout _ => none
  | .counterBankStep _ => none
  | .groupRequestArrival _ => none
  | .streamItem _ _ => none
  | .queuePushArrival _ => none
  | .queuePopArrival _ => none
  | .queueControlArrival _ => none
  | .reservationRound _ => none
  | .commitRound _ => none
  | .normaliserDone _ => none
  | .matrixLaunchArrival _ => none
  | .arrayIdleStart _ => none
  | .kStepBoundary _ => none
  | .priorityAgeing _ _ => none
  | .mirrorReservationGrant _ => none
  | .matrixOperationCompletion _ => none
  | .groupRecordWalk _ => none
  | .tileMove _ => none
  | .turnstileRelease _ => none
  | .turnstilePark _ => none
  | .engineRequestArrival _ _ => none
  | .refusalResend _ => none
  | .engineBlockWrite _ _ => none
  | .credit _ => none
  | .mailboxMessageArrival _ _ => none
  | .residencyStep _ => none
  | .freezeCompletion _ => none
  | .thawCompletion _ => none
  | .landRecord _ => none
  | .sequencerReissue _ => none
  | .queueSpillRefill _ _ => none
  | .dequeSpillMove _ => none
  | .stealRequest _ => none
  | .stealAnswer _ => none
  | .stealSweepDelay _ => none
  | .taskRecordArrival _ _ => none
  | .pinnedStart _ => none
  | .reply _ => none
  | .acknowledgement _ => none
  | .remoteAccessArrival _ => none
  | .sliceReservationGrant _ => none
  | .commitRequest _ => none
  | .commitGrant _ => none
  | .soloGrant => none
  | .lineWriteback _ _ => none
  | .paradeVisit _ _ => none
  | .queueStuckTimeout _ _ => none
  | .translationWalk _ => none
  | .faultMessage _ => none
  | .wake _ => none
  | .pageRequestSuccess _ => none
  | .pageRequestInvalidRequest _ => none
  | .pageRequestResponseFailure _ => none
  | .dirtyLogMerge _ => none
  | .pmapWrite _ _ => none
  | .dsrwinWrite _ _ => none
  | .ptrootWrite _ => none
  | .fltinfo _ => none
  | .fltdoneRetry _ => none
  | .fltdoneReject _ => none
  | .dharv _ => none
  | .exreq _ => none
  | .exdonePageInDone _ => none
  | .exdonePageInFailed _ => none
  | .exdoneEvictionDone _ => none
  | .exdoneRefused _ => none
  | .exevict _ => none
  | .frpop _ => none
  | .faultRecordArrival _ => none
  | .finject _ => none
  | .slotpc _ => none
  | .slotkill _ => none
  | .registerSoftError _ _ _ => none
  | .scrub _ _ _ => none
  | .hqmapWrite _ => none
  | .push _ _ _ => none
  | .pusht _ _ _ => none
  | .pop _ _ => none
  | .ack _ _ _ => none
  | .ckctlCheckpoint => none
  | .ckctlRestore => none
  | .checkpointDone => none
  | .xpcmdEnable _ => none
  | .xpcmdDisable _ => none
  | .xpcmdRetrain _ => none
  | .xqForward _ _ => none
  | .crossPackageArrival _ => none
  | .joinFailure => none
  | .powerOn => none
  | .doorbellLoad => none
  | .doorbellReload => none
  | .stageAccess _ _ _ => none
  | .measurementExtend _ => none
  | .attcmd _ => none
  | .acmdReport _ => none
  | .acmdCertificate _ => none
  | .attestationService => none
  | .wdtKick _ => none
  | .watchdogExpired _ => none
  | .securityAlarm _ => none
  | .debugAccessRefused => none
  | .injectedFaultTaken _ => none
  | .atsCompletion _ _ _ => none
  | .pageRequestReenable _ => none
  | .checkpointRestoreDone => none
  | .scaleUpPortCommandDone _ _ => none

/-- The encoding check of R82: the lowest subcode among the checks on unused fields and those on the instruction's own fields. -/
def checked (raw : List (Bool × Nat)) (i : Instr) : Except Nat Instr :=
  match firstErr raw, fieldErr i with
  | none, none => .ok i
  | some j, none => .error j
  | none, some k => .error k
  | some j, some k => .error (Nat.min j k)

/-- Major 0x01 (Table 03-2). -/
noncomputable def decode01 (d a b : R6) (fn : Nat) : Except Nat Instr :=
    match fn with
    | 0 => checked [] (.add d a b)
    | 1 => checked [] (.sub d a b)
    | 2 => checked [] (.mul d a b)
    | 3 => checked [] (.mulh d a b)
    | 4 => checked [] (.mulhu d a b)
    | 5 => checked [] (.div d a b)
    | 6 => checked [] (.divu d a b)
    | 7 => checked [] (.rem d a b)
    | 8 => checked [] (.remu d a b)
    | 9 => checked [] (.and d a b)
    | 10 => checked [] (.or d a b)
    | 11 => checked [] (.xor d a b)
    | 12 => checked [] (.andn d a b)
    | 13 => checked [] (.sll d a b)
    | 14 => checked [] (.srl d a b)
    | 15 => checked [] (.sra d a b)
    | 16 => checked [] (.ror d a b)
    | 17 => checked [] (.min d a b)
    | 18 => checked [] (.max d a b)
    | 19 => checked [] (.minu d a b)
    | 20 => checked [] (.maxu d a b)
    | 21 => checked [] (.slt d a b)
    | 22 => checked [] (.sltu d a b)
    | 23 => checked [] (.seq d a b)
    | 24 => checked [(b ≠ 0#6, 20)] (.clz d a)
    | 25 => checked [(b ≠ 0#6, 20)] (.ctz d a)
    | 26 => checked [(b ≠ 0#6, 20)] (.popc d a)
    | 27 => checked [(b ≠ 0#6, 20)] (.brev d a)
    | 28 => checked [(b ≠ 0#6, 20)] (.sextb d a)
    | 29 => checked [(b ≠ 0#6, 20)] (.sexth d a)
    | 30 => checked [(b ≠ 0#6, 20)] (.sextw d a)
    | 31 => checked [] (.bext d a b)
    | 32 => checked [] (.bins d a b)
    | _ => .error 6

/-- Major 0x0b (Table 03-2). -/
noncomputable def decode0B (d a b : R6) (fn : Nat) : Except Nat Instr :=
    match fn with
    | 0 => checked [] (.padd d a b)
    | 1 => checked [] (.padde d a b)
    | 2 => checked [] (.pdiff d a b)
    | 3 => checked [] (.pmake d a b)
    | 4 => checked [(b ≠ 0#6, 20)] (.pget d a)
    | 5 => checked [] (.pset d a b)
    | 6 => checked [] (.pchk d a b)
    | 7 => checked [(b ≠ 0#6, 20)] (.pabs d a)
    | 8 => checked [(b ≠ 0#6, 20)] (.prel d a)
    | _ => .error 6

/-- Major 0x1b (Table 03-2). -/
noncomputable def decode1B (d a b : R6) (fn : Nat) : Except Nat Instr :=
    match fn with
    | 0 => checked [(b ≠ 0#6, 20)] (.ldf d a)
    | 1 => checked [(b ≠ 0#6, 20)] (.ldff d a)
    | 2 => checked [(d ≠ 0#6, 20)] (.ste a b)
    | 3 => checked [(d ≠ 0#6, 20)] (.stf a b)
    | 4 => checked [(d ≠ 0#6, 20), (b ≠ 0#6, 20)] (.feset a)
    | 5 => checked [(d ≠ 0#6, 20), (b ≠ 0#6, 20)] (.feclr a)
    | 6 => checked [(b ≠ 0#6, 20)] (.festat d a)
    | _ => .error 6

/-- Major 0x1d (Table 03-2). -/
noncomputable def decode1D (d a b : R6) (fn : Nat) : Except Nat Instr :=
    match fn with
    | 0 => checked [(d ≠ 0#6, 20), (a ≠ 0#6, 20)] (.fence b)
    | 1 => checked [(b ≠ 0#6, 20)] (.monarm d a)
    | 2 => checked [(a ≠ 0#6, 20), (b ≠ 0#6, 20)] (.monwait d)
    | 3 => checked [(d ≠ 0#6, 20), (b ≠ 0#6, 20)] (.monclr a)
    | 4 => checked [(a ≠ 0#6, 20), (b ≠ 0#6, 20)] (.waitmsg d)
    | 5 => checked [(d ≠ 0#6, 20), (a ≠ 0#6, 20), (b ≠ 0#6, 20)] .ccut
    | 6 => checked [(d ≠ 0#6, 20), (a ≠ 0#6, 20)] (.quiesce b)
    | 7 => checked [(d ≠ 0#6, 20), (a ≠ 0#6, 20), (b ≠ 0#6, 20)] .yield
    | _ => .error 7

/-- Major 0x1f (Table 03-2). -/
noncomputable def decode1F (d a b : R6) (fn : Nat) : Except Nat Instr :=
    match fn with
    | 0 => checked [(d ≠ 0#6, 20), (b ≠ 0#6, 20)] (.eld a)
    | 1 => checked [(d ≠ 0#6, 20), (b ≠ 0#6, 20)] (.est a)
    | 2 => checked [(a ≠ 0#6, 20), (7 < d.toNat, 27)] (.emov (d.setWidth 3) b)
    | 3 => checked [(b ≠ 0#6, 20), (7 < a.toNat, 27)] (.eget d (a.setWidth 3))
    | _ => .error 6

/-- Major 0x2b (Table 03-2). -/
noncomputable def decode2B (d a b : R6) (fn : Nat) : Except Nat Instr :=
    match fn with
    | 0 => checked [(d ≠ 0#6, 20)] (.spawn a b)
    | 1 => checked [] (.spawnl d a b)
    | 2 => checked [(d ≠ 0#6, 20), (a ≠ 0#6, 20), (b ≠ 0#6, 20)] .quit
    | 3 => checked [(d ≠ 0#6, 20)] (.dinit a b)
    | 4 => checked [] (.darm d a b)
    | 5 => checked [] (.dbind d a b)
    | 6 => checked [(d ≠ 0#6, 20), (b ≠ 0#6, 20)] (.ddec a)
    | 7 => checked [(b ≠ 0#6, 20)] (.dstat d a)
    | 8 => checked [(a ≠ 0#6, 20), (b ≠ 0#6, 20)] (.gnew d)
    | 9 => checked [(d ≠ 0#6, 20), (b ≠ 0#6, 20)] (.gjoin a)
    | 10 => checked [(d ≠ 0#6, 20), (b ≠ 0#6, 20)] (.gleave a)
    | 11 => checked [(b ≠ 0#6, 20)] (.gbar d a)
    | 12 => checked [(d ≠ 0#6, 20), (b ≠ 0#6, 20)] (.gfree a)
    | 13 => checked [(d ≠ 0#6, 20), (b ≠ 0#6, 20)] (.iteri a)
    | _ => .error 8

/-- Major 0x2c (Table 03-2). -/
noncomputable def decode2C (d a b : R6) (fn : Nat) : Except Nat Instr :=
    match fn with
    | 0 => checked [(a ≠ 0#6, 20), (b ≠ 0#6, 20)] (.qnew d)
    | 1 => checked [] (.qbind d a b)
    | 2 => checked [(a ≠ 0#6, 20), (b ≠ 0#6, 20)] (.qunbind d)
    | 3 => checked [(a ≠ 0#6, 20)] (.qctl d b)
    | 4 => checked [(a ≠ 0#6, 20)] (.qtok d b)
    | 5 => checked [(b ≠ 0#6, 20)] (.qstat d a)
    | 6 => checked [(d ≠ 0#6, 20), (b ≠ 0#6, 20)] (.qfree a)
    | 7 => checked [] (.qref d a b)
    | _ => .error 8

/-- Major 0x2e (Table 03-2). -/
noncomputable def decode2E (d a b : R6) (fn : Nat) : Except Nat Instr :=
    match fn with
    | 0 => checked [] (.hsift d a b)
    | 1 => checked [(d ≠ 0#6, 20)] (.hinit a b)
    | _ => .error 6

/-- Major 0x37 (Table 03-2). -/
noncomputable def decode37 (d a b : R6) (fn : Nat) : Except Nat Instr :=
    match fn with
    | 0 => checked [(a ≠ 0#6, 20), (b ≠ 0#6, 20)] (.mma d)
    | 1 => checked [(a ≠ 0#6, 20), (b ≠ 0#6, 20)] (.mmas d)
    | 2 => checked [(a ≠ 0#6, 20), (b ≠ 0#6, 20)] (.mmax d)
    | 3 => checked [(a ≠ 0#6, 20), (b ≠ 0#6, 20)] (.mdelta d)
    | 4 => checked [(a ≠ 0#6, 20), (b ≠ 0#6, 20)] (.mrefresh d)
    | 5 => checked [(b ≠ 0#6, 20)] (.minv d a)
    | 6 => checked [(a ≠ 0#6, 20), (b ≠ 0#6, 20)] (.mloadb d)
    | 7 => checked [(d ≠ 0#6, 20), (b ≠ 0#6, 20)] (.mfreeb a)
    | 8 => checked [(a ≠ 0#6, 20), (b ≠ 0#6, 20)] (.mstc d)
    | 9 => checked [(a ≠ 0#6, 20), (b ≠ 0#6, 20)] (.mgroup d)
    | 10 => checked [] (.mpri d a b)
    | 11 => checked [(b ≠ 0#6, 20)] (.mstat d a)
    | _ => .error 9

/-- Major 0x38 (Table 03-2). -/
noncomputable def decode38 (d a b : R6) (fn : Nat) : Except Nat Instr :=
    match fn with
    | 0 => checked [(a ≠ 0#6, 20), (b ≠ 0#6, 20)] (.copy d)
    | 1 => checked [(a ≠ 0#6, 20), (b ≠ 0#6, 20)] (.gather d)
    | 2 => checked [(a ≠ 0#6, 20), (b ≠ 0#6, 20)] (.scatter d)
    | 3 => checked [(a ≠ 0#6, 20), (b ≠ 0#6, 20)] (.isect d)
    | 4 => checked [(a ≠ 0#6, 20), (b ≠ 0#6, 20)] (.rsort d)
    | 5 => checked [(d ≠ 0#6, 20)] (.bbinit a b)
    | 6 => checked [(d ≠ 0#6, 20)] (.bbexpect a b)
    | 7 => checked [] (.bbwait d a b)
    | 8 => checked [(d ≠ 0#6, 20)] (.sendm a b)
    | _ => .error 10

/-- Major 0x39 (Table 03-2). -/
noncomputable def decode39 (d a b : R6) (fn : Nat) : Except Nat Instr :=
    match fn with
    | 0 => checked [(b ≠ 0#6, 20)] (.elook d a)
    | 1 => checked [] (.ereq d a b)
    | 2 => checked [(b ≠ 0#6, 20)] (.epin d a)
    | 3 => checked [(b ≠ 0#6, 20)] (.eunpin d a)
    | 4 => checked [(d ≠ 0#6, 20)] (.ehint a b)
    | 5 => checked [] (.route d a b)
    | _ => .error 10

/-- Major 0x3b (Table 03-2). -/
noncomputable def decode3B (d a b : R6) (fn : Nat) : Except Nat Instr :=
    match fn with
    | 0 => checked [(d ≠ 0#6, 20)] (.trap a b)
    | 1 => checked [(d ≠ 0#6, 20), (a ≠ 0#6, 20), (b ≠ 0#6, 20)] .brk
    | 2 => checked [] (.sysrd d a b)
    | 3 => checked [] (.syswr d a b)
    | 4 => checked [(d ≠ 0#6, 20)] (.cflush a b)
    | 5 => checked [(d ≠ 0#6, 20), (a ≠ 0#6, 20), (b ≠ 0#6, 20)] .iflush
    | 6 => checked [(d ≠ 0#6, 20), (a ≠ 0#6, 20), (b ≠ 0#6, 20)] .eret
    | 7 => checked [(d ≠ 0#6, 20)] (.tinv a b)
    | 8 => checked [(b ≠ 0#6, 20)] (.freeze d a)
    | 9 => checked [(b ≠ 0#6, 20)] (.thaw d a)
    | 10 => checked [(b ≠ 0#6, 20)] (.nudge d a)
    | _ => .error 11

/-- Major 0x30 (Table 03-2). -/
noncomputable def decode30 (v a b : BitVec 5) (m : BitVec 3) (fn : Nat) (t : BitVec 2) : Except Nat Instr :=
    match fn with
    | 0 => checked [] (.vadd v a b m t)
    | 1 => checked [] (.vsub v a b m t)
    | 2 => checked [] (.vmul v a b m t)
    | 3 => checked [] (.vmin v a b m t)
    | 4 => checked [] (.vmax v a b m t)
    | 5 => checked [] (.vminu v a b m t)
    | 6 => checked [] (.vmaxu v a b m t)
    | 7 => checked [(b ≠ 0#5, 21)] (.vabs v a m t)
    | 8 => checked [(b ≠ 0#5, 21)] (.vneg v a m t)
    | 9 => checked [] (.vmad v a b m t)
    | _ => .error 15

/-- Major 0x31 (Table 03-2). -/
noncomputable def decode31 (v a b : BitVec 5) (m : BitVec 3) (fn : Nat) (t : BitVec 2) : Except Nat Instr :=
    match fn with
    | 0 => checked [] (.vand v a b m t)
    | 1 => checked [] (.vor v a b m t)
    | 2 => checked [] (.vxor v a b m t)
    | 3 => checked [] (.vandn v a b m t)
    | 4 => checked [(b ≠ 0#5, 21)] (.vnot v a m t)
    | 5 => checked [] (.vshl v a b m t)
    | 6 => checked [] (.vshr v a b m t)
    | 7 => checked [] (.vsra v a b m t)
    | _ => .error 15

/-- Major 0x32 (Table 03-2). -/
noncomputable def decode32 (v a b : BitVec 5) (m : BitVec 3) (fn : Nat) (t : BitVec 2) : Except Nat Instr :=
    match fn with
    | 0 => checked [] (.vfadd v a b m t)
    | 1 => checked [] (.vfsub v a b m t)
    | 2 => checked [] (.vfmul v a b m t)
    | 3 => checked [] (.vfma v a b m t)
    | 4 => checked [] (.vfmin v a b m t)
    | 5 => checked [] (.vfmax v a b m t)
    | 6 => checked [(m ≠ 0#3, 18), (b ≠ 0#5, 21)] (.vfabs v a t)
    | 7 => checked [(m ≠ 0#3, 18), (b ≠ 0#5, 21)] (.vfneg v a t)
    | 8 => checked [(b ≠ 0#5, 21)] (.vexp2b v a m t)
    | 9 => checked [(b ≠ 0#5, 21)] (.vrcpb v a m t)
    | 10 => checked [(b ≠ 0#5, 21)] (.vrsqb v a m t)
    | _ => .error 15

/-- Major 0x33 (Table 03-2). -/
noncomputable def decode33 (v a b : BitVec 5) (m : BitVec 3) (fn : Nat) (t : BitVec 2) : Except Nat Instr :=
    match fn with
    | 0 => checked [(7 < v.toNat, 28)] (.vceq (v.setWidth 3) a b m t)
    | 1 => checked [(7 < v.toNat, 28)] (.vcne (v.setWidth 3) a b m t)
    | 2 => checked [(7 < v.toNat, 28)] (.vclt (v.setWidth 3) a b m t)
    | 3 => checked [(7 < v.toNat, 28)] (.vcle (v.setWidth 3) a b m t)
    | 4 => checked [(7 < v.toNat, 28)] (.vcltu (v.setWidth 3) a b m t)
    | 5 => checked [(7 < v.toNat, 28)] (.vfceq (v.setWidth 3) a b m t)
    | 6 => checked [(7 < v.toNat, 28)] (.vfclt (v.setWidth 3) a b m t)
    | 7 => checked [(7 < v.toNat, 28)] (.vfcle (v.setWidth 3) a b m t)
    | 8 => checked [] (.vsel v a b m t)
    | 9 => checked [(t ≠ 0#2, 16), (m ≠ 0#3, 18), (7 < v.toNat, 28), (7 < a.toNat, 28), (7 < b.toNat, 28)] (.mand (v.setWidth 3) (a.setWidth 3) (b.setWidth 3))
    | 10 => checked [(t ≠ 0#2, 16), (m ≠ 0#3, 18), (7 < v.toNat, 28), (7 < a.toNat, 28), (7 < b.toNat, 28)] (.mor (v.setWidth 3) (a.setWidth 3) (b.setWidth 3))
    | 11 => checked [(t ≠ 0#2, 16), (m ≠ 0#3, 18), (b ≠ 0#5, 21), (7 < v.toNat, 28), (7 < a.toNat, 28)] (.mnot (v.setWidth 3) (a.setWidth 3))
    | 12 => checked [(b ≠ 0#5, 21), (7 < a.toNat, 28)] (.mpopc v (a.setWidth 3) m t)
    | _ => .error 15

/-- Major 0x34 (Table 03-2). -/
noncomputable def decode34 (v a b : BitVec 5) (m : BitVec 3) (fn : Nat) (t : BitVec 2) : Except Nat Instr :=
    match fn with
    | 0 => checked [(b ≠ 0#5, 21)] (.vbcast v a m t)
    | 1 => checked [(m ≠ 0#3, 18)] (.vext v a b t)
    | 2 => checked [(m ≠ 0#3, 18)] (.vins v a b t)
    | 3 => checked [] (.vperm v a b m t)
    | 4 => checked [] (.vslide v a b m t)
    | 5 => checked [(a ≠ 0#5, 21), (b ≠ 0#5, 21)] (.viota v m t)
    | 6 => checked [(b ≠ 0#5, 21)] (.vcompress v a m t)
    | 7 => checked [(b ≠ 0#5, 21)] (.vredadd v a m t)
    | 8 => checked [(b ≠ 0#5, 21)] (.vredmax v a m t)
    | 9 => checked [(b ≠ 0#5, 21)] (.vfredadd v a m t)
    | 10 => checked [(b ≠ 0#5, 21)] (.vfredmax v a m t)
    | 11 => checked [] (.vscan v a b m t)
    | 12 => checked [] (.vfscan v a b m t)
    | 13 => checked [] (.vsegscan v a b m t)
    | 14 => checked [] (.vfsegscan v a b m t)
    | _ => .error 15

/-- Major 0x35 (Table 03-2). -/
noncomputable def decode35 (v a b : BitVec 5) (m : BitVec 3) (fn : Nat) (t : BitVec 2) : Except Nat Instr :=
    match fn with
    | 0 => checked [] (.vcvt v a b m t)
    | 1 => checked [] (.vcvti v a b m t)
    | 2 => checked [] (.vcvtf v a b m t)
    | 3 => checked [(t ≠ 0#2, 16)] (.vquant v a b m)
    | 4 => checked [(t ≠ 0#2, 16)] (.vdeq v a b m)
    | 5 => checked [] (.vpack v a b m t)
    | 6 => checked [] (.vunpk v a b m t)
    | _ => .error 15

/-- Major 0x1C: fn7[3:0] the operation, fn7[5:4] the ordering, fn7[6] the no-return form (R76). -/
noncomputable def decode1C (d a b : R6) (op : Nat) (o : BitVec 2) (red : Bool) : Except Nat Instr :=
    match op, red with
    | 0, false => checked [] (.amoadd d a b o)
    | 0, true => checked [(d ≠ 0#6, 20)] (.redadd a b o)
    | 1, false => checked [] (.amoand d a b o)
    | 1, true => checked [(d ≠ 0#6, 20)] (.redand a b o)
    | 2, false => checked [] (.amoor d a b o)
    | 2, true => checked [(d ≠ 0#6, 20)] (.redor a b o)
    | 3, false => checked [] (.amoxor d a b o)
    | 3, true => checked [(d ≠ 0#6, 20)] (.redxor a b o)
    | 4, false => checked [] (.amomin d a b o)
    | 4, true => checked [(d ≠ 0#6, 20)] (.redmin a b o)
    | 5, false => checked [] (.amomax d a b o)
    | 5, true => checked [(d ≠ 0#6, 20)] (.redmax a b o)
    | 6, false => checked [] (.amominu d a b o)
    | 6, true => checked [(d ≠ 0#6, 20)] (.redminu a b o)
    | 7, false => checked [] (.amomaxu d a b o)
    | 7, true => checked [(d ≠ 0#6, 20)] (.redmaxu a b o)
    | 8, false => checked [] (.amoswap d a b o)
    | 9, false => checked [] (.amocas d a b o)
    | 10, false => checked [] (.amofadd d a b o)
    | 10, true => checked [(d ≠ 0#6, 20)] (.redfadd a b o)
    | 11, false => checked [] (.amofmin d a b o)
    | 11, true => checked [(d ≠ 0#6, 20)] (.redfmin a b o)
    | 12, false => checked [] (.amofmax d a b o)
    | 12, true => checked [(d ≠ 0#6, 20)] (.redfmax a b o)
    | _, _ => .error 12

/-- Major 0x2D: fn7[4:0] the function, fn7[6:5] the precision (R76). -/
noncomputable def decode2D (d a b : R6) (fn : Nat) (p : BitVec 2) : Except Nat Instr :=
    match fn with
    | 0 => checked [] (.fadd d a b p)
    | 1 => checked [] (.fsub d a b p)
    | 2 => checked [] (.fmul d a b p)
    | 3 => checked [] (.fdiv d a b p)
    | 4 => checked [(b ≠ 0#6, 20)] (.fsqrt d a p)
    | 5 => checked [] (.fma d a b p)
    | 6 => checked [] (.fmin d a b p)
    | 7 => checked [] (.fmax d a b p)
    | 8 => checked [] (.feq d a b p)
    | 9 => checked [] (.flt d a b p)
    | 10 => checked [] (.fle d a b p)
    | 11 => checked [(b ≠ 0#6, 20)] (.fclass d a p)
    | 12 => checked [(b ≠ 0#6, 20)] (.fneg d a p)
    | 13 => checked [(b ≠ 0#6, 20)] (.fabs d a p)
    | 14 => checked [(b ≠ 0#6, 20)] (.fcvti d a p)
    | 15 => checked [(b ≠ 0#6, 20)] (.fcvtu d a p)
    | 16 => checked [(b ≠ 0#6, 20)] (.icvtf d a p)
    | 17 => checked [(3 < b.toNat, 31)] (.fcvtf d a (b.setWidth 2) p)
    | _ => .error 13

/-- Major 0x1E, format FM: vd, scalar base, index, mask, fn5 (R131). -/
noncomputable def decode1E (v : BitVec 5) (x y : R6) (m : BitVec 3) (fn : Nat) : Except Nat Instr :=
    match fn with
    | 0 => checked [(y ≠ 0#6, 21)] (.vld v x m)
    | 1 => checked [(y ≠ 0#6, 21)] (.vst v x m)
    | 2 => checked [] (.vlds v x y m)
    | 3 => checked [] (.vsts v x y m)
    | 4 => checked [(31 < y.toNat, 26)] (.vldx v x (y.setWidth 5) m)
    | 5 => checked [(31 < y.toNat, 26)] (.vstx v x (y.setWidth 5) m)
    | 6 => checked [(31 < y.toNat, 26)] (.vldb v x (y.setWidth 5) m)
    | _ => .error 14

/-- Major 0x06: imm[12:11] selects the operation, imm[10:6] is reserved, imm[5:0] is the amount (R75). -/
noncomputable def decode06 (d a : R6) (i : BitVec 13) : Except Nat Instr :=
    let raw := [((i.extractLsb' 6 5 ≠ 0#5 : Bool), 19)]
    match (i.extractLsb' 11 2).toNat with
    | 0 => checked raw (.slli d a (i.extractLsb' 0 6))
    | 1 => checked raw (.srli d a (i.extractLsb' 0 6))
    | 2 => checked raw (.srai d a (i.extractLsb' 0 6))
    | _ => checked raw (.rori d a (i.extractLsb' 0 6))

/-- A 32-bit word W = (h0, h1) (R71, R74). The major opcode is W[30:25]. -/
noncomputable def decodeWord (w : BitVec 32) : Except Nat Instr :=
  let d := w.extractLsb' 19 6
  let a := w.extractLsb' 13 6
  let b := w.extractLsb' 7 6
  let fn := (w.extractLsb' 0 7).toNat
  let i13 := w.extractLsb' 0 13
  let i19 := w.extractLsb' 0 19
  let i25 := w.extractLsb' 0 25
  let v5 := w.extractLsb' 20 5
  let a5 := w.extractLsb' 15 5
  let b5 := w.extractLsb' 10 5
  let m3 := w.extractLsb' 7 3
  let fn5 := (w.extractLsb' 2 5).toNat
  let ty := w.extractLsb' 0 2
  match (w.extractLsb' 25 6).toNat with
  | 0x00 => .error 4
  | 0x01 => decode01 d a b fn
  | 0x02 => checked [] (.addi d a i13)
  | 0x03 => checked [] (.andi d a i13)
  | 0x04 => checked [] (.ori d a i13)
  | 0x05 => checked [] (.xori d a i13)
  | 0x06 => decode06 d a i13
  | 0x07 => checked [] (.slti d a i13)
  | 0x08 => checked [] (.sltiu d a i13)
  | 0x09 => checked [] (.lih d i19)
  | 0x0a => checked [] (.lis d i19)
  | 0x0b => decode0B d a b fn
  | 0x0c => checked [] (.paddi d a i13)
  | 0x10 => checked [] (.lb d a i13)
  | 0x11 => checked [] (.lbu d a i13)
  | 0x12 => checked [] (.lh d a i13)
  | 0x13 => checked [] (.lhu d a i13)
  | 0x14 => checked [] (.lw d a i13)
  | 0x15 => checked [] (.lwu d a i13)
  | 0x16 => checked [] (.ld d a i13)
  | 0x17 => checked [] (.sb d a i13)
  | 0x18 => checked [] (.sh d a i13)
  | 0x19 => checked [] (.sw d a i13)
  | 0x1a => checked [] (.sd d a i13)
  | 0x1b => decode1B d a b fn
  | 0x1c => decode1C d a b (w.extractLsb' 0 4).toNat (w.extractLsb' 4 2) (w.getLsbD 6)
  | 0x1d => decode1D d a b fn
  | 0x1e => decode1E v5 (w.extractLsb' 14 6) (w.extractLsb' 8 6) (w.extractLsb' 5 3) (w.extractLsb' 0 5).toNat
  | 0x1f => decode1F d a b fn
  | 0x20 => checked [] (.beq d a i13)
  | 0x21 => checked [] (.bne d a i13)
  | 0x22 => checked [] (.blt d a i13)
  | 0x23 => checked [] (.bge d a i13)
  | 0x24 => checked [] (.bltu d a i13)
  | 0x25 => checked [] (.bgeu d a i13)
  | 0x26 => checked [(a ≠ 0#6, 20)] (.btok d i13)
  | 0x27 => checked [(d ≠ 0#6 ∨ a ≠ 0#6, 20)] (.next i13)
  | 0x28 => checked [] (.jal i25)
  | 0x29 => checked [] (.jmp i25)
  | 0x2a => checked [] (.jalr d a i13)
  | 0x2b => decode2B d a b fn
  | 0x2c => decode2C d a b fn
  | 0x2d => decode2D d a b (w.extractLsb' 0 5).toNat (w.extractLsb' 5 2)
  | 0x2e => decode2E d a b fn
  | 0x30 => decode30 v5 a5 b5 m3 fn5 ty
  | 0x31 => decode31 v5 a5 b5 m3 fn5 ty
  | 0x32 => decode32 v5 a5 b5 m3 fn5 ty
  | 0x33 => decode33 v5 a5 b5 m3 fn5 ty
  | 0x34 => decode34 v5 a5 b5 m3 fn5 ty
  | 0x35 => decode35 v5 a5 b5 m3 fn5 ty
  | 0x37 => decode37 d a b fn
  | 0x38 => decode38 d a b fn
  | 0x39 => decode39 d a b fn
  | 0x3b => decode3B d a b fn
  | _ => .error 5

/-- A compact instruction (R80, Table 03-4): op4 in [14:11]. -/
noncomputable def decodeHalf (h : BitVec 16) : Except Nat Instr :=
  let d := h.extractLsb' 6 5
  let i6 := h.extractLsb' 0 6
  let a := h.extractLsb' 1 5
  let d3 := h.extractLsb' 8 3
  let b3 := h.extractLsb' 5 3
  let u5 := h.extractLsb' 0 5
  let low := [((h.getLsbD 0 : Bool), 3)]
  if h = 0#16 then .error 0 else
  match (h.extractLsb' 11 4).toNat with
  | 0x0 =>
    let raw := [((h.extractLsb' 0 8 ≠ 0#8 : Bool), 3)]
    match (h.extractLsb' 8 3).toNat with
    | 1 => checked raw .cNop
    | 2 => checked raw .cRet
    | 3 => checked raw .cYield
    | _ => .error 2
  | 0x1 => checked [] (.cLi d i6)
  | 0x2 => checked [] (.cAddi d i6)
  | 0x3 => checked low (.cMov d a)
  | 0x4 => checked low (.cAdd d a)
  | 0x5 => checked low (.cSub d a)
  | 0x6 => checked [] (.cLd d3 b3 u5)
  | 0x7 => checked [] (.cSd d3 b3 u5)
  | 0x8 => checked [] (.cBeqz d3 (h.extractLsb' 0 8))
  | 0x9 => checked [] (.cBnez d3 (h.extractLsb' 0 8))
  | 0xA => checked [] (.cJ (h.extractLsb' 0 11))
  | 0xB => checked [] (.cSlli d i6)
  | 0xC => checked [] (.cSrli d i6)
  | 0xD => checked low (.cAnd d a)
  | _ => .error 1

/-- An encoded instruction: one halfword or two. -/
inductive Enc where
  | half (h : BitVec 16)
  | word (w : BitVec 32)
  deriving DecidableEq, Repr

/-- Format F3: W[31] = 1, major, rd, ra, rb, fn7 (Table 03-1). -/
def encF3 (maj d a b : R6) (fn : BitVec 7) : BitVec 32 := 1#1 ++ maj ++ d ++ a ++ b ++ fn
/-- Formats FI, FS and FB: two register fields and 13 bits. -/
def encFI (maj d a : R6) (i : BitVec 13) : BitVec 32 := 1#1 ++ maj ++ d ++ a ++ i
/-- Format FL. -/
def encFL (maj d : R6) (i : BitVec 19) : BitVec 32 := 1#1 ++ maj ++ d ++ i
/-- Format FJ. -/
def encFJ (maj : R6) (i : BitVec 25) : BitVec 32 := 1#1 ++ maj ++ i
/-- Format FV. -/
def encFV (maj : R6) (v a b : BitVec 5) (m : BitVec 3) (fn : BitVec 5) (t : BitVec 2) : BitVec 32 :=
  1#1 ++ maj ++ v ++ a ++ b ++ m ++ fn ++ t
/-- Format FM. -/
def encFM (maj : R6) (v : BitVec 5) (x y : R6) (m : BitVec 3) (fn : BitVec 5) : BitVec 32 :=
  1#1 ++ maj ++ v ++ x ++ y ++ m ++ fn
/-- A compact instruction: W[15] = 0, op4, 11 bits of fields. -/
def encC (op : BitVec 4) (f : BitVec 11) : BitVec 16 := 0#1 ++ op ++ f

/-- The words of an instruction, by the encoding tables (Table 03-1, Table 03-2, Table 03-4). An event row has none, and the three
operations of QCTL have none of their own: their word is that of qctl. -/
def encode (i : Instr) : Option Enc :=
  match i with
  | .add d a b => some (.word (encF3 0x01#6 d a b 0#7))
  | .sub d a b => some (.word (encF3 0x01#6 d a b 1#7))
  | .mul d a b => some (.word (encF3 0x01#6 d a b 2#7))
  | .mulh d a b => some (.word (encF3 0x01#6 d a b 3#7))
  | .mulhu d a b => some (.word (encF3 0x01#6 d a b 4#7))
  | .div d a b => some (.word (encF3 0x01#6 d a b 5#7))
  | .divu d a b => some (.word (encF3 0x01#6 d a b 6#7))
  | .rem d a b => some (.word (encF3 0x01#6 d a b 7#7))
  | .remu d a b => some (.word (encF3 0x01#6 d a b 8#7))
  | .and d a b => some (.word (encF3 0x01#6 d a b 9#7))
  | .or d a b => some (.word (encF3 0x01#6 d a b 10#7))
  | .xor d a b => some (.word (encF3 0x01#6 d a b 11#7))
  | .andn d a b => some (.word (encF3 0x01#6 d a b 12#7))
  | .sll d a b => some (.word (encF3 0x01#6 d a b 13#7))
  | .srl d a b => some (.word (encF3 0x01#6 d a b 14#7))
  | .sra d a b => some (.word (encF3 0x01#6 d a b 15#7))
  | .ror d a b => some (.word (encF3 0x01#6 d a b 16#7))
  | .min d a b => some (.word (encF3 0x01#6 d a b 17#7))
  | .max d a b => some (.word (encF3 0x01#6 d a b 18#7))
  | .minu d a b => some (.word (encF3 0x01#6 d a b 19#7))
  | .maxu d a b => some (.word (encF3 0x01#6 d a b 20#7))
  | .slt d a b => some (.word (encF3 0x01#6 d a b 21#7))
  | .sltu d a b => some (.word (encF3 0x01#6 d a b 22#7))
  | .seq d a b => some (.word (encF3 0x01#6 d a b 23#7))
  | .clz d a => some (.word (encF3 0x01#6 d a 0#6 24#7))
  | .ctz d a => some (.word (encF3 0x01#6 d a 0#6 25#7))
  | .popc d a => some (.word (encF3 0x01#6 d a 0#6 26#7))
  | .brev d a => some (.word (encF3 0x01#6 d a 0#6 27#7))
  | .sextb d a => some (.word (encF3 0x01#6 d a 0#6 28#7))
  | .sexth d a => some (.word (encF3 0x01#6 d a 0#6 29#7))
  | .sextw d a => some (.word (encF3 0x01#6 d a 0#6 30#7))
  | .bext d a b => some (.word (encF3 0x01#6 d a b 31#7))
  | .bins d a b => some (.word (encF3 0x01#6 d a b 32#7))
  | .addi d a i => some (.word (encFI 0x02#6 d a i))
  | .andi d a i => some (.word (encFI 0x03#6 d a i))
  | .ori d a i => some (.word (encFI 0x04#6 d a i))
  | .xori d a i => some (.word (encFI 0x05#6 d a i))
  | .slli d a sh => some (.word (encFI 0x06#6 d a (0#2 ++ 0#5 ++ sh)))
  | .srli d a sh => some (.word (encFI 0x06#6 d a (1#2 ++ 0#5 ++ sh)))
  | .srai d a sh => some (.word (encFI 0x06#6 d a (2#2 ++ 0#5 ++ sh)))
  | .rori d a sh => some (.word (encFI 0x06#6 d a (3#2 ++ 0#5 ++ sh)))
  | .slti d a i => some (.word (encFI 0x07#6 d a i))
  | .sltiu d a i => some (.word (encFI 0x08#6 d a i))
  | .lih d i => some (.word (encFL 0x09#6 d i))
  | .lis d i => some (.word (encFL 0x0A#6 d i))
  | .padd d a b => some (.word (encF3 0x0b#6 d a b 0#7))
  | .padde d a b => some (.word (encF3 0x0b#6 d a b 1#7))
  | .pdiff d a b => some (.word (encF3 0x0b#6 d a b 2#7))
  | .pmake d a b => some (.word (encF3 0x0b#6 d a b 3#7))
  | .pget d a => some (.word (encF3 0x0b#6 d a 0#6 4#7))
  | .pset d a b => some (.word (encF3 0x0b#6 d a b 5#7))
  | .pchk d a b => some (.word (encF3 0x0b#6 d a b 6#7))
  | .pabs d a => some (.word (encF3 0x0b#6 d a 0#6 7#7))
  | .prel d a => some (.word (encF3 0x0b#6 d a 0#6 8#7))
  | .paddi d a i => some (.word (encFI 0x0c#6 d a i))
  | .lb d a i => some (.word (encFI 0x10#6 d a i))
  | .lbu d a i => some (.word (encFI 0x11#6 d a i))
  | .lh d a i => some (.word (encFI 0x12#6 d a i))
  | .lhu d a i => some (.word (encFI 0x13#6 d a i))
  | .lw d a i => some (.word (encFI 0x14#6 d a i))
  | .lwu d a i => some (.word (encFI 0x15#6 d a i))
  | .ld d a i => some (.word (encFI 0x16#6 d a i))
  | .sb a b i => some (.word (encFI 0x17#6 a b i))
  | .sh a b i => some (.word (encFI 0x18#6 a b i))
  | .sw a b i => some (.word (encFI 0x19#6 a b i))
  | .sd a b i => some (.word (encFI 0x1a#6 a b i))
  | .ldf d a => some (.word (encF3 0x1b#6 d a 0#6 0#7))
  | .ldff d a => some (.word (encF3 0x1b#6 d a 0#6 1#7))
  | .ste a b => some (.word (encF3 0x1b#6 0#6 a b 2#7))
  | .stf a b => some (.word (encF3 0x1b#6 0#6 a b 3#7))
  | .feset a => some (.word (encF3 0x1b#6 0#6 a 0#6 4#7))
  | .feclr a => some (.word (encF3 0x1b#6 0#6 a 0#6 5#7))
  | .festat d a => some (.word (encF3 0x1b#6 d a 0#6 6#7))
  | .amoadd d a b o => some (.word (encF3 0x1C#6 d a b (0#1 ++ o ++ 0#4)))
  | .amoand d a b o => some (.word (encF3 0x1C#6 d a b (0#1 ++ o ++ 1#4)))
  | .amoor d a b o => some (.word (encF3 0x1C#6 d a b (0#1 ++ o ++ 2#4)))
  | .amoxor d a b o => some (.word (encF3 0x1C#6 d a b (0#1 ++ o ++ 3#4)))
  | .amomin d a b o => some (.word (encF3 0x1C#6 d a b (0#1 ++ o ++ 4#4)))
  | .amomax d a b o => some (.word (encF3 0x1C#6 d a b (0#1 ++ o ++ 5#4)))
  | .amominu d a b o => some (.word (encF3 0x1C#6 d a b (0#1 ++ o ++ 6#4)))
  | .amomaxu d a b o => some (.word (encF3 0x1C#6 d a b (0#1 ++ o ++ 7#4)))
  | .amoswap d a b o => some (.word (encF3 0x1C#6 d a b (0#1 ++ o ++ 8#4)))
  | .amocas d a b o => some (.word (encF3 0x1C#6 d a b (0#1 ++ o ++ 9#4)))
  | .amofadd d a b o => some (.word (encF3 0x1C#6 d a b (0#1 ++ o ++ 10#4)))
  | .amofmin d a b o => some (.word (encF3 0x1C#6 d a b (0#1 ++ o ++ 11#4)))
  | .amofmax d a b o => some (.word (encF3 0x1C#6 d a b (0#1 ++ o ++ 12#4)))
  | .redadd a b o => some (.word (encF3 0x1C#6 0#6 a b (1#1 ++ o ++ 0#4)))
  | .redand a b o => some (.word (encF3 0x1C#6 0#6 a b (1#1 ++ o ++ 1#4)))
  | .redor a b o => some (.word (encF3 0x1C#6 0#6 a b (1#1 ++ o ++ 2#4)))
  | .redxor a b o => some (.word (encF3 0x1C#6 0#6 a b (1#1 ++ o ++ 3#4)))
  | .redmin a b o => some (.word (encF3 0x1C#6 0#6 a b (1#1 ++ o ++ 4#4)))
  | .redmax a b o => some (.word (encF3 0x1C#6 0#6 a b (1#1 ++ o ++ 5#4)))
  | .redminu a b o => some (.word (encF3 0x1C#6 0#6 a b (1#1 ++ o ++ 6#4)))
  | .redmaxu a b o => some (.word (encF3 0x1C#6 0#6 a b (1#1 ++ o ++ 7#4)))
  | .redfadd a b o => some (.word (encF3 0x1C#6 0#6 a b (1#1 ++ o ++ 10#4)))
  | .redfmin a b o => some (.word (encF3 0x1C#6 0#6 a b (1#1 ++ o ++ 11#4)))
  | .redfmax a b o => some (.word (encF3 0x1C#6 0#6 a b (1#1 ++ o ++ 12#4)))
  | .fence b => some (.word (encF3 0x1d#6 0#6 0#6 b 0#7))
  | .monarm d a => some (.word (encF3 0x1d#6 d a 0#6 1#7))
  | .monwait d => some (.word (encF3 0x1d#6 d 0#6 0#6 2#7))
  | .monclr a => some (.word (encF3 0x1d#6 0#6 a 0#6 3#7))
  | .waitmsg d => some (.word (encF3 0x1d#6 d 0#6 0#6 4#7))
  | .ccut => some (.word (encF3 0x1d#6 0#6 0#6 0#6 5#7))
  | .quiesce b => some (.word (encF3 0x1d#6 0#6 0#6 b 6#7))
  | .yield => some (.word (encF3 0x1d#6 0#6 0#6 0#6 7#7))
  | .vld v x m => some (.word (encFM 0x1E#6 v x 0#6 m 0#5))
  | .vst v x m => some (.word (encFM 0x1E#6 v x 0#6 m 1#5))
  | .vlds v x y m => some (.word (encFM 0x1E#6 v x y m 2#5))
  | .vsts v x y m => some (.word (encFM 0x1E#6 v x y m 3#5))
  | .vldx v x y m => some (.word (encFM 0x1E#6 v x (y.setWidth 6) m 4#5))
  | .vstx v x y m => some (.word (encFM 0x1E#6 v x (y.setWidth 6) m 5#5))
  | .vldb v x y m => some (.word (encFM 0x1E#6 v x (y.setWidth 6) m 6#5))
  | .eld a => some (.word (encF3 0x1f#6 0#6 a 0#6 0#7))
  | .est a => some (.word (encF3 0x1f#6 0#6 a 0#6 1#7))
  | .emov d b => some (.word (encF3 0x1f#6 (d.setWidth 6) 0#6 b 2#7))
  | .eget d a => some (.word (encF3 0x1f#6 d (a.setWidth 6) 0#6 3#7))
  | .beq a b i => some (.word (encFI 0x20#6 a b i))
  | .bne a b i => some (.word (encFI 0x21#6 a b i))
  | .blt a b i => some (.word (encFI 0x22#6 a b i))
  | .bge a b i => some (.word (encFI 0x23#6 a b i))
  | .bltu a b i => some (.word (encFI 0x24#6 a b i))
  | .bgeu a b i => some (.word (encFI 0x25#6 a b i))
  | .btok a i => some (.word (encFI 0x26#6 a 0#6 i))
  | .next i => some (.word (encFI 0x27#6 0#6 0#6 i))
  | .jal i => some (.word (encFJ 0x28#6 i))
  | .jmp i => some (.word (encFJ 0x29#6 i))
  | .jalr d a i => some (.word (encFI 0x2a#6 d a i))
  | .spawn a b => some (.word (encF3 0x2b#6 0#6 a b 0#7))
  | .spawnl d a b => some (.word (encF3 0x2b#6 d a b 1#7))
  | .quit => some (.word (encF3 0x2b#6 0#6 0#6 0#6 2#7))
  | .dinit a b => some (.word (encF3 0x2b#6 0#6 a b 3#7))
  | .darm d a b => some (.word (encF3 0x2b#6 d a b 4#7))
  | .dbind d a b => some (.word (encF3 0x2b#6 d a b 5#7))
  | .ddec a => some (.word (encF3 0x2b#6 0#6 a 0#6 6#7))
  | .dstat d a => some (.word (encF3 0x2b#6 d a 0#6 7#7))
  | .gnew d => some (.word (encF3 0x2b#6 d 0#6 0#6 8#7))
  | .gjoin a => some (.word (encF3 0x2b#6 0#6 a 0#6 9#7))
  | .gleave a => some (.word (encF3 0x2b#6 0#6 a 0#6 10#7))
  | .gbar d a => some (.word (encF3 0x2b#6 d a 0#6 11#7))
  | .gfree a => some (.word (encF3 0x2b#6 0#6 a 0#6 12#7))
  | .iteri a => some (.word (encF3 0x2b#6 0#6 a 0#6 13#7))
  | .qnew d => some (.word (encF3 0x2c#6 d 0#6 0#6 0#7))
  | .qbind d a b => some (.word (encF3 0x2c#6 d a b 1#7))
  | .qunbind d => some (.word (encF3 0x2c#6 d 0#6 0#6 2#7))
  | .qctl d b => some (.word (encF3 0x2c#6 d 0#6 b 3#7))
  | .qctlDrain _ => none
  | .qctlClose _ => none
  | .qctlOpen _ => none
  | .qtok d b => some (.word (encF3 0x2c#6 d 0#6 b 4#7))
  | .qstat d a => some (.word (encF3 0x2c#6 d a 0#6 5#7))
  | .qfree a => some (.word (encF3 0x2c#6 0#6 a 0#6 6#7))
  | .qref d a b => some (.word (encF3 0x2c#6 d a b 7#7))
  | .fadd d a b p => some (.word (encF3 0x2D#6 d a b (p ++ 0#5)))
  | .fsub d a b p => some (.word (encF3 0x2D#6 d a b (p ++ 1#5)))
  | .fmul d a b p => some (.word (encF3 0x2D#6 d a b (p ++ 2#5)))
  | .fdiv d a b p => some (.word (encF3 0x2D#6 d a b (p ++ 3#5)))
  | .fsqrt d a p => some (.word (encF3 0x2D#6 d a 0#6 (p ++ 4#5)))
  | .fma d a b p => some (.word (encF3 0x2D#6 d a b (p ++ 5#5)))
  | .fmin d a b p => some (.word (encF3 0x2D#6 d a b (p ++ 6#5)))
  | .fmax d a b p => some (.word (encF3 0x2D#6 d a b (p ++ 7#5)))
  | .feq d a b p => some (.word (encF3 0x2D#6 d a b (p ++ 8#5)))
  | .flt d a b p => some (.word (encF3 0x2D#6 d a b (p ++ 9#5)))
  | .fle d a b p => some (.word (encF3 0x2D#6 d a b (p ++ 10#5)))
  | .fclass d a p => some (.word (encF3 0x2D#6 d a 0#6 (p ++ 11#5)))
  | .fneg d a p => some (.word (encF3 0x2D#6 d a 0#6 (p ++ 12#5)))
  | .fabs d a p => some (.word (encF3 0x2D#6 d a 0#6 (p ++ 13#5)))
  | .fcvti d a p => some (.word (encF3 0x2D#6 d a 0#6 (p ++ 14#5)))
  | .fcvtu d a p => some (.word (encF3 0x2D#6 d a 0#6 (p ++ 15#5)))
  | .icvtf d a p => some (.word (encF3 0x2D#6 d a 0#6 (p ++ 16#5)))
  | .fcvtf d a t p => some (.word (encF3 0x2D#6 d a (t.setWidth 6) (p ++ 17#5)))
  | .hsift d a b => some (.word (encF3 0x2e#6 d a b 0#7))
  | .hinit a b => some (.word (encF3 0x2e#6 0#6 a b 1#7))
  | .vadd v a b m t => some (.word (encFV 0x30#6 v a b m 0#5 t))
  | .vsub v a b m t => some (.word (encFV 0x30#6 v a b m 1#5 t))
  | .vmul v a b m t => some (.word (encFV 0x30#6 v a b m 2#5 t))
  | .vmin v a b m t => some (.word (encFV 0x30#6 v a b m 3#5 t))
  | .vmax v a b m t => some (.word (encFV 0x30#6 v a b m 4#5 t))
  | .vminu v a b m t => some (.word (encFV 0x30#6 v a b m 5#5 t))
  | .vmaxu v a b m t => some (.word (encFV 0x30#6 v a b m 6#5 t))
  | .vabs v a m t => some (.word (encFV 0x30#6 v a 0#5 m 7#5 t))
  | .vneg v a m t => some (.word (encFV 0x30#6 v a 0#5 m 8#5 t))
  | .vmad v a b m t => some (.word (encFV 0x30#6 v a b m 9#5 t))
  | .vand v a b m t => some (.word (encFV 0x31#6 v a b m 0#5 t))
  | .vor v a b m t => some (.word (encFV 0x31#6 v a b m 1#5 t))
  | .vxor v a b m t => some (.word (encFV 0x31#6 v a b m 2#5 t))
  | .vandn v a b m t => some (.word (encFV 0x31#6 v a b m 3#5 t))
  | .vnot v a m t => some (.word (encFV 0x31#6 v a 0#5 m 4#5 t))
  | .vshl v a b m t => some (.word (encFV 0x31#6 v a b m 5#5 t))
  | .vshr v a b m t => some (.word (encFV 0x31#6 v a b m 6#5 t))
  | .vsra v a b m t => some (.word (encFV 0x31#6 v a b m 7#5 t))
  | .vfadd v a b m t => some (.word (encFV 0x32#6 v a b m 0#5 t))
  | .vfsub v a b m t => some (.word (encFV 0x32#6 v a b m 1#5 t))
  | .vfmul v a b m t => some (.word (encFV 0x32#6 v a b m 2#5 t))
  | .vfma v a b m t => some (.word (encFV 0x32#6 v a b m 3#5 t))
  | .vfmin v a b m t => some (.word (encFV 0x32#6 v a b m 4#5 t))
  | .vfmax v a b m t => some (.word (encFV 0x32#6 v a b m 5#5 t))
  | .vfabs v a t => some (.word (encFV 0x32#6 v a 0#5 0#3 6#5 t))
  | .vfneg v a t => some (.word (encFV 0x32#6 v a 0#5 0#3 7#5 t))
  | .vexp2b v a m t => some (.word (encFV 0x32#6 v a 0#5 m 8#5 t))
  | .vrcpb v a m t => some (.word (encFV 0x32#6 v a 0#5 m 9#5 t))
  | .vrsqb v a m t => some (.word (encFV 0x32#6 v a 0#5 m 10#5 t))
  | .vceq d a b m t => some (.word (encFV 0x33#6 (d.setWidth 5) a b m 0#5 t))
  | .vcne d a b m t => some (.word (encFV 0x33#6 (d.setWidth 5) a b m 1#5 t))
  | .vclt d a b m t => some (.word (encFV 0x33#6 (d.setWidth 5) a b m 2#5 t))
  | .vcle d a b m t => some (.word (encFV 0x33#6 (d.setWidth 5) a b m 3#5 t))
  | .vcltu d a b m t => some (.word (encFV 0x33#6 (d.setWidth 5) a b m 4#5 t))
  | .vfceq d a b m t => some (.word (encFV 0x33#6 (d.setWidth 5) a b m 5#5 t))
  | .vfclt d a b m t => some (.word (encFV 0x33#6 (d.setWidth 5) a b m 6#5 t))
  | .vfcle d a b m t => some (.word (encFV 0x33#6 (d.setWidth 5) a b m 7#5 t))
  | .vsel v a b m t => some (.word (encFV 0x33#6 v a b m 8#5 t))
  | .mand d a b => some (.word (encFV 0x33#6 (d.setWidth 5) (a.setWidth 5) (b.setWidth 5) 0#3 9#5 0#2))
  | .mor d a b => some (.word (encFV 0x33#6 (d.setWidth 5) (a.setWidth 5) (b.setWidth 5) 0#3 10#5 0#2))
  | .mnot d a => some (.word (encFV 0x33#6 (d.setWidth 5) (a.setWidth 5) 0#5 0#3 11#5 0#2))
  | .mpopc d a m t => some (.word (encFV 0x33#6 d (a.setWidth 5) 0#5 m 12#5 t))
  | .vbcast v x m t => some (.word (encFV 0x34#6 v x 0#5 m 0#5 t))
  | .vext d a y t => some (.word (encFV 0x34#6 d a y 0#3 1#5 t))
  | .vins v x y t => some (.word (encFV 0x34#6 v x y 0#3 2#5 t))
  | .vperm v a b m t => some (.word (encFV 0x34#6 v a b m 3#5 t))
  | .vslide v a y m t => some (.word (encFV 0x34#6 v a y m 4#5 t))
  | .viota v m t => some (.word (encFV 0x34#6 v 0#5 0#5 m 5#5 t))
  | .vcompress v a m t => some (.word (encFV 0x34#6 v a 0#5 m 6#5 t))
  | .vredadd v a m t => some (.word (encFV 0x34#6 v a 0#5 m 7#5 t))
  | .vredmax v a m t => some (.word (encFV 0x34#6 v a 0#5 m 8#5 t))
  | .vfredadd v a m t => some (.word (encFV 0x34#6 v a 0#5 m 9#5 t))
  | .vfredmax v a m t => some (.word (encFV 0x34#6 v a 0#5 m 10#5 t))
  | .vscan v a b m t => some (.word (encFV 0x34#6 v a b m 11#5 t))
  | .vfscan v a b m t => some (.word (encFV 0x34#6 v a b m 12#5 t))
  | .vsegscan v a b m t => some (.word (encFV 0x34#6 v a b m 13#5 t))
  | .vfsegscan v a b m t => some (.word (encFV 0x34#6 v a b m 14#5 t))
  | .vcvt v a c r t => some (.word (encFV 0x35#6 v a c r 0#5 t))
  | .vcvti v a c r t => some (.word (encFV 0x35#6 v a c r 1#5 t))
  | .vcvtf v a c r t => some (.word (encFV 0x35#6 v a c r 2#5 t))
  | .vquant v a c r => some (.word (encFV 0x35#6 v a c r 3#5 0#2))
  | .vdeq v a c r => some (.word (encFV 0x35#6 v a c r 4#5 0#2))
  | .vpack v a b r t => some (.word (encFV 0x35#6 v a b r 5#5 t))
  | .vunpk v a h r t => some (.word (encFV 0x35#6 v a h r 6#5 t))
  | .mma d => some (.word (encF3 0x37#6 d 0#6 0#6 0#7))
  | .mmas d => some (.word (encF3 0x37#6 d 0#6 0#6 1#7))
  | .mmax d => some (.word (encF3 0x37#6 d 0#6 0#6 2#7))
  | .mdelta d => some (.word (encF3 0x37#6 d 0#6 0#6 3#7))
  | .mrefresh d => some (.word (encF3 0x37#6 d 0#6 0#6 4#7))
  | .minv d a => some (.word (encF3 0x37#6 d a 0#6 5#7))
  | .mloadb d => some (.word (encF3 0x37#6 d 0#6 0#6 6#7))
  | .mfreeb a => some (.word (encF3 0x37#6 0#6 a 0#6 7#7))
  | .mstc d => some (.word (encF3 0x37#6 d 0#6 0#6 8#7))
  | .mgroup d => some (.word (encF3 0x37#6 d 0#6 0#6 9#7))
  | .mpri d a b => some (.word (encF3 0x37#6 d a b 10#7))
  | .mstat d a => some (.word (encF3 0x37#6 d a 0#6 11#7))
  | .copy d => some (.word (encF3 0x38#6 d 0#6 0#6 0#7))
  | .gather d => some (.word (encF3 0x38#6 d 0#6 0#6 1#7))
  | .scatter d => some (.word (encF3 0x38#6 d 0#6 0#6 2#7))
  | .isect d => some (.word (encF3 0x38#6 d 0#6 0#6 3#7))
  | .rsort d => some (.word (encF3 0x38#6 d 0#6 0#6 4#7))
  | .bbinit a b => some (.word (encF3 0x38#6 0#6 a b 5#7))
  | .bbexpect a b => some (.word (encF3 0x38#6 0#6 a b 6#7))
  | .bbwait d a b => some (.word (encF3 0x38#6 d a b 7#7))
  | .sendm a b => some (.word (encF3 0x38#6 0#6 a b 8#7))
  | .elook d a => some (.word (encF3 0x39#6 d a 0#6 0#7))
  | .ereq d a b => some (.word (encF3 0x39#6 d a b 1#7))
  | .epin d a => some (.word (encF3 0x39#6 d a 0#6 2#7))
  | .eunpin d a => some (.word (encF3 0x39#6 d a 0#6 3#7))
  | .ehint a b => some (.word (encF3 0x39#6 0#6 a b 4#7))
  | .route d a b => some (.word (encF3 0x39#6 d a b 5#7))
  | .trap a b => some (.word (encF3 0x3b#6 0#6 a b 0#7))
  | .brk => some (.word (encF3 0x3b#6 0#6 0#6 0#6 1#7))
  | .sysrd d hi lo => some (.word (encF3 0x3b#6 d hi lo 2#7))
  | .syswr d hi lo => some (.word (encF3 0x3b#6 d hi lo 3#7))
  | .cflush a b => some (.word (encF3 0x3b#6 0#6 a b 4#7))
  | .iflush => some (.word (encF3 0x3b#6 0#6 0#6 0#6 5#7))
  | .eret => some (.word (encF3 0x3b#6 0#6 0#6 0#6 6#7))
  | .tinv a b => some (.word (encF3 0x3b#6 0#6 a b 7#7))
  | .freeze d a => some (.word (encF3 0x3b#6 d a 0#6 8#7))
  | .thaw d a => some (.word (encF3 0x3b#6 d a 0#6 9#7))
  | .nudge d a => some (.word (encF3 0x3b#6 d a 0#6 10#7))
  | .cNop => some (.half 0x0100#16)
  | .cRet => some (.half 0x0200#16)
  | .cYield => some (.half 0x0300#16)
  | .cLi d i => some (.half (encC 0x1#4 (d ++ i)))
  | .cAddi d i => some (.half (encC 0x2#4 (d ++ i)))
  | .cMov d a => some (.half (encC 0x3#4 (d ++ a ++ 0#1)))
  | .cAdd d a => some (.half (encC 0x4#4 (d ++ a ++ 0#1)))
  | .cSub d a => some (.half (encC 0x5#4 (d ++ a ++ 0#1)))
  | .cLd d b i => some (.half (encC 0x6#4 (d ++ b ++ i)))
  | .cSd d b i => some (.half (encC 0x7#4 (d ++ b ++ i)))
  | .cBeqz a i => some (.half (encC 0x8#4 (a ++ i)))
  | .cBnez a i => some (.half (encC 0x9#4 (a ++ i)))
  | .cJ i => some (.half (encC 0xA#4 i))
  | .cSlli d sh => some (.half (encC 0xB#4 (d ++ sh)))
  | .cSrli d sh => some (.half (encC 0xC#4 (d ++ sh)))
  | .cAnd d a => some (.half (encC 0xD#4 (d ++ a ++ 0#1)))
  | .monitorTimeout _ => none
  | .waitmsgTimeout _ => none
  | .counterBankStep _ => none
  | .groupRequestArrival _ => none
  | .streamItem _ _ => none
  | .queuePushArrival _ => none
  | .queuePopArrival _ => none
  | .queueControlArrival _ => none
  | .reservationRound _ => none
  | .commitRound _ => none
  | .normaliserDone _ => none
  | .matrixLaunchArrival _ => none
  | .arrayIdleStart _ => none
  | .kStepBoundary _ => none
  | .priorityAgeing _ _ => none
  | .mirrorReservationGrant _ => none
  | .matrixOperationCompletion _ => none
  | .groupRecordWalk _ => none
  | .tileMove _ => none
  | .turnstileRelease _ => none
  | .turnstilePark _ => none
  | .engineRequestArrival _ _ => none
  | .refusalResend _ => none
  | .engineBlockWrite _ _ => none
  | .credit _ => none
  | .mailboxMessageArrival _ _ => none
  | .residencyStep _ => none
  | .freezeCompletion _ => none
  | .thawCompletion _ => none
  | .landRecord _ => none
  | .sequencerReissue _ => none
  | .queueSpillRefill _ _ => none
  | .dequeSpillMove _ => none
  | .stealRequest _ => none
  | .stealAnswer _ => none
  | .stealSweepDelay _ => none
  | .taskRecordArrival _ _ => none
  | .pinnedStart _ => none
  | .reply _ => none
  | .acknowledgement _ => none
  | .remoteAccessArrival _ => none
  | .sliceReservationGrant _ => none
  | .commitRequest _ => none
  | .commitGrant _ => none
  | .soloGrant => none
  | .lineWriteback _ _ => none
  | .paradeVisit _ _ => none
  | .queueStuckTimeout _ _ => none
  | .translationWalk _ => none
  | .faultMessage _ => none
  | .wake _ => none
  | .pageRequestSuccess _ => none
  | .pageRequestInvalidRequest _ => none
  | .pageRequestResponseFailure _ => none
  | .dirtyLogMerge _ => none
  | .pmapWrite _ _ => none
  | .dsrwinWrite _ _ => none
  | .ptrootWrite _ => none
  | .fltinfo _ => none
  | .fltdoneRetry _ => none
  | .fltdoneReject _ => none
  | .dharv _ => none
  | .exreq _ => none
  | .exdonePageInDone _ => none
  | .exdonePageInFailed _ => none
  | .exdoneEvictionDone _ => none
  | .exdoneRefused _ => none
  | .exevict _ => none
  | .frpop _ => none
  | .faultRecordArrival _ => none
  | .finject _ => none
  | .slotpc _ => none
  | .slotkill _ => none
  | .registerSoftError _ _ _ => none
  | .scrub _ _ _ => none
  | .hqmapWrite _ => none
  | .push _ _ _ => none
  | .pusht _ _ _ => none
  | .pop _ _ => none
  | .ack _ _ _ => none
  | .ckctlCheckpoint => none
  | .ckctlRestore => none
  | .checkpointDone => none
  | .xpcmdEnable _ => none
  | .xpcmdDisable _ => none
  | .xpcmdRetrain _ => none
  | .xqForward _ _ => none
  | .crossPackageArrival _ => none
  | .joinFailure => none
  | .powerOn => none
  | .doorbellLoad => none
  | .doorbellReload => none
  | .stageAccess _ _ _ => none
  | .measurementExtend _ => none
  | .attcmd _ => none
  | .acmdReport _ => none
  | .acmdCertificate _ => none
  | .attestationService => none
  | .wdtKick _ => none
  | .watchdogExpired _ => none
  | .securityAlarm _ => none
  | .debugAccessRefused => none
  | .injectedFaultTaken _ => none
  | .atsCompletion _ _ _ => none
  | .pageRequestReenable _ => none
  | .checkpointRestoreDone => none
  | .scaleUpPortCommandDone _ _ => none

/-- What the fetch unit does with the halfwords at PC and PC + 2 (R71): the top bit of the first tells whether there is a
second. The answer is the instruction or a subcode of family 0. -/
noncomputable def decodeHalves (h0 h1 : BitVec 16) : Except Nat Instr :=
  if h0.getLsbD 15 then decodeWord (h0 ++ h1) else decodeHalf h0

/-- Decoding of an encoded instruction. -/
noncomputable def decodeEnc : Enc → Except Nat Instr
  | .half h => if h.getLsbD 15 then .error 5 else decodeHalf h
  | .word w => decodeHalves (w.extractLsb' 16 16) (w.extractLsb' 0 16)

/-- The two halfwords as the hardware lays them out for an instruction whose bits the table numbers w: a 32-bit row is
the word W = (h0, h1), so h0, at the lower address, is its upper half (R71); a 16-bit row is h0 itself. -/
def tableHalves (nbits w : Nat) : BitVec 16 × BitVec 16 :=
  if nbits ≤ 16 then (BitVec.ofNat 16 w, 0#16) else (BitVec.ofNat 16 (w / 65536), BitVec.ofNat 16 w)

/-- The instruction that the decoder reads from a row of the table with the bits w. -/
noncomputable def decodeTableWord (nbits w : Nat) : Option Instr :=
  match decodeHalves (tableHalves nbits w).1 (tableHalves nbits w).2 with
  | .ok i => some i
  | .error _ => none

end Sys2Proof
end

