-- ==== Sys2Proof/Machine/Bits.lean ====
section
/-! DEFINITION. Byte order, bit fields and integer readings used by every part of the machine (R8, R73). -/

namespace Sys2Proof.Machine

/-- The n low-order bytes of a number, least significant first (R8). -/
def leBytes (v : Nat) : Nat → List Byte
  | 0 => []
  | n + 1 => BitVec.ofNat 8 v :: leBytes (v / 256) n

/-- The number that bytes hold, least significant first. -/
def leNat : List Byte → Nat
  | [] => 0
  | b :: r => b.toNat + 256 * leNat r

/-- The number that bytes hold, most significant first. -/
def beNat (l : List Byte) : Nat := leNat l.reverse

/-- Bits [lo + n − 1 : lo] of a number. -/
def bitsOf (v lo n : Nat) : Nat := (v >>> lo) % 2 ^ n

/-- Field [lo + n − 1 : lo] of a register, unsigned. -/
def fld (w : W) (lo n : Nat) : Nat := bitsOf w.toNat lo n

/-- A register value holding a natural number, modulo 2^64. -/
def nat (n : Nat) : W := BitVec.ofNat 64 n

/-- A register value holding a 1 or a 0. -/
def bit (b : Bool) : W := if b then 1#64 else 0#64

/-- Field [lo + n − 1 : lo] of a register replaced by v. -/
def setFld (w : W) (lo n v : Nat) : W :=
  nat (w.toNat % 2 ^ lo + (v % 2 ^ n) * 2 ^ lo + (w.toNat >>> (lo + n)) * 2 ^ (lo + n))

/-- The signed reading of the low n bits of a number. -/
def sInt (v n : Nat) : Int := if v % 2 ^ n < 2 ^ (n - 1) then (v % 2 ^ n : Nat) else (v % 2 ^ n : Nat) - (2 ^ n : Nat)

/-- Lane i of width w of a vector (R28). -/
def lane (v : V512) (w i : Nat) : Nat := bitsOf v.toNat (w * i) w

/-- A vector from its lanes of width w, lane 0 first. -/
def ofLanes (w : Nat) : List Nat → Nat
  | [] => 0
  | a :: r => a % 2 ^ w + 2 ^ w * ofLanes w r

/-- A vector register from lanes. -/
def vecOf (w : Nat) (l : List Nat) : V512 := BitVec.ofNat 512 (ofLanes w l)

/-- Inserts before the first element with a larger key. -/
def insertOn {α : Type} (key : α → Nat) (a : α) : List α → List α
  | [] => [a]
  | b :: r => if key a < key b then a :: b :: r else b :: insertOn key a r

/-- A stable sort by a numeric key. -/
def sortOn {α : Type} (key : α → Nat) (l : List α) : List α := l.foldl (fun acc a => insertOn key a acc) []

/-- Ceiling of a quotient. -/
def ceilDiv (a b : Nat) : Nat := (a + b - 1) / b

/-- Bitwise OR over a list of numbers. -/
def orAll (l : List Nat) : Nat := l.foldl (· ||| ·) 0

end Sys2Proof.Machine
end

