-- ==== Sys2Proof/Machine/Float.lean ====
section
/-! DEFINITION. Floating-point formats, exact values and the rounding functions of chapter 2 (R53 to R68). -/

namespace Sys2Proof.Machine

/-- A floating-point format: exponent and mantissa widths, bias, whether it has infinities, and its NaNs (0 as IEEE 754 has
them, 1 the single code of E4M3, 2 none) (Table 02-2). -/
structure Fmt where
  eb : Nat
  mb : Nat
  bias : Nat
  inf : Bool := true
  nan : Nat := 0
  deriving DecidableEq, Repr

def fp64 : Fmt := { eb := 11, mb := 52, bias := 1023 }
def fp32 : Fmt := { eb := 8, mb := 23, bias := 127 }
def fp16 : Fmt := { eb := 5, mb := 10, bias := 15 }
def bf16 : Fmt := { eb := 8, mb := 7, bias := 127 }
def e4m3 : Fmt := { eb := 4, mb := 3, bias := 7, inf := false, nan := 1 }
def e5m2 : Fmt := { eb := 5, mb := 2, bias := 15 }
def e3m2 : Fmt := { eb := 3, mb := 2, bias := 3, inf := false, nan := 2 }
def e2m3 : Fmt := { eb := 2, mb := 3, bias := 1, inf := false, nan := 2 }
def e2m1 : Fmt := { eb := 2, mb := 1, bias := 1, inf := false, nan := 2 }

/-- Width of an encoding. -/
def Fmt.bits (f : Fmt) : Nat := 1 + f.eb + f.mb

/-- FTZ and PARK-NORM concern FP64, FP32, FP16 and BF16 only (R67). -/
def Fmt.wide (f : Fmt) : Bool := f.eb + f.mb ≥ 15

/-- Largest finite magnitude as a code without sign. -/
def Fmt.maxCode (f : Fmt) : Nat :=
  match f.nan with
  | 0 => (2 ^ f.eb - 1) * 2 ^ f.mb - 1
  | 1 => 2 ^ (f.eb + f.mb) - 2
  | _ => 2 ^ (f.eb + f.mb) - 1

/-- The canonical NaN (Table 02-3); formats without NaN give 0. -/
def Fmt.canon (f : Fmt) : Nat :=
  match f.nan with
  | 0 => (2 ^ f.eb - 1) * 2 ^ f.mb + 2 ^ (f.mb - 1)
  | 1 => 2 ^ (f.eb + f.mb) - 1
  | _ => 0

/-- The infinity of a sign. -/
def Fmt.infCode (f : Fmt) (neg : Bool) : Nat := (if neg then 2 ^ (f.eb + f.mb) else 0) + (2 ^ f.eb - 1) * 2 ^ f.mb

/-- A value: NaN (signalling or not), infinity, or (−1)^neg · m · 2^e exactly. -/
inductive FV where
  | nan (sig : Bool)
  | inf (neg : Bool)
  | fin (neg : Bool) (m : Nat) (e : Int)
  deriving DecidableEq, Repr

def FV.isNan : FV → Bool | .nan _ => true | _ => false
def FV.isSnan : FV → Bool | .nan s => s | _ => false
def FV.isInf : FV → Bool | .inf _ => true | _ => false
def FV.isZero : FV → Bool | .fin _ 0 _ => true | _ => false
def FV.isFin : FV → Bool | .fin .. => true | _ => false
def FV.neg : FV → Bool | .nan _ => false | .inf n => n | .fin n _ _ => n
def FV.zero (n : Bool) : FV := .fin n 0 0
def FV.one : FV := .fin false 1 0

/-- The value of an encoding (R53, R54). -/
def Fmt.value (f : Fmt) (b : Nat) : FV :=
  let neg := bitsOf b (f.eb + f.mb) 1 == 1
  let ex := bitsOf b f.mb f.eb
  let ma := bitsOf b 0 f.mb
  if f.nan = 0 ∧ ex = 2 ^ f.eb - 1 then
    if ma = 0 then .inf neg else .nan (f.mb ≠ 2 && bitsOf ma (f.mb - 1) 1 == 0)
  else if f.nan = 1 ∧ ex = 2 ^ f.eb - 1 ∧ ma = 2 ^ f.mb - 1 then .nan false
  else if ex = 0 then .fin neg ma (1 - (f.bias : Int) - f.mb)
  else .fin neg (2 ^ f.mb + ma) ((ex : Int) - f.bias - f.mb)

/-- The encoding is a subnormal of the format. -/
def Fmt.subnormal (f : Fmt) (b : Nat) : Bool := bitsOf b f.mb f.eb == 0 && bitsOf b 0 f.mb ≠ 0

/-- An operand under FTZ: a subnormal is read as zero of its sign (R67). -/
def Fmt.valueFtz (f : Fmt) (ftz : Bool) (b : Nat) : FV :=
  if ftz && f.wide && f.subnormal b then .zero (bitsOf b (f.eb + f.mb) 1 == 1) else f.value b

/-! Flags in the FFLAGS layout (Table 01-8) -/
def fNX : Nat := 1
def fUF : Nat := 2
def fOF : Nat := 4
def fDZ : Nat := 8
def fNV : Nat := 16

/-- An exact magnitude between m and m + 1 units of 2^e: `st` says that it lies strictly above m units. -/
structure Mag where
  m : Nat
  e : Int
  st : Bool := false
  deriving DecidableEq, Repr

/-- Exponent of the leading bit. -/
def Mag.lead (x : Mag) : Int := (Nat.log2 x.m : Int) + x.e

/-- Exponent of the last bit that the format keeps of x, subnormal precision included. -/
def Fmt.quantum (f : Fmt) (x : Mag) : Int := max (x.lead - f.mb) (1 - (f.bias : Int) - f.mb)

/-- x truncated to the format's precision with an unbounded exponent: kept bits, discarded bits and their number. -/
def Fmt.cut (f : Fmt) (x : Mag) : Nat × Nat × Nat :=
  let q := f.quantum x
  if x.e ≥ q then (x.m * 2 ^ (x.e - q).toNat, 0, 0)
  else let sh := (q - x.e).toNat; (x.m >>> sh, x.m % 2 ^ sh, sh)

/-- The magnitude code of kept units at x's precision. -/
def Fmt.codeOf (f : Fmt) (x : Mag) (kept : Nat) : Nat :=
  (f.quantum x - (1 - (f.bias : Int) - f.mb)).toNat * 2 ^ f.mb + kept

/-- d of R65 for a finite non-zero magnitude: the 16 bits below the last bit kept; 0 for a lane that overflows. -/
def Fmt.d16 (f : Fmt) (x : Mag) : Nat :=
  if x.m = 0 then 0 else
  let (kept, rem, sh) := f.cut x
  if f.codeOf x kept > f.maxCode then 0
  else if sh ≥ 16 then rem >>> (sh - 16) else rem * 2 ^ (16 - sh)

def rotl16 (v n : Nat) : Nat := (v * 2 ^ n + v / 2 ^ (16 - n)) % 65536

/-- r of R65 for position i of a group whose d values are `ds`. -/
def hash16 (ds : List Nat) (i : Nat) : Nat :=
  (((ds.getD ((i + 1) % 8) 0) ^^^ rotl16 (ds.getD ((i + 7) % 8) 0) 5) * 0x6F4B + 0x3A91 * i) % 65536

/-- What a rounding gives: the encoding and the flags. -/
structure Rounded where
  bits : Nat
  flags : Nat := 0
  tiny : Bool := false
  deriving DecidableEq, Repr

def signed (f : Fmt) (neg : Bool) (code : Nat) : Nat := (if neg then 2 ^ (f.eb + f.mb) else 0) + code

/-- Overflow of a magnitude (R64). -/
def Fmt.over (f : Fmt) (mode : Nat) (neg sat : Bool) : Nat :=
  if sat || !f.inf then signed f neg f.maxCode
  else match mode with
  | 1 => signed f neg f.maxCode
  | 2 => if neg then signed f neg f.maxCode else f.infCode neg
  | 3 => if neg then f.infCode neg else signed f neg f.maxCode
  | _ => f.infCode neg

/-- RoundFP of a magnitude with a sign (R64 to R66); in mode 4 `r` is the hash of the lane. `sat` is RoundSat (R58). -/
def Fmt.roundMag (f : Fmt) (mode : Nat) (neg : Bool) (x : Mag) (r : Nat) (sat : Bool := false) : Rounded :=
  if x.m = 0 then ⟨signed f neg 0, 0, false⟩ else
  let (kept, rem, sh) := f.cut x
  let inexact := rem ≠ 0 || x.st
  let half := 2 ^ sh
  let up : Bool := match mode with
    | 1 => false
    | 2 => inexact && !neg
    | 3 => inexact && neg
    | 4 => r < f.d16 x
    | _ => 2 * rem > half || (2 * rem == half && (x.st || kept % 2 == 1))
  let code := f.codeOf x (kept + if up then 1 else 0)
  let tiny : Bool := x.lead < 1 - (f.bias : Int)
  if code > f.maxCode then ⟨f.over mode neg sat, fOF + fNX, tiny⟩
  else ⟨signed f neg code, if inexact then (if tiny then fUF + fNX else fNX) else 0, tiny⟩

/-- RoundFP of an exact value. An infinity of a format without one is NaN with NV for E4M3 (R64); NaN is canonical (R54). -/
def Fmt.round (f : Fmt) (mode : Nat) (v : FV) (r : Nat := 0) (sat : Bool := false) : Rounded :=
  match v with
  | .nan s => ⟨f.canon, if s then fNV else 0, false⟩
  | .inf n => if f.inf then ⟨f.infCode n, 0, false⟩ else ⟨f.canon, fNV, false⟩
  | .fin n m e => f.roundMag mode n ⟨m, e, false⟩ r sat

/-- A result under FTZ: tiny before rounding gives zero of its sign with UF and NX (R67). -/
def Fmt.flush (f : Fmt) (ftz neg : Bool) (r : Rounded) : Rounded :=
  if ftz && f.wide && r.tiny then ⟨signed f neg 0, fUF + fNX, true⟩ else r

/-! Exact arithmetic -/

/-- The signed number of units of 2^e0 in a finite value whose exponent is at least e0. -/
def FV.units (v : FV) (e0 : Int) : Int :=
  match v with
  | .fin n m e => let u : Int := m * 2 ^ (e - e0).toNat; if n then -u else u
  | _ => 0

def FV.exp : FV → Int | .fin _ _ e => e | _ => 0

/-- A finite value of i units of 2^e; a zero takes the sign given. -/
def ofUnits (i e : Int) (zneg : Bool) : FV := if i = 0 then .fin zneg 0 0 else .fin (i < 0) i.natAbs e

/-- Exact sum of two values; the sign of an exact zero follows IEEE 754 (R69, R108): kept when both are zeros of one sign, else
minus only when rounding down. Opposite infinities are invalid. -/
def FV.add (a b : FV) (rdn : Bool) : FV × Nat :=
  match a, b with
  | .nan s, .nan t => (.nan false, if s || t then fNV else 0)
  | .nan s, _ => (.nan false, if s then fNV else 0)
  | _, .nan t => (.nan false, if t then fNV else 0)
  | .inf n, .inf m => if n = m then (.inf n, 0) else (.nan false, fNV)
  | .inf n, _ => (.inf n, 0)
  | _, .inf m => (.inf m, 0)
  | .fin n ma ea, .fin m mb eb =>
    let e := min ea eb
    (ofUnits ((FV.fin n ma ea).units e + (FV.fin m mb eb).units e) e (if ma = 0 ∧ mb = 0 then (n == m && n) || (n != m && rdn) else rdn), 0)

def FV.negate : FV → FV
  | .nan s => .nan s
  | .inf n => .inf (!n)
  | .fin n m e => .fin (!n) m e

def FV.abs : FV → FV
  | .nan s => .nan s
  | .inf _ => .inf false
  | .fin _ m e => .fin false m e

/-- Exact product; 0 × ∞ is invalid. -/
def FV.mul (a b : FV) : FV × Nat :=
  match a, b with
  | .nan s, .nan t => (.nan false, if s || t then fNV else 0)
  | .nan s, _ => (.nan false, if s then fNV else 0)
  | _, .nan t => (.nan false, if t then fNV else 0)
  | .inf n, .inf m => (.inf (n != m), 0)
  | .inf n, .fin m mb _ => if mb = 0 then (.nan false, fNV) else (.inf (n != m), 0)
  | .fin n ma _, .inf m => if ma = 0 then (.nan false, fNV) else (.inf (n != m), 0)
  | .fin n ma ea, .fin m mb eb => (.fin (n != m) (ma * mb) (ea + eb), 0)

/-- Numeric comparison of two values that are not NaN; −0 equals +0. -/
def FV.cmp (a b : FV) : Ordering :=
  match a, b with
  | .inf n, .inf m => if n = m then .eq else if n then .lt else .gt
  | .inf n, _ => if n then .lt else .gt
  | _, .inf m => if m then .gt else .lt
  | .fin .., .fin .. =>
    let e := min a.exp b.exp
    compare (a.units e) (b.units e)
  | _, _ => .eq

/-- Numeric "less than"; NaN compares false. -/
def FV.lt (a b : FV) : Bool := !a.isNan && !b.isNan && a.cmp b == .lt

/-- Integer square root of n by bits: `b` bits still to try. -/
def isqrtGo (n : Nat) : Nat → Nat → Nat
  | 0, r => r
  | b + 1, r => isqrtGo n b (if (r + 2 ^ b) * (r + 2 ^ b) ≤ n then r + 2 ^ b else r)

def isqrt (n : Nat) : Nat := isqrtGo n (Nat.log2 n / 2 + 1) 0

/-- Quotient of two non-zero magnitudes to far more bits than any format keeps. -/
def magDiv (ma : Nat) (ea : Int) (mb : Nat) (eb : Int) : Mag :=
  ⟨(ma * 2 ^ 140) / mb, ea - eb - 140, (ma * 2 ^ 140) % mb ≠ 0⟩

/-- Square root of a non-zero magnitude to far more bits than any format keeps. -/
def magSqrt (m : Nat) (e : Int) : Mag :=
  let e' := if e % 2 = 0 then e else e - 1
  let m' := (if e % 2 = 0 then m else 2 * m) * 2 ^ 140
  let r := isqrt m'
  ⟨r, e' / 2 - 70, r * r ≠ m'⟩

/-! Arithmetic in a format -/

/-- RM as arithmetic reads it: 4 rounds RNE (R64). -/
def armMode (rm : Nat) : Nat := if rm = 4 then 0 else rm

/-- Result of an operation in a format: encoding, flags, and whether it meets a subnormal operand or a tiny result, for which
the normaliser serves it when FTZ = 0 (R67). -/
structure FRes where
  bits : Nat
  flags : Nat := 0
  sub : Bool := false
  deriving DecidableEq, Repr

/-- An exact value rounded as a result. -/
def Fmt.result (f : Fmt) (mode : Nat) (ftz : Bool) (v : FV) (fl : Nat) (r : Nat := 0) : FRes :=
  let x := f.flush ftz v.neg (f.round mode v r)
  ⟨x.bits, x.flags ||| fl, f.wide && x.tiny⟩

def Fmt.fadd (f : Fmt) (rm : Nat) (ftz : Bool) (a b : Nat) : FRes :=
  let (v, fl) := (f.valueFtz ftz a).add (f.valueFtz ftz b) (rm == 3)
  let r := f.result (armMode rm) ftz v fl
  { r with sub := r.sub || f.subnormal a || f.subnormal b }

def Fmt.fneg (f : Fmt) (b : Nat) : Nat :=
  if (f.value b).isNan then f.canon else b % 2 ^ (f.eb + f.mb) + (if bitsOf b (f.eb + f.mb) 1 = 1 then 0 else 2 ^ (f.eb + f.mb))

def Fmt.fabs (f : Fmt) (b : Nat) : Nat := if (f.value b).isNan then f.canon else b % 2 ^ (f.eb + f.mb)

/-- Subtraction: the sign of b inverted; a signalling NaN is still seen. -/
def Fmt.fsub (f : Fmt) (rm : Nat) (ftz : Bool) (a b : Nat) : FRes :=
  let (v, fl) := (f.valueFtz ftz a).add (f.valueFtz ftz b).negate (rm == 3)
  let r := f.result (armMode rm) ftz v fl
  { r with sub := r.sub || f.subnormal a || f.subnormal b }

def Fmt.fmul (f : Fmt) (rm : Nat) (ftz : Bool) (a b : Nat) : FRes :=
  let (v, fl) := (f.valueFtz ftz a).mul (f.valueFtz ftz b)
  let r := f.result (armMode rm) ftz v fl
  { r with sub := r.sub || f.subnormal a || f.subnormal b }

/-- a × b + c with one rounding; 0 × ∞ sets NV even beside a quiet NaN (Table 04-5). -/
def Fmt.fma (f : Fmt) (rm : Nat) (ftz : Bool) (a b c : Nat) : FRes :=
  let (p, f1) := (f.valueFtz ftz a).mul (f.valueFtz ftz b)
  let (v, f2) := p.add (f.valueFtz ftz c) (rm == 3)
  let r := f.result (armMode rm) ftz v (f1 ||| f2)
  { r with sub := r.sub || f.subnormal a || f.subnormal b || f.subnormal c }

def Fmt.fdiv (f : Fmt) (rm : Nat) (ftz : Bool) (a b : Nat) : FRes :=
  let sub := f.subnormal a || f.subnormal b
  match f.valueFtz ftz a, f.valueFtz ftz b with
  | .nan s, .nan t => ⟨f.canon, if s || t then fNV else 0, sub⟩
  | .nan s, _ => ⟨f.canon, if s then fNV else 0, sub⟩
  | _, .nan t => ⟨f.canon, if t then fNV else 0, sub⟩
  | .inf _, .inf _ => ⟨f.canon, fNV, sub⟩
  | .inf n, .fin m _ _ => ⟨f.infCode (n != m), 0, sub⟩
  | .fin n _ _, .inf m => ⟨signed f (n != m) 0, 0, sub⟩
  | .fin n ma ea, .fin m mb eb =>
    if mb = 0 then (if ma = 0 then ⟨f.canon, fNV, sub⟩ else ⟨f.infCode (n != m), fDZ, sub⟩)
    else if ma = 0 then ⟨signed f (n != m) 0, 0, sub⟩
    else
      let x := f.flush ftz (n != m) (f.roundMag (armMode rm) (n != m) (magDiv ma ea mb eb) 0)
      ⟨x.bits, x.flags, sub || (f.wide && x.tiny)⟩

def Fmt.fsqrt (f : Fmt) (rm : Nat) (ftz : Bool) (a : Nat) : FRes :=
  let sub := f.subnormal a
  match f.valueFtz ftz a with
  | .nan s => ⟨f.canon, if s then fNV else 0, sub⟩
  | .inf n => if n then ⟨f.canon, fNV, sub⟩ else ⟨f.infCode false, 0, sub⟩
  | .fin n m e =>
    if m = 0 then ⟨signed f n 0, 0, sub⟩
    else if n then ⟨f.canon, fNV, sub⟩
    else let x := f.roundMag (armMode rm) false (magSqrt m e) 0; ⟨x.bits, x.flags, sub⟩

/-- FMIN and FMAX (R109): −0 below +0, one NaN gives the other operand, two give the canonical NaN, a signalling one sets NV.
An operand that FTZ reads as zero is returned as that zero. -/
def Fmt.fminmax (f : Fmt) (mx : Bool) (ftz : Bool) (a b : Nat) : FRes :=
  let va := f.valueFtz ftz a
  let vb := f.valueFtz ftz b
  let ea := if va.isZero then signed f va.neg 0 else a % 2 ^ f.bits
  let eb := if vb.isZero then signed f vb.neg 0 else b % 2 ^ f.bits
  let fl := if va.isSnan || vb.isSnan then fNV else 0
  let sub := f.subnormal a || f.subnormal b
  if va.isNan && vb.isNan then ⟨f.canon, fl, sub⟩
  else if va.isNan then ⟨eb, fl, sub⟩
  else if vb.isNan then ⟨ea, fl, sub⟩
  else
    let less := va.cmp vb == .lt || (va.isZero && vb.isZero && va.neg && !vb.neg)
    ⟨if less != mx then ea else eb, fl, sub⟩

/-- FEQ, FLT and FLE (R109): op 0, 1, 2. -/
def Fmt.fcmp (f : Fmt) (op : Nat) (ftz : Bool) (a b : Nat) : FRes :=
  let va := f.valueFtz ftz a
  let vb := f.valueFtz ftz b
  let sub := f.subnormal a || f.subnormal b
  if va.isNan || vb.isNan then ⟨0, if op ≠ 0 || va.isSnan || vb.isSnan then fNV else 0, sub⟩
  else
    let c := va.cmp vb
    let r : Bool := match op with | 0 => c == .eq | 1 => c == .lt | _ => c != .gt
    ⟨if r then 1 else 0, 0, sub⟩

/-- FCLASS (Table 04-6). -/
def Fmt.fclass (f : Fmt) (b : Nat) : Nat :=
  match f.value b with
  | .nan s => if s then 256 else 512
  | .inf n => if n then 1 else 128
  | .fin n m _ =>
    if m = 0 then (if n then 8 else 16)
    else if f.subnormal b then (if n then 4 else 32)
    else if n then 2 else 64

/-- A finite value rounded to an integer in a mode (R68). -/
def roundInt (mode : Nat) (n : Bool) (m : Nat) (e : Int) : Int × Bool :=
  if e ≥ 0 then ((if n then -1 else 1) * ((m * 2 ^ e.toNat : Nat) : Int), false)
  else
    let sh := (-e).toNat
    let kept := m >>> sh
    let rem := m % 2 ^ sh
    let up : Bool := match armMode mode with
      | 1 => false
      | 2 => rem ≠ 0 && !n
      | 3 => rem ≠ 0 && n
      | _ => 2 * rem > 2 ^ sh || (2 * rem == 2 ^ sh && kept % 2 == 1)
    ((if n then -1 else 1) * (((kept + if up then 1 else 0) : Nat) : Int), rem ≠ 0)

/-- Conversion to an integer between lo and hi with saturation (R68). -/
def FV.toInt (v : FV) (mode : Nat) (lo hi : Int) : Int × Nat :=
  match v with
  | .nan _ => (0, fNV)
  | .inf n => (if n then lo else hi, fNV)
  | .fin n m e =>
    let (i, x) := roundInt mode n m e
    if i > hi then (hi, fNV) else if i < lo then (lo, fNV) else (i, if x then fNX else 0)

/-- An integer as an exact value. -/
def FV.ofInt (i : Int) : FV := .fin (i < 0) i.natAbs 0

/-- The stochastic digit of a value for a destination format. -/
def Fmt.d (f : Fmt) (v : FV) : Nat := match v with | .fin _ m e => f.d16 ⟨m, e, false⟩ | _ => 0

/-- The hash of a scalar conversion: position 0 of a group whose other digits are 0 (R65). -/
def scalarHash (d : Nat) : Nat := hash16 [d] 0

/-! Block formats (R55 to R58) -/

/-- The value of an element under an E8M0 scale (R55). -/
def blockValue (f : Fmt) (scale code : Nat) : FV :=
  if scale = 0xFF then .nan false
  else if scale = 0 then .zero (bitsOf code (f.eb + f.mb) 1 == 1)
  else match f.value code with
    | .fin n m e => .fin n m (e + scale - 127)
    | v => v

/-- EMAX of an element format (R58). -/
def Fmt.emax (f : Fmt) : Int := if f = e4m3 then 8 else if f = e5m2 then 15 else if f = e3m2 then 4 else 2

/-- A quantised block: scale, codes, and the flags of each element's rounding. -/
structure QBlock where
  scale : Nat
  codes : List Nat
  flags : List Nat := []
  deriving DecidableEq, Repr

/-- QuantiseBlock of R58. -/
def quantise (f : Fmt) (mode : Nat) (tau : FV) (x : List FV) : QBlock :=
  let x := x.map fun v => if v.isFin && v.abs.lt tau then FV.zero false else v
  if x.any fun v => !v.isFin then ⟨0xFF, List.replicate 8 0, []⟩ else
  let amax := x.foldl (fun a v => if a.lt v.abs then v.abs else a) (FV.zero false)
  match amax with
  | .fin _ m e =>
    if m = 0 then ⟨0, List.replicate 8 0, []⟩ else
    let sc := (Nat.log2 m : Int) + e - f.emax + 127
    let scale := (if sc < 1 then 1 else if sc > 254 then 254 else sc.toNat)
    let ys := x.map fun v => match v with | .fin n m e => FV.fin n m (e + 127 - scale) | w => w
    let ds := ys.map f.d
    let rs := ys.zipIdx.map fun (y, i) => f.round mode y (hash16 ds i) true
    ⟨scale, rs.map (·.bits), rs.map (·.flags)⟩
  | _ => ⟨0xFF, List.replicate 8 0, []⟩

/-! Sums of a k-block (R69) -/

/-- ExactSum of products: NaN from 0 × ∞ or opposite infinities; an exact zero is −0 only when every term is −0. The flag NV
marks a NaN that arises from operands that are not NaN (R197). -/
def exactSum (ts : List (FV × FV)) : FV × Nat :=
  let ps := ts.map fun (a, b) => a.mul b
  let nv := orAll (ps.map (·.2))
  let vs := ps.map (·.1)
  if vs.any (·.isNan) then (.nan false, nv)
  else if vs.any (·.isInf) then
    let neg := vs.any fun v => v.isInf && v.neg
    let pos := vs.any fun v => v.isInf && !v.neg
    if neg && pos then (.nan false, fNV) else (.inf neg, 0)
  else
    let e := vs.foldl (fun a v => min a v.exp) (vs.headD (.zero false)).exp
    (ofUnits (vs.foldl (fun a v => a + v.units e) 0) e (vs.all fun v => v.isZero && v.neg), 0)

end Sys2Proof.Machine
end

