-- ==== Sys2Proof/Config.lean ====
section
/-! DEFINITION. What the spec leaves to the implementation or does not state: opaque constants, of which nothing can be
proved, so that a statement holds whatever they are. Each one is named in a row of the assumption log. -/

namespace Sys2Proof.Config

/-- The free value with number n, for a value that the spec leaves open; the step reads and advances State.tick, so that
each use is a fresh one (log 5). -/
opaque freeWord : Nat → W

/-- The fused SHA-256 hash of the root key (R354 step 2.2), as a number of 256 bits (log 6). -/
opaque rootKeyHash : Nat

/-- FUSEPOL: SVNMIN in bits 15:0, erase-on-alarm bits for causes 372 to 376 in 20:16, debug enable in 24 (R360) (log 6). -/
opaque fusePolicy : W

/-- The device serial number held in fuses (R358) (log 6). -/
opaque serial : W

/-- The SHA-256 digest of the boot ROM, with which M0 is extended (R354 step 3) (log 6). -/
opaque bootRomDigest : Nat

/-- The RSASSA-PSS signature of the device identity key over the 384 bytes of a report (R358): the key is secret and the salt
is random, so the bytes are a free function of the message and of a counter (log 6). -/
opaque identitySign : List Byte → Nat → List Byte

/-- The device identity certificate (R359), of at most 4,096 bytes (log 6). -/
opaque certificate : List Byte

/-- Byte i of what the safety-net writer puts where the spec gives a section of the net but not its layout (R331) (log 63). -/
opaque freeByte : Nat → Byte

end Sys2Proof.Config
end

