-- ==== Sys2Proof/Machine/Tbl.lean ====
section
/-! DEFINITION. Sparse tables in one canonical form: keys strictly rising, no entry equal to the default value. -/

namespace Sys2Proof

/-- The value at key k; d where nothing is listed. -/
def Tbl.get {α : Type} (d : α) : Tbl α → Nat → α
  | [], _ => d
  | (i, v) :: r, k => if k = i then v else if k < i then d else Tbl.get d r k

/-- The entry at key k, if one is listed. -/
def Tbl.find {α : Type} : Tbl α → Nat → Option α
  | [], _ => none
  | (i, v) :: r, k => if k = i then some v else if k < i then none else Tbl.find r k

/-- Lists v at key k, in key order. -/
def Tbl.put {α : Type} : Tbl α → Nat → α → Tbl α
  | [], k, v => [(k, v)]
  | (i, w) :: r, k, v =>
    if k = i then (k, v) :: r else if k < i then (k, v) :: (i, w) :: r else (i, w) :: Tbl.put r k v

/-- Removes the entry at key k. -/
def Tbl.del {α : Type} : Tbl α → Nat → Tbl α
  | [], _ => []
  | (i, w) :: r, k => if k = i then r else if k < i then (i, w) :: r else (i, w) :: Tbl.del r k

/-- Makes the value at key k be v: the default value is not listed. -/
def Tbl.set {α : Type} [DecidableEq α] (d : α) (t : Tbl α) (k : Nat) (v : α) : Tbl α :=
  if v = d then Tbl.del t k else Tbl.put t k v

/-- Every listed key is at or above n, keys rise strictly, and no entry is the default. -/
def Tbl.wfFrom {α : Type} [DecidableEq α] (d : α) (n : Nat) : Tbl α → Bool
  | [] => true
  | (i, v) :: r => n ≤ i && v ≠ d && Tbl.wfFrom d (i + 1) r

/-- The canonical form. -/
def Tbl.wf {α : Type} [DecidableEq α] (d : α) (t : Tbl α) : Bool := Tbl.wfFrom d 0 t

end Sys2Proof
end

