-- ==== Sys2Proof/Machine/State.lean ====
section
/-! DEFINITION. The state of the machine as plain data, the reasons a step can stop, and the state right after reset.
Numbers name units: physical cluster p (0 to 127), core c = 8p + core, slot k = 16c + slot, physical die d, context key
x = GEN · 2^16 + ASID. A place is the number of a byte: a physical byte below 2^90 (HBM from 0, the second tier from 2^45,
host memory from 2^53, scratchpad p from 2^60 + p · 2^21, TCM c from 2^61 + c · 2^18, die SRAM d
from 2^62 + d · 2^25), or byte va of the GLB view of context x at 2^90 + x · 2^52 + va (R246). -/

namespace Sys2Proof.Machine

/-- The slot states of Table 01-1. -/
inductive SlotSt where
  | free | run | parkMem | parkPage | parkFe | parkQ | parkMon | parkMsg | parkEng | parkBar | parkNorm | faulted | frozen
  deriving DecidableEq, Repr

/-- The FEM instructions (Table 05-3). -/
inductive FeOp where
  | ldf | ldff | ste | stf | feset | feclr | festat
  deriving DecidableEq, Repr

/-- The AMO operations (R126). -/
inductive AmoOp where
  | add | and | or | xor | min | max | minu | maxu | swap | cas | fadd | fmin | fmax
  deriving DecidableEq, Repr

/-- One indivisible step at the home of a place (R122, R127, R152, R230, R242). -/
inductive HomeOp where
  | load (len : Nat)
  | store (data : List Byte)
  | fe (op : FeOp) (b : W)
  /-- op on w bits with data b, expected value e0, rounding mode rm, and whether the value returned is sign-extended -/
  | amo (op : AmoOp) (w : Nat) (b e0 : W) (rm : Nat) (sx : Bool)
  /-- ClaimChunk with the latched G · P and TOTAL -/
  | claim (gp total : Nat)
  /-- ROUTE: ranked expert ids, first rank, token, table pointer -/
  | route (ids : List Nat) (start tok : Nat) (tab : W)
  | bbinit (b : W)
  | bbexpect (b : W)
  | bbwait (ph : Bool)
  deriving DecidableEq, Repr

/-- A queue item: 64 data bits and the token bit (R155). -/
structure Item where
  w : W
  tok : Bool := false
  deriving DecidableEq, Repr

/-- An item that an instruction has popped: its queue's handle, its place among the items taken from the queue, the item, and the queue
end for which BTOK held it before, if one did. -/
structure Took where
  h : W
  seq : Nat
  it : Item
  was : Option Nat := none
  deriving DecidableEq, Repr

/-- A task record on its way (R142): words 0 to 3, level, source virtual thread id, the slot that waits for SPAWNL's reply,
and the context. -/
structure TaskRec where
  w0 : W := 0#64
  w1 : W := 0#64
  w2 : W := 0#64
  w3 : W := 0#64
  pri : Nat := 0
  src : Nat := 0
  reply : Option Nat := none
  ctx : Nat := 0
  /-- released by a counter: it is always pushed (R278) -/
  rel : Bool := false
  /-- granted to a steal request (R277) -/
  stolen : Bool := false
  deriving DecidableEq, Repr

/-- The steps at a counter bank (R146). -/
inductive BankOp where
  | dinit (c : Nat)
  | darm (r : TaskRec) (t : W)
  | dbind (r : TaskRec) (t : W)
  | ddec
  | dstat
  deriving DecidableEq, Repr

/-- The requests at a group unit (R148, R149, R143). -/
inductive GroupOp where
  | gnew | gjoin | gleave | gbar | gfree
  /-- a spawned record for the group, with e0[15:0] -/
  | spawn (r : TaskRec) (e0 : Nat)
  deriving DecidableEq, Repr

/-- The requests of QUEUE instructions at a queue home (R141): the queue end and the direction bits for a binding. -/
inductive QCtlOp where
  | bind (ix dir : Nat)
  | unbind (ix : Nat)
  | drain | close | opn | stat | free
  deriving DecidableEq, Repr

/-- A message for a mailbox (R236, R237): addressed to slot `dest`, or to any slot; `eng` marks an engine completion. -/
structure Mail where
  dest : Option Nat
  data : W
  /-- its place among the messages that the mailbox accepted -/
  seq : Nat := 0
  deriving DecidableEq, Repr

/-- A launch of an XFER engine (R220): kind 0 COPY, 1 GATHER, 2 SCATTER, 3 ISECT, 4 RSORT; e0 to e7 as read at issue. -/
structure EngReq where
  kind : Nat
  e : List W
  k : Nat
  ticket : Nat
  ctx : Nat
  vtid : Nat
  deriving DecidableEq, Repr

/-- A MAT operation (R188): kind is fn7; e0 to e7 as read at issue (for MINV the record pointer stands in e6); `rm` is the output
rounding mode, `handle` the index of a B-store handle. A tile of a group walk carries its record's address, its expert's key and
the walk's operation, and the walk's slot as `k`. -/
structure MatReq where
  kind : Nat
  e : List W
  k : Nat
  ctx : Nat
  vtid : Nat
  rm : Nat
  handle : Option Nat := none
  tile : Option W := none
  expert : Option W := none
  walk : Nat := 0
  /-- on its way to the engine when the rows of its handle were lost: it stops with cause 134 and this TVAL when it arrives (R325) -/
  bad : Option W := none
  deriving DecidableEq, Repr

/-- A record parked in a die's turnstile (R308): its key, its address and the pointers' core as its walk's slot, the physical cluster of
the walking engine, the walk's flags as in e5 and its rounding mode, and the walk. `tile`: a tile that FREEZE took back; `late`: it came when its context's
failed overflow list held records before it. -/
structure Parked where
  key : W
  rcd : W
  ctx : Nat
  k : Nat
  cl : Nat
  fl : W
  rm : Nat
  walk : Nat
  tile : Bool := false
  late : Bool := false
  deriving DecidableEq, Repr

/-- What comes back to a slot: a value, or a fault found at the remote end (R141). -/
inductive Answer where
  | val (v : V512)
  | fault (c : Nat) (t : W)
  deriving DecidableEq, Repr

/-- What a message carries. -/
inductive Body where
  /-- a remote local-space access for lane `part` of slot k; `ret`: the slot waits for the value; `vc`: the target vcluster,
  whose acknowledgement the slot is owed when `ret` is false; `ptr`: the pointer used -/
  | access (k part place : Nat) (op : HomeOp) (ret : Bool) (vc : Nat) (ptr : W)
  | reply (k part : Nat) (r : Answer)
  | ack (k vc : Nat)
  | bank (k : Nat) (name : Nat) (op : BankOp)
  | group (k x : Nat) (name : Nat) (op : GroupOp)
  | qpush (k : Nat) (h : W) (it : Item)
  /-- a pop, or a BTOK inspection, through end `e` -/
  | qpop (k e : Nat) (h : W) (btok : Bool)
  | qctl (k : Nat) (h : W) (op : QCtlOp)
  /-- a reservation for operand position `ix` through end `e` -/
  | qrsv (k ix e : Nat) (h : W) (push : Bool)
  | qfin (k ix : Nat) (h : W) (commit : Bool) (it : Option Item)
  /-- an access of slot k to register n of slot t, or a command on that slot: a write of w, or a read; v: FINJVAL (R141) -/
  | slotReg (k t n : Nat) (w : Option W) (v : W)
  /-- NUDGE of slot t by slot k (R167) -/
  | nudge (k t : Nat)
  /-- an item that a faulting instruction had popped returns, with its place among the items taken (R13) -/
  | qback (k : Nat) (t : Took)
  | task (r : TaskRec)
  | start (ks : List Nat)
  | steal (thief : Nat)
  /-- a refused steal request (R276) -/
  | stealNo (victim : Nat)
  | engine (r : EngReq)
  | mat (r : MatReq)
  | mail (k : Nat) (m : Mail) (x : Nat)
  /-- a credit of n bytes of operation `op` of engine `eng` for the byte barrier at a place (R229) -/
  | credit (eng op place n : Nat) (vtid : Nat)
  | faultMsg (key at_ src : Nat) (wr fea : Bool) (rep : Nat)
  | wake (key at_ act : Nat)
  | expert (k : Nat) (key : W) (x : Nat) (op : Nat) (w : Nat)
  | tsPark (d : Nat) (q : Parked)
  | tsRelease (d : Nat) (key : W) (fail : Bool)
  deriving DecidableEq, Repr

/-- A message in flight from interface src to port dst (R258); refused by its target when `back` holds the cycle of its sender's
counter from which it may be sent again (R222). -/
structure Msg where
  src : Nat
  dst : Nat
  body : Body
  ctx : Nat := 0
  back : Option Nat := none
  deriving DecidableEq, Repr

/-- What a parked slot waits for. -/
inductive Wait where
  | none
  /-- the wake has come; the sequencer reissues the instruction (R270) -/
  | reissue
  /-- the commit grant, then reissue (R117, R256) -/
  | commit
  /-- the commit grant, then delivery of a fault: cause, TVAL and record source (R315) -/
  | commitFault (c : Nat) (t : W) (src : Nat)
  /-- the solo grant (R254) -/
  | solo
  /-- acknowledgements and no-return AMOs that a release waits for (R140) -/
  | acks (scope : Nat)
  /-- room in the interface's request queue (R221) -/
  | niq
  /-- FENCE at a scope (R136) -/
  | fence (scope : Nat)
  /-- replies of remote units, as many as `latch.left` -/
  | reply
  /-- places whose lines are to be brought into the L1D, and whether the access writes (R116) -/
  | fill (at_ : List Nat) (wr : Bool)
  /-- the wake of a translation miss (R293) -/
  | page
  /-- the grant of a reservation at a slice (R127) -/
  | resv
  | fe
  | queue
  /-- the next state change of any of these queues, or a message for an instruction that also names mb (R91) -/
  | multi (qs : List Nat) (mb : Bool)
  | monitor (start : Nat)
  /-- since cycle `start`, in order of parking; `read` distinguishes a read of mb from WAITMSG (R272) -/
  | message (start order : Nat) (read : Bool)
  | engine
  /-- a live ticket (R221) -/
  | ticket (t : Nat)
  /-- a stream of the cluster's indirect engine to end (R160) -/
  | stream
  | bbar
  | group
  | parade
  | norm (start : Option Nat)
  /-- CFLUSH, TINV, FREEZE or THAW in progress -/
  | system
  deriving DecidableEq, Repr

/-- A queue end at which an instruction under R91 reserves: its number, the operand position (9 for the push), the direction, and the
handle bound when the round began. -/
structure REnd where
  q : Nat
  ix : Nat
  push : Bool
  h : W
  deriving DecidableEq, Repr

/-- An address monitor: the 64-byte block it watches, and whether it is triggered (R137). -/
structure Monitor where
  block : Nat
  hit : Bool := false
  deriving DecidableEq, Repr

/-- What an instruction has done before the push of its result, to be taken back if the push is refused (R13, R313): the bytes that it wrote
over, the queue record that it took, with the generation it had, the group that it allocated, the monitors that it disarmed (`on`) and
armed (`off`). -/
inductive Undo where
  | bytes (a : Nat) (b : List Byte)
  | record (q gen : Nat)
  | group (x name : Nat)
  | mons (on : Tbl Monitor) (off : List Nat)
  deriving DecidableEq, Repr

/-- What an instruction that parks has already obtained: operand values read in its issue turn (none for the one that a queue
or mailbox delivers), the values once complete, replies by lane with the number outstanding, the result that completes
it in place, and whether its effect is done and only the write of its result through a queue end remains. -/
structure Latch where
  partials : List (Option W) := []
  vals : Option (List W) := none
  parts : Tbl V512 := []
  left : Nat := 0
  refused : Bool := false
  /-- 0 fresh, 1 items popped, 2 only the push of the result remains, 3 as 1 with a place reserved for the push, or all of its ends
  reserved, 5 the pops of a commit round are being confirmed (R91), 6 as 2 with the push of `out` to be made again -/
  stage : Nat := 0
  res : Option V512 := none
  goto : Option W := none
  ends : List REnd := []
  /-- queues that have answered a reservation request, whether the mailbox held too few messages when the round began, and whether one
  of those queues has changed since, or a message has come (R91, R281) -/
  turned : List Nat := []
  nomail : Bool := false
  moved : Bool := false
  /-- the result to be pushed; for one that nothing but registers gave, the FP flags and the further turns that come with it, once the
  push takes effect (R13) -/
  out : Option Item := none
  fin : Option (Nat × Nat) := none
  /-- a push at the own core that its queue refuses, with the cause and TVAL; what it did before the push (R13) -/
  refusal : Option (Nat × Option W) := none
  undo : List Undo := []
  /-- the end at which a single-end instruction or a BTOK waits, with its handle -/
  at_ : Option (Nat × W) := none
  /-- items and messages popped, which return if the instruction faults (R13, R313) -/
  took : List Took := []
  mails : List Mail := []
  deriving DecidableEq, Repr

/-- The iteration fetcher's latches (R151); present exactly when they are valid. -/
structure Iter where
  p : Nat
  g : Nat
  total : Nat
  e0 : Nat
  e1 : Nat
  e2 : Nat
  e3 : Nat
  deriving DecidableEq, Repr

/-- What a squash restores (R31). -/
structure Snap where
  pc : W := 0#64
  x : Tbl W := []
  v : Tbl V512 := []
  m : Tbl W := []
  e : Tbl W := []
  fflags : W := 0#64
  nestc : W := 0#64
  deriving DecidableEq, Repr

/-- A cached translation (R292): page base and size of the virtual page, context key (none for a G leaf), place of the page,
kind, permissions, watch index, and whether D is set. -/
structure Trans where
  ctx : Option Nat
  va : Nat
  size : Nat
  code : Nat
  place : Nat
  kind : Nat
  r : Bool
  w : Bool
  u : Bool
  fe : Bool
  watch : Option Nat
  dirty : Bool
  deriving DecidableEq, Repr

/-- The open chunk of a slot (R250, R251): instructions so far, state at its first instruction, lines marked as read,
speculative bytes by place. -/
structure Chunk where
  count : Nat := 0
  snap : Snap := {}
  reads : Tbl Bool := []
  stores : Tbl Byte := []
  /-- the translations under which the lines of its GLB stores were held -/
  trs : Tbl Trans := []
  deriving DecidableEq, Repr

/-- A thread slot (R16, R21, R28 to R34). -/
structure Slot where
  st : SlotSt := .free

  pc : W := 0#64
  x : Tbl W := []
  v : Tbl V512 := []
  m : Tbl W := []
  e : Tbl W := []
  tvec : W := 0#64
  tstat : W := 0#64
  tcause : W := 0#64
  txpc : W := 0#64
  tval : W := 0#64
  fflags : W := 0#64
  frm : W := 0#64
  ftrap : W := 0#64
  monto : W := 0#64
  chunklim : W := 512#64
  nestp : W := 0#64
  nestc : W := 0#64
  tscr : W := 0#64
  streak : Nat := 0
  solo : Bool := false
  iter : Option Iter := none
  mons : Tbl Monitor := []
  fbuf : Tbl Byte := []
  chunk : Chunk := {}
  hold : Nat := 0
  wait : Wait := .none
  wakeAt : Nat := 0
  pend : Option Instr := none
  latch : Latch := {}
  acks : List Nat := []
  reds : Nat := 0
  /-- a fault to be taken (R322, R325): cause, TVAL and record source -/
  inj : Option (Nat × W × Nat) := none
  /-- a lost register that gives cause 132 at the slot's next home turn: its TVAL (R325) -/
  err : Option W := none
  commitReq : Bool := false
  resume : Bool := false
  /-- NUDGE had the instruction reissued while another unit performs what it waits for: the reissue parks it again (R167) -/
  nudged : Bool := false
  deriving DecidableEq, Repr

/-- A bound queue end: handle, direction bits (1 pop, 2 push), and whether a stream holds it (R156, R161). -/
structure QEnd where
  h : W
  dir : Nat
  stream : Bool := false
  deriving DecidableEq, Repr

/-- A write of a shared register that has not landed yet (R25). -/
structure GWrite where
  k : Nat
  r : Nat
  v : W
  deriving DecidableEq, Repr

/-- A core (R23 to R27, R35, R274 to R276). `beat` counts the cycles it has begun, by which the cores of a cluster keep step. Deque records stand top first; `spill` counts the records of each level that stand
in the spill area, with the ring position of the top one. -/
structure Core where
  g : Tbl W := []
  gpend : List GWrite := []
  beat : Nat := 0
  q : Tbl QEnd := []
  mail : List Mail := []
  mailSeq : Nat := 0
  cyc : Nat := 0
  sqcnt : Nat := 0
  cmcnt : Nat := 0
  normcnt : Nat := 0
  stolenFrom : Nat := 0
  stole : Nat := 0
  deqspill : W := 0#64
  deque : List TaskRec := []
  spill : Tbl (Nat × Nat) := []
  spillBad : Bool := false
  arrived : List TaskRec := []
  reserved : List Nat := []
  stealing : Bool := false
  sweep : Nat := 0
  tried : Nat := 0
  /-- the condition for stealing has ended while a request is outstanding (R276) -/
  ended : Bool := false
  rest : Option Nat := none
  ticket : Nat := 1
  live : List Nat := []
  normQ : List Nat := []
  pinned : List Nat := []
  deriving DecidableEq, Repr

/-- An item taken from a ring whose position is kept: by BTOK for queue end `e` of the slot's core, or by a reservation under R91 for an
operand position, of an item that BTOK held before for an end or not. -/
structure QHold where
  k : Nat
  e : Nat := 0
  ix : Nat := 0
  seq : Nat
  it : Item
  was : Option Nat := none
  deriving DecidableEq, Repr

/-- A queue record at its home (R153 to R159, R281, R282). The ring area and the spill area hold the items. -/
structure Queue where
  alloc : Bool := false
  gen : Nat := 0
  home : Nat := 0
  scope : Nat := 0
  ring : Nat := 0
  depth : Nat := 0
  spill : Nat := 0
  sparea : W := 0#64
  head : Nat := 0
  n : Nat := 0
  shead : Nat := 0
  sn : Nat := 0
  closed : Bool := false
  /-- pushes that wait at the interface for the sequencer to spill them -/
  inbox : List (Nat × Item) := []
  /-- items held by BTOK, and items reserved under R91 -/
  held : List QHold := []
  rsv : List QHold := []
  /-- items given back, in the order in which they were taken; they stand before the ring's. `seq` counts the items taken. -/
  back : List (Nat × Item) := []
  seq : Nat := 0
  /-- places reserved under R91, by slot: in the ring, or (true) in the spill area -/
  places : List (Nat × Bool) := []
  /-- the consumer list: a pop, or an inspection of BTOK through an end -/
  cons : List (Nat × Option Nat) := []
  prod : List (Nat × Item) := []
  stuckAt : Option Nat := none
  /-- pops so far; the blocked-cycle watch compares it (R329) -/
  pops : Nat := 0
  /-- windows and forwarders that act as bound ends (R342, R348) -/
  hostEnds : Nat := 0
  deriving DecidableEq, Repr

/-- A dependency counter (R145): state code 0 FREE, 1 COUNTING, 2 ARMED, 3 FIRED-UNBOUND. -/
structure Counter where
  st : Nat := 0
  count : Nat := 0
  task : TaskRec := {}
  t : W := 0#64
  deriving DecidableEq, Repr

/-- A QREF stream (R160, R161): ends of core c, base pointer, and the record's fields. -/
structure Stream where
  c : Nat
  qs : Nat
  qd : Nat
  x : Nat
  base : W
  sm : Bool
  bound : Nat
  sentinel : W
  fill : W
  vtid : Nat
  hs : W
  hd : W
  /-- the index popped, the item to be pushed with whether it is the last, and whether the last push is on its way -/
  idx : Option Nat := none
  out : Option (Item × Bool) := none
  fin : Bool := false
  /-- QUNBIND took one of its ends: it stops after its current item (R156, R161) -/
  stop : Bool := false
  deriving DecidableEq, Repr

/-- One block still to be written by an engine: place of its first byte, bytes, and whether it is credited. -/
structure Block where
  place : Nat
  data : List Byte
  credit : Bool
  deriving DecidableEq, Repr

/-- Bytes on their way to another package, or asked of one: the place of their first byte, how many, and what came (R228). -/
structure Remote where
  place : Nat
  n : Nat
  data : Option (List Byte) := none
  deriving DecidableEq, Repr

/-- An accepted operation of a copy or indirect engine (R222 to R225). COPY, GATHER and SCATTER stand at {plane, row, byte}, a list
entry being a row; of RSORT `plane` is the pass. -/
structure EngOp where
  id : Nat
  req : EngReq
  plane : Nat := 0
  row : Nat := 0
  byte : Nat := 0
  /-- the words of its lists read so far: indices, LA then LB, or the keys that RSORT's pass starts from -/
  got : List Nat := []
  /-- the lists are read and checked: the blocks that ISECT, or RSORT's pass, has still to write -/
  plan : Option (List Block) := none
  /-- bytes written of the plan that are credited, bytes whose credit was sent, and credits on their way -/
  wrote : Nat := 0
  credited : Nat := 0
  credits : Nat := 0
  /-- every block is written, or the operation has stopped with cause `err` -/
  done : Bool := false
  err : Nat := 0
  /-- the completion message is on its way -/
  sent : Bool := false
  /-- what is on its way to or from another package, in order; of a block from there it holds all parts until the last has come -/
  remote : List Remote := []
  deriving DecidableEq, Repr

/-- A handle entry of a B-store (R201): the tile as its columns, each a list of k-blocks {scale code, element codes}. -/
structure Handle where
  gen : Nat := 1
  live : Bool := false
  taken : Bool := false
  freed : Bool := false
  kk : Nat := 0
  nn : Nat := 0
  fmt : Nat := 0
  row : Nat := 0
  rows : Nat := 0
  watch : Option (Nat × Nat) := none
  cols : List (List (Nat × List Nat)) := []
  deriving DecidableEq, Repr

/-- An operation in the queue of a matrix engine (R204): base priority, priority gained by waiting, state 0 queued, 1 running,
2 overtaken, whether it was overtaken, k-blocks taken. -/
structure MatOp where
  id : Nat
  req : MatReq
  base : Nat
  aged : Nat := 0
  st : Nat := 0
  ovt : Bool := false
  kb : Nat := 0
  /-- its accumulator bank by row, once it has started on its first k-block (R187, R196), with the list of MMAX -/
  accs : Option (List (List Nat)) := none
  list : List Nat := []
  /-- k-blocks skipped for the whole tile so far -/
  skips : Nat := 0
  /-- of a mirror operation: its place in the order of reservations, whether it holds its record, the record's words as it took them,
  the weight generation -/
  seq : Nat := 0
  granted : Bool := false
  rcd : List W := []
  mirrorGen : Nat := 0
  /-- the watched region whose stores wait for this operation (R217), as context · 64 + index -/
  region : Option Nat := none
  /-- of a mirror operation: an address that could not be translated, with its cause; the stop waits until the record can be written -/
  rej : Option (Nat × Nat) := none
  /-- flags and SKIP so far: of the k-blocks taken, or of the tiles of an MGROUP -/
  flags : Nat := 0
  skip : Nat := 0
  /-- of MGROUP: next record, tiles not yet complete, records parked, first fault by record -/
  next : Nat := 0
  open_ : Nat := 0
  parked : Nat := 0
  bad : Option (W × Nat × W) := none
  /-- other tiles that stopped: record address and cause -/
  others : List (W × Nat) := []
  walkDone : Bool := false
  stalled : Bool := false
  deriving DecidableEq, Repr

/-- The kept bank (R196): holder, M, N and the FP32 values by row. -/
structure Bank where
  k : Nat
  mm : Nat
  nn : Nat
  vals : List (BitVec 32)
  /-- an uncorrectable error was found in it (R325) -/
  bad : Bool := false
  deriving DecidableEq, Repr

/-- Who waits for a translation: a slot, a no-return AMO, an engine operation, a matrix engine, a stream, or an agent. -/
inductive Who where
  | slot (k : Nat)
  | red (n : Nat)
  | eng (e op : Nat)
  | mat (cl op : Nat)
  | stream (cl j : Nat)
  | agent (core : Nat)
  | mirror (cl op : Nat)
  deriving DecidableEq, Repr

/-- A GLB access that arrived at slice sl and found no translation (R291, R293): still to be walked, waiting for ATS with the
host leaf that its walk found, or listed in a miss record. -/
structure Walk where
  who : Who
  sl : Nat
  x : Nat
  va : Nat
  wr : Bool
  fea : Bool
  /-- 0 to be walked, 1 at the host's ATS, 2 in a miss record -/
  st : Nat := 0
  leaf : Option Trans := none
  deriving DecidableEq, Repr

/-- A miss record of a slice (R293, R296, R297): key, repeat count, whether the host is asked for it in place of firmware, and whether that
page request has been sent. -/
structure Miss where
  sl : Nat
  x : Nat
  vpn : Nat
  rep : Nat := 0
  open_ : Bool := true
  page : Bool := false
  wr : Bool := false
  fea : Bool := false
  asked : Bool := false
  deriving DecidableEq, Repr

/-- A cluster: queue homes, counter bank, matrix, copy and indirect engines, trace rings, slice (R145, R153, R187, R222,
R259, R292, R301). -/
structure Cluster where
  queues : Tbl Queue := []
  bank : Tbl Counter := []
  matq : List MatOp := []
  matPort : List MatReq := []
  handles : Tbl Handle := []
  /-- poisoned words of the B-store, by byte offset / 8; block row r lies at offset 4,096 · r (R187, R323) -/
  bpoison : Tbl Bool := []
  /-- the k-block of B that stands in the staging rows, by column: scale code and element codes (R187, R198) -/
  staged : List (Nat × List Nat) := []
  kept : Option Bank := none
  keepRsv : Option Nat := none
  mirrors : List Nat := []
  mstat : Tbl Nat := []
  copyOps : List EngOp := []
  indOps : List EngOp := []
  streams : Tbl Stream := []
  rings : Tbl (List (W × W)) := []
  tlb : List Trans := []
  dlog : List (Nat × Nat × Nat) := []
  models : Tbl (List W) := []
  merge : List (Nat × Nat × List Nat) := []
  deriving DecidableEq, Repr

/-- A fault record (R319). -/
structure FRec where
  w0 : W
  w1 : W
  w2 : W
  w3 : W
  deriving DecidableEq, Repr

/-- An entry of a die's fault table (R294), with its age. -/
structure FEntry where
  seq : Nat
  key : Nat
  wr : Bool
  fea : Bool
  rep : Nat
  popped : Bool := false
  deriving DecidableEq, Repr

/-- A physical die: ringmaster registers, fault table, record queue, residency requests, turnstile, edge copy engines, commit
arbiter. -/
structure Die where
  tgt : W := 0#64
  ctxsel : W := 0#64
  exloc : W := 0#64
  finjval : W := 0#64
  trsel : W := 0#64
  eccthr : W := 0#64
  fltva : W := 0#64
  faults : Tbl FEntry := []
  frq : List FRec := []
  frlost : Nat := 0
  frw : List W := []
  lostSince : Nat := 0
  exreq : List W := []
  turnstile : List Parked := []
  /-- pages that the release in progress cannot reach: page number and cause (R239) -/
  tsSkip : List (Nat × Nat) := []
  edge : Tbl (List EngOp) := []
  arb : List Nat := []
  harvest : Tbl Nat := []
  corrected : Tbl Nat := []
  msel : W := 0#64
  mext : Tbl W := []
  attNonce : Tbl W := []
  attBuf : W := 0#64
  attBusy : Bool := false
  attStatus : Nat := 0
  wdtLog : Nat := 36
  wdtAt : Nat := 0
  deriving DecidableEq, Repr

/-- A group (R148, R149): members and pending members are slots, arrived are the members counted in this generation, parked
those whose GBAR waits, leavers those that leave at the boundary, early the pending members parked in GBAR. -/
structure Group where
  gen : Nat := 0
  members : List Nat := []
  pending : List Nat := []
  arrived : List Nat := []
  parked : List Nat := []
  leavers : List Nat := []
  early : List Nat := []
  deriving DecidableEq, Repr

/-- A parade of a context (R265, R266): scope, instance, interfaces still to be visited and all in order, sum, colour, waiters of
this circuit and later joiners; the blocked-cycle watch has its own, with the edges it has collected. -/
structure Parade where
  scope : Nat
  inst : Nat
  route : List Nat
  todo : List Nat
  sum : Int := 0
  black : Bool := false
  waiters : List Nat := []
  joined : List Nat := []
  /-- 0 QUIESCE, 1 blocked-cycle watch, 2 FREEZE's drain -/
  kind : Nat := 0
  edges : List (Nat × Nat) := []
  stuck : List Nat := []
  lastEdges : List (Nat × Nat) := []
  /-- the pops of every queue of the context when this circuit and the one before it began -/
  base : List (Nat × Nat) := []
  lastBase : List (Nat × Nat) := []
  deriving DecidableEq, Repr

/-- A waiter of an FE word (R123). -/
structure FeWaiter where
  k : Nat
  place : Nat
  op : FeOp
  b : W
  /-- the cycle of the home in which it was entered -/
  beat : Nat := 0
  deriving DecidableEq, Repr

/-- The image of a context that FREEZE saves and THAW restores (R330, R331), slots, cores, clusters and dies under virtual numbers: slots,
core states, engines and records, words of TCM and windows that are empty or poisoned, waiter lists, operations of edge engines, grouped
tiles and parked records in park order, and messages kept for resend. While the context is frozen it stands in the safety net, and here is
only what the net's sections do not hold (log 63). -/
structure Image where
  slots : Tbl Slot := []
  cores : Tbl Core := []
  clusters : Tbl Cluster := []
  empties : List Nat := []
  poisons : List Nat := []
  feWait : List FeWaiter := []
  bbWait : List (Nat × Nat) := []
  edges : List (Nat × EngOp) := []
  parked : List (Nat × Parked) := []
  msgs : List Msg := []
  deriving DecidableEq, Repr

/-- A context's overflow list on a die (R308), a ring in memory: the number of its oldest entry and how many it holds, those released out
of turn, and whether it is treated as full (R327). -/
structure Ovf where
  head : Nat := 0
  len : Nat := 0
  gone : List Nat := []
  bad : Bool := false
  deriving DecidableEq, Repr

/-- A context's registers and units (R36, R148, R264, R311, R334, R350). -/
structure Ctx where
  pmap : Tbl W := []
  dsrwin : Tbl W := []
  ptroot : W := 0#64
  /-- the pair's bit in the ASID table was set by its activation and not yet cleared (R299) -/
  active : Bool := false
  watchtab : W := 0#64
  tsovf : Tbl W := []
  tsctl : Tbl W := []
  droplog : W := 0#64
  dropcnt : W := 0#64
  snbase : W := 0#64
  /-- 2 freezing, 3 frozen, 4 thawing, else 0; the slot whose FREEZE or THAW is in progress; FREEZEs so far -/
  frz : Nat := 0
  frzSlot : Option Nat := none
  frzCount : Nat := 0
  groups : Tbl Group := []
  counts : Tbl Int := []
  blacks : Tbl Bool := []
  parades : List Parade := []
  xgsel : W := 0#64
  xgrant : Tbl W := []
  xqsel : W := 0#64
  xqmap : Tbl W := []
  xqrem : Tbl W := []
  /-- forwarders whose push the remote package has not taken yet (R348) -/
  xqbusy : Tbl Bool := []
  overflow : Tbl Ovf := []
  image : Image := {}
  deriving DecidableEq, Repr

/-- A committed line of a GLB view held in the caches (R245, R246): data, FE bits, poison bits by word, whether it is dirty, and
the translation under which it was filled. -/
structure CLine where
  data : V512
  fe : BitVec 8
  poison : BitVec 8
  dirty : Bool
  tr : Trans
  deriving DecidableEq, Repr

/-- A reservation at a slice (R127): of a slot, or of a no-return AMO of a slot. -/
structure Resv where
  k : Nat
  red : Bool
  place : Nat
  op : HomeOp
  ctx : Nat
  ptr : W
  held : Bool := false
  id : Nat := 0
  deriving DecidableEq, Repr

/-- The security controller (R353 to R360): state code of BSTATE (1 WAIT, 2 verifying, 3 running, 4 FAILED, 5 HALTED). -/
structure Sec where
  st : Nat := 1
  step_ : Nat := 0
  cause : Nat := 0
  reloads : Nat := 0
  imglen : W := 0#64
  alarm : Nat := 0
  /-- ALARM[9]: an alarm erased the keys; `erased`: they are erased, which outlasts a power cycle (R360) -/
  alarmErased : Bool := false
  erased : Bool := false
  acmd : W := 0#64
  abusy : Bool := false
  astat : W := 0#64
  aaddr : W := 0#64
  alen : W := 0#64
  anonce : Tbl W := []
  stage : Tbl Byte := []
  m : Tbl Nat := []
  mlock : Bool := false
  svn : Nat := 0
  fwblob : W := 0#64
  /-- requests for the controller: requester tag, function (0 for a malformed one), nonce and address -/
  queue : List (Nat × Nat × List W × W) := []
  /-- causes recorded that no register shows (R360) -/
  noted : List Nat := []
  deriving DecidableEq, Repr

/-- A host access to a window that waits: VF, window, 0 PUSH, 1 PUSHT, 2 ACK, 3 CTL, 4 a read of POP, 5 another read, the value or the
offset, and the context that the window named when it came (R343, R344). -/
structure HostReq where
  vf : Nat
  win : Nat
  kind : Nat
  w : W
  ctx : Nat
  deriving DecidableEq, Repr

/-- The package's links (R342 to R350) and tables. -/
structure Links where
  asidtab : W := 0#64
  extab : W := 0#64
  hqsel : W := 0#64
  hqmap : Tbl W := []
  /-- the context of a window's mapping (R342) -/
  hqctx : Tbl Nat := []
  vfctx : Tbl W := []
  popst : Tbl W := []
  irqen : Tbl Bool := []
  ovf : Tbl Bool := []
  /-- host accesses to windows that wait for THAW (R344), and POPs that wait for a spilled item -/
  hostq : List HostReq := []
  noPri : Tbl Bool := []
  /-- page requests that the host lets each function have outstanding (R297) -/
  priAlloc : Tbl Nat := []
  /-- the host has enabled ATS for the PF (R359), and the pages that it translates for it -/
  pfAts : Bool := false
  pfMap : Tbl Nat := []
  xroute : W := 0#64
  xrport : Tbl W := []
  xpup : BitVec 16 := 0#16
  xpcmd : Option (Nat × Nat) := none
  pkgid : W := 0#64
  stcfg : W := 0#64
  stsafe : W := 0#64
  ckst : Nat := 0
  ckerr : Bool := false
  ckbytes : Nat := 0
  ckres : Bool := false
  /-- what the last host read returned, MSI-X vectors and AER messages sent, and messages sent to other packages, each
  with its package and port -/
  readData : W := 0#64
  msix : List (Nat × Nat) := []
  aer : Nat := 0
  xout : List (Nat × Nat × XMsg) := []
  /-- addresses that an access from another package could not reach: context, page number, cause (R348) -/
  xrej : List (Nat × Nat × Nat) := []
  deriving DecidableEq, Repr

/-- One entry of the agenda: a cycle of core c, an event row of the opcode table, or something from outside for which the table has no
row: an access of the host to n bytes at an offset of a VF's BAR0, a write of some value or a read (R342), a store of bytes in the host's
memory (R341), the allocation of page requests that it gives a function (R297), a read of a second-tier or host line that returns poison
or an error (R323, R340), the host's setting of ATS for the PF with its translation of a page (R359), firmware's write of a pinned slot's
state before launch, or its launch of a context's pinned slots (R22, R280). -/
inductive Turn where
  | cycle (c : Nat)
  | event (i : Instr)
  | hostBar (vf off n : Nat) (w : Option W)
  | hostStore (a : Nat) (b : List Byte)
  | hostAlloc (vf n : Nat)
  | readError (a : Nat)
  | hostAts (on : Bool) (page : Nat) (dest : Option Nat)
  | pin (k : Nat) (w0 w1 w2 w3 : W)
  | launch (x : Nat)
  deriving DecidableEq, Repr

/-- The machine. -/
structure State where
  cur : Nat := 0
  agenda : List Turn := []
  tick : Nat := 0
  slots : Tbl Slot := []
  cores : Tbl Core := []
  clusters : Tbl Cluster := []
  dies : Tbl Die := []
  ctxs : Tbl Ctx := []
  mem : List Host.Cell := []
  empty : Tbl Bool := []
  poison : Tbl Bool := []
  lines : Tbl CLine := []
  l1d : List (Nat × Nat) := []
  net : List Msg := []
  resv : List Resv := []
  walks : List Walk := []
  misses : List Miss := []
  feWait : List FeWaiter := []
  bbWait : List (Nat × Nat) := []
  /-- slots that wait for a page-in (R238), with the key and 1 for EREQ, 2 for EPIN -/
  exWait : List (Nat × W × Nat) := []
  /-- exact TURN and REFS of an expert's entry, by the place of the entry (R306) -/
  exCnt : Tbl (Nat × Nat) := []
  frFlight : List (Nat × FRec) := []
  soloQ : List Nat := []
  soloHolder : Option Nat := none
  /-- requests at the package's commit arbiter (R252) -/
  pkgArb : List Nat := []
  replay : List Nat := []
  serial : Nat := 0
  /-- the last request applied at each port: the cycle, and the virtual thread id of its source -/
  stamps : Tbl (Nat × Nat) := []
  /-- the core whose turn ends when the completions of this step are done -/
  ending : Option Nat := none
  sec : Sec := {}
  links : Links := {}
  deriving DecidableEq, Repr

/-- The reasons for which a step stops with a fault. -/
inductive Fault where
  /-- Raised by a step whose agenda names a core that the device does not have (R1: 1,024 cores). Safe: no such turn exists. -/
  | noSuchCore
  deriving DecidableEq, Repr

/-- The reasons for which a step is refused. -/
inductive Refusal where
  /-- An arm of exec that has no meaning yet. Safe. -/
  | notModelled (mnemonic : String)
  deriving DecidableEq, Repr

/-- What a meaning answers. -/
abbrev Out := Host.Outcome State Fault Refusal

/-- The machine right after reset: the security controller in WAIT, nothing running, every register at its stated value
(R27, R33, R36, R48, R154, R311, R334, R350, R353, R360), the others 0 (log 1); only a ringmaster's slots are in mode F (log 2). -/
def State.reset : State := {}

end Sys2Proof.Machine
end

