-- ==== Sys2Proof/Machine/Ops.lean ====
section
/-! DEFINITION. The named operations over registers and memory that every meaning is written with: units and their owners,
pointer checks, memory with FE bits and poison, chunks, commit and squash, waits and messages, and the taking of a
fault. -/

namespace Sys2Proof.Machine

/-! Units -/

/-- Core 7 of the first cluster of each die is the ringmaster (R3). -/
def isRing (c : Nat) : Bool := c % 256 == 7

/-- The core of a slot. -/
def coreOf (k : Nat) : Nat := k / 16

/-- The physical cluster of a slot. -/
def cluOf (k : Nat) : Nat := k / 128

/-- The physical die of a slot. -/
def dieOf (k : Nat) : Nat := k / 4096

/-- Coordinates of a cluster in its die, and its position in the package's mesh (R2). -/
def cluX (p : Nat) : Nat := p % 8
def cluY (p : Nat) : Nat := p / 8 % 4
def meshX (p : Nat) : Nat := cluX p + 8 * (p / 32 % 2)
def meshY (p : Nat) : Nat := cluY p + 4 * (p / 32 / 2)

/-- The cluster at whose router a die's edge copy engines and their interface attach (R222). -/
def edgeRouter (d : Nat) : Nat := if d % 2 = 0 then 32 * d + 8 else 32 * d + 15

/-- Mode F runs on the ringmasters, mode U everywhere else (R6; log 2). -/
def modeF (k : Nat) : Bool := isRing (coreOf k)

def State.slot (s : State) (k : Nat) : Slot := Tbl.get {} s.slots k
def State.core (s : State) (c : Nat) : Core := Tbl.get {} s.cores c
def State.clu (s : State) (p : Nat) : Cluster := Tbl.get {} s.clusters p
def State.die (s : State) (d : Nat) : Die := Tbl.get {} s.dies d
def State.ctx (s : State) (x : Nat) : Ctx := Tbl.get {} s.ctxs x

def State.modSlot (s : State) (k : Nat) (f : Slot → Slot) : State := { s with slots := s.slots.put k (f (s.slot k)) }
def State.modCore (s : State) (c : Nat) (f : Core → Core) : State := { s with cores := s.cores.put c (f (s.core c)) }
def State.modClu (s : State) (p : Nat) (f : Cluster → Cluster) : State := { s with clusters := s.clusters.put p (f (s.clu p)) }
def State.modDie (s : State) (d : Nat) (f : Die → Die) : State := { s with dies := s.dies.put d (f (s.die d)) }
def State.modCtx (s : State) (x : Nat) (f : Ctx → Ctx) : State := { s with ctxs := s.ctxs.put x (f (s.ctx x)) }

/-- The issuing slot. -/
def State.me (s : State) : Slot := s.slot s.cur
/-- Changes the issuing slot. -/
def State.upd (s : State) (f : Slot → Slot) : State := s.modSlot s.cur f
/-- The core of the issuing slot. -/
def State.myCore (s : State) : Nat := coreOf s.cur

/-- A value that the spec leaves open: the next free value (log 5). -/
def State.free (s : State) : W × State := (Config.freeWord s.tick, { s with tick := s.tick + 1 })

/-! Placement (R15, R36, R49) -/

/-- The physical cluster of virtual cluster v of context x, if its PMAP entry is valid. -/
def State.place (s : State) (x v : Nat) : Option Nat :=
  let w := Tbl.get 0#64 (s.ctx x).pmap v
  if w.getLsbD 15 then some (fld w 0 7) else none

/-- The context and the virtual number of a physical cluster, if some map holds it (R15). -/
def State.owner (s : State) (p : Nat) : Option (Nat × Nat) :=
  s.ctxs.findSome? fun (x, cx) => cx.pmap.findSome? fun (v, w) => if w.getLsbD 15 && fld w 0 7 == p then some (x, v) else none

/-- The context that core c serves; the ringmasters run under pair {0, 0} (log 7). -/
def State.ctxOf (s : State) (c : Nat) : Nat :=
  if isRing c then 0 else ((s.owner (c / 8)).map (·.1)).getD 0

/-- The virtual cluster of core c: the one under which here, tid and its requests' thread ids are formed (R4, R23). A ringmaster is in
no placement map, and the spec gives it no number: DESIGN CHOICE 0 (log 7). -/
def State.vcl (s : State) (c : Nat) : Nat :=
  if isRing c then 0 else ((s.owner (c / 8)).map (·.2)).getD 0

/-- The virtual thread id of a slot (R4): {vcluster, core, slot}. -/
def State.tid (s : State) (k : Nat) : Nat := s.vcl (coreOf k) * 128 + k % 128

/-- The physical core that {vcluster, core} names in context x; none when it is not placed or is a ringmaster (R5). -/
def State.coreAt (s : State) (x vc : Nat) : Option Nat :=
  (s.place x (vc / 8)).bind fun p => if isRing (p * 8 + vc % 8) then none else some (p * 8 + vc % 8)

/-- The physical slot of a virtual thread id of context x; none on a ringmaster's core, which runs firmware only (R3, R5). -/
def State.slotOfTid (s : State) (x tid : Nat) : Option Nat := (s.coreAt x (tid / 16)).map fun c => c * 16 + tid % 16

/-- The home die of virtual die d of context x (R50). -/
def State.homeDie (s : State) (x d : Nat) : Option Nat :=
  ((List.range 32).findSome? fun i => s.place x (32 * d + i)).map (· / 32)

/-- SIZE of virtual die d's window in bytes; 0 without a home die (R50). -/
def State.winSize (s : State) (x d : Nat) : Nat :=
  if (s.homeDie x d).isNone then 0 else fld (Tbl.get 0#64 (s.ctx x).dsrwin d) 32 10 * 65536

/-! Places -/

def glb0 : Nat := 2 ^ 90
def spdBase (p : Nat) : Nat := 2 ^ 60 + p * 2 ^ 21
def tcmBase (c : Nat) : Nat := 2 ^ 61 + c * 2 ^ 18
def dsrBase (d : Nat) : Nat := 2 ^ 62 + d * 2 ^ 25
def tier2Base : Nat := 2 ^ 45
def hostBase : Nat := 2 ^ 53
/-- Byte va of the GLB view of context x (R246). -/
def glbAt (x va : Nat) : Nat := glb0 + x * 2 ^ 52 + va
/-- The context and address of a GLB place. -/
def glbCtx (a : Nat) : Nat := (a - glb0) / 2 ^ 52
def glbVa (a : Nat) : Nat := (a - glb0) % 2 ^ 52
/-- The place of offset 0 of virtual die d's window. -/
def State.windowAt (s : State) (x d : Nat) : Nat := dsrBase ((s.homeDie x d).getD 0) + fld (Tbl.get 0#64 (s.ctx x).dsrwin d) 16 9 * 65536

/-- The bytes from a GLB, DSR or scratchpad place to the end of the space in which slot k's pointer names it (R114). -/
def State.roomAt (s : State) (k a : Nat) : Nat :=
  if a ≥ glb0 then 2 ^ 52 - (a - glb0) % 2 ^ 52
  else if 2 ^ 62 ≤ a then
    let x := s.ctxOf (coreOf k)
    let d := s.vcl (coreOf k) / 32
    s.windowAt x d + s.winSize x d - a
  else 2 ^ 21 - a % 2 ^ 21
/-- GLB and DSR places have the global ordering class (Table 01-18). -/
def isGlobal (a : Nat) : Bool := 2 ^ 62 ≤ a
/-- The 64-byte line or block of a place. -/
def lineOf (a : Nat) : Nat := a / 64

/-- The slice that serves a GLB address (R247). -/
def sliceOf (va : Nat) : Nat :=
  (bitsOf va 6 7) ^^^ (bitsOf va 13 7) ^^^ (bitsOf va 20 7) ^^^ (bitsOf va 27 7) ^^^ (bitsOf va 34 7) ^^^ (bitsOf va 41 7)
    ^^^ (bitsOf va 48 4)

/-! Registers -/

def State.xget (s : State) (k r : Nat) : W :=
  if r = 0 then 0#64 else if r = 31 then nat (s.tid k) else Tbl.get 0#64 (s.slot k).x r

/-- A write of a private register; x0 and x31 discard it (R21, R91). -/
def State.xset (s : State) (k r : Nat) (v : W) : State :=
  if r = 0 ∨ r = 31 then s else s.modSlot k fun sl => { sl with x := sl.x.put r v }

/-- Bit i is set when slot i of the core is not FREE (R23). -/
def State.live (s : State) (c : Nat) : Nat :=
  (List.range 16).foldl (fun a i => if (s.slot (16 * c + i)).st = .free then a else a + 2 ^ i) 0

/-- A read of g0 to g15, cyc, here or live (R23). -/
def State.gget (s : State) (c r : Nat) : W :=
  if r < 16 then Tbl.get 0#64 (s.core c).g r
  else if r = 29 then nat (s.core c).cyc
  else if r = 30 then nat (s.vcl c * 8 + c % 8)
  else if r = 31 then nat (s.live c)
  else 0#64

/-- A write of a g register by slot k: cyc, here, live and mb discard it (R26); another waits for a port of its bank (R25). -/
def State.gset (s : State) (k r : Nat) (v : W) : State :=
  if r < 16 then s.modCore (coreOf k) fun co => { co with gpend := co.gpend ++ [⟨k, r, v⟩] } else s

/-- The shared bank after writes that land together: of two to one register that of the higher-numbered slot remains (R25). -/
def landG (g : Tbl W) (ws : List GWrite) : Tbl W := (sortOn (·.k) ws).foldl (fun g w => g.put w.r w.v) g

/-- The writes that land with a cycle of a core, and those that go on waiting: at most two, first that of the slot whose home turn
comes next (R25; log 76). -/
def Core.landing (c : Core) (owner : Nat) : List GWrite × List GWrite :=
  let q := c.gpend.filter (·.k == owner) ++ c.gpend.filter (·.k != owner)
  (q.take 2, q.drop 2)

/-- The writes of a finished cycle of core c land (R25). -/
def State.landWrites (s : State) (c : Nat) : State :=
  s.modCore c fun co => let (now, later) := co.landing (16 * c + co.cyc % 16); { co with g := landG co.g now, gpend := later }

/-- Every write of a core lands. -/
def Core.landAll (c : Core) : Core := { c with g := c.gpend.foldl (fun g w => g.put w.r w.v) c.g, gpend := [] }

def State.vget (s : State) (k r : Nat) : V512 := Tbl.get 0#512 (s.slot k).v r
def State.vset (s : State) (k r : Nat) (v : V512) : State := s.modSlot k fun sl => { sl with v := sl.v.put r v }
def State.mget (s : State) (k r : Nat) : W := Tbl.get 0#64 (s.slot k).m r
def State.mset (s : State) (k r : Nat) (v : W) : State := s.modSlot k fun sl => { sl with m := sl.m.put r v }
def State.eget (s : State) (k r : Nat) : W := Tbl.get 0#64 (s.slot k).e r
def State.eset (s : State) (k r : Nat) (v : W) : State := s.modSlot k fun sl => { sl with e := sl.e.put r v }
/-- A governing mask: m0 reads as all ones (R29). -/
def State.mask (s : State) (k r : Nat) : W := if r = 0 then BitVec.allOnes 64 else s.mget k r

/-! Fat pointers (R38 to R43) -/

def spc (p : W) : Nat := fld p 52 3
def fmtOf (p : W) : Nat := fld p 58 6
def blgOf (p : W) : Nat := fld p 55 3
def offOf (p : W) : Nat := fld p 0 52

/-- Width of the low field of a space (chapter 4). -/
def offWidth (sp : Nat) : Nat := match sp with | 0 => 52 | 1 => 21 | 2 => 21 | 3 => 18 | 4 => 18 | 5 => 18 | _ => 25
/-- Width of all OFFSET fields of a space (Table 01-18). -/
def fieldsWidth (sp : Nat) : Nat := match sp with | 0 => 52 | 1 => 21 | 2 => 28 | 3 => 18 | 4 => 28 | 5 => 28 | _ => 25

/-- PtrAdd of R99: none on a carry or borrow out of the low field. -/
def ptrAdd (p : W) (n : Int) : Option W :=
  let w := offWidth (spc p)
  let low := (fld p 0 w : Int) + n
  if low < 0 ∨ low ≥ (2 ^ w : Nat) then none else some (setFld p 0 w low.toNat)

/-- Where a pointer leads: the place of offset 0 of its low field, the offset, the bytes the low field and (for DSR) the window
allow, whether the space is reached remotely, and the virtual cluster then named. -/
structure Tgt where
  base : Nat
  off : Nat
  width : Nat
  limit : Nat
  remote : Bool
  vc : Nat
  deriving DecidableEq, Repr

/-- The place that a target names. -/
def Tgt.at_ (t : Tgt) : Nat := t.base + t.off

/-- The checks of R40 in their order, for a pointer used by core c, and where the pointer leads (R41). -/
def State.resolve (s : State) (c : Nat) (p : W) : Except Nat Tgt :=
  let sp := spc p
  let x := s.ctxOf c
  let v := s.vcl c
  let w := offWidth sp
  let low := fld p 0 w
  let vd : Int := if sp = 5 then (v : Int) + sInt (fld p 21 7) 7 else (fld p 21 7 : Nat)
  if sp = 7 then .error 64
  else if offOf p / 2 ^ fieldsWidth sp ≠ 0 then .error 65
  else if sp = 5 ∧ (vd < 0 ∨ vd > 127) then .error 67
  else match sp with
  | 0 => .ok ⟨glbAt x 0, low, w, 2 ^ w, false, v⟩
  | 1 => .ok ⟨spdBase (c / 8), low, w, 2 ^ w, false, v⟩
  | 2 => match s.place x vd.toNat with
    | none => .error 66
    | some p' => .ok ⟨spdBase p', low, w, 2 ^ w, vd.toNat ≠ v, vd.toNat⟩
  | 3 => .ok ⟨tcmBase c, low, w, 2 ^ w, false, v⟩
  | 6 =>
    let size := s.winSize x (v / 32)
    if low ≥ size then .error 68
    else .ok ⟨dsrBase ((s.homeDie x (v / 32)).getD 0) + fld (Tbl.get 0#64 (s.ctx x).dsrwin (v / 32)) 16 9 * 65536, low, w, size, false, v⟩
  | _ => match s.coreAt x (vd.toNat * 8 + fld p 18 3) with
    | none => .error 66
    | some c' => .ok ⟨tcmBase c', low, w, 2 ^ w, c' ≠ c, vd.toNat⟩

/-- The extent check of R114 for n bytes at a target. -/
def Tgt.extent (t : Tgt) (n : Nat) : Except Nat Tgt :=
  if t.off + n > 2 ^ t.width then .error 80 else if t.off + n > t.limit then .error 68 else .ok t

/-- The checks of R114 for an access of n bytes aligned to `al`. -/
def State.access (s : State) (c : Nat) (p : W) (al n : Nat) : Except Nat Tgt :=
  match s.resolve c p with
  | .error e => .error e
  | .ok t => if t.off % al ≠ 0 then .error 79 else t.extent n

/-- The format checks of R42. -/
def fmtCheck (p : W) : Except Nat Unit :=
  let f := fmtOf p
  if f > 22 then .error 69
  else if 12 ≤ f ∧ f ≤ 17 then (if blgOf p = 3 ∨ blgOf p = 0 then .ok () else .error 70)
  else if blgOf p = 0 then .ok () else .error 70

/-! Memory -/

/-- What a byte that nothing has written reads as: TCM, scratchpad and die SRAM are zeroed (R48, R354); the rest is log 3. -/
def unlisted : Byte := 0#8

/-- A byte of committed memory at a place. -/
def State.byteAt (s : State) (a : Nat) : Byte :=
  if a < glb0 then Tbl.get unlisted s.mem a
  else match s.lines.find (lineOf a) with
    | some l => BitVec.ofNat 8 (l.data.toNat >>> (8 * (a % 64)))
    | none => unlisted

/-- n bytes of committed memory. -/
def State.bytes (s : State) (a n : Nat) : List Byte := (List.range n).map fun i => s.byteAt (a + i)

/-- A number of n bytes of committed memory. -/
def State.num (s : State) (a n : Nat) : Nat := leNat (s.bytes a n)

def lineSet (d : V512) (i : Nat) (b : Byte) : V512 :=
  BitVec.ofNat 512 (d.toNat % 2 ^ (8 * i) + (b.toNat + 256 * (d.toNat >>> (8 * i + 8))) * 2 ^ (8 * i))

/-- Puts one byte into committed memory. -/
def State.putByte (s : State) (a : Nat) (b : Byte) : State :=
  if a < glb0 then { s with mem := Tbl.set unlisted s.mem a b }
  else match s.lines.find (lineOf a) with
    | some l => { s with lines := s.lines.put (lineOf a) { l with data := lineSet l.data (a % 64) b, dirty := true } }
    | none => s

def State.putBytes (s : State) (a : Nat) : List Byte → State
  | [] => s
  | b :: r => (s.putByte a b).putBytes (a + 1) r

def setBit8 (v : BitVec 8) (i : Nat) (b : Bool) : BitVec 8 :=
  if b then v ||| BitVec.ofNat 8 (2 ^ i) else v &&& ~~~ BitVec.ofNat 8 (2 ^ i)

/-- Whether the memory of a place carries FE bits (R45, R47). -/
def State.hasFe (s : State) (a : Nat) : Bool :=
  if a < glb0 then a < 2 ^ 40 || 2 ^ 60 ≤ a
  else match s.lines.find (lineOf a) with | some l => l.tr.kind == 0 && l.tr.fe | none => false

/-- The FE bit of the word at a place: true is full (R45). -/
def State.fullAt (s : State) (a : Nat) : Bool :=
  if a < glb0 then !(Tbl.get false s.empty (a / 8))
  else match s.lines.find (lineOf a) with | some l => l.fe.getLsbD (a % 64 / 8) | none => true

def State.setFull (s : State) (a : Nat) (b : Bool) : State :=
  if a < glb0 then { s with empty := Tbl.set false s.empty (a / 8) (!b) }
  else match s.lines.find (lineOf a) with
    | some l => { s with lines := s.lines.put (lineOf a) { l with fe := setBit8 l.fe (a % 64 / 8) b, dirty := true } }
    | none => s

/-- Whether the word at a place is poisoned (R323). -/
def State.poisonAt (s : State) (a : Nat) : Bool :=
  if a < glb0 then Tbl.get false s.poison (a / 8)
  else match s.lines.find (lineOf a) with | some l => l.poison.getLsbD (a % 64 / 8) | none => false

def State.setPoison (s : State) (a : Nat) (b : Bool) : State :=
  if a < glb0 then { s with poison := Tbl.set false s.poison (a / 8) b }
  else match s.lines.find (lineOf a) with
    | some l => { s with lines := s.lines.put (lineOf a) { l with poison := setBit8 l.poison (a % 64 / 8) b, dirty := true } }
    | none => s

/-- The places of the first bytes of the words that n bytes at a touch. -/
def wordsOf (a n : Nat) : List Nat :=
  if n = 0 then [] else (List.range ((a + n - 1) / 8 - a / 8 + 1)).map fun i => (a / 8 + i) * 8

/-- The lines that n bytes at a touch. -/
def linesOf (a n : Nat) : List Nat :=
  if n = 0 then [] else (List.range ((a + n - 1) / 64 - a / 64 + 1)).map fun i => a / 64 + i

/-- Some word of n bytes at a is poisoned. -/
def State.anyPoison (s : State) (a n : Nat) : Bool := (wordsOf a n).any s.poisonAt

/-- Some poisoned word of n bytes at a is not covered whole by them. -/
def State.partialPoison (s : State) (a n : Nat) : Bool :=
  (wordsOf a n).any fun w => s.poisonAt w && !(a ≤ w && w + 8 ≤ a + n)

/-- A write of all 8 bytes of a word clears its poison (R119, R323). -/
def State.healPoison (s : State) (a n : Nat) : State :=
  (wordsOf a n).foldl (fun s w => if a ≤ w ∧ w + 8 ≤ a + n ∧ s.poisonAt w then s.setPoison w false else s) s

/-! Physical home of a GLB line (R245, R288) -/

/-- The place of a page's bytes: by kind and physical address; that of a host page is what ATS gave (R297). -/
def pageBase (kind pa : Nat) : Nat := match kind with | 0 => pa | 1 => tier2Base + pa | _ => hostBase + pa

/-- Reads a 64-byte line from its physical home under a translation. -/
def State.fetchLine (s : State) (a : Nat) (t : Trans) : CLine :=
  let pa := t.place + (glbVa a - t.va) / 64 * 64
  let ws := (List.range 8).map fun i => pa + 8 * i
  { data := BitVec.ofNat 512 (s.num pa 64)
    fe := ws.zipIdx.foldl (fun v (w, i) => setBit8 v i (s.fullAt w)) 0#8
    poison := ws.zipIdx.foldl (fun v (w, i) => setBit8 v i (s.poisonAt w)) 0#8
    dirty := false
    tr := t }

/-- Writes a line back to its physical home: the whole line, its FE bits and its poison (R248, R323). -/
def State.writeBack (s : State) (l : Nat) : State :=
  match s.lines.find l with
  | none => s
  | some c =>
    if c.dirty then
      let pa := c.tr.place + (glbVa (l * 64) - c.tr.va) / 64 * 64
      let s1 := s.putBytes pa (leBytes c.data.toNat 64)
      let s2 := (List.range 8).foldl (fun s i =>
        let s := if c.tr.kind = 0 ∧ c.tr.fe then s.setFull (pa + 8 * i) (c.fe.getLsbD i) else s
        s.setPoison (pa + 8 * i) (c.poison.getLsbD i)) s1
      { s2 with lines := s2.lines.put l { c with dirty := false } }
    else s

/-- Drops a line from every cache. -/
def State.dropLine (s : State) (l : Nat) : State :=
  { s with lines := s.lines.del l, l1d := s.l1d.filter (·.2 ≠ l) }

/-- Slot k's open chunk has read or written this line speculatively (R251). -/
def Slot.marks (sl : Slot) (l : Nat) : Bool :=
  (sl.chunk.reads.find l).isSome || sl.chunk.stores.any fun (a, _) => lineOf a == l

/-- Some chunk has read or written this line speculatively (R251). -/
def State.lineMarked (s : State) (l : Nat) : Bool := s.slots.any fun (_, sl) => sl.marks l

/-- Lines of a slice of the shared cache: 256 MiB over 128 slices (Table 00-1). -/
def sliceLines : Nat := 32768

/-- Room for line l in its slice: a full one writes back and drops a line that a free value picks, one that no chunk marks where there is
one (R251; log 16). -/
def State.sliceRoom (s : State) (l : Nat) : State :=
  let same := s.lines.filter fun (m, _) => sliceOf (glbVa (m * 64)) == sliceOf (glbVa (l * 64))
  if same.length < sliceLines then s else
  let plain := same.filter fun (m, _) => !s.lineMarked m
  let vs := if plain.isEmpty then same else plain
  let (w, s) := s.free
  match vs[w.toNat % vs.length]? with
  | some (m, _) => (s.writeBack m).dropLine m
  | none => s

/-- Line l is held in the caches, brought from its home under translation t if need be. -/
def State.held (s : State) (l : Nat) (t : Trans) : State :=
  if (s.lines.find l).isSome then s else
  let s := s.sliceRoom l
  { s with lines := s.lines.put l (s.fetchLine (l * 64) t) }

/-! The L1D (Table 00-1, R251) -/

/-- Lines of a core's L1D: 512 MiB over 1,024 cores. -/
def l1dLines : Nat := 8192

/-- Lines in core c's L1D. -/
def State.l1dCount (s : State) (c : Nat) : Nat := (s.l1d.filter (·.1 == c)).length

/-- The lines that core c's L1D may evict: no slot of the core marks them, and the access in progress does not use them (R251). -/
def State.l1dVictims (s : State) (c : Nat) (keep : List Nat) : List Nat :=
  ((s.l1d.filter fun (d, l) => d == c && !keep.contains l && !(List.range 16).any fun i => (s.slot (16 * c + i)).marks l)).map (·.2)

/-- Core c's L1D can take the lines of an access. -/
def State.l1dRoom (s : State) (c : Nat) (ls : List Nat) : Bool :=
  let new := ls.filter fun l => !s.l1d.contains (c, l)
  s.l1dCount c + new.length ≤ l1dLines || s.l1dCount c + new.length ≤ l1dLines + (s.l1dVictims c ls).length

/-- Core c's L1D takes line l of an access to these lines; a full one evicts a line that a free value picks (log 16). -/
def State.l1dTake (s : State) (c : Nat) (ls : List Nat) (l : Nat) : State :=
  if s.l1d.contains (c, l) then s
  else if s.l1dCount c < l1dLines then { s with l1d := s.l1d ++ [(c, l)] }
  else
    let vs := s.l1dVictims c ls
    let (w, s) := s.free
    match vs[w.toNat % vs.length]? with
    | some v => { s with l1d := s.l1d.filter (· ≠ (c, v)) ++ [(c, l)] }
    | none => s

/-- The translation that slice sl holds for address va of context x (R292). -/
def State.tlb (s : State) (x va : Nat) : Option Trans :=
  (s.clu (sliceOf va)).tlb.find? fun t => (t.ctx = none ∨ t.ctx = some x) && t.va ≤ va && va < t.va + t.size

/-- The translation under which a slice serves address va of context x: the one that it caches, or that of the line that it holds, for
which it translates nothing (R246). -/
def State.trans (s : State) (x va : Nat) : Option Trans :=
  (s.tlb x va).orElse fun _ => (s.lines.find (lineOf (glbAt x va))).map (·.tr)

/-! Fault records (R319) -/

/-- Word 0 of a fault record (Table 13-1). -/
def recWord0 (src : Nat) (nest prec : Bool) (cause vtid x : Nat) : W :=
  nat (2 ^ 63 + src * 2 ^ 60 + (if nest then 2 ^ 59 else 0) + (if prec then 2 ^ 58 else 0) + cause * 2 ^ 49 + vtid * 2 ^ 32 + x)

/-- Sends a fault record to the ringmaster of a die (R318, R320). -/
def State.record (s : State) (d : Nat) (r : FRec) : State := { s with frFlight := s.frFlight ++ [(d, r)] }

/-- A record of a unit: SRC, cause, TVAL, original cause, ticket, PLOC, virtual thread id and context. -/
def State.unitRecord (s : State) (d src cause : Nat) (tval : W) (orig ticket ploc vtid x : Nat) : State :=
  s.record d ⟨recWord0 src false false cause vtid x, tval, nat (orig * 2 ^ 32), nat (ticket * 2 ^ 48 + ploc)⟩

/-! Interfaces and tracked messages (R264) -/

/-- The interface of cluster p's engine group; its scratchpad port belongs to it (log 8). -/
def engIf (p : Nat) : Nat := 1024 + p
/-- The interface of die d's edge copy engines. -/
def edgeIf (d : Nat) : Nat := 1152 + d
/-- Ports that belong to no interface: slices, banks and group units. -/
def portSlice (p : Nat) : Nat := 2048 + p
def portBank (p : Nat) : Nat := 2304 + p
def portGroup (x d : Nat) : Nat := 4096 + x * 4 + d
/-- The entry of die d's fault queue. -/
def portRecords (d : Nat) : Nat := 2 ^ 40 + d

/-- The instance of scope sc (1 cluster, 2 die, 3 package) in which virtual cluster v lies. -/
def instOf (sc v : Nat) : Nat := match sc with | 1 => v | 2 => v / 32 | _ => 0

/-- The instance of scope sc in which the interface of a core or of a cluster's engines lies for context x; a ringmaster's lies in
none (R265). -/
def State.instanceOf (s : State) (x sc i : Nat) : Option Nat :=
  if isRing i ∧ i < 1024 ∨ i ≥ 1152 then none
  else match s.owner (if i < 1024 then i / 8 else i - 1024) with
    | some (y, v) => if y = x then some (instOf sc v) else none
    | none => none

/-- The parade of an instance of scope sc of context x visits interface i (R265): of the edge interfaces, those of the physical dies on
which its clusters stand. -/
def State.visits (s : State) (x sc inst i : Nat) : Bool :=
  if i < 1152 then s.instanceOf x sc i == some inst
  else sc ≥ 2 && (s.ctx x).pmap.any fun (v, w) => w.getLsbD 15 && instOf sc v == inst && fld w 0 7 / 32 == i - 1152

/-- The counter of interface i for an instance of scope sc (R264). Only an edge interface serves several instances of a scope, when
virtual dies share its die. -/
def counterIx (sc inst i : Nat) : Nat := (i * 4 + sc) * 128 + inst

/-- Counts a tracked message: +1 at its sender, −1 and black at its receiver, for each scope with an instance that holds both
(R264). -/
def State.track (s : State) (x src dst : Nat) (sent : Bool) : State :=
  if src = dst ∨ src ≥ 1156 ∨ dst ≥ 1156 then s else
  [1, 2, 3].foldl (fun s sc =>
    match (s.instanceOf x sc src).orElse fun _ => s.instanceOf x sc dst with
    | none => s
    | some inst =>
      if s.visits x sc inst src && s.visits x sc inst dst then
        let i := counterIx sc inst (if sent then src else dst)
        s.modCtx x fun cx => { cx with counts := cx.counts.put i (Tbl.get 0 cx.counts i + (if sent then 1 else -1))
                                       blacks := if sent then cx.blacks else cx.blacks.put i true }
      else s) s

/-- Whether a body is a tracked message. -/
def Body.tracked : Body → Bool
  | .access _ _ _ (.store _) _ _ _ => true
  | .access _ _ _ (.fe ..) _ _ _ => true
  | .access _ _ _ (.amo ..) _ _ _ => true
  | .qpush .. => true
  | .qfin _ _ _ true (some _) => true
  | .qback .. => true
  | .task .. => true
  | .engine .. => true
  | .mat .. => true
  | _ => false

/-! The order of one cycle (R147, R157, R204, R229, R257, R268, R278, R281) -/

/-- The core whose counter and whose cycles a port goes by. -/
def State.clockOf (s : State) (dst : Nat) : Nat :=
  if dst < 1024 then dst
  else if dst < 1152 then (dst - 1024) * 8
  else if dst < 2048 then (dst - 1152) % 8 % 4 * 256 + 7
  else if dst < 2304 then (dst - 2048) * 8
  else if dst < 4096 then (dst - 2304) * 8
  else if dst ≥ 2 ^ 40 then (dst - 2 ^ 40) * 256 + 7
  else ((s.homeDie ((dst - 4096) / 4) ((dst - 4096) % 4)).getD 0) * 256 + 7

/-- The cycle to which what happens at a port between two cycles of its core belongs: the one last begun (log 14). -/
def State.beatAt (s : State) (dst : Nat) : Nat := (s.core (s.clockOf dst)).beat

/-- Core c may begin its next cycle: every lower core of its cluster has begun it, and no higher one stands further back (log 14). -/
def State.inStep (s : State) (c : Nat) : Bool :=
  let b := (s.core c).beat
  (List.range 8).all fun i => if i < c % 8 then (s.core (c / 8 * 8 + i)).beat > b else (s.core (c / 8 * 8 + i)).beat ≥ b

/-- Every core of a port's cluster has done the cycle to which the port's arrivals belong; a core's own port has no other core. -/
def State.atBoundary (s : State) (dst : Nat) : Bool :=
  dst < 1024 || (List.range 8).all fun i => (s.core (s.clockOf dst / 8 * 8 + i)).beat == s.beatAt dst

/-- The source virtual thread id by which requests of one cycle are ordered at a port. A steal comes after every push (R278), and an
answer has no place in an order. -/
def State.srcTid (s : State) (m : Msg) : Option Nat :=
  let of (k : Nat) : Option Nat := some (if k < 16384 then s.tid k else 2 ^ 20 + k)
  match m.body with
  | .access k .. => of k
  | .bank k .. => of k
  | .group _ _ _ (.spawn r _) => some r.src
  | .group k .. => of k
  | .qpush k .. => of k
  | .qpop k .. => of k
  | .qctl k .. => of k
  | .qrsv k .. => of k
  | .slotReg k .. => of k
  | .nudge k _ => of k
  | .task r => some r.src
  | .steal _ => some (2 ^ 30)
  | .mat r => some r.vtid
  | .credit _ _ _ _ v => some v
  | .mail k .. => of k
  | _ => none

/-- A request with source v may be applied next at a port: none with a higher source was applied in the same cycle. -/
def State.inOrder (s : State) (dst v : Nat) : Bool :=
  s.atBoundary dst && match s.stamps.find dst with | some (b, v0) => b ≠ s.beatAt dst || v0 ≤ v | none => true

/-- Notes that a request with source v was applied at a port. -/
def State.stamp (s : State) (dst v : Nat) : State :=
  { s with stamps := s.stamps.put dst (s.beatAt dst, match s.stamps.find dst with
      | some (b, v0) => if b = s.beatAt dst then Nat.max v0 v else v
      | none => v) }

/-- Sends a message. -/
def State.send (s : State) (x src dst : Nat) (b : Body) : State :=
  let s := if b.tracked then s.track x src dst true else s
  { s with net := s.net ++ [⟨src, dst, b, x, none⟩] }

/-- The port at which a message arrives: the engines of an interface have ports of their own (R222, R258). -/
def Msg.port (m : Msg) : Nat :=
  m.dst * 64 + match m.body with
    | .engine r => if r.kind = 0 then (if m.dst ≥ 1152 then 1 + r.ticket % 16 else 1) else 20
    | .mat _ => 21
    | .credit .. => 22
    | .mail .. => 23
    | .steal _ => 24
    | .stealNo _ => 25
    | _ => 0

/-- Message n can be delivered: no earlier message of the same interface to the same port is still on its way (R258), and requests of
one cycle come in the order of their sources. -/
def State.deliverable (s : State) (n : Nat) : Option Msg :=
  match s.net[n]? with
  | none => none
  | some m =>
    if m.back.isNone && ((s.net.take n).all fun o => o.src ≠ m.src || o.port ≠ m.port) && (s.srcTid m).all (s.inOrder m.dst) then some m
    else none

/-- Takes message n off the network, counting a tracked one as accepted. -/
def State.accept (s : State) (n : Nat) (m : Msg) : State :=
  let s : State := { s with net := s.net.eraseIdx n }
  let s := match s.srcTid m with | some v => s.stamp m.dst v | none => s
  if m.body.tracked then s.track m.ctx m.src m.dst false else s

/-! Waits -/

/-- Parks slot k. -/
def State.parkAt (s : State) (k : Nat) (st : SlotSt) (w : Wait) : State :=
  s.modSlot k fun sl => { sl with st := st, wait := w }

/-- Parks the issuing slot. -/
def State.park (s : State) (st : SlotSt) (w : Wait) : State := s.parkAt s.cur st w

/-- Parks slot k in a wait that ends by reissue: operands are read again then, unless items were already popped. -/
def State.parkReAt (s : State) (k : Nat) (st : SlotSt) (w : Wait) : State :=
  s.modSlot k fun sl => { sl with st := st, wait := w, latch := if sl.latch.stage = 1 ∨ sl.latch.stage = 3 then sl.latch else {} }

/-- Parks the issuing slot in a wait that ends by reissue. -/
def State.parkRe (s : State) (st : SlotSt) (w : Wait) : State := s.parkReAt s.cur st w

/-- A list of parked slots in the order in which they came takes slot k in cycle `now`: of those that come in one cycle, which `wakeAt` notes,
that of the lowest key is first. -/
def State.joined (s : State) (q : List Nat) (k now : Nat) (key : Nat → Nat) : List Nat :=
  q.filter (fun j => (s.slot j).wakeAt != now) ++ sortOn key (q.filter (fun j => (s.slot j).wakeAt == now) ++ [k])

/-- A wake that ends by reissue (R270): the park state stays until the sequencer reissues. `wakeAt` is the cycle of the wake. -/
def State.wakeReissue (s : State) (k : Nat) : State :=
  s.modSlot k fun sl => { sl with wait := .reissue, wakeAt := (s.core (coreOf k)).beat }

/-- A wake that ends by completion in place: the slot returns to RUN and its pending instruction is finished with the result at
the end of this step (R270). -/
def State.complete (s : State) (k : Nat) (v : V512) : State :=
  let s := s.modSlot k fun sl => { sl with st := .run, wait := .none, latch := { sl.latch with res := some v } }
  { s with replay := s.replay ++ [k] }

/-- Completes slot k with a register value. -/
def State.completeW (s : State) (k : Nat) (v : W) : State := s.complete k (v.setWidth 512)

/-- Wakes every slot whose wait satisfies f, for reissue. -/
def State.wakeAll (s : State) (f : Nat → Slot → Bool) : State :=
  s.slots.foldl (fun s (k, sl) => if f k sl then s.wakeReissue k else s) s

/-- Releases: acknowledgements and no-return AMOs that slot sl still waits for, at a scope measured from vcluster v (R136,
R140, R263): 0 core, 1 cluster, 2 die, 3 and more package. -/
def released (sl : Slot) (v scope : Nat) : Bool :=
  sl.reds == 0 && sl.acks.all fun t => !(match scope with | 0 => false | 1 => t == v | 2 => t / 32 == v / 32 | _ => true)

/-! Chunks (R31, R250 to R254) -/

/-- The chunk holds global state (R117). -/
def Chunk.global (c : Chunk) : Bool := !c.reads.isEmpty || !c.stores.isEmpty

/-- What a chunk's first instruction finds (R31). -/
def Slot.snapshot (sl : Slot) : Snap := ⟨sl.pc, sl.x, sl.v, sl.m, sl.e, sl.fflags, sl.nestc⟩

/-- Passes the solo grant on when its holder's chunk has ended (R254). -/
def State.endSolo (s : State) (k : Nat) : State :=
  if s.soloHolder = some k then { s.modSlot k fun sl => { sl with solo := false } with soloHolder := none } else s

/-- A chunk has committed: CMCNT counts it, SQSTREAK is cleared, the solo grant passes on (R253, R254). An empty chunk counts
nothing (log 9). -/
def State.chunkDone (s : State) (k : Nat) : State :=
  let n := (s.slot k).chunk.count
  let s := s.modSlot k fun sl => { sl with chunk := {}, streak := if n = 0 then sl.streak else 0, commitReq := false }
  let s := if n = 0 then s else s.modCore (coreOf k) fun c => { c with cmcnt := (c.cmcnt + 1) % 2 ^ 64 }
  s.endSolo k

/-- The normaliser of core c takes up the first slot of its list (R67). -/
def State.normNext (s : State) (c : Nat) : State :=
  match (s.core c).normQ with
  | [] => s
  | k :: _ => s.modSlot k fun sl => match sl.wait with | .norm none => { sl with wait := .norm (some (s.core c).cyc) } | _ => sl

/-- Slot k no longer waits for the normaliser, which goes on with the next slot. -/
def State.leaveNorm (s : State) (k : Nat) : State :=
  if (s.core (coreOf k)).normQ.contains k then
    (s.modCore (coreOf k) fun c => { c with normQ := c.normQ.filter (· ≠ k) }).normNext (coreOf k)
  else s

/-- Drops what a squashed or stopped slot has in flight. -/
def State.withdraw (s : State) (k : Nat) : State :=
  let keep (m : Msg) : Bool := match m.body with
    | .access j _ _ (.load _) _ _ _ => j != k
    | .reply j _ _ => j != k
    | _ => true
  let s : State := { s with
    net := s.net.filter keep
    walks := s.walks.filter fun w => w.who ≠ Who.slot k
    replay := s.replay.filter (· ≠ k) }
  let s : State := { s.modDie (dieOf k) fun d => { d with arb := d.arb.filter (· ≠ k) } with pkgArb := s.pkgArb.filter (· ≠ k) }
  s.leaveNorm k

/-- Slot k asks the package's arbiter for the solo grant (R254): of the requests of one cycle that of the lowest die comes first. -/
def State.askSolo (s : State) (k : Nat) : State :=
  let now := s.beatAt 1164
  if k ∈ s.soloQ then s
  else { s.modSlot k fun sl => { sl with wakeAt := now } with soloQ := s.joined s.soloQ k now dieOf }

/-- A squash (R253, R31): the state of the chunk's first instruction returns; from the eighth in a row on the slot waits for the
solo grant (R254), which a grantee that FREEZE stops does not ask for here. A register error that waited for the commit stays
(R325); an injected fault is not raised again (R315). -/
def State.squash (s : State) (k : Nat) : State :=
  let s := s.withdraw k
  let c := (s.slot k).chunk
  let streak := Nat.min 15 ((s.slot k).streak + 1)
  let solo := streak ≥ 8 && !(s.slot k).solo
  let s := s.modSlot k fun sl =>
    { sl with
      err := match sl.wait with | .commitFault 132 t 0 => some t | _ => sl.err
      pc := c.snap.pc, x := c.snap.x, v := c.snap.v, m := c.snap.m, e := c.snap.e
      fflags := c.snap.fflags, nestc := c.snap.nestc
      chunk := {}, streak := streak, commitReq := false, pend := none, latch := {}, hold := 0
      st := if solo then .parkMem else .run
      wait := if solo then .solo else .none }
  let s := s.modCore (coreOf k) fun co => { co with sqcnt := (co.sqcnt + 1) % 2 ^ 64 }
  if solo then s.askSolo k else s

/-- Squashes every chunk but slot `by_`'s that has read one of the lines. -/
def State.squashReaders (s : State) (by_ : Option Nat) (ls : List Nat) : State :=
  s.slots.foldl (fun s (k, sl) =>
    if by_ ≠ some k ∧ ls.any (fun l => (sl.chunk.reads.find l).isSome) then s.squash k else s) s

/-- A write to these lines would invalidate the solo grantee's read set (R254). -/
def State.soloHolds (s : State) (by_ : Option Nat) (ls : List Nat) : Bool :=
  match s.soloHolder with
  | none => false
  | some h => by_ ≠ some h && ls.any fun l => ((s.slot h).chunk.reads.find l).isSome

/-! Writes that take effect -/

/-- Triggers the monitors on the blocks (R137). -/
def State.trigger (s : State) (ls : List Nat) : State :=
  s.slots.foldl (fun s (k, sl) =>
    if sl.mons.any (fun (_, m) => ls.contains m.block) then
      let s := s.modSlot k fun sl => { sl with mons := sl.mons.map fun (i, m) => (i, if ls.contains m.block then { m with hit := true } else m) }
      match sl.wait with
      | .monitor _ => s.complete k 0#512
      | _ => s
    else s) s

/-- Code bytes older than memory (R166, R72): a local store leaves the old byte in the fetch buffer of each slot of the core, a
remote store is seen at once. -/
def State.codeWrite (s : State) (a : Nat) (old : Byte) (remote : Bool) : State :=
  if 2 ^ 61 ≤ a ∧ a < 2 ^ 61 + 2 ^ 28 ∧ a % 2 ^ 18 < 65536 then
    let c := (a - 2 ^ 61) / 2 ^ 18
    s.slots.foldl (fun s (k, sl) =>
      if coreOf k = c ∧ sl.st ≠ .free then
        s.modSlot k fun sl => { sl with fbuf := if remote then sl.fbuf.del (a % 2 ^ 18)
                                                 else if (sl.fbuf.find (a % 2 ^ 18)).isSome then sl.fbuf
                                                 else sl.fbuf.put (a % 2 ^ 18) old }
      else s) s
  else s

/-- Wakes the byte-barrier waiters of the word at a when its PHASE has changed (R229, R230). -/
def State.phaseWake (s : State) (a old : Nat) : State :=
  if s.num a 8 / 2 ^ 63 = old / 2 ^ 63 then s else
  let ks := s.bbWait.filter (·.1 = a)
  let s := { s with bbWait := s.bbWait.filter (·.1 ≠ a) }
  ks.foldl (fun s (_, k) => s.completeW k (nat (s.num a 8))) s

/-- A write that takes effect on n bytes at a: data, poison, monitors, fetch buffers, byte barriers; for a global place also the
readers' chunks, the other L1D copies and the mirror caches (R137, R166, R229, R252, R253, R213). -/
def State.write (s : State) (by_ : Option Nat) (remote : Bool) (a : Nat) (data : List Byte) : State :=
  let n := data.length
  let olds := (s.bbWait.filter fun w => a < w.1 + 8 ∧ w.1 < a + n).map fun w => (w.1, s.num w.1 8)
  let old := s.bytes a n
  let ls := linesOf a n
  let s := (s.healPoison a n).putBytes a data
  let s := if 2 ^ 61 ≤ a ∧ a < 2 ^ 61 + 2 ^ 28 then old.zipIdx.foldl (fun s (b, i) => s.codeWrite (a + i) b remote) s else s
  let s := s.trigger ls
  let s := olds.foldl (fun s (w, o) => s.phaseWake w o) s
  if isGlobal a then
    let s := s.squashReaders by_ ls
    { s with
      l1d := s.l1d.filter fun (c, l) => !(ls.contains l) || (by_.map coreOf) == some c
      clusters := s.clusters.map fun (p, c) => (p, { c with mirrors := c.mirrors.filter fun m => !(ls.contains (m / 64) || ls.contains (m / 64 + 1)) }) }
  else s

/-- The slice and the translation of a GLB place whose page is not marked dirty there (R301). -/
def State.cleanPage (s : State) (a : Nat) : Option (Nat × Trans) :=
  if a < glb0 then none
  else ((s.trans (glbCtx a) (glbVa a)).filter (!·.dirty)).map fun t => (sliceOf (glbVa a), t)

/-- Some dirty log has no room for the pages that a write to these places marks: it waits (R301). -/
def State.logOver (s : State) (as : List Nat) : Bool :=
  let ps := (as.filterMap s.cleanPage).eraseDups
  ps.any fun (sl, _) => (s.clu sl).dlog.length + (ps.filter (·.1 == sl)).length > 256

/-- The page of a write to place a is marked dirty (R301). -/
def State.markDirty (s : State) (a : Nat) : State :=
  match s.cleanPage a with
  | none => s
  | some (sl, t) =>
    let mark (u : Trans) : Trans := if u = t then { u with dirty := true } else u
    { s.modClu sl fun c => { c with dlog := c.dlog ++ [(glbCtx a, t.va / 4096, t.code)], tlb := c.tlb.map mark } with
      lines := s.lines.map fun (l, c) => (l, if sliceOf (glbVa (l * 64)) = sl then { c with tr := mark c.tr } else c) }

/-- What one write that takes its place in G does to its pages: dirty log (R301), and one step of each watched region's generation
(R304). -/
def State.notePages (s : State) (places : List Nat) : State :=
  let gs := places.filter (· ≥ glb0)
  let s := gs.foldl State.markDirty s
  let ws := gs.filterMap fun a => (s.lines.find (lineOf a)).bind fun l => l.tr.watch.map fun w => glbCtx a * 64 + w
  ws.eraseDups.foldl (fun s i =>
    let wt := (s.ctx (i / 64)).watchtab
    if wt.getLsbD 0 then
      let a := (fld wt 9 43 * 512 + 8 * (i % 64)) % 2 ^ 40
      s.putBytes a (leBytes ((s.num a 4 + 1) % 2 ^ 32) 4)
    else s) s

/-- The bytes that a chunk has for line l are merged into the line's committed data, which the slice brings back if it had to drop it; a
word written whole loses its poison (R251, R252, R119). -/
def State.mergeLine (s : State) (c : Chunk) (l : Nat) : State :=
  let st := c.stores.filter fun (a, _) => lineOf a == l
  let s := match c.trs.find l with | some t => s.held l t | none => s
  let s := st.foldl (fun s (a, b) => s.putByte a b) s
  (st.map fun (a, _) => a / 8).eraseDups.foldl (fun s w =>
    if (List.range 8).all fun i => (c.stores.find (w * 8 + i)).isSome then s.setPoison (w * 8) false else s) s

/-- A chunk's writes take effect together at its final grant (R252). -/
def State.commitWrites (s : State) (k : Nat) : State :=
  let c := (s.slot k).chunk
  let st := c.stores
  let ls := (st.map fun (a, _) => lineOf a).eraseDups
  let s := ls.foldl (fun s l => s.mergeLine c l) s
  let s := s.modSlot k fun sl => { sl with chunk := { sl.chunk with reads := [], stores := [], trs := [] } }
  let s := s.trigger ls
  let s := s.squashReaders (some k) ls
  let s : State := { s with
    l1d := s.l1d.filter fun (c, l) => !(ls.contains l) || c == coreOf k
    clusters := s.clusters.map fun (p, c) => (p, { c with mirrors := c.mirrors.filter fun m => !(ls.contains (m / 64) || ls.contains (m / 64 + 1)) }) }
  s.notePages (st.map (·.1))

/-! Faults (R313 to R317) -/

/-- The kept bank of a slot is released and its contents discarded (R196). -/
def State.dropKept (s : State) (k : Nat) : State :=
  s.modClu (cluOf k) fun c => { c with kept := if (c.kept.map (·.k)) = some k then none else c.kept
                                       keepRsv := if c.keepRsv = some k then none else c.keepRsv }

/-- FAILED (R356): every slot and every engine stops; ALARM records the cause and the PF sends MSI-X vector 0. -/
def State.failDevice (s : State) (cause : Nat) : State :=
  { s with sec := { s.sec with st := 4, alarm := cause }
           links := { s.links with msix := s.links.msix ++ [(64, 0)] } }

/-- A cause that a slot in mode U takes in-slot when UE = 1 (R316). -/
def inSlotCause (c : Nat) : Bool :=
  c / 32 == 5 || c / 32 == 6 || c / 32 == 7 || c / 32 == 9 || c / 32 == 10 || (352 ≤ c && c ≤ 368)

/-- DeliverInSlot of R316. -/
def Slot.trap (sl : Slot) (cause : Nat) (tval : W) : Slot :=
  { sl with tcause := nat cause, txpc := sl.pc, tval := tval
            tstat := nat (2 * fld sl.tstat 0 1)
            pc := nat (fld sl.tvec 1 15 * 2)
            st := .run, wait := .none, pend := none, latch := {}, commitReq := false }

/-- Taking a fault: delivery in the slot (R316), or FAULTED with a fault record (mode U), or the failure of the device
(mode F) (R317). Whatever chunk preceded the fault has ended. -/
def State.deliver (s : State) (k cause : Nat) (tval : W) (src : Nat) : State :=
  let sl := s.slot k
  let s := { s with replay := s.replay.filter (· ≠ k) }
  if sl.tstat.getLsbD 0 && (if modeF k then cause ≠ 132 else inSlotCause cause) then
    s.modSlot k fun sl => sl.trap cause tval
  else if modeF k then
    (s.modSlot k fun sl => { sl with st := .faulted, wait := .none, pend := none, latch := {} }).failDevice 378
  else
    let s := s.modSlot k fun sl => { sl with st := .faulted, wait := .none, pend := none, latch := {}, commitReq := false }
    let s := s.dropKept k
    s.record (dieOf k) ⟨recWord0 src (sl.tstat.getLsbD 1) true cause (s.tid k) (s.ctxOf (coreOf k)), tval, nat (sl.pc.toNat % 65536), nat k⟩

/-- The return from a fault handler (R163): ERET's effect on a slot. -/
def Slot.eret (sl : Slot) : Slot := { sl with pc := sl.txpc, tstat := nat (fld sl.tstat 1 1) }

/-! Ends of instructions -/

/-- The chunk ends after its CHUNKLIM-th instruction (R250). -/
def State.limitChunk (s : State) (k : Nat) : State :=
  let sl := s.slot k
  if sl.chunk.count ≥ fld sl.chunklim 0 10 then
    if sl.chunk.global then s.modSlot k fun sl => { sl with st := .parkMem, wait := .commit, pend := none, latch := {}, commitReq := false }
    else s.chunkDone k
  else s

/-- The issuing slot's instruction is complete inside its chunk: the PC moves to `pc`, the chunk counts it. -/
def State.retireTo (s : State) (pc : W) : State :=
  (s.upd fun sl => { sl with pc := pc, st := .run, wait := .none, pend := none, latch := {}
                             chunk := { sl.chunk with count := sl.chunk.count + 1 } }).limitChunk s.cur

/-- The PC moves past the instruction's `len` bytes. -/
def State.retire (s : State) (len : Nat) : State := s.retireTo (s.me.pc + nat len)

/-- An irrevocable instruction is complete: it belongs to no chunk (R256). -/
def State.retireIrrTo (s : State) (pc : W) : State :=
  s.upd fun sl => { sl with pc := pc, st := .run, wait := .none, pend := none, latch := {} }

def State.retireIrr (s : State) (len : Nat) : State := s.retireIrrTo (s.me.pc + nat len)

/-- An instruction that ends the chunk (R26, R117, R256): with global state it waits for the commit and is reissued; otherwise
the chunk commits at once and the instruction acts. -/
def State.afterCommit (s : State) (body : State → State) : State :=
  if s.me.chunk.global then s.parkRe .parkMem .commit
  else body (s.chunkDone s.cur)

/-- A release acts only after the slot's acknowledgements within a scope and its no-return AMOs (R140, R263). -/
def State.afterAcks (s : State) (scope : Nat) (body : State → State) : State :=
  if released s.me (s.vcl s.myCore) scope then body s else s.parkRe .parkMem (.acks scope)

/-- An irrevocable instruction that is also a release (R140). -/
def State.release (s : State) (body : State → State) : State := s.afterCommit fun s => s.afterAcks 3 body

/-- Requests of core c that wait in its interface's queue of 8 entries (R221). -/
def State.niqLen (s : State) (c : Nat) : Nat :=
  (s.net.filter fun m => m.src == c && match m.body with | .task _ | .group _ _ _ (.spawn ..) | .engine _ | .mail .. | .expert _ _ _ 4 _ => true | _ => false).length

/-- Sends a request through the interface queue, or parks until an entry frees. -/
def State.viaNiq (s : State) (body : State → State) : State :=
  if s.niqLen s.myCore ≥ 8 then s.parkRe .parkMem .niq else body s

/-- Slots of a core that wait for room in the interface queue are woken when it has room. -/
def State.niqWake (s : State) (c : Nat) : State :=
  if s.niqLen c < 8 then s.wakeAll fun k sl => coreOf k == c && sl.wait == .niq else s

/-- An entry of interface src's queue may have become free. -/
def State.freed (s : State) (src : Nat) : State := if src < 1024 then s.niqWake src else s

/-- The reply that has completed the pending instruction, if it has come. -/
def State.onReply (s : State) (done : V512 → State → State) (issue : State → State) : State :=
  match s.me.latch.res with
  | some v => done v s
  | none => issue s

/-- Answers slot k from a remote unit. -/
def State.answer (s : State) (x src k part : Nat) (r : Answer) : State := s.send x src (coreOf k) (.reply k part r)

/-- The answer's value as a register. -/
def asW (v : V512) : W := v.setWidth 64

end Sys2Proof.Machine
end

