-- ==== Sys2Proof/Machine/Flags.lean ====
section
/-! DEFINITION. Every flag computation of the slot: FFLAGS, the FP traps of FTRAP (R66, R111, R172), and the rounding mode and
flush-to-zero that FRM selects (Table 01-9). -/

namespace Sys2Proof.Machine

/-- FRM.RM of a slot. -/
def Slot.rm (sl : Slot) : Nat := fld sl.frm 0 3
/-- FRM.FTZ of a slot. -/
def Slot.ftz (sl : Slot) : Bool := sl.frm.getLsbD 3
/-- TSTAT.UE. -/
def Slot.ue (sl : Slot) : Bool := sl.tstat.getLsbD 0

/-- The cause of the FP trap that flags f raise under FTRAP, if UE = 1: the first of NV, DZ, OF, UF, NX among those enabled
(R111). -/
def Slot.fpTrap (sl : Slot) (f : Nat) : Option Nat :=
  let t := f &&& (sl.ftrap.toNat % 32)
  if !sl.ue || t = 0 then none
  else if t.testBit 4 then some 160
  else if t.testBit 3 then some 161
  else if t.testBit 2 then some 162
  else if t.testBit 1 then some 163
  else some 164

/-- FFLAGS ← FFLAGS OR f. -/
def Slot.orFlags (sl : Slot) (f : Nat) : Slot := { sl with fflags := sl.fflags ||| nat (f % 32) }

end Sys2Proof.Machine
end

