-- ==== Sys2Proof/Machine/QueueOps.lean ====
section
/-! DEFINITION. What a queue home does (R153 to R159, R281, R282): handles, the ring and spill areas, pops, pushes, BTOK holds,
the consumer and producer lists, and the mailbox (R237, R272). Queue q is record q mod 64 of physical cluster q / 64. -/

namespace Sys2Proof.Machine

def State.queue (s : State) (q : Nat) : Queue := Tbl.get {} (s.clu (q / 64)).queues (q % 64)
def State.modQueue (s : State) (q : Nat) (f : Queue → Queue) : State :=
  s.modClu (q / 64) fun c => { c with queues := c.queues.put (q % 64) (f (s.queue q)) }

/-- The core that holds a queue. -/
def State.qcore (s : State) (q : Nat) : Nat := q / 64 * 8 + (s.queue q).home

/-- The context of a queue. -/
def State.qctx (s : State) (q : Nat) : Nat := ((s.owner (q / 64)).map (·.1)).getD 0

/-- The handle of a queue (Table 06-8). -/
def State.handle (s : State) (q : Nat) : W :=
  let r := s.queue q
  nat (r.scope * 2 ^ 32 + r.gen * 2 ^ 16 + ((s.owner (q / 64)).map (·.2)).getD 0 * 2 ^ 9 + r.home * 64 + q % 64)

/-- The physical core that a handle names as home; a ringmaster lies outside every context (R3, R5). -/
def State.homeCore (s : State) (x : Nat) (h : W) : Option Nat := s.coreAt x (fld h 9 7 * 8 + fld h 6 3)

/-- The queue that a handle names in context x; none is cause 197 (R153). -/
def State.findQueue (s : State) (x : Nat) (h : W) : Option Nat :=
  match s.homeCore x h with
  | none => none
  | some c =>
    let q := c / 8 * 64 + fld h 0 6
    if (s.queue q).alloc && s.handle q == h then some q else none

/-- An item as an answer carries it: bit 64 the token bit, and from bit 128 on its place among the items taken, plus 1; 0 for the end
token, which is no item of the queue. Bits 66 to 69: the end for which BTOK held it before, plus 1. -/
def Item.enc (i : Item) (seq : Option Nat := none) (was : Option Nat := none) : V512 :=
  BitVec.ofNat 512 (i.w.toNat + (if i.tok then 2 ^ 64 else 0) + (match was with | some e => (e + 1) * 2 ^ 66 | none => 0) + (match seq with | some n => (n + 1) * 2 ^ 128 | none => 0))
def Item.dec (v : V512) : Item := ⟨v.setWidth 64, v.getLsbD 64⟩

/-- What an instruction must give back of an answer, if it faults. -/
def tookOf (h : W) (v : V512) : List Took :=
  match v.toNat / 2 ^ 128 with
  | 0 => []
  | n + 1 => [⟨h, n, Item.dec v, match v.toNat / 2 ^ 66 % 16 with | 0 => none | e + 1 => some e⟩]

/-- The end token of a closed queue (R158). -/
def endToken : Item := ⟨BitVec.allOnes 64, true⟩

/-- Item j of an area of n positions at place a (R155): data word and tag bit. -/
def State.areaItem (s : State) (a n j : Nat) : Item :=
  ⟨nat (s.num (a + 8 * j) 8), (s.num (a + 8 * n + 8 * (j / 64)) 8).testBit (j % 64)⟩

def State.putAreaItem (s : State) (a n j : Nat) (i : Item) : State :=
  let ta := a + 8 * n + 8 * (j / 64)
  let t := s.num ta 8
  let t' := if t.testBit (j % 64) then (if i.tok then t else t - 2 ^ (j % 64)) else (if i.tok then t + 2 ^ (j % 64) else t)
  (s.write none false (a + 8 * j) (leBytes i.w.toNat 8)).write none false ta (leBytes t' 8)

def State.ringAt (s : State) (q : Nat) : Nat := spdBase (q / 64) + (s.queue q).ring

/-- Items that a pop can take now. -/
def Queue.avail (r : Queue) : Nat := r.back.length + r.n

/-- Ring positions in use: items, those given back, and places that held or reserved items and reserved pushes keep. -/
def Queue.used (r : Queue) : Nat := r.avail + r.held.length + r.rsv.length + (r.places.filter (!·.2)).length

/-- Spill positions in use or spoken for. -/
def Queue.spillUsed (r : Queue) : Nat := r.sn + r.inbox.length + (r.places.filter (·.2)).length

/-- Positions of both areas that are free. -/
def Queue.room (r : Queue) : Nat := r.depth + r.spill - (r.used + r.spillUsed)

/-- No item in either area. -/
def Queue.isEmpty (r : Queue) : Bool := r.avail == 0 && r.sn == 0 && r.inbox.isEmpty

/-- Nothing spilled or waiting stands before a new item. -/
def Queue.direct (r : Queue) : Bool := r.sn == 0 && r.inbox.isEmpty
/-- A new item may go to the ring at once. -/
def Queue.ringRoom (r : Queue) : Bool := r.direct && r.used < r.depth
/-- A new item may go to a waiting consumer at once (R281). -/
def Queue.handOver (r : Queue) : Bool := !r.cons.isEmpty && r.avail == 0 && r.direct
/-- A new item may wait for the spill area: the two areas are not both full (R157). -/
def Queue.spillRoom (r : Queue) : Bool := r.spill > 0 && r.room > 0

/-- The home accepts a push now, without making its producer wait for a place. -/
def Queue.takesNow (r : Queue) : Bool := !r.closed && r.prod.isEmpty && (r.handOver || r.ringRoom || r.spillRoom)

/-- Slots in a reservation round for which f holds learn that something they name has changed (R281). -/
def State.noteMoved (s : State) (f : Nat → Slot → Bool) : State :=
  s.slots.foldl (fun s (k, sl) => if sl.wait == .reply && f k sl then s.modSlot k fun sl => { sl with latch := { sl.latch with moved := true } } else s) s

/-- Wakes the instructions under R91 that wait for a change of queue q, and tells those whose round it has answered (R281). -/
def State.qWakeMulti (s : State) (q : Nat) : State :=
  let s := s.wakeAll fun _ sl => match sl.wait with | .multi qs _ => qs.contains q | _ => false
  s.noteMoved fun _ sl => sl.latch.turned.contains q

/-- Notes whether a queue is stuck, and since when (R328). -/
def State.qNote (s : State) (q : Nat) : State :=
  let r := s.queue q
  let stuck := r.alloc && r.used ≥ r.depth && r.sn ≥ r.spill && !r.prod.isEmpty
  if stuck == r.stuckAt.isSome then s
  else s.modQueue q fun r => { r with stuckAt := if stuck then some (s.core (s.qcore q)).cyc else none }

/-- Hands an item to slot k: at once on the home core, by a reply elsewhere (R281). -/
def State.give (s : State) (q k : Nat) (i : Item) (seq : Option Nat) : State :=
  if coreOf k = s.qcore q then s.complete k (i.enc seq) else s.answer (s.qctx q) (s.qcore q) k 0 (.val (i.enc seq))

/-- Tells slot k that its push has taken effect; a stream (numbers from 16,384 on) is told nothing. -/
def State.pushed (s : State) (q k : Nat) : State :=
  if k ≥ 16384 then s
  else if coreOf k = s.qcore q then s.complete k 0#512 else s.answer (s.qctx q) (s.qcore q) k 0 (.val 0#512)

/-- The context to which a VF is bound (R340, R342). -/
def State.vfCtx (s : State) (vf : Nat) : Option Nat :=
  let w := Tbl.get 0#64 s.links.vfctx vf
  if w.getLsbD 63 then some (fld w 0 24) else none

/-- The number of a window: VF · 64 + window. -/
def winOf (vf win : Nat) : Nat := vf % 64 * 64 + win % 64

/-- The context and the queue of a window that is mapped, while its VF stays bound to that context (R342; log 66). -/
def State.mapped (s : State) (i : Nat) : Option (Nat × W) :=
  let w := Tbl.get 0#64 s.links.hqmap i
  let x := Tbl.get 0 s.links.hqctx i
  if w.getLsbD 63 && s.vfCtx (i / 64) == some x then some (x, nat (fld w 0 35)) else none

/-- Window i is mapped to queue q. -/
def State.onto (s : State) (q i : Nat) : Bool := s.mapped i == some (s.qctx q, s.handle q)

/-- MSI-X vector w of each window onto the queue that has IRQEN set, when the queue turns non-empty (R343). -/
def State.qIrq (s : State) (q : Nat) : State :=
  let ws := s.links.hqmap.filterMap fun (i, _) => if s.onto q i && Tbl.get false s.links.irqen i then some (i / 64, i % 64) else none
  if ws.isEmpty then s else { s with links := { s.links with msix := s.links.msix ++ ws } }

/-- Puts an item at the tail of the ring; a `new` one may turn an empty queue non-empty (R343). -/
def State.ringPut (s : State) (q : Nat) (i : Item) (new : Bool := true) : State :=
  let r := s.queue q
  let s1 := s.putAreaItem (s.ringAt q) r.depth ((r.head + r.n) % r.depth) i
  let s2 := s1.modQueue q fun r => { r with n := r.n + 1 }
  if new && r.isEmpty then s2.qIrq q else s2

/-- Takes the next item: the first of those given back, else the head of the ring. -/
def State.ringTake (s : State) (q : Nat) : Nat × Item × State :=
  let r := s.queue q
  match r.back with
  | (j, i) :: b => (j, i, s.modQueue q fun r => { r with back := b, pops := r.pops + 1 })
  | [] => (r.seq, s.areaItem (s.ringAt q) r.depth r.head, s.modQueue q fun r => { r with head := (r.head + 1) % r.depth, n := r.n - 1, pops := r.pops + 1, seq := r.seq + 1 })

/-- The head of the consumer list takes an item (R281). -/
def State.qServe (s : State) (q j : Nat) (i : Item) : State :=
  match (s.queue q).cons with
  | [] => s
  | (k, bt) :: cs =>
    let s := s.modQueue q fun r => match bt with
      | some e => { r with cons := cs, held := r.held ++ [{ k := k, e := e, seq := j, it := i }] }
      | none => { r with cons := cs, pops := r.pops + 1 }
    s.give q k i (some j)

/-- An item arrives that is to be accepted: the head of the consumer list takes it (R281), or the ring; it is `new` unless it comes from
the spill area. -/
def State.qAccept (s : State) (q : Nat) (i : Item) (new : Bool := true) : State :=
  let r := s.queue q
  if !r.cons.isEmpty && r.avail == 0 then (s.modQueue q fun r => { r with seq := r.seq + 1 }).qServe q r.seq i else s.ringPut q i new

/-- An item of requester k waits at the interface for the spill area (R282); one that comes to an empty queue turns it non-empty (R343). -/
def State.qInbox (s : State) (q k : Nat) (i : Item) : State :=
  let t := s.modQueue q fun r => { r with inbox := r.inbox ++ [(k, i)] }
  if (s.queue q).isEmpty then t.qIrq q else t

/-- Freed places go to the producers in order (R281): to a waiting consumer or the ring, or to the interface in wait for the spill area
(R282). -/
def State.qAdmit (s : State) (q : Nat) : Nat → State
  | 0 => s
  | f + 1 =>
    let r := s.queue q
    match r.prod with
    | [] => s
    | (k, i) :: ps =>
      if r.handOver || r.ringRoom then (((s.modQueue q fun r => { r with prod := ps }).qAccept q i).pushed q k).qAdmit q f
      else if r.spillRoom then ((s.modQueue q fun r => { r with prod := ps }).qInbox q k i).qAdmit q f
      else s

/-- Consumers that wait on a queue that is closed and empty read the end token (R158). -/
def State.qEnd (s : State) (q : Nat) : State :=
  let r := s.queue q
  if r.closed && r.isEmpty then r.cons.foldl (fun s (k, _) => s.give q k endToken none) (s.modQueue q fun r => { r with cons := [] }) else s

/-- A host POP through window i takes the head of queue q (R343): an empty open queue gives 0, an empty closed one the end token. None
while items stand in the spill area alone: the queue is not empty, and none of them can be popped yet (log 24). -/
def State.hostPop (s : State) (i q : Nat) : Option State :=
  let r := s.queue q
  let got (s : State) (v : W) (st : Nat) : Option State := some { s with links := { s.links with readData := v, popst := s.links.popst.put i (nat st) } }
  if r.avail > 0 then
    let (_, it, s) := s.ringTake q
    got s it.w (2 ^ 63 + if it.tok then 2 ^ 62 else 0)
  else if !r.isEmpty then none
  else if r.closed then got s endToken.w (2 ^ 63 + 2 ^ 62)
  else got s 0#64 0

/-- The host POPs that wait on queue q complete in order, as far as they can. -/
def State.qHost (s : State) (q : Nat) : State :=
  (s.links.hostq.filter fun e => e.kind == 4 && s.onto q (winOf e.vf e.win)).foldl (fun s e =>
    match s.hostPop (winOf e.vf e.win) q with
    | some s => { s with links := { s.links with hostq := s.links.hostq.erase e } }
    | none => s) s

/-- After any change of a queue's state. -/
def State.qChanged (s : State) (q : Nat) : State :=
  let s := if (s.ctx (s.qctx q)).frz < 2 then s.qHost q else s
  (((s.qAdmit q ((s.queue q).prod.length)).qEnd q).qNote q).qWakeMulti q

/-- An item that was taken stands again among the items given back, in the order in which they were taken. -/
def insertBack (j : Nat) (i : Item) : List (Nat × Item) → List (Nat × Item)
  | [] => [(j, i)]
  | (j', i') :: r => if j < j' then (j, i) :: (j', i') :: r else (j', i') :: insertBack j i r

/-- An item taken from queue q comes back (R13, R91, R144, R156): to the slot for which BTOK held it, to a waiting consumer, or to the
items given back. -/
def State.qBack (s : State) (q k j : Nat) (i : Item) (was : Option Nat) : State :=
  if let some e := was then (s.modQueue q fun r => { r with held := r.held ++ [{ k := k, e := e, seq := j, it := i }] }).qChanged q
  else if !(s.queue q).cons.isEmpty && (s.queue q).avail == 0 then (s.qServe q j i).qChanged q
  else
    let empty := (s.queue q).isEmpty
    let s := s.modQueue q fun r => { r with back := insertBack j i r.back }
    (if empty then s.qIrq q else s).qChanged q

/-- What a request at a queue home gets; an item comes with what its taker must be able to give back. -/
inductive QRes where
  | item (v : V512)
  | done
  | wait
  | fault (c : Nat)
  deriving DecidableEq, Repr

/-- A hold is that of slot k for its end e. -/
def QHold.of (o : QHold) (k e : Nat) : Bool := o.k == k && o.e == e

/-- A pop (or a BTOK inspection) of slot k through its end e arrives at the home (R106, R157, R158, R281). -/
def State.qPop (s : State) (q k e : Nat) (btok : Bool) : QRes × State :=
  let r := s.queue q
  match r.held.find? (·.of k e) with
  | some o =>
    if btok then (.item o.it.enc, s)
    else (.item (o.it.enc (some o.seq) (some e)), (s.modQueue q fun r => { r with held := r.held.filter (!·.of k e), pops := r.pops + 1 }).qChanged q)
  | none =>
    if r.avail > 0 then
      let (j, i, s) := s.ringTake q
      if btok then (.item i.enc, (s.modQueue q fun r => { r with held := r.held ++ [{ k := k, e := e, seq := j, it := i }] }).qChanged q)
      else (.item (i.enc (some j)), s.qChanged q)
    else if r.closed && r.isEmpty then (.item endToken.enc, s)
    else (.wait, (s.modQueue q fun r => { r with cons := r.cons ++ [(k, if btok then some e else none)] }).qChanged q)

/-- A push of slot k arrives at the home (R157, R158, R281, R282); it never passes one that came before it. -/
def State.qPush (s : State) (q k : Nat) (i : Item) : QRes × State :=
  let r := s.queue q
  if r.closed then (.fault 198, s)
  else if r.prod.isEmpty && (r.handOver || r.ringRoom) then (.done, (s.qAccept q i).qChanged q)
  else if r.prod.isEmpty && r.spillRoom then (.wait, (s.qInbox q k i).qChanged q)
  else (.wait, (s.modQueue q fun r => { r with prod := r.prod ++ [(k, i)] }).qChanged q)

/-- Items that BTOK holds return to the head of their queue (R144, R156): those of the holds that satisfy f. -/
def State.qUnhold (s : State) (q : Nat) (f : QHold → Bool) : State :=
  let mine := (s.queue q).held.filter f
  mine.foldl (fun s o => s.qBack q o.k o.seq o.it none) (s.modQueue q fun r => { r with held := r.held.filter (!f ·) })

/-- Slot k's reserved items of queue q return, each to its old place among the others (R91). -/
def State.qRelease (s : State) (q k : Nat) : State :=
  let mine := (s.queue q).rsv.filter (·.k = k)
  let s := s.modQueue q fun r => { r with rsv := r.rsv.filter (·.k ≠ k), pops := r.pops - mine.length }
  mine.foldl (fun s o => s.qBack q k o.seq o.it o.was) s

/-- The requester number of an item whose place in the spill area an instruction under R91 had reserved: nobody waits for it (log 64). -/
def reservedPush : Nat := 50000

/-- The end of a reservation: committed, with the item for a reserved place, or released (R91). An item for a place in the spill area waits
for it at the interface, unless nothing stands before it any more. -/
def State.qFinish (s : State) (q k ix : Nat) (commit : Bool) (it : Option Item) : State :=
  if ix = 9 then
    let spilled := (s.queue q).places.any fun p => p.1 == k && p.2
    let s := s.modQueue q fun r => { r with places := r.places.filter (·.1 ≠ k) }
    match (if commit then it else none) with
    | some i => (if spilled && !(s.queue q).ringRoom then s.qInbox q reservedPush i else s.qAccept q i).qChanged q
    | none => s.qChanged q
  else if commit then (s.modQueue q fun r => { r with rsv := r.rsv.filter fun o => !(o.k = k ∧ o.ix = ix) }).qChanged q
  else s.qRelease q k

/-- Removes slot k from the lists of every queue and gives back what is held for it. -/
def State.qForget (s : State) (k : Nat) : State :=
  s.clusters.foldl (fun s (p, c) => c.queues.foldl (fun s (ix, r) =>
    let q := p * 64 + ix
    let s := if r.held.any (·.k = k) then s.qUnhold q (·.k = k) else s
    if r.cons.any (·.1 = k) ∨ r.prod.any (·.1 = k) ∨ r.inbox.any (·.1 = k) then
      (s.modQueue q fun r => { r with cons := r.cons.filter (·.1 ≠ k), prod := r.prod.filter (·.1 ≠ k), inbox := r.inbox.filter (·.1 ≠ k) }).qChanged q
    else s) s) s

/-- Takes back one thing that slot k did (R13): a record or a group is free again, as it was. -/
def State.takeUndo (s : State) (k : Nat) : Undo → State
  | .bytes a b => s.write (some k) false a b
  | .record q g => s.modQueue q fun _ => { gen := g }
  | .group x n => s.modCtx x fun cx => { cx with groups := cx.groups.del n }
  | .mons on off => s.modSlot k fun sl => { sl with mons := on.foldl (fun t (i, m) => t.put i m) (sl.mons.filter fun (i, _) => !off.contains i) }

/-- What the pending instruction of slot k has done before its push is undone (R13). -/
def State.undone (s : State) (k : Nat) : State := (s.slot k).latch.undo.foldl (fun s u => s.takeUndo k u) s

/-- Slot k, whose request at a queue home is no more, reissues: from its operands on where it has had no effect or its effect can be
undone, else to push its result again. -/
def State.requeue (s : State) (k : Nat) : State :=
  let l := (s.slot k).latch
  let again : Latch := if l.stage = 2 ∧ l.fin.isNone ∧ l.undo.isEmpty then { stage := 6, out := l.out, goto := l.goto } else {}
  ((s.undone k).modSlot k fun sl => { sl with latch := again }).wakeReissue k

/-- Slots parked on a queue are woken for reissue: those whose list place satisfies f leave it (R156, R158). Numbers from 16,384 on
are requesters that are no slots. -/
def State.qEvict (s : State) (q : Nat) (f : Nat → Bool) : State :=
  let r := s.queue q
  let ks := (r.cons.map (·.1) ++ r.prod.map (·.1) ++ r.inbox.map (·.1)).filter f
  let s := s.modQueue q fun r => { r with cons := r.cons.filter (!f ·.1), prod := r.prod.filter (!f ·.1), inbox := r.inbox.filter (!f ·.1) }
  ks.foldl (fun s k => if (s.slot k).wait = .queue then s.requeue k else s) s

/-! The mailbox (R26, R237, R272) -/

/-- The messages of core c's mailbox that slot k may read. -/
def mailFor (k : Nat) (m : Mail) : Bool := m.dest.isNone || m.dest == some (k % 16)

/-- The oldest message that slot k may read, taken out. -/
def State.mailPop (s : State) (k : Nat) : Option (Mail × State) :=
  let c := coreOf k
  match (s.core c).mail.findIdx? (mailFor k) with
  | none => none
  | some i => ((s.core c).mail[i]?).map fun m => (m, s.modCore c fun co => { co with mail := co.mail.eraseIdx i })

/-- Slots of core c parked for a message that they may take, longest wait first. -/
def State.mailWaiters (s : State) (c : Nat) (m : Mail) : List (Nat × Bool) :=
  let ws := s.slots.filterMap fun (k, sl) => match sl.wait with
    | .message _ o r => if coreOf k = c ∧ mailFor k m then some (o, k, r) else none
    | _ => none
  (sortOn (·.1) (sortOn (·.2.1) ws)).map (·.2)

/-- The number of messages that slot k may read. -/
def State.mailCount (s : State) (k : Nat) : Nat := ((s.core (coreOf k)).mail.filter (mailFor k)).length

/-- Offers a message, already in the mailbox, to the parked readers (R272): WAITMSG leaves it, a read of mb takes it. -/
def State.mailOffer (s : State) (m : Mail) : List (Nat × Bool) → State
  | [] => s
  | (k, false) :: r => (s.completeW k (nat (s.mailCount k))).mailOffer m r
  | (k, true) :: _ =>
    match s.mailPop k with
    | some (d, s) =>
      let s := s.modSlot k fun sl => { sl with latch := { sl.latch with mails := sl.latch.mails ++ [d], left := sl.latch.left - 1 } }
      if (s.slot k).latch.left = 0 then s.completeW k d.data else s
    | none => s

/-- Takes up to n messages that slot k may read, oldest first. -/
def State.mailTake (s : State) (k : Nat) : Nat → List Mail × State
  | 0 => ([], s)
  | n + 1 => match s.mailPop k with
    | some (m, s) => let (ms, s) := s.mailTake k n; (m :: ms, s)
    | none => ([], s)

/-- Parked readers of core c learn of a message that stands in its mailbox (R272), and instructions under R91 that name mb are woken. -/
def State.mailTell (s : State) (c : Nat) (m : Mail) : State :=
  let s := (s.mailOffer m (s.mailWaiters c m)).noteMoved fun k sl => sl.latch.nomail && coreOf k == c && mailFor k m
  s.wakeAll fun k sl => coreOf k == c && match sl.wait with | .multi _ true => mailFor k m | _ => false

/-- A message is accepted by core c's mailbox. -/
def State.mailAccept (s : State) (c : Nat) (m : Mail) : State :=
  let m := { m with seq := (s.core c).mailSeq }
  (s.modCore c fun co => { co with mail := co.mail ++ [m], mailSeq := co.mailSeq + 1 }).mailTell c m

/-- A message that was taken stands again in the mailbox in its old place, addressed as before. -/
def State.mailBack (s : State) (c : Nat) (m : Mail) : State :=
  (s.modCore c fun co => { co with mail := co.mail.takeWhile (·.seq < m.seq) ++ m :: co.mail.dropWhile (·.seq < m.seq) }).mailTell c m

/-! Faults of an instruction (R13, R313, R315) -/

/-- A popped item goes back to its queue: at once on the home core, by a message elsewhere. -/
def State.giveBack (s : State) (k : Nat) (t : Took) : State :=
  let x := s.ctxOf (coreOf k)
  match s.homeCore x t.h with
  | none => s
  | some c =>
    if c = coreOf k then (match s.findQueue x t.h with | some q => s.qBack q k t.seq t.it t.was | none => s)
    else s.send x (coreOf k) c (.qback k t)

/-- Slot k commits or releases what it reserved at an end, with the item for a reserved place: at once on the home core, by a message
elsewhere. -/
def State.finEnd (s : State) (k : Nat) (e : REnd) (commit : Bool) (it : Option Item) : State :=
  let x := s.ctxOf (coreOf k)
  match s.homeCore x e.h with
  | none => s
  | some c =>
    if c = coreOf k then (match s.findQueue x e.h with | some q => s.qFinish q k e.ix commit it | none => s)
    else s.send x (coreOf k) c (.qfin k e.ix e.h commit it)

/-- What the pending instruction of slot k has reserved or popped goes back, and what it has written before a push (R13, R91; log 13). -/
def State.unpop (s : State) (k : Nat) : State :=
  let l := (s.slot k).latch
  let open_ := match l.stage with | 0 => l.ends | 3 => l.ends | 5 => l.ends.filter (·.push) | _ => []
  if open_.isEmpty && l.took.isEmpty && l.mails.isEmpty && l.undo.isEmpty then s else
  let s := (s.undone k).modSlot k fun sl => { sl with latch := { sl.latch with took := [], mails := [], ends := [], undo := [] } }
  let s := open_.foldl (fun s e => s.finEnd k e false none) s
  let s := l.took.foldl (fun s t => s.giveBack k t) s
  l.mails.foldl (fun s m => s.mailBack (coreOf k) m) s

/-- A precise fault of slot k (R315): what it popped goes back, the instructions before it commit first; with global state the slot
waits for the grant. -/
def State.raiseAt (s : State) (k cause : Nat) (tval : W) (src : Nat := 0) : State :=
  let s := s.unpop k
  if (s.slot k).chunk.global then
    s.modSlot k fun sl => { sl with st := .parkMem, wait := .commitFault cause tval src, latch := {}, commitReq := false }
  else (s.chunkDone k).deliver k cause tval src

/-- A precise fault of the issuing slot. -/
def State.raise (s : State) (cause : Nat) (tval : W) : State := s.raiseAt s.cur cause tval

/-- A precise fault whose TVAL the spec does not state: a free value (log 5). -/
def State.raiseOpen (s : State) (cause : Nat) : State :=
  let (v, s) := s.free
  s.raise cause v

/-- A precise fault with a TVAL that the spec states, or with a free one. -/
def State.raiseWith (s : State) (f : Nat × Option W) : State :=
  match f.2 with
  | some v => s.raise f.1 v
  | none => s.raiseOpen f.1

/-- An instruction of mode F (R32, R167). -/
def State.modeOnlyF (s : State) (body : State → State) : State := if modeF s.cur then body s else s.raiseOpen 32

/-- A command that the issuing slot gives through a register above 0x7FF: in mode U it raises cause 33 (R32). -/
def State.command (s : State) (body : State → State) : Out :=
  .next (if modeF s.cur then body s else if s.me.st = .run then s.raiseOpen 33 else s)


end Sys2Proof.Machine
end

