-- ==== Sys2Proof/Machine/Operands.lean ====
section
/-! DEFINITION. Every operand form of a register field (R24, R26, R91): private registers, the shared bank, queue ends and the
mailbox, with the parks and the rounds that they bring. -/

namespace Sys2Proof.Machine

/-- The field names a register of the shared bank. -/
def isG (r : R6) : Bool := r.getLsbD 5
/-- The field names a queue end q0 to q11. -/
def isQ (r : R6) : Bool := 48 ≤ r.toNat && r.toNat ≤ 59
/-- The field names mb. -/
def isMb (r : R6) : Bool := r.toNat == 60
/-- The number of the queue end that a field names. -/
def qIx (r : R6) : Nat := r.toNat - 48

/-- Reads a source that is neither a queue end nor mb. -/
def State.rd (s : State) (r : R6) : W :=
  if isG r then s.gget s.myCore (r.toNat - 32) else s.xget s.cur r.toNat

/-- Writes a destination that is not a queue end. -/
def State.wr (s : State) (r : R6) (v : W) : State :=
  if isG r then s.gset s.cur (r.toNat - 32) v else s.xset s.cur r.toNat v

/-- The binding of a queue end of the issuing core. -/
def State.qend (s : State) (r : R6) : Option QEnd := (s.core s.myCore).q.find (qIx r)

/-- Checks one named end before anything is popped or pushed: unbound, or bound for the other direction, is cause 192; held by a
stream is cause 200 (R26, R156, R161); TVAL is the handle, where there is one. Direction bits: 1 pop, 2 push. -/
def State.endCheck (s : State) (dir : Nat) (r : R6) : Option (Nat × Option W) :=
  match s.qend r with
  | none => some (192, none)
  | some e => if e.stream then some (200, some e.h) else if bitsOf e.dir (dir - 1) 1 = 0 then some (192, some e.h) else none

/-- The queue that an end names, if its home is placed and the handle is current. -/
def State.endQueue (s : State) (r : R6) : Option Nat := (s.qend r).bind fun e => s.findQueue (s.ctxOf s.myCore) e.h

/-- The queue at an end is homed at the issuing core. -/
def State.endLocal (s : State) (r : R6) : Bool :=
  match s.endQueue r with | some q => s.qcore q == s.myCore | none => false

/-- The scope within which a push waits for acknowledgements (R263): host scope waits as package scope. -/
def State.endScope (s : State) (r : R6) : Nat := match s.qend r with | some e => Nat.min 3 (fld e.h 32 3) | none => 3

/-- Sends a request to the home that an end names. -/
def State.toHome (s : State) (r : R6) (b : W → Body) : State :=
  match s.qend r with
  | none => s
  | some e => s.send (s.ctxOf s.myCore) s.myCore ((s.homeCore (s.ctxOf s.myCore) e.h).getD s.myCore) (b e.h)

/-- Notes a request of the issuing slot at its own core, among the other requests of the cycle. -/
def State.stampMe (s : State) : State := s.stamp s.myCore (s.tid s.cur)

/-- The flags and further turns that come with a pushed result, and the end of its instruction (R13). A push that completes in place
(`late`) brings no further turns (R271; log 84). -/
def State.endPush (s : State) (next : W) (late : Bool := false) : State :=
  let s := match s.me.latch.fin with
    | some (f, h) => s.upd fun sl => { sl.orFlags f with hold := if late then 0 else h }
    | none => s
  s.retireIrrTo next

/-- Notes what the issuing instruction has done before its result goes to field d, where that is a queue end (R13). -/
def State.undoable (s : State) (d : R6) (u : Undo) : State :=
  if isQ d then s.upd fun sl => { sl with latch := { sl.latch with undo := [u] } } else s

/-- The issuing instruction's push comes after nothing but reads: its reissue may read again (R158, R167). -/
def State.pure (s : State) : State := s.upd fun sl => { sl with latch := { sl.latch with fin := some (0, 0) } }

/-- The issuing slot waits in PARK-Q for the home of an end to serve it. -/
def State.waitEnd (s : State) (r : R6) (f : Latch → Latch) : State :=
  s.upd fun sl => { sl with st := .parkQ, wait := .queue, latch := { f sl.latch with at_ := (s.qend r).map fun e => (qIx r, e.h) } }

/-- Remembers operand values for an instruction that may complete in place. -/
def State.hold (s : State) (vs : List W) : State := s.upd fun sl => { sl with latch := { sl.latch with vals := some vs } }

/-- The ends that the issuing instruction has reserved are committed together, its pops and the push of item i; the confirmation of the last
home that is another core's completes it in place (R91). -/
def State.commitEnds (s : State) (next : W) (i : Item) : State :=
  let ends := s.me.latch.ends
  let far := ends.filter fun e => match s.homeCore (s.ctxOf s.myCore) e.h with | some c => c ≠ s.myCore | none => false
  let s := ends.foldl (fun s e => s.finEnd s.cur e true (if e.push then some i else none)) s
  if far.isEmpty then s.endPush next
  else s.upd fun sl => { sl with st := .parkQ, wait := .reply
                                 latch := { sl.latch with stage := 2, left := far.length, res := none, took := [], mails := [], ends := [] } }

/-- The end of an instruction with result v for field d and length len: a register write, or a push (R91, R157). `irr`: the
instruction belongs to no chunk; `tok`: the item's token bit. A push that the queue at the own core refuses is noted in the latch. -/
def State.finish (s : State) (irr : Bool) (len : Nat) (d : R6) (v : W) (tok : Bool := false) : State :=
  let l := s.me.latch
  let next := l.goto.getD (s.me.pc + nat len)
  if isQ d && l.stage == 3 then
    s.commitEnds next ⟨v, tok⟩
  else if isQ d then
    let no (c : Nat) (t : Option W) : State := s.upd fun sl => { sl with latch := { sl.latch with refusal := some (c, t) } }
    let pushing (l : Latch) : Latch := { l with stage := 2, res := none, out := some ⟨v, tok⟩ }
    match s.endQueue d with
    | none => match s.qend d with | some e => no 197 (some e.h) | none => no 192 none
    | some q =>
      if s.qcore q = s.myCore then
        match s.stampMe.qPush q s.cur ⟨v, tok⟩ with
        | (.done, s) => s.endPush next
        | (.fault c, _) => no c (some (s.handle q))
        | (_, s) => s.waitEnd d pushing
      else (s.toHome d fun h => .qpush s.cur h ⟨v, tok⟩).waitEnd d pushing
  else
    let s := s.wr d v
    if irr || isG d || s.me.latch.stage ≠ 0 then s.retireIrr len else s.retire len

/-- Values of the sources, with none where a queue end or mb is named. -/
def State.peek (s : State) (srcs : List R6) : List (Option W) := srcs.map fun r => if isQ r || isMb r then none else some (s.rd r)

/-- Fills the missing operands in order. -/
def fillIn : List (Option W) → List W → List W
  | [], _ => []
  | some v :: r, ws => v :: fillIn r ws
  | none :: r, w :: ws => w :: fillIn r ws
  | none :: r, [] => 0#64 :: fillIn r []

/-- Items of queue q that BTOK holds for the issuing slot at one of these ends of its core. -/
def State.heldAt (s : State) (q : Nat) (es : List Nat) : Nat := (es.eraseDups.filter fun e => (s.queue q).held.any (·.of s.cur e)).length

/-- Queue q can supply n items now to the issuing slot, through these ends; a closed one whose items all stand in the ring supplies end
tokens after them (R158). -/
def State.canPop (s : State) (q : Nat) (n : Nat) (es : List Nat) : Bool :=
  let r := s.queue q
  r.avail + s.heldAt q es ≥ n || (r.closed && r.direct)

/-- Queue q can take one more item now, after `freed` pops of it; a closed one refuses it (R158). -/
def State.canPush (s : State) (q : Nat) (freed : Nat) : Bool :=
  let r := s.queue q
  r.closed || (r.prod.isEmpty && (r.handOver || r.ringRoom || r.spillRoom || (freed > 0 && r.direct)))

/-- Reserves a place of queue q for a push of slot k: in the ring, or where nothing may go there at once, in the spill area (R91, R157). -/
def State.placeFor (s : State) (q k : Nat) : State :=
  s.modQueue q fun r => { r with places := r.places ++ [(k, !(r.ringRoom || r.handOver))] }

/-- What the pops of an instruction bring: values in operand order, and what must go back if it faults. -/
structure Popped where
  vals : List W := []
  took : List Took := []
  mails : List Mail := []
  deriving DecidableEq, Repr

/-- Pops one item at each queue end and one message at mb, in operand order; every one is available. -/
def State.popAll (s : State) : List R6 → Popped × State
  | [] => ({}, s)
  | r :: rs =>
    let zero : Popped × State := let (p, s) := s.popAll rs; ({ p with vals := 0#64 :: p.vals }, s)
    if isMb r then
      match s.mailPop s.cur with
      | some (m, s) => let (p, s) := s.popAll rs; ({ p with vals := m.data :: p.vals, mails := m :: p.mails }, s)
      | none => zero
    else
      match s.endQueue r with
      | none => zero
      | some q =>
        match s.qPop q s.cur (qIx r) false with
        | (.item v, s) => let (p, s) := s.popAll rs; ({ p with vals := asW v :: p.vals, took := tookOf (s.handle q) v ++ p.took }, s)
        | _ => zero

/-- Operand values are complete: they are held, marked as popped, and the instruction acts. -/
def State.opened (s : State) (vs : List W) (stage : Nat) (took : List Took) (mails : List Mail) (body : List W → State → State) : State :=
  body vs (s.upd fun sl => { sl with latch := { vals := some vs, stage := stage, took := took, mails := mails,
                                                ends := if stage = 3 then sl.latch.ends else [] } })

/-- From here on `latch.parts` lists the faults that replies brought: cause · 2^64 + TVAL by lane. -/
def faultKey : Nat := 2 ^ 20

/-- The fault of the lowest lane among the replies. -/
def Latch.fault (l : Latch) : Option (Nat × W) :=
  (l.parts.find? fun (i, _) => faultKey ≤ i ∧ i < 2 * faultKey).map fun (_, v) => (v.toNat / 2 ^ 64, v.setWidth 64)

/-- The ends at which an instruction under R91 reserves: its popping fields by operand position, and the pushing one. -/
def State.roundEnds (s : State) (pops : List R6) (dst : Option R6) : List REnd :=
  let of (r : R6) (i : Nat) (push : Bool) : Option REnd := (s.qend r).map fun e => ⟨qIx r, i, push, e.h⟩
  ((pops.zipIdx.filter fun (r, _) => isQ r).filterMap fun (r, i) => of r i false) ++ (dst.toList.filterMap fun r => of r 9 true)

/-- An instruction under R91 whose ends are all homed at its own core: everything happens in its turn, or nothing. -/
def State.multiNear (s : State) (srcs pops : List R6) (dst : Option R6) (ids : List Nat) (body : List W → State → State) : State :=
  let mbs := (pops.filter isMb).length
  let at_ (q : Nat) : List Nat := (pops.filter fun o => isQ o && s.endQueue o == some q).map qIx
  let okPop := (pops.filter isQ).all fun r => match s.endQueue r with | some q => s.canPop q (at_ q).length (at_ q) | none => true
  let target := dst.bind s.endQueue
  let okPush := match target with | some q => s.canPush q (at_ q).length | none => true
  if !(okPop && okPush) then s.parkRe .parkQ (.multi ids (mbs > 0))
  else if s.mailCount s.cur < mbs then s.parkRe .parkMsg (.multi ids true)
  else if let some q := target.filter fun q => (s.queue q).closed then s.raise 198 (s.handle q)
  else
    let ps := s.peek srcs
    let (p, s) := s.stampMe.popAll pops
    match target with
    | none => s.opened (fillIn ps p.vals) 1 p.took p.mails body
    | some q =>
      let s := s.placeFor q s.cur
      (s.upd fun sl => { sl with latch := { sl.latch with ends := s.roundEnds [] dst } }).opened (fillIn ps p.vals) 3 p.took p.mails body

/-- An instruction under R91 with an end that is homed elsewhere: it takes its messages, where the mailbox holds enough of them, and asks for
reservations. When all answers are in, everything goes back where a queue or else the mailbox could not proceed; otherwise an instruction
that pushes acts under its reservations, which `State.commitEnds` commits together, and another commits its pops. -/
def State.multiFar (s : State) (srcs pops : List R6) (dst : Option R6) (ids : List Nat) (body : List W → State → State) : State :=
  let mbs := pops.zipIdx.filter fun (r, _) => isMb r
  let l := s.me.latch
  match l.partials with
  | [] =>
    let short := s.mailCount s.cur < mbs.length
    let ps := s.peek srcs
    let (p, s) := s.popAll (if short then [] else pops.filter isMb)
    let ends := s.roundEnds pops dst
    let s := ends.foldl (fun s e => s.send (s.ctxOf s.myCore) s.myCore ((s.homeCore (s.ctxOf s.myCore) e.h).getD s.myCore) (.qrsv s.cur e.ix e.q e.h e.push)) s
    s.upd fun sl => { sl with st := .parkQ, wait := .reply
                              latch := { partials := ps, left := ends.length, ends := ends, nomail := short, mails := p.mails
                                         parts := (mbs.zip p.vals).foldl (fun t ((_, i), v) => t.put i (v.setWidth 512)) [] } }
  | ps =>
    let vs := fillIn ps (pops.zipIdx.map fun (_, i) => asW (Tbl.get 0#512 l.parts i))
    let popEnds := l.ends.filter (!·.push)
    if let some (c, t) := l.fault then s.raise c t
    else if l.stage = 5 then s.opened vs 1 l.took l.mails body
    else if (pops ++ dst.toList).any fun r => isQ r && (s.qend r).isNone then s.raiseOpen 192
    else if l.refused || l.nomail then
      let s := (s.unpop s.cur).parkRe (if l.refused then .parkQ else .parkMsg) (.multi ids !mbs.isEmpty)
      if l.moved then s.wakeReissue s.cur else s
    else if dst.isSome then s.opened vs 3 [] l.mails body
    else
      (popEnds.foldl (fun s e => s.send (s.ctxOf s.myCore) s.myCore ((s.homeCore (s.ctxOf s.myCore) e.h).getD s.myCore) (.qfin s.cur e.ix e.h true none)) s).upd fun sl =>
        { sl with st := .parkQ, wait := .reply
                  latch := { sl.latch with left := popEnds.length, stage := 5, res := none
                                           took := popEnds.flatMap fun e => tookOf e.h (Tbl.get 0#512 l.parts e.ix) } }

/-- An instruction that names mb, in n fields, and no queue end: it takes the messages that have come and waits for the others, one after
the other (R26, R272; log 97). -/
def State.mailEnd (s : State) (srcs : List R6) (n : Nat) (body : List W → State → State) : State :=
  let ps := s.peek srcs
  let (ms, s) := s.mailTake s.cur n
  if ms.length = n then s.opened (fillIn ps (ms.map (·.data))) 1 [] ms body
  else
    let s := s.upd fun sl => { sl with st := .parkMsg, wait := .message 0 s.serial true, latch := { partials := ps, mails := ms, left := n - ms.length } }
    { s with serial := s.serial + 1 }

/-- What an instruction with destination dst, acting on s, leaves: t, unless the queue at its own core refused its push: then it has done
nothing else and faults (R13, R157). -/
def State.kept (s : State) (dst : Option R6) (t : State) : State :=
  if dst.any isQ then
    match (t.slot s.cur).latch.refusal with
    | some c => s.raiseWith c
    | none => t
  else t

/-- An instruction under R91: two queue ends, or a queue end and mb. -/
def State.multiEnd (s : State) (srcs : List R6) (dst : Option R6) (body : List W → State → State) : State :=
  let pops := srcs.filter fun r => isQ r || isMb r
  let dst := dst.filter isQ
  let qs := (pops ++ dst.toList).filter isQ
  let ids := qs.filterMap s.endQueue
  if qs.all s.endLocal then s.multiNear srcs pops dst ids body else s.multiFar srcs pops dst ids body

/-- Two queue ends, or a queue end and mb, are named: an instruction under R91. -/
def twoEnds (srcs : List R6) (dst : Option R6) : Bool :=
  let pops := srcs.filter fun r => isQ r || isMb r
  let qs := (pops ++ dst.toList).filter isQ
  decide (qs.length ≥ 2) || ((pops ++ dst.toList).any isMb && !qs.isEmpty)

/-- Obtains the operands of an instruction and lets it act (R91). `irr`: the instruction ends the chunk in any case; `rel`: the
scope of the acknowledgements it waits for first, if it is a release. Several mb fields without a queue end take their messages one after the
other (DESIGN CHOICE: log 97). -/
def State.withOps (s : State) (len : Nat) (srcs : List R6) (dst : Option R6) (irr : Bool) (rel : Option Nat)
    (body : List W → State → State) : State :=
  let l := s.me.latch
  let body (vs : List W) (s : State) : State := s.kept dst (body vs s)
  let waitRel (s : State) (f : State → State) : State :=
    match rel, dst.filter isQ with
    | some n, _ => s.afterAcks n f
    | none, some d => s.afterAcks (s.endScope d) f
    | none, none => f s
  let pops := srcs.filter fun r => isQ r || isMb r
  let qs := (pops ++ dst.toList).filter isQ
  if l.stage = 2 then s.endPush (l.goto.getD (s.me.pc + nat len)) true
  else if l.stage = 6 then s.kept dst (s.finish true len (dst.getD 0#6) (l.out.elim 0#64 (·.w)) (l.out.elim false (·.tok)))
  else match l.vals with
  | some vs => body vs s
  | none =>
    match l.partials, l.res, qs.length + pops.length with
    | _ :: _, some v, _ =>
      if qs.isEmpty then s.opened (fillIn l.partials (l.mails.map (·.data))) 1 [] l.mails body
      else if !twoEnds srcs dst then s.opened (fillIn l.partials [asW v]) 1 ((l.at_.map fun e => tookOf e.2 v).getD []) l.mails body
      else s.multiEnd srcs dst body
    | _, _, 0 =>
      let act (s : State) : State := let vs := srcs.map s.rd; body vs (s.hold vs)
      if irr || dst.any isG then s.afterCommit fun s => waitRel s act else act s
    | _, _, _ =>
      match (pops.filter isQ).findSome? (s.endCheck 1), (dst.filter isQ).bind (s.endCheck 2) with
      | some c, _ => s.raiseWith c
      | none, some c => s.raiseWith c
      | none, none =>
        s.afterCommit fun s => waitRel s fun s =>
        if twoEnds srcs dst then s.multiEnd srcs dst body
        else match pops with
        | [] => let vs := srcs.map s.rd; body vs (s.hold vs)
        | r :: _ =>
          let ps := s.peek srcs
          if isMb r then s.mailEnd srcs pops.length body
          else if s.endLocal r then
            match s.endQueue r with
            | none => s
            | some q => match s.stampMe.qPop q s.cur (qIx r) false with
              | (.item v, s) => s.opened (fillIn ps [asW v]) 1 (tookOf (s.handle q) v) [] body
              | (_, s) => s.waitEnd r fun _ => { partials := ps }
          else (s.toHome r fun h => .qpop s.cur (qIx r) h false).waitEnd r fun _ => { partials := ps }

/-! Results of register instructions -/

/-- What a register instruction computes: the value for its destination, FP flags, whether the normaliser serves it, further home
turns, and a new PC. -/
structure Eff where
  val : W := 0#64
  flags : Nat := 0
  norm : Bool := false
  hold : Nat := 0
  pc : Option W := none
  deriving DecidableEq, Repr

/-- Enters PARK-NORM (R67): the normaliser serves one slot of the core at a time, in order of entry, and of those that enter in one
cycle the lower slot first; `wakeAt` notes that cycle. -/
def State.parkNorm (s : State) : State :=
  let co := s.core s.myCore
  let q := s.joined co.normQ s.cur co.beat id
  let s := s.modCore s.myCore fun c => { c with normQ := q, normcnt := (c.normcnt + 1) % 2 ^ 64 }
  let s := (q.drop 1).foldl (fun s k => s.modSlot k fun sl => { sl with wait := .norm none }) s
  (s.upd fun sl => { sl with st := .parkNorm, wait := .norm none, wakeAt := co.beat }).normNext s.myCore

/-- Completes a register instruction: PARK-NORM first (R67), then the FP trap (R111), then flags, result, turns and PC. What the
normaliser completes takes no further turns after it (R271; log 84). -/
def State.effect (s : State) (len : Nat) (dst : Option R6) (r : Except Nat Eff) : State :=
  match r with
  | .error c => s.raiseOpen c
  | .ok e =>
    if e.norm && s.me.latch.res.isNone then
      s.parkNorm
    else match s.me.fpTrap e.flags with
    | some c => s.raise c (nat e.flags)
    | none =>
      let next := e.pc.getD (s.me.pc + nat len)
      let hold := if e.norm then 0 else e.hold
      if let some d := dst.filter isQ then
        (s.upd fun sl => { sl with latch := { sl.latch with goto := some next, fin := some (e.flags, hold) } }).finish true len d e.val
      else
      let s := if e.flags = 0 then s else s.upd fun sl => sl.orFlags e.flags
      let s := if hold = 0 then s else s.upd fun sl => { sl with hold := hold }
      let popped := s.me.latch.stage ≠ 0
      match dst with
      | none => if popped then s.retireIrrTo next else s.retireTo next
      | some d =>
        if popped || isG d then (s.wr d e.val).retireIrrTo next
        else (s.wr d e.val).retireTo next

/-- A register instruction: sources, destination, and what it computes from the values read. -/
def State.regOp (s : State) (len : Nat) (srcs : List R6) (dst : Option R6) (f : State → List W → Except Nat Eff) : State :=
  s.withOps len srcs dst false none fun vs s => s.effect len dst (f s vs)

end Sys2Proof.Machine
end

