-- ==== Sys2Proof/Machine/FP.lean ====
section
/-! DEFINITION. Scalar floating point (R108 to R111) and heap maintenance (R112, R113). -/

namespace Sys2Proof.Machine

/-- The format that fn7[6:5] selects (R76, R110). -/
def precFmt (p : BitVec 2) : Fmt := match p.toNat with | 0 => fp32 | 1 => fp64 | 2 => fp16 | _ => bf16

/-- The value of a format held by a register: bits above it are ignored (R108). -/
def Fmt.of (f : Fmt) (w : W) : Nat := w.toNat % 2 ^ f.bits

/-- A result of the FP unit: zero-extended; it parks when FTZ = 0 and a subnormal is met (R67). -/
def FRes.eff (r : FRes) (ftz : Bool) (hold : Nat) : Eff := { val := nat r.bits, flags := r.flags, norm := !ftz && r.sub, hold := hold }

/-- An FP instruction on values of format f: rounding mode, FTZ and the operand encodings give the result. -/
def State.fpOp (s : State) (srcs : List R6) (d : R6) (f : Fmt) (hold : Nat) (op : Nat → Bool → List Nat → FRes) : State :=
  s.regOp 4 srcs (some d) fun s vs => .ok ((op s.me.rm s.me.ftz (vs.map f.of)).eff s.me.ftz hold)

/-- The n-th operand encoding. -/
def enc (l : List Nat) (i : Nat) : Nat := l.getD i 0

/-- FDIV and FSQRT in FP64 take 3 further home turns (R20). -/
def fpHold (p : BitVec 2) : Nat := if p = 1#2 then 3 else 0

/-- A conversion to an integer of the range lo to hi (R68, R110). -/
def Fmt.toIntRes (f : Fmt) (lo hi : Int) (rm : Nat) (ftz : Bool) (b : Nat) : FRes :=
  let (i, fl) := (f.valueFtz ftz b).toInt rm lo hi
  ⟨(BitVec.ofInt 64 i).toNat, fl, f.subnormal b⟩

/-- A conversion between formats (R64, R65, R67), as a scalar: position 0 of its group. -/
def convert (q t : Fmt) (mode : Nat) (ftz : Bool) (b : Nat) : FRes :=
  let v := q.valueFtz ftz b
  let r := t.result mode ftz v 0 (scalarHash (t.d v))
  { r with sub := r.sub || (q.wide && q.subnormal b) }

/-- FCVTF when source and destination formats are the same (R110; log 17): NaN becomes canonical, another value is returned unchanged. A
subnormal is read as FTZ has it: as zero, or by the normaliser (R67). -/
def sameFormat (q : Fmt) (ftz : Bool) (b : Nat) : FRes :=
  let v := q.value b
  if v.isNan then ⟨q.canon, if v.isSnan then fNV else 0, false⟩
  else if ftz && q.subnormal b then ⟨signed q v.neg 0, 0, true⟩
  else ⟨b, 0, q.subnormal b⟩

/-- FADD (Table 04-5). -/
def execFadd (d a b : R6) (p : BitVec 2) (s : State) : Out :=
  .next (s.fpOp [a, b] d (precFmt p) 0 fun rm z v => (precFmt p).fadd rm z (enc v 0) (enc v 1))

/-- FSUB (Table 04-5). -/
def execFsub (d a b : R6) (p : BitVec 2) (s : State) : Out :=
  .next (s.fpOp [a, b] d (precFmt p) 0 fun rm z v => (precFmt p).fsub rm z (enc v 0) (enc v 1))

/-- FMUL (Table 04-5). -/
def execFmul (d a b : R6) (p : BitVec 2) (s : State) : Out :=
  .next (s.fpOp [a, b] d (precFmt p) 0 fun rm z v => (precFmt p).fmul rm z (enc v 0) (enc v 1))

/-- FDIV (Table 04-5). -/
def execFdiv (d a b : R6) (p : BitVec 2) (s : State) : Out :=
  .next (s.fpOp [a, b] d (precFmt p) (fpHold p) fun rm z v => (precFmt p).fdiv rm z (enc v 0) (enc v 1))

/-- FSQRT (Table 04-5). -/
def execFsqrt (d a : R6) (p : BitVec 2) (s : State) : Out :=
  .next (s.fpOp [a] d (precFmt p) (fpHold p) fun rm z v => (precFmt p).fsqrt rm z (enc v 0))

/-- FMA (Table 04-5): rd is the addend. -/
def execFma (d a b : R6) (p : BitVec 2) (s : State) : Out :=
  .next (s.fpOp [a, b, d] d (precFmt p) 0 fun rm z v => (precFmt p).fma rm z (enc v 0) (enc v 1) (enc v 2))

/-- FMIN (R109). -/
def execFmin (d a b : R6) (p : BitVec 2) (s : State) : Out :=
  .next (s.fpOp [a, b] d (precFmt p) 0 fun _ z v => (precFmt p).fminmax false z (enc v 0) (enc v 1))

/-- FMAX (R109). -/
def execFmax (d a b : R6) (p : BitVec 2) (s : State) : Out :=
  .next (s.fpOp [a, b] d (precFmt p) 0 fun _ z v => (precFmt p).fminmax true z (enc v 0) (enc v 1))

/-- FEQ (R109). -/
def execFeq (d a b : R6) (p : BitVec 2) (s : State) : Out :=
  .next (s.fpOp [a, b] d (precFmt p) 0 fun _ z v => (precFmt p).fcmp 0 z (enc v 0) (enc v 1))

/-- FLT (R109). -/
def execFlt (d a b : R6) (p : BitVec 2) (s : State) : Out :=
  .next (s.fpOp [a, b] d (precFmt p) 0 fun _ z v => (precFmt p).fcmp 1 z (enc v 0) (enc v 1))

/-- FLE (R109). -/
def execFle (d a b : R6) (p : BitVec 2) (s : State) : Out :=
  .next (s.fpOp [a, b] d (precFmt p) 0 fun _ z v => (precFmt p).fcmp 2 z (enc v 0) (enc v 1))

/-- FCLASS (Table 04-6): reads only the encoding. -/
def execFclass (d a : R6) (p : BitVec 2) (s : State) : Out :=
  .next (s.fpOp [a] d (precFmt p) 0 fun _ _ v => ⟨(precFmt p).fclass (enc v 0), 0, false⟩)

/-- FNEG (Table 04-5): reads only the encoding. -/
def execFneg (d a : R6) (p : BitVec 2) (s : State) : Out :=
  .next (s.fpOp [a] d (precFmt p) 0 fun _ _ v => ⟨(precFmt p).fneg (enc v 0), 0, false⟩)

/-- FABS (Table 04-5): reads only the encoding. -/
def execFabs (d a : R6) (p : BitVec 2) (s : State) : Out :=
  .next (s.fpOp [a] d (precFmt p) 0 fun _ _ v => ⟨(precFmt p).fabs (enc v 0), 0, false⟩)

/-- FCVTI (R110). -/
def execFcvti (d a : R6) (p : BitVec 2) (s : State) : Out :=
  .next (s.fpOp [a] d (precFmt p) 0 fun rm z v => (precFmt p).toIntRes (-(2 ^ 63)) (2 ^ 63 - 1) rm z (enc v 0))

/-- FCVTU (R110). -/
def execFcvtu (d a : R6) (p : BitVec 2) (s : State) : Out :=
  .next (s.fpOp [a] d (precFmt p) 0 fun rm z v => (precFmt p).toIntRes 0 (2 ^ 64 - 1) rm z (enc v 0))

/-- ICVTF (R110): never parks. -/
def execIcvtf (d a : R6) (p : BitVec 2) (s : State) : Out :=
  .next (s.regOp 4 [a] (some d) fun s vs =>
    let v := FV.ofInt (vs.headD 0#64).toInt
    let r := (precFmt p).round s.me.rm v (scalarHash ((precFmt p).d v))
    .ok { val := nat r.bits, flags := r.flags })

/-- FCVTF from precision p to precision t (R110). -/
def execFcvtf (d a : R6) (t p : BitVec 2) (s : State) : Out :=
  .next (s.fpOp [a] d (precFmt p) 0 fun rm z v =>
    if p = t then sameFormat (precFmt p) z (enc v 0) else convert (precFmt p) (precFmt t) rm z (enc v 0))

/-! The heap (R112, R113) -/

/-- The score of an entry {score, id}. -/
def score (e : Nat) : FV := fp32.value (e / 2 ^ 32)

/-- Entries i and j exchanged. -/
def swapAt (l : List Nat) (i j : Nat) : List Nat := (l.set i (l.getD j 0)).set j (l.getD i 0)

/-- Entry j moves up while its parent's score is greater; `f` bounds the depth. -/
def siftUp : Nat → Nat → List Nat → List Nat
  | 0, _, l => l
  | f + 1, j, l =>
    let p := (j - 1) / 2
    if 0 < j ∧ (score (l.getD j 0)).lt (score (l.getD p 0)) then siftUp f p (swapAt l j p) else l

/-- Entry j moves down below a child of smaller score; the left child on equal scores. -/
def siftDown : Nat → Nat → Nat → List Nat → List Nat
  | 0, _, _, l => l
  | f + 1, n, j, l =>
    let a := 2 * j + 1
    if a ≥ n then l else
    let c := if a + 1 < n ∧ (score (l.getD (a + 1) 0)).lt (score (l.getD a 0)) then a + 1 else a
    if (score (l.getD c 0)).lt (score (l.getD j 0)) then siftDown f n c (swapAt l j c) else l

/-- HSIFT on a heap of capacity and count: the result for rd, and the count and entries that WriteHeap writes; a NaN score writes
nothing. -/
def heapInsert (cap n : Nat) (l : List Nat) (b : Nat) : Nat × Option (Nat × List Nat) :=
  if (score b).isNan then (b, none)
  else if n < cap then (2 ^ 64 - 1, some (n + 1, siftUp 5 n (l.set n b)))
  else if (score (l.getD 0 0)).lt (score b) then (l.getD 0 0, some (n, siftDown 5 n 0 (l.set 0 b)))
  else (b, some (n, l))

/-- The checks of a heap pointer (R112): its place in the issuing core's TCM. -/
def State.heapAt (s : State) (p : W) : Except Nat Nat :=
  match s.resolve s.myCore p with
  | .error c => .error c
  | .ok t =>
    if 3 ≤ spc p ∧ spc p ≤ 5 ∧ !t.remote ∧ t.off % 8 = 0 ∧ t.off + 136 ≤ 0x40000 then .ok t.at_ else .error 78

/-- A heap's bytes. -/
def heapBytes (cap n : Nat) (l : List Nat) : List Byte := leBytes (cap * 256 + n) 8 ++ l.flatMap fun e => leBytes e 8

/-- HINIT (R113). -/
def execHinit (a b : R6) (s : State) : Out :=
  .next (s.withOps 4 [a, b] none true none fun vs s =>
    let p := vs.getD 0 0#64
    let n := vs.getD 1 0#64
    match s.heapAt p with
    | .error c => s.raiseOpen c
    | .ok h =>
      if n.toNat < 1 ∨ n.toNat > 16 then s.raiseOpen 168
      else (s.write (some s.cur) false h (heapBytes n.toNat 0 (List.replicate 16 0))).retireIrr 4)

/-- HSIFT (R113): one read-modify-write of the 136 bytes; a poisoned word is cause 128 (R119), before
cause 168 of the header (DESIGN CHOICE: log 18). -/
def execHsift (d a b : R6) (s : State) : Out :=
  .next (s.withOps 4 [a, b] (some d) true none fun vs s =>
    let p := vs.getD 0 0#64
    match s.heapAt p with
    | .error c => s.raiseOpen c
    | .ok h =>
      let hd := s.num h 8
      let cap := bitsOf hd 8 5
      let n := bitsOf hd 0 5
      if s.anyPoison h 136 then s.raiseOpen 128
      else if hd / 2 ^ 13 ≠ 0 ∨ bitsOf hd 5 3 ≠ 0 ∨ cap < 1 ∨ cap > 16 ∨ n > cap then s.raiseOpen 168
      else
        let l := (List.range 16).map fun j => s.num (h + 8 + 8 * j) 8
        match heapInsert cap n l (vs.getD 1 0#64).toNat with
        | (r, none) => s.pure.finish true 4 d (nat r)
        | (r, some (n', l')) =>
          ((s.undoable d (.bytes h (s.bytes h 136))).write (some s.cur) false h (heapBytes cap n' l')).finish true 4 d (nat r))

end Sys2Proof.Machine
end

