-- ==== Sys2Proof/Machine/Home.lean ====
section
/-! DEFINITION. The indivisible steps performed at the home of a place: FE operations and their waiters (R121 to R123), AMOs (R126),
claims (R152), byte barriers (R229, R230) and ROUTE (R241, R242). -/

namespace Sys2Proof.Machine

/-- What a step at a home gives. -/
inductive HomeRes where
  | val (v : V512)
  | wait
  /-- a fault, with the TVAL where it is not the pointer -/
  | fault (c : Nat) (t : Option W := none)
  deriving DecidableEq, Repr

/-- A register value as an answer. -/
def HomeRes.w (v : W) : HomeRes := .val (v.setWidth 512)

/-- What a change of a word's FE bit does to others: monitors, and for a global word the chunks and copies that hold its line
(R137, R253). -/
def State.touch (s : State) (by_ : Option Nat) (a : Nat) : State :=
  let s := s.trigger [lineOf a]
  if isGlobal a then
    let s := s.squashReaders by_ [lineOf a]
    { s with
      l1d := s.l1d.filter fun (c, l) => l ≠ lineOf a || (by_.map coreOf) == some c
      clusters := s.clusters.map fun (p, c) => (p, { c with mirrors := c.mirrors.filter fun m => !(m / 64 == lineOf a || m / 64 + 1 == lineOf a) }) }
  else s

/-- A write of a home step, with its effect on the page's marks. -/
def State.homeWrite (s : State) (by_ : Option Nat) (remote : Bool) (a : Nat) (data : List Byte) : State :=
  let s := s.write by_ remote a data
  if a ≥ glb0 then s.notePages [a] else s

/-- The entry that a port appends to its trace ring for a remote store (kind 0), AMO (1) or FE instruction (2) of n bytes by slot k
that it applies at a (R259); a scratchpad port takes the cycle of its cluster's core 0 (log 25). What comes between two cycles belongs to
the one last begun (log 14), and what the core's own turn sets off to that turn's. -/
def State.traceNote (s : State) (k a kind n : Nat) : State :=
  let tcm := 2 ^ 61 ≤ a
  let c := if tcm then (a - 2 ^ 61) / 2 ^ 18 else (a - 2 ^ 60) / 2 ^ 21 * 8
  let port := if tcm then c % 8 else 8
  let off := if tcm then a % 2 ^ 18 else a % 2 ^ 21
  let now := (s.core c).cyc + (if s.ending = some c then 0 else 2 ^ 64 - 1)
  let e := (nat (2 ^ 63 + kind * 2 ^ 61 + Nat.log2 n * 2 ^ 59 + s.tid k * 2 ^ 36 + off), nat (now % 2 ^ 64))
  s.modClu (c / 8) fun cl =>
    let r := Tbl.get [] cl.rings port ++ [e]
    { cl with rings := cl.rings.put port (if r.length > 1024 then r.drop 1 else r) }

/-- Notes a step that a remote slot's access performs at a port. -/
def State.traced (s : State) (k : Nat) (remote : Bool) (a kind n : Nat) : State := if remote then s.traceNote k a kind n else s

/-- Sets the FE bit of a word; a change is a write to its block. -/
def State.feSet (s : State) (by_ : Option Nat) (a : Nat) (full : Bool) : State :=
  if s.fullAt a = full then s else (s.setFull a full).touch by_ a

/-- The FE bit that an instruction waits for. -/
def FeOp.needs : FeOp → Option Bool
  | .ldf | .ldff => some true
  | .ste => some false
  | _ => none

/-- One FE instruction on a word whose condition may or may not hold (Table 05-3). -/
def State.feStep (s : State) (k : Nat) (remote : Bool) (a : Nat) (op : FeOp) (b : W) : HomeRes × State :=
  let full := s.fullAt a
  if op.needs = some (!full) then (.wait, s)
  else match op with
  | .ste | .stf => (.w 0#64, ((s.traced k remote a 2 8).homeWrite (some k) remote a (leBytes b.toNat 8)).feSet (some k) a true)
  | op =>
    if s.poisonAt a then (.fault 128, s) else
    let v := nat (s.num a 8)
    let s := s.traced k remote a 2 8
    match op with
    | .ldf => (.w v, s.feSet (some k) a false)
    | .ldff => (.w v, s)
    | .feset => (.w 0#64, (s.feSet (some k) a true).notePages [a])
    | .feclr => (.w 0#64, (s.feSet (some k) a false).notePages [a])
    | _ => (.w (bit full), s)

/-- Slot k reaches the place without a message: a global place, its own core's TCM or its own cluster's scratchpad. -/
def near (k a : Nat) : Bool :=
  isGlobal a || (2 ^ 61 ≤ a && (a - 2 ^ 61) / 2 ^ 18 == coreOf k) || (a < 2 ^ 61 && 2 ^ 60 ≤ a && (a - 2 ^ 60) / 2 ^ 21 == cluOf k)

/-- The interface at which a local place is reached: the core of a TCM, the engine interface of a scratchpad's cluster. -/
def portOf (a : Nat) : Nat := if 2 ^ 61 ≤ a then (a - 2 ^ 61) / 2 ^ 18 else engIf ((a - 2 ^ 60) / 2 ^ 21)

/-- The port by whose cycles the home of a place goes: that of the slice for a GLB place, of the die for its SRAM. -/
def clockPort (a : Nat) : Nat :=
  if a ≥ glb0 then portSlice (sliceOf (glbVa a)) else if isGlobal a then edgeIf ((a - 2 ^ 62) / 2 ^ 25) else portOf a

/-- Gives slot k the outcome of a step at place a: in place where it reaches the place itself, by a reply elsewhere. -/
def State.homeAnswer (s : State) (k part a : Nat) (r : HomeRes) (ptr : W) : State :=
  if near k a then
    match r with
    | .val v => s.complete k v
    | .fault c t => s.raiseAt k c (t.getD ptr)
    | .wait => s
  else
    match r with
    | .val v => s.answer (s.ctxOf (coreOf k)) (portOf a) k part (.val v)
    | .fault c t => s.answer (s.ctxOf (coreOf k)) (portOf a) k part (.fault c (t.getD ptr))
    | .wait => s

/-- Completes the oldest waiter of the word at a whose condition holds, and so on until none is left (R123). -/
def State.feWake (s : State) (a : Nat) : Nat → State
  | 0 => s
  | f + 1 =>
    match s.feWait.find? fun w => w.place == a && w.op.needs != some (!(s.fullAt a)) with
    | none => s
    | some w =>
      let s : State := { s with feWait := s.feWait.erase w }
      let (r, s) := s.feStep w.k (!near w.k a) a w.op w.b
      (s.homeAnswer w.k 0 a r (((s.slot w.k).latch.vals.getD []).headD 0#64)).feWake a f

/-- After a possible change of the FE bit of the word at a. -/
def State.feChanged (s : State) (a : Nat) : State := s.feWake a s.feWait.length

/-! AMOs -/

/-- AmoStep of R126 on the w-bit value m: the new value, none for a CAS that fails. -/
def amoStep (op : AmoOp) (w rm m b e0 : Nat) : Option Nat :=
  let f := if w = 64 then fp64 else fp32
  match op with
  | .add => some ((m + b) % 2 ^ w)
  | .and => some (m &&& b)
  | .or => some (m ||| b)
  | .xor => some (m ^^^ b)
  | .min => some (if sInt b w < sInt m w then b else m)
  | .max => some (if sInt b w > sInt m w then b else m)
  | .minu => some (if b < m then b else m)
  | .maxu => some (if b > m then b else m)
  | .swap => some b
  | .cas => if m = e0 then some b else none
  | .fadd => some (f.fadd rm false m b).bits
  | .fmin => some (f.fminmax false false m b).bits
  | .fmax => some (f.fminmax true false m b).bits

/-- The value that an AMO returns (Table 05-5). -/
def amoOld (w m : Nat) (sx : Bool) : W := if w = 32 ∧ sx then (BitVec.ofNat 32 m).signExtend 64 else nat m

/-! ClaimChunk (R152) -/

/-- The iterations that a claim takes from REMAIN. -/
def claimSize (old gp : Nat) : Nat := Nat.min (Nat.max 1 (ceilDiv old gp)) (2 ^ 24 - 1)

/-! ROUTE (R240, R241) -/

/-- The ranked expert that ROUTE takes: its rank and id, or a fault, or a drop. -/
def State.routePick (s : State) (a nexp : Nat) : List Nat → Nat → Except (Nat × Option W) (Option (Nat × Nat))
  | [], _ => .ok none
  | id :: r, k =>
    if id ≥ nexp then .error (324, some (nat id))
    else
      let e := a + 8 + 8 * id
      if s.poisonAt e then .error (128, none)
      else if s.num e 4 < s.num (e + 4) 4 then .ok (some (k, id))
      else s.routePick a nexp r (k + 1)

/-- The places of the words that a ROUTE step on the table at a may read. -/
def routeWords (a : Nat) (ids : List Nat) (start nexp : Nat) : List Nat := a :: ((ids.drop start).filter (· < nexp)).map fun id => a + 8 + 8 * id

/-- DropLog (R310) of the item {table pointer, token}: the token in the less significant half (R8). -/
def State.dropLog (s : State) (x : Nat) (tab : W) (tok : Nat) : State :=
  let cx := s.ctx x
  let cap := fld cx.droplog 52 12 * 256
  let s' := s.modCtx x fun cx => { cx with dropcnt := cx.dropcnt + 1#64 }
  if cap = 0 then s'
  else s'.write none false ((fld cx.droplog 12 40 * 4096 + 16 * (cx.dropcnt.toNat % cap)) % 2 ^ 40) (leBytes tok 8 ++ leBytes tab.toNat 8)

/-- A ROUTE step on the table at place a by slot k. -/
def State.routeStep (s : State) (k : Nat) (remote : Bool) (a : Nat) (ids : List Nat) (start tok : Nat) (tab : W) : HomeRes × State :=
  let h := s.num a 8
  let nexp := h % 65536
  if s.poisonAt a then (.fault 128, s)
  else if bitsOf h 16 16 ≠ 0 ∨ nexp = 0 ∨ 8 + 8 * nexp > s.roomAt k a then (.fault 326, s)
  else match s.routePick a nexp (ids.drop start) start with
  | .error (c, t) => (.fault c t, s)
  | .ok (some (r, id)) =>
    let e := a + 8 + 8 * id
    (.w (nat (r * 2 ^ 32 + id)), s.homeWrite (some k) remote e (leBytes (s.num e 4 + 1) 4))
  | .ok none =>
    let s := s.homeWrite (some k) remote (a + 4) (leBytes (s.num (a + 4) 4 + 1) 4)
    (.w (BitVec.allOnes 64), s.dropLog (s.ctxOf (coreOf k)) tab tok)

/-! Every home step -/

/-- Enters a waiter of an FE word: by time, and within a cycle by virtual thread id (R123). -/
def State.feEnter (s : State) (w : FeWaiter) : State :=
  let before (o : FeWaiter) : Bool := !(o.place == w.place && o.beat == w.beat && s.tid o.k > s.tid w.k)
  { s with feWait := s.feWait.takeWhile before ++ w :: s.feWait.dropWhile before }

/-- One indivisible step of slot k at place a. -/
def State.homeStep (s : State) (k : Nat) (remote : Bool) (a : Nat) (op : HomeOp) : HomeRes × State :=
  match op with
  | .load n => if s.anyPoison a n then (.fault 128, s) else (.val (BitVec.ofNat 512 (s.num a n)), s)
  | .store d => if s.partialPoison a d.length then (.fault 129, s) else (.w 0#64, (s.traced k remote a 0 d.length).homeWrite (some k) remote a d)
  | .fe f b =>
    match s.feStep k remote a f b with
    | (.wait, s) => (.wait, s.feEnter ⟨k, a, f, b, s.beatAt (clockPort a)⟩)
    | (r, s) => (r, s)
  | .amo o w b e0 rm sx =>
    if s.poisonAt a then (.fault 128, s) else
    let s := s.traced k remote a 1 (w / 8)
    let m := s.num a (w / 8)
    let r := HomeRes.w (amoOld w m sx)
    match amoStep o w rm m (b.toNat % 2 ^ w) (e0.toNat % 2 ^ w) with
    | some n => (r, s.homeWrite (some k) remote a (leBytes n (w / 8)))
    | none => (r, s)
  | .claim gp total =>
    if s.poisonAt a then (.fault 128, s) else
    let old := s.num a 5
    if old = 0 then (.val 0#512, s)
    else
      let n := claimSize old gp
      (.val (BitVec.ofNat 512 (n + 2 ^ 64 * ((total + 2 ^ 40 - old) % 2 ^ 40))), s.homeWrite (some k) remote a (leBytes (old - n) 5))
  | .route ids start tok tab => s.routeStep k remote a ids start tok tab
  | .bbinit b => (.w 0#64, s.homeWrite (some k) remote a (leBytes (b.toNat * 2 ^ 32 + b.toNat) 8))
  | .bbexpect b =>
    if s.poisonAt a then (.fault 128, s)
    else if s.num a 4 + b.toNat ≥ 2 ^ 32 then (.fault 295 (some b), s)
    else (.w 0#64, s.homeWrite (some k) remote a (leBytes (s.num a 4 + b.toNat) 4))
  | .bbwait ph =>
    if s.poisonAt a then (.fault 128, s)
    else if (s.num a 8).testBit 63 ≠ ph then (.w (nat (s.num a 8)), s)
    else (.wait, { s with bbWait := s.bbWait ++ [(a, k)] })

/-- The state in which a slot waits at a home. -/
def HomeOp.parked : HomeOp → SlotSt × Wait
  | .bbwait _ => (.parkBar, .bbar)
  | _ => (.parkFe, .fe)

/-- After a home step: FE waiters of the word (R123). -/
def State.homeAfter (s : State) (a : Nat) : HomeOp → State
  | .fe .. => s.feChanged a
  | _ => s

/-- A step in the issuing turn at a place that the issuing slot reaches itself; `done` takes its value. -/
def State.homeNow (s : State) (a : Nat) (op : HomeOp) (ptr : W) (done : V512 → State → State) : State :=
  match s.homeStep s.cur false a op with
  | (.val v, s) => done v (s.homeAfter a op)
  | (.wait, s) => s.park op.parked.1 op.parked.2
  | (.fault c t, s) => s.raise c (t.getD ptr)

/-- Makes a reservation at the slice of a global place (R127): a walk is asked for where no translation is held. -/
def State.reserve (s : State) (red : Bool) (a : Nat) (op : HomeOp) (ptr : W) : State :=
  let id := s.serial
  let x := glbCtx a
  let va := glbVa a
  let s : State := { s with serial := id + 1, resv := s.resv ++ [⟨s.cur, red, a, op, s.ctxOf s.myCore, ptr, false, id⟩] }
  if a ≥ glb0 ∧ (s.trans x va).isNone then
    { s with walks := s.walks ++ [⟨if red then .red id else .slot s.cur, sliceOf va, x, va, true, (match op with | .fe .. => true | _ => false), 0, none⟩] }
  else s

/-- Performs an operation at the home of a target (R122, R127): in the issuing turn, under a reservation, or at another unit's port;
`done` takes the value that completes it in place. -/
def State.atHome (s : State) (t : Tgt) (op : HomeOp) (ptr : W) (done : V512 → State → State) : State :=
  s.onReply done fun s =>
    let a := t.at_
    if isGlobal a then (s.reserve false a op ptr).park .parkMem .resv
    else if t.remote then
      ((s.send (s.ctxOf s.myCore) s.myCore (portOf a) (.access s.cur 0 a op true t.vc ptr)).upd fun sl => { sl with latch := { sl.latch with left := 1 } }).park .parkMem .reply
    else s.homeNow a op ptr done

end Sys2Proof.Machine
end

