-- ==== Sys2Proof/Machine/Agent.lean ====
section
/-! DEFINITION. How a unit that is no slot (a service sequencer, an engine, an agent) reaches the GLB view of a context: the
translation it needs, the permissions, the lines (R115, R223, R291, R301, R327). -/

namespace Sys2Proof.Machine

/-- What stands in the way of an access to GLB bytes. -/
inductive Ready where
  | ok
  /-- no translation for this address -/
  | missing (va : Nat)
  /-- this permission fault at this address -/
  | deny (c va : Nat)
  deriving DecidableEq, Repr

/-- The permission fault of an access under a translation (R115); that of U concerns mode U alone (Table 12-5), in which a unit acts for
every slot but a ringmaster's. -/
def Trans.deny (t : Trans) (rd wr : Bool) (user : Bool := true) : Option Nat :=
  if rd && !t.r then some 96 else if wr && !t.w then some 97 else if user && !t.u then some 98 else none

/-- The view of context x in which an operation of slot k reaches memory: 2^24 marks mode F, which U = 0 does not stop (Table 12-5). -/
def viewOf (k x : Nat) : Nat := if modeF k then 2 ^ 24 + x else x
/-- The permission fault of an access in a view. -/
def Trans.denyIn (t : Trans) (v : Nat) (rd wr : Bool) : Option Nat := t.deny rd wr (v < 2 ^ 24)

/-- Whether n bytes at address va can be reached in view v, line by line. -/
def State.ready (s : State) (v va n : Nat) (rd wr : Bool) : Ready :=
  ((linesOf va n).findSome? fun l =>
    let a := Nat.max va (l * 64)
    match s.trans (v % 2 ^ 24) a with
    | none => some (Ready.missing a)
    | some t => (t.denyIn v rd wr).map fun c => Ready.deny c a).getD .ok

/-- Brings a line of a GLB view in, under the translation that its slice holds. -/
def State.haveLine (s : State) (x va : Nat) : State :=
  let l := lineOf (glbAt x va)
  if (s.lines.find l).isSome then s else
  match s.tlb x va with
  | some t => s.held l t
  | none => s

/-- Brings in the lines of n bytes at va. -/
def State.haveLines (s : State) (x va n : Nat) : State := (linesOf va n).foldl (fun s l => s.haveLine x (l * 64)) s

/-- Whether this requester waits for a walk. -/
def State.walking (s : State) (w : Who) : Bool := s.walks.any fun k => k.who == w

/-- A requester's access arrives at its slice without a translation there. -/
def State.askWalk (s : State) (w : Who) (x va : Nat) (wr fea : Bool := false) : State :=
  if s.walks.any fun k => k.who == w && k.x == x && k.va == va then s
  else { s with walks := s.walks ++ [⟨w, sliceOf va, x, va, wr, fea, 0, none⟩] }

/-- A matrix operation that reads watched weights holds the region of a GLB place (R217). -/
def State.regionHeld (s : State) (a : Nat) : Bool :=
  a ≥ glb0 && match (s.trans (glbCtx a) (glbVa a)).bind (·.watch) with
    | some w => s.clusters.any fun (_, c) => c.matq.any fun o => o.region == some (glbCtx a * 64 + w)
    | none => false

/-- A write to n bytes at a place must wait: the solo grantee has read them (R254), a dirty log is full (R301), or watched weights
are being read (R217). -/
def State.mustWait (s : State) (by_ : Option Nat) (a n : Nat) : Bool :=
  s.soloHolds by_ (linesOf a n) || s.logOver ((linesOf a n).map fun l => Nat.max a (l * 64)) || (linesOf a n).any fun l => s.regionHeld (l * 64)

/-- A unit's write that takes its place in G: its pages are noted (R255, R301, R304). -/
def State.unitWrite (s : State) (a : Nat) (data : List Byte) : State :=
  let s := s.write none true a data
  if a ≥ glb0 then s.notePages ((linesOf a data.length).map fun l => Nat.max a (l * 64)) else s

end Sys2Proof.Machine
end

