-- ==== Sys2Proof/Machine/Access.lean ====
section
/-! DEFINITION. Loads and stores of one or more pieces (R114 to R119, R132): lines brought into the L1D, remote pieces by
message, speculative stores, poison. -/

namespace Sys2Proof.Machine

/-- One piece of an access: its number in the instruction, the pointer that names it (TVAL), where it leads, and its bytes. -/
structure Piece where
  part : Nat
  ptr : W
  tgt : Tgt
  n : Nat
  data : List Byte := []
  deriving DecidableEq, Repr

/-- The line numbers of a global piece. -/
def Piece.lines (p : Piece) : List Nat := if isGlobal p.tgt.at_ then linesOf p.tgt.at_ p.n else []

/-- The issuing core holds a line: in its L1D, with the committed bytes known. -/
def State.cached (s : State) (c l : Nat) : Bool := s.l1d.contains (c, l) && (l * 64 < glb0 || (s.lines.find l).isSome)

/-- The permission fault of a piece whose lines are held. -/
def State.pieceDeny (s : State) (p : Piece) (wr : Bool) : Option Nat :=
  p.lines.findSome? fun l => (s.lines.find l).bind fun c => c.tr.deny (!wr) wr (!modeF s.cur)

/-- The word at w holds poison that the slot's chunk has not overwritten whole. -/
def State.poisonSeen (s : State) (k w : Nat) : Bool :=
  s.poisonAt w && !((List.range 8).all fun i => ((s.slot k).chunk.stores.find (w + i)).isSome)

/-- The pieces together write all 8 bytes of the word at w; the lanes of one vector store count together (DESIGN CHOICE: log 32). -/
def coverWord (ps : List Piece) (w : Nat) : Bool :=
  (List.range 8).all fun i => ps.any fun p => !p.tgt.remote && p.tgt.at_ ≤ w + i && w + i < p.tgt.at_ + p.n

/-- The poison fault of a piece in the places that the slot reaches itself; a store's pieces are judged together (R119). -/
def State.piecePoison (s : State) (all : List Piece) (p : Piece) (wr : Bool) : Option Nat :=
  let a := p.tgt.at_
  if p.tgt.remote then none
  else if wr then (if (wordsOf a p.n).any fun w => s.poisonSeen s.cur w && !coverWord all w then some 129 else none)
  else if (wordsOf a p.n).any (s.poisonSeen s.cur) then some 128 else none

/-- The fault of a piece, with its TVAL. -/
def State.pieceErr (s : State) (wr : Bool) (all : List Piece) (p : Piece) : Option (Nat × W) :=
  ((s.pieceDeny p wr).orElse fun _ => s.piecePoison all p wr).map fun c => (c, p.ptr)

/-- The places of a piece's lines. -/
def Piece.places (p : Piece) : List Nat := p.lines.map fun l => Nat.max p.tgt.at_ (l * 64)

/-- The issuing core holds every line of a piece. -/
def State.holds (s : State) (p : Piece) : Bool := p.lines.all (s.cached s.myCore)

/-- What the pieces of an access meet, judged in ascending order (R132): those before the first whose lines the core does not hold or that
fails, and that one's lines to be brought or its fault; `err` is the fault of a piece after them all. -/
structure Judged where
  ok : List Piece
  bring : List Nat := []
  bad : Option (Nat × W) := none
  deriving DecidableEq, Repr

/-- Judges pieces. The lines of those before a missing one are named with it, so that the L1D keeps them. -/
def State.judge (s : State) (wr : Bool) (ps : List Piece) (err : Option (Nat × W)) : Judged :=
  let ok := ps.takeWhile fun p => s.holds p && (s.pieceErr wr ps p).isNone
  match (ps.drop ok.length).head? with
  | none => { ok := ok, bad := err }
  | some p => if s.holds p then { ok := ok, bad := s.pieceErr wr ps p } else { ok := ok, bring := (ok ++ [p]).flatMap (·.places) }

/-- The slice that serves a place. -/
def sliceAt (a : Nat) : Nat := if a ≥ glb0 then sliceOf (glbVa a) else 0

/-- Parks until the missing lines have come (R116): a walk is asked for where a slice holds neither the line nor a translation (R246). Where the L1D could take
them only in place of marked lines, the chunk ends first; the first access of a chunk waits (R251). -/
def State.fill (s : State) (as : List Nat) (all : List Nat) (wr : Bool) : State :=
  if !(s.l1dRoom s.myCore (as.map lineOf ++ all)) && s.me.chunk.global then s.parkRe .parkMem .commit else
  let s := as.foldl (fun s a =>
    if a ≥ glb0 ∧ (s.trans (glbCtx a) (glbVa a)).isNone then
      { s with walks := s.walks ++ [⟨.slot s.cur, sliceAt a, glbCtx a, glbVa a, wr, false, 0, none⟩] }
    else s) s
  (s.send (s.ctxOf s.myCore) (portSlice (sliceAt (as.headD 0))) s.myCore (.reply s.cur 0 (.val 0#512))).park .parkMem (.fill as wr)

/-- The byte that the slot sees: its own speculative bytes first (R251). -/
def State.seen (s : State) (k a : Nat) : Byte :=
  match (s.slot k).chunk.stores.find a with | some b => b | none => s.byteAt a

/-- The bytes of a piece, held or fetched by a reply. -/
def State.pieceBytes (s : State) (p : Piece) : List Byte :=
  if p.tgt.remote then leBytes (Tbl.get 0#512 s.me.latch.parts p.part).toNat p.n
  else (List.range p.n).map fun i => s.seen s.cur (p.tgt.at_ + i)

/-- Marks lines as read by the slot's chunk (R117, R251). -/
def State.markRead (s : State) (ls : List Nat) : State :=
  s.upd fun sl => { sl with chunk := { sl.chunk with reads := ls.foldl (fun t l => t.put l true) sl.chunk.reads } }

/-- A global access outside a chunk (`irr`) comes after the slot's no-return AMOs (R255). -/
def State.behind (s : State) (irr : Bool) (ps : List Piece) : Bool := irr && s.me.reds ≠ 0 && ps.any fun p => isGlobal p.tgt.at_

/-- Reads all pieces, or parks, or faults; the body gets their bytes in order. `irr`: the instruction belongs to no chunk; `err`: what
is wrong with the piece after these. The first piece that fails gives the fault (R132), so the remote ones before it are read, and the
lines of those after it are not asked for. -/
def State.loadAll (s : State) (irr : Bool) (ps : List Piece) (body : List (List Byte) → State → State) (err : Option (Nat × W) := none) : State :=
  if s.behind irr ps then s.parkRe .parkMem (.acks 0) else
  let j := s.judge false ps err
  let far := j.ok.filter fun p => p.tgt.remote && (s.me.latch.parts.find p.part).isNone
  if !far.isEmpty then
    let s := far.foldl (fun s p =>
      s.send (s.ctxOf s.myCore) s.myCore (portOf p.tgt.at_) (.access s.cur p.part p.tgt.at_ (.load p.n) true p.tgt.vc p.ptr)) s
    (s.upd fun sl => { sl with latch := { sl.latch with left := far.length } }).park .parkMem .reply
  else if !j.bring.isEmpty then s.fill j.bring (ps.flatMap (·.lines)) false
  else match j.bad with
  | some (c, t) => s.raise c t
  | none =>
    let bs := ps.map s.pieceBytes
    body bs (if irr then s else s.markRead (ps.flatMap (·.lines)))

/-- Distinct lines that a slot's speculative stores occupy (log 21). -/
def Chunk.storeLines (c : Chunk) : List Nat := (c.stores.map fun (a, _) => lineOf a).eraseDups

/-- Sends the remote stores that have not been sent, eight unacknowledged at most (R116); then the instruction ends. -/
def State.sendStores (s : State) (len : Nat) : List Piece → State
  | [] => s.retireIrr len
  | p :: ps =>
    if (s.me.latch.parts.find p.part).isSome then s.sendStores len ps
    else if s.me.acks.length ≥ 8 then s.park .parkMem (.acks 4)
    else
      let s := s.send (s.ctxOf s.myCore) s.myCore (portOf p.tgt.at_) (.access s.cur p.part p.tgt.at_ (.store p.data) false p.tgt.vc p.ptr)
      (s.upd fun sl => { sl with acks := sl.acks ++ [p.tgt.vc], latch := { sl.latch with parts := sl.latch.parts.put p.part 0#512 } }).sendStores len ps

/-- The mark of an instruction whose near pieces are written. -/
def nearDone : Nat := 2 * faultKey

/-- A write of all 8 bytes of a word by pieces together clears its poison (R119). -/
def State.healCovered (s : State) (ps : List Piece) : State :=
  (ps.flatMap fun p => wordsOf p.tgt.at_ p.n).foldl (fun s w => if s.poisonAt w && coverWord ps w then s.setPoison w false else s) s

/-- The translations of the GLB lines of a chunk's stores (R252). -/
def State.storeTrs (s : State) (ls : List Nat) (t : Tbl Trans) : Tbl Trans :=
  ls.foldl (fun t l => match s.lines.find l with | some c => t.put l c.tr | none => t) t

/-- What a store outside a chunk waits for, as every write does: the solo grantee has read a line, a dirty log is full, watched weights are being read
(R217, R254, R301). -/
def State.heldUp (s : State) (ps : List Piece) : Bool :=
  let ls := (ps.flatMap (·.lines)).eraseDups
  s.soloHolds (some s.cur) ls || s.logOver (ps.flatMap (·.places)) || ls.any (fun l => s.regionHeld (l * 64))

/-- Stores all pieces, or parks, or faults (R117, R132); `err`: what is wrong with the piece after these. A store that names a local
space ends the chunk. A global store outside a chunk waits as other writes do (R217, R254, R301). -/
def State.storeAll (s : State) (len : Nat) (ps : List Piece) (err : Option (Nat × W) := none) : State :=
  let far := ps.filter fun p => p.tgt.remote
  let close := ps.filter fun p => !p.tgt.remote
  let ls := (ps.flatMap (·.lines)).eraseDups
  if (s.me.latch.parts.find nearDone).isSome then s.sendStores len far else
  let j := s.judge true ps err
  if !j.bring.isEmpty then s.fill j.bring (ps.flatMap (·.lines)) true
  else match j.bad with
    | some (c, t) => s.raise c t
    | none =>
      if (ps.any fun p => !(isGlobal p.tgt.at_)) || s.me.latch.stage ≠ 0 then
        if s.behind true ps then s.parkRe .parkMem (.acks 0)
        else if s.heldUp ps then s.parkRe .parkMem .commit
        else
          let s := (close.foldl (fun s p => s.write (some s.cur) false p.tgt.at_ p.data) (s.healCovered close)).notePages (close.flatMap (·.places))
          (s.upd fun sl => { sl with latch := { sl.latch with parts := sl.latch.parts.put nearDone 0#512 } }).sendStores len far
      else if ((s.me.chunk.storeLines ++ ls).eraseDups).length > 512 then s.parkRe .parkMem .commit
      else
        (s.upd fun sl => { sl with chunk := { sl.chunk with
          stores := close.foldl (fun t p => p.data.zipIdx.foldl (fun t (b, i) => t.put (p.tgt.at_ + i) b) t) sl.chunk.stores
          trs := s.storeTrs ls sl.chunk.trs } }).retire len

/-- A store of pieces: those that name a local space act after the commit (R117). -/
def State.store (s : State) (len : Nat) (ps : List Piece) (err : Option (Nat × W) := none) : State :=
  if ps.any fun p => !(isGlobal p.tgt.at_) then s.afterCommit fun s => s.storeAll len ps err else s.storeAll len ps err

/-- The piece that a pointer names, checked under R114: alignment and length. -/
def State.piece (s : State) (part : Nat) (p : W) (al n : Nat) (data : List Byte := []) : Except (Nat × W) Piece :=
  match s.access s.myCore p al n with
  | .error c => .error (c, p)
  | .ok t => .ok ⟨part, p, t, n, data⟩

/-- All pieces, or the first fault in order. -/
def allPieces : List (Except (Nat × W) Piece) → Except (Nat × W) (List Piece)
  | [] => .ok []
  | .error e :: _ => .error e
  | .ok p :: r => match allPieces r with | .error e => .error e | .ok ps => .ok (p :: ps)

/-- The pieces before the first that cannot be formed, and its fault. -/
def formed : List (Except (Nat × W) Piece) → List Piece × Option (Nat × W)
  | [] => ([], none)
  | .error e :: _ => ([], some e)
  | .ok p :: r => let (ps, e) := formed r; (p :: ps, e)

/-- Runs a body on pieces or raises their fault. -/
def State.onPieces (s : State) (e : Except (Nat × W) (List Piece)) (body : List Piece → State → State) : State :=
  match e with
  | .error (c, t) => s.raise c t
  | .ok ps => body ps s

end Sys2Proof.Machine
end

