-- ==== Sys2Proof/Machine/Int.lean ====
section
/-! DEFINITION. Integer, immediate, pointer and control-transfer instructions (R93 to R105) and the compact forms of them
(R80, R81). -/

namespace Sys2Proof.Machine

/-- Operand value i of an instruction. -/
def arg (vs : List W) (i : Nat) : W := vs.getD i 0#64

/-- A binary register function. -/
def State.alu3 (s : State) (d a b : R6) (f : W → W → W) : State :=
  s.regOp 4 [a, b] (some d) fun _ vs => .ok { val := f (arg vs 0) (arg vs 1) }

/-- A unary register function. -/
def State.alu2 (s : State) (len : Nat) (d a : R6) (f : W → W) : State :=
  s.regOp len [a] (some d) fun _ vs => .ok { val := f (arg vs 0) }

/-- A division, which takes 3 further home turns (R20, R94). -/
def State.aluDiv (s : State) (d a b : R6) (f : W → W → W) : State :=
  s.regOp 4 [a, b] (some d) fun _ vs => .ok { val := f (arg vs 0) (arg vs 1), hold := 3 }

/-- The shift amount b[5:0] (R93). -/
def shAmt (b : W) : Nat := fld b 0 6

def mulhS (a b : W) : W := BitVec.ofInt 64 ((a.toInt * b.toInt) / (2 ^ 64 : Nat))
def mulhU (a b : W) : W := nat (a.toNat * b.toNat / 2 ^ 64)
/-- Division at its borders is Table 04-2. -/
def divS (a b : W) : W := if b = 0#64 then BitVec.allOnes 64 else BitVec.ofInt 64 (Int.tdiv a.toInt b.toInt)
def divU (a b : W) : W := if b = 0#64 then BitVec.allOnes 64 else nat (a.toNat / b.toNat)
def remS (a b : W) : W := if b = 0#64 then a else BitVec.ofInt 64 (Int.tmod a.toInt b.toInt)
def remU (a b : W) : W := if b = 0#64 then a else nat (a.toNat % b.toNat)
def minS (a b : W) : W := if b.slt a then b else a
def maxS (a b : W) : W := if a.slt b then b else a
def minU (a b : W) : W := if b.ult a then b else a
def maxU (a b : W) : W := if a.ult b then b else a
def clz64 (a : W) : W := if a = 0#64 then 64#64 else nat (63 - Nat.log2 a.toNat)
def popc64 (a : W) : W := nat ((List.range 64).foldl (fun n i => n + bitsOf a.toNat i 1) 0)
def brev64 (a : W) : W := nat ((List.range 64).foldl (fun n i => 2 * n + bitsOf a.toNat i 1) 0)
def ctz64 (a : W) : W := if a = 0#64 then 64#64 else clz64 (brev64 a)

/-- BEXT (R95): bits above 63 read as 0. -/
def bext (a b : W) : W := nat (bitsOf a.toNat (fld b 0 6) (fld b 8 6 + 1))

/-- BINS (R95): field bits above 63 are discarded. -/
def bins (a b d : W) : W := setFld d (fld b 0 6) (fld b 8 6 + 1) a.toNat

/-- The sign extension of imm13 (R73). -/
def imm13 (i : BitVec 13) : W := i.signExtend 64

/-- A signed count of halfwords from an instruction's own address (R73). -/
def State.target (s : State) (n : Int) : W := s.me.pc + BitVec.ofInt 64 (2 * n)

/-! Pointer functions (R98 to R103) -/

/-- Bits [51:w] of a pointer: vcluster and core fields. -/
def upper (p : W) : Nat := fld p (offWidth (spc p)) (52 - offWidth (spc p))

/-- PTR arithmetic on a pointer: SPC 7 is cause 64, a carry or borrow cause 71. -/
def ptrMove (p : W) (n : Int) : Except Nat Eff :=
  if spc p = 7 then .error 64 else match ptrAdd p n with | some q => .ok { val := q } | none => .error 71

/-- PADDE steps: bytes of one element by FMT (Table 02-1). -/
def elemStep (f : Nat) : Nat := match f with | 3 => 2 | 4 => 4 | 5 => 8 | 6 => 2 | 7 => 2 | 8 => 4 | 9 => 8 | 21 => 4 | _ => 1

/-- PADDE (R99). -/
def padde (a b : W) : Except Nat Eff :=
  let f := fmtOf a
  let n := b.toInt
  if spc a = 7 then .error 64
  else if f > 22 then .error 69
  else if 12 ≤ f ∧ f ≤ 20 then .error 72
  else if f = 22 then (if n % 2 ≠ 0 then .error 72 else ptrMove a (n / 2))
  else ptrMove a (n * elemStep f)

/-- PDIFF (R100). -/
def pdiff (a b : W) : Except Nat Eff :=
  if spc a = 7 ∨ spc b = 7 then .error 64
  else if spc a ≠ spc b ∨ upper a ≠ upper b then .error 77
  else .ok { val := BitVec.ofInt 64 ((fld a 0 (offWidth (spc a)) : Int) - fld b 0 (offWidth (spc b))) }

/-- Alignment that R57 and R102 ask of an array by its FMT. -/
def fmtAlign (f : Nat) : Nat := if (12 ≤ f ∧ f ≤ 16) ∨ f = 20 then 8 else if f = 17 then 4 else if f = 19 then 2 else 1

/-- PCHK (R102). -/
def State.pchk (s : State) (a b : W) : W :=
  match s.resolve s.myCore a with
  | .error c => nat c
  | .ok t =>
    match fmtCheck a with
    | .error c => nat c
    | .ok _ =>
      if t.off % fmtAlign (fmtOf a) ≠ 0 then 76#64
      else if b = 0#64 then 0#64
      else if t.off + b.toNat > 2 ^ t.width then 71#64
      else if t.off + b.toNat > t.limit then 68#64
      else 0#64

/-- A pointer with another space and vcluster and core fields; FMT, BLG and the low field are kept. -/
def respace (p : W) (sp v c : Nat) : W :=
  let w := offWidth (spc p)
  nat (fld p 55 9 * 2 ^ 55 + sp * 2 ^ 52 + v * 2 ^ 21 + (if sp = 4 ∨ sp = 5 then c * 2 ^ 18 else 0) + fld p 0 w)

/-- PABS (R103). -/
def pabs (v c : Nat) (p : W) : Except Nat Eff :=
  match spc p with
  | 7 => .error 64
  | 1 => .ok { val := respace p 2 v 0 }
  | 3 => .ok { val := respace p 4 v c }
  | 5 =>
    let t : Int := (v : Int) + sInt (fld p 21 7) 7
    if t < 0 ∨ t > 127 then .error 67 else .ok { val := respace p 4 t.toNat (fld p 18 3) }
  | _ => .ok { val := p }

/-- PREL (R103). -/
def prel (v c : Nat) (p : W) : Except Nat Eff :=
  match spc p with
  | 7 => .error 64
  | 2 => .ok { val := if fld p 21 7 = v then respace p 1 0 0 else p }
  | 3 => .ok { val := respace p 5 0 c }
  | 4 =>
    let t : Int := (fld p 21 7 : Int) - v
    if t < -64 ∨ t > 63 then .error 67 else .ok { val := respace p 5 (t % 128).toNat (fld p 18 3) }
  | _ => .ok { val := p }

/-- A conditional branch (R104): the target is n halfwords away. -/
def State.branch (s : State) (len : Nat) (srcs : List R6) (n : Int) (c : W → W → Bool) : State :=
  let t := s.target n
  s.regOp len srcs none fun s vs => .ok { pc := some (if c (arg vs 0) (arg vs 1) then t else s.me.pc + nat len) }

/-- ADD (Table 04-1). -/
def execAdd (d a b : R6) (s : State) : Out := .next (s.alu3 d a b fun a b => a + b)

/-- SUB (Table 04-1). -/
def execSub (d a b : R6) (s : State) : Out := .next (s.alu3 d a b fun a b => a - b)

/-- MUL (Table 04-1). -/
def execMul (d a b : R6) (s : State) : Out := .next (s.alu3 d a b fun a b => a * b)

/-- MULH (Table 04-1). -/
def execMulh (d a b : R6) (s : State) : Out := .next (s.alu3 d a b fun a b => mulhS a b)

/-- MULHU (Table 04-1). -/
def execMulhu (d a b : R6) (s : State) : Out := .next (s.alu3 d a b fun a b => mulhU a b)

/-- DIV (R94). -/
def execDiv (d a b : R6) (s : State) : Out := .next (s.aluDiv d a b divS)

/-- DIVU (R94). -/
def execDivu (d a b : R6) (s : State) : Out := .next (s.aluDiv d a b divU)

/-- REM (R94). -/
def execRem (d a b : R6) (s : State) : Out := .next (s.aluDiv d a b remS)

/-- REMU (R94). -/
def execRemu (d a b : R6) (s : State) : Out := .next (s.aluDiv d a b remU)

/-- AND (Table 04-1). -/
def execAnd (d a b : R6) (s : State) : Out := .next (s.alu3 d a b fun a b => a &&& b)

/-- OR (Table 04-1). -/
def execOr (d a b : R6) (s : State) : Out := .next (s.alu3 d a b fun a b => a ||| b)

/-- XOR (Table 04-1). -/
def execXor (d a b : R6) (s : State) : Out := .next (s.alu3 d a b fun a b => a ^^^ b)

/-- ANDN (Table 04-1). -/
def execAndn (d a b : R6) (s : State) : Out := .next (s.alu3 d a b fun a b => a &&& ~~~b)

/-- SLL (Table 04-1). -/
def execSll (d a b : R6) (s : State) : Out := .next (s.alu3 d a b fun a b => a <<< shAmt b)

/-- SRL (Table 04-1). -/
def execSrl (d a b : R6) (s : State) : Out := .next (s.alu3 d a b fun a b => a >>> shAmt b)

/-- SRA (Table 04-1). -/
def execSra (d a b : R6) (s : State) : Out := .next (s.alu3 d a b fun a b => a.sshiftRight (shAmt b))

/-- ROR (Table 04-1). -/
def execRor (d a b : R6) (s : State) : Out := .next (s.alu3 d a b fun a b => a.rotateRight (shAmt b))

/-- MIN (Table 04-1). -/
def execMin (d a b : R6) (s : State) : Out := .next (s.alu3 d a b fun a b => minS a b)

/-- MAX (Table 04-1). -/
def execMax (d a b : R6) (s : State) : Out := .next (s.alu3 d a b fun a b => maxS a b)

/-- MINU (Table 04-1). -/
def execMinu (d a b : R6) (s : State) : Out := .next (s.alu3 d a b fun a b => minU a b)

/-- MAXU (Table 04-1). -/
def execMaxu (d a b : R6) (s : State) : Out := .next (s.alu3 d a b fun a b => maxU a b)

/-- SLT (Table 04-1). -/
def execSlt (d a b : R6) (s : State) : Out := .next (s.alu3 d a b fun a b => bit (a.slt b))

/-- SLTU (Table 04-1). -/
def execSltu (d a b : R6) (s : State) : Out := .next (s.alu3 d a b fun a b => bit (a.ult b))

/-- SEQ (Table 04-1). -/
def execSeq (d a b : R6) (s : State) : Out := .next (s.alu3 d a b fun a b => bit (a == b))

/-- CLZ (Table 04-1). -/
def execClz (d a : R6) (s : State) : Out := .next (s.alu2 4 d a fun a => clz64 a)

/-- CTZ (Table 04-1). -/
def execCtz (d a : R6) (s : State) : Out := .next (s.alu2 4 d a fun a => ctz64 a)

/-- POPC (Table 04-1). -/
def execPopc (d a : R6) (s : State) : Out := .next (s.alu2 4 d a fun a => popc64 a)

/-- BREV (Table 04-1). -/
def execBrev (d a : R6) (s : State) : Out := .next (s.alu2 4 d a fun a => brev64 a)

/-- SEXTB (Table 04-1). -/
def execSextb (d a : R6) (s : State) : Out := .next (s.alu2 4 d a fun a => (a.setWidth 8).signExtend 64)

/-- SEXTH (Table 04-1). -/
def execSexth (d a : R6) (s : State) : Out := .next (s.alu2 4 d a fun a => (a.setWidth 16).signExtend 64)

/-- SEXTW (Table 04-1). -/
def execSextw (d a : R6) (s : State) : Out := .next (s.alu2 4 d a fun a => (a.setWidth 32).signExtend 64)

/-- BEXT (R95). -/
def execBext (d a b : R6) (s : State) : Out := .next (s.alu3 d a b bext)

/-- BINS (R95): rd is a third source. -/
def execBins (d a b : R6) (s : State) : Out := .next (s.regOp 4 [a, b, d] (some d) fun _ vs => .ok { val := bins (arg vs 0) (arg vs 1) (arg vs 2) })

/-- ADDI (R96). -/
def execAddi (d a : R6) (i : BitVec 13) (s : State) : Out := .next (s.alu2 4 d a fun a => a + imm13 i)

/-- ANDI (R96). -/
def execAndi (d a : R6) (i : BitVec 13) (s : State) : Out := .next (s.alu2 4 d a fun a => a &&& imm13 i)

/-- ORI (R96). -/
def execOri (d a : R6) (i : BitVec 13) (s : State) : Out := .next (s.alu2 4 d a fun a => a ||| imm13 i)

/-- XORI (R96). -/
def execXori (d a : R6) (i : BitVec 13) (s : State) : Out := .next (s.alu2 4 d a fun a => a ^^^ imm13 i)

/-- SLLI (R75, R96). -/
def execSlli (d a : R6) (sh : BitVec 6) (s : State) : Out := .next (s.alu2 4 d a fun a => a <<< sh.toNat)

/-- SRLI (R75, R96). -/
def execSrli (d a : R6) (sh : BitVec 6) (s : State) : Out := .next (s.alu2 4 d a fun a => a >>> sh.toNat)

/-- SRAI (R75, R96). -/
def execSrai (d a : R6) (sh : BitVec 6) (s : State) : Out := .next (s.alu2 4 d a fun a => a.sshiftRight sh.toNat)

/-- RORI (R75, R96). -/
def execRori (d a : R6) (sh : BitVec 6) (s : State) : Out := .next (s.alu2 4 d a fun a => a.rotateRight sh.toNat)

/-- SLTI (R96). -/
def execSlti (d a : R6) (i : BitVec 13) (s : State) : Out := .next (s.alu2 4 d a fun a => bit (a.slt (imm13 i)))

/-- SLTIU (R96). -/
def execSltiu (d a : R6) (i : BitVec 13) (s : State) : Out := .next (s.alu2 4 d a fun a => bit (a.ult (imm13 i)))

/-- LIH (R97). -/
def execLih (d : R6) (i : BitVec 19) (s : State) : Out := .next (s.regOp 4 [] (some d) fun _ _ => .ok { val := (i.signExtend 64) <<< 13 })

/-- LIS (R97). -/
def execLis (d : R6) (i : BitVec 19) (s : State) : Out := .next (s.alu2 4 d d fun a => (a <<< 19) ||| i.setWidth 64)

/-- PADD (Table 04-3). -/
def execPadd (d a b : R6) (s : State) : Out := .next (s.regOp 4 [a, b] (some d) fun _ vs => ptrMove (arg vs 0) (arg vs 1).toInt)

/-- PADDE (Table 04-3). -/
def execPadde (d a b : R6) (s : State) : Out := .next (s.regOp 4 [a, b] (some d) fun _ vs => padde (arg vs 0) (arg vs 1))

/-- PDIFF (Table 04-3). -/
def execPdiff (d a b : R6) (s : State) : Out := .next (s.regOp 4 [a, b] (some d) fun _ vs => pdiff (arg vs 0) (arg vs 1))

/-- PMAKE (R101). -/
def execPmake (d a b : R6) (s : State) : Out := .next (s.alu3 d a b fun a b => setFld a 52 12 (fld b 0 12))

/-- PGET (R101). -/
def execPget (d a : R6) (s : State) : Out := .next (s.alu2 4 d a fun a => nat (fld a 52 12))

/-- PSET (R101). -/
def execPset (d a b : R6) (s : State) : Out := .next (s.alu3 d a b fun a b => setFld a 55 9 (fld b 3 9))

/-- PCHK (R102). -/
def execPchk (d a b : R6) (s : State) : Out := .next (s.regOp 4 [a, b] (some d) fun s vs => .ok { val := s.pchk (arg vs 0) (arg vs 1) })

/-- PABS (R103). -/
def execPabs (d a : R6) (s : State) : Out := .next (s.regOp 4 [a] (some d) fun s vs => pabs (s.vcl s.myCore) (s.myCore % 8) (arg vs 0))

/-- PREL (R103). -/
def execPrel (d a : R6) (s : State) : Out := .next (s.regOp 4 [a] (some d) fun s vs => prel (s.vcl s.myCore) (s.myCore % 8) (arg vs 0))

/-- PADDI (R99). -/
def execPaddi (d a : R6) (i : BitVec 13) (s : State) : Out := .next (s.regOp 4 [a] (some d) fun _ vs => ptrMove (arg vs 0) i.toInt)

/-- BEQ (R104). -/
def execBeq (a b : R6) (i : BitVec 13) (s : State) : Out := .next (s.branch 4 [a, b] i.toInt fun a b => a == b)

/-- BNE (R104). -/
def execBne (a b : R6) (i : BitVec 13) (s : State) : Out := .next (s.branch 4 [a, b] i.toInt fun a b => a != b)

/-- BLT (R104). -/
def execBlt (a b : R6) (i : BitVec 13) (s : State) : Out := .next (s.branch 4 [a, b] i.toInt fun a b => a.slt b)

/-- BGE (R104). -/
def execBge (a b : R6) (i : BitVec 13) (s : State) : Out := .next (s.branch 4 [a, b] i.toInt fun a b => !(a.slt b))

/-- BLTU (R104). -/
def execBltu (a b : R6) (i : BitVec 13) (s : State) : Out := .next (s.branch 4 [a, b] i.toInt fun a b => a.ult b)

/-- BGEU (R104). -/
def execBgeu (a b : R6) (i : BitVec 13) (s : State) : Out := .next (s.branch 4 [a, b] i.toInt fun a b => !(a.ult b))

/-- JAL (R105): x28 receives PC + 4. -/
def execJal (i : BitVec 25) (s : State) : Out := .next (let t := s.target i.toInt; s.regOp 4 [] (some 28#6) fun s _ => .ok { val := s.me.pc + 4#64, pc := some t })

/-- JMP (R105). -/
def execJmp (i : BitVec 25) (s : State) : Out := .next (let t := s.target i.toInt; s.regOp 4 [] none fun _ _ => .ok { pc := some t })

/-- JALR (R105): a is read before rd is written. -/
def execJalr (d a : R6) (i : BitVec 13) (s : State) : Out := .next (s.regOp 4 [a] (some d) fun s vs => .ok { val := s.me.pc + 4#64, pc := some (arg vs 0 + imm13 i) })

/-! Compact forms (Table 03-4): the effect of the equivalent 32-bit instruction, with the PC advancing by 2 (R81). -/

/-- A 5-bit compact register field (R80). -/
def r5 (r : BitVec 5) : R6 := r.setWidth 6
/-- A 3-bit compact register field names x8 to x15 (R80). -/
def r3 (r : BitVec 3) : R6 := 8#6 + r.setWidth 6

/-- C.NOP: ADDI x0, x0, #0. -/
def execCNop (s : State) : Out := .next (s.alu2 2 0#6 0#6 fun a => a)

/-- C.RET: JALR x0, x28, #0. -/
def execCRet (s : State) : Out := .next (s.regOp 2 [28#6] (some 0#6) fun s vs => .ok { val := s.me.pc + 2#64, pc := some (arg vs 0) })

/-- C.LI: ADDI rd, x0, #imm. -/
def execCLi (d : BitVec 5) (i : BitVec 6) (s : State) : Out := .next (s.alu2 2 (r5 d) 0#6 fun a => a + i.signExtend 64)

/-- C.ADDI: ADDI rd, rd, #imm. -/
def execCAddi (d : BitVec 5) (i : BitVec 6) (s : State) : Out := .next (s.alu2 2 (r5 d) (r5 d) fun a => a + i.signExtend 64)

/-- C.MOV: ADD rd, ra, x0. -/
def execCMov (d a : BitVec 5) (s : State) : Out := .next (s.alu2 2 (r5 d) (r5 a) fun a => a + 0#64)

/-- C.ADD: ADD rd, rd, ra. -/
def execCAdd (d a : BitVec 5) (s : State) : Out := .next (s.regOp 2 [r5 d, r5 a] (some (r5 d)) fun _ vs => .ok { val := (fun a b : W => a + b) (arg vs 0) (arg vs 1) })

/-- C.SUB: SUB rd, rd, ra. -/
def execCSub (d a : BitVec 5) (s : State) : Out := .next (s.regOp 2 [r5 d, r5 a] (some (r5 d)) fun _ vs => .ok { val := (fun a b : W => a - b) (arg vs 0) (arg vs 1) })

/-- C.AND: AND rd, rd, ra. -/
def execCAnd (d a : BitVec 5) (s : State) : Out := .next (s.regOp 2 [r5 d, r5 a] (some (r5 d)) fun _ vs => .ok { val := (fun a b : W => a &&& b) (arg vs 0) (arg vs 1) })

/-- C.SLLI: SLLI rd, rd, #amount. -/
def execCSlli (d : BitVec 5) (sh : BitVec 6) (s : State) : Out := .next (s.alu2 2 (r5 d) (r5 d) fun a => a <<< sh.toNat)

/-- C.SRLI: SRLI rd, rd, #amount. -/
def execCSrli (d : BitVec 5) (sh : BitVec 6) (s : State) : Out := .next (s.alu2 2 (r5 d) (r5 d) fun a => a >>> sh.toNat)

/-- CBeqz: compares ra with x0. -/
def execCBeqz (a : BitVec 3) (i : BitVec 8) (s : State) : Out := .next (s.branch 2 [r3 a, 0#6] i.toInt fun a b => a == b)

/-- CBnez: compares ra with x0. -/
def execCBnez (a : BitVec 3) (i : BitVec 8) (s : State) : Out := .next (s.branch 2 [r3 a, 0#6] i.toInt fun a b => a != b)

/-- C.J: JMP disp. -/
def execCJ (i : BitVec 11) (s : State) : Out := .next (let t := s.target i.toInt; s.regOp 2 [] none fun _ _ => .ok { pc := some t })

end Sys2Proof.Machine
end

