-- ==== Sys2Proof/Machine/Queues.lean ====
section
/-! DEFINITION. The QUEUE group (R153 to R161), BTOK (R106), and the events at queue homes. -/

namespace Sys2Proof.Machine

/-! What a queue home does for a QUEUE instruction -/

/-- Core c lies within the scope of queue q (R153). -/
def State.qInScope (s : State) (q c : Nat) : Bool :=
  match (s.queue q).scope with
  | 0 => c == s.qcore q
  | 1 => s.vcl c == s.vcl (s.qcore q)
  | 2 => s.vcl c / 32 == s.vcl (s.qcore q) / 32
  | _ => true

/-- Some core of context x has an end bound to the queue with handle h, or a stream of x is active on it. -/
def State.qBound (s : State) (x : Nat) (h : W) : Bool :=
  (s.cores.any fun (c, co) => s.ctxOf c == x && co.q.any fun (_, e) => e.h == h) ||
    s.clusters.any fun (_, c) => c.streams.any fun (_, t) => t.x == x && (t.hs == h || t.hd == h)

/-- Instructions of R91 that wait for queue q. -/
def State.qMulti (s : State) (q : Nat) : Nat :=
  (s.slots.filter fun (_, sl) => match sl.wait with | .multi qs _ => qs.contains q | _ => false).length

/-- QSTAT's word as core c sees it (Table 06-10). -/
def State.qStat (s : State) (q c : Nat) : W :=
  let r := s.queue q
  let stream := (s.core c).q.any fun (_, e) => e.h == s.handle q && e.stream
  let slots (ks : List Nat) : Nat := (ks.filter (· < 16384)).length
  let parked := Nat.min 8191 (slots (r.cons.map (·.1)) + slots (r.prod.map (·.1)) + slots (r.inbox.map (·.1)) + s.qMulti q)
  nat ((if r.closed then 2 ^ 63 else 0) + (if stream then 2 ^ 62 else 0) + r.sn * 2 ^ 32 + parked * 2 ^ 16 + Nat.min 4096 (r.avail + r.held.length + r.rsv.length))

/-- Slot k waits, as a single-end instruction or a BTOK, at end ix of its core. -/
def State.waitsAt (s : State) (k ix : Nat) : Bool := (s.slot k).wait == .queue && ((s.slot k).latch.at_.map (·.1)) == some ix

/-- The request of slot k to a queue home that is still on its way is withdrawn; a tracked one counts as accepted. -/
def State.qRecall (s : State) (k : Nat) : State :=
  let mine (m : Msg) : Bool := match m.body with | .qpush j _ _ => j == k | .qpop j .. => j == k | _ => false
  let s := (s.net.filter fun m => mine m && m.body.tracked).foldl (fun s m => s.track m.ctx m.src m.dst false) s
  { s with net := s.net.filter fun m => !mine m }

/-- A request of slot k stands at queue q's home or is on its way there; one that was answered does not. -/
def State.unserved (s : State) (q k : Nat) : Bool :=
  let r := s.queue q
  r.cons.any (·.1 = k) || r.prod.any (·.1 = k) || r.inbox.any (·.1 = k) ||
    s.net.any fun m => match m.body with | .qpush j _ _ => j == k | .qpop j .. => j == k | _ => false

/-- The request of slot k for a queue end is taken back, on its way or at the home. -/
def State.leaveEnd (s : State) (q k : Nat) : State :=
  let s := s.qRecall k
  let s := s.modSlot k fun sl => { sl with latch := { sl.latch with at_ := none } }
  (s.modQueue q fun r => { r with cons := r.cons.filter (·.1 ≠ k), prod := r.prod.filter (·.1 ≠ k), inbox := r.inbox.filter (·.1 ≠ k) }).qChanged q

/-- Takes back what slot k asked of the home of a queue end: a request that no answer has met, or an item that was handed to it and has
not arrived. None where its push has taken effect, or has a place reserved for it (R91). -/
def State.recallEnd (s : State) (k : Nat) : Option State :=
  let x := s.ctxOf (coreOf k)
  if (s.slot k).latch.stage = 2 ∧ (s.slot k).latch.out.isNone then none else
  match (s.slot k).latch.at_ with
  | none => some s
  | some (_, h) => match s.findQueue x h with
    | none => some s
    | some q =>
      if s.unserved q k then some (s.leaveEnd q k)
      else match s.net.findSome? fun m => match m.body with | .reply j _ (.val v) => if j = k then some v else none | _ => none with
      | none => some s
      | some v =>
        if (s.slot k).latch.stage = 2 then none
        else
          let s : State := { s with net := s.net.filter fun m => match m.body with | .reply j _ _ => j ≠ k | _ => true }
          some ((tookOf h v).foldl (fun s o => s.qBack q k o.seq o.it o.was) s)

/-- A QUEUE instruction of slot k on the queue with handle h, at its home (R156, R158, R159). DRAIN discards what stands in the ring and the
spill area; items that BTOK or an instruction under R91 holds stay with their slots (DESIGN CHOICE, log 104). -/
def State.qCtlStep (s : State) (k : Nat) (h : W) (op : QCtlOp) : Except Nat V512 × State :=
  let c := coreOf k
  let ok : Except Nat V512 := .ok 0#512
  match s.findQueue (s.ctxOf c) h with
  | none => (.error 197, s)
  | some q =>
    match op with
    | .bind ix dir =>
      if ((s.core c).q.find ix).isSome then (.error 196, s)
      else if !s.qInScope q c then (.error 195, s)
      else (ok, s.modCore c fun co => { co with q := co.q.put ix { h := h, dir := dir } })
    | .unbind ix =>
      let s := s.modCore c fun co => { co with q := co.q.del ix }
      let s := s.modClu (c / 8) fun cl => { cl with streams := cl.streams.map fun (j, t) => (j, if t.c == c && (t.qs == ix || t.qd == ix) then { t with stop := true } else t) }
      let ks := (List.range 16).map (16 * c + ·) |>.filter fun j => s.waitsAt j ix && s.unserved q j
      let s := s.qUnhold q fun o => coreOf o.k == c && o.e == ix
      (ok, (ks.foldl (fun s j => (s.leaveEnd q j).requeue j) s).qChanged q)
    | .drain =>
      let s := s.modQueue q fun r => { r with n := 0, sn := 0, back := [] }
      let r := s.queue q
      let ks := r.prod.map (·.1) ++ r.inbox.map (·.1)
      (ok, (s.qEvict q fun k => k < 16384 && ks.contains k).qChanged q)
    | .close => (ok, ((s.modQueue q fun r => { r with closed := true }).qEvict q (· < 32768)).qChanged q)
    | .opn => (ok, (s.modQueue q fun r => { r with closed := false }).qChanged q)
    | .stat => (.ok ((s.qStat q c).setWidth 512), s)
    | .free =>
      if !s.qInScope q c then (.error 195, s)
      else if s.qBound (s.ctxOf c) h ∨ (s.queue q).hostEnds > 0 then (.error 199, s)
      else (ok, s.modQueue q fun r => { gen := (r.gen + 1) % 65536, home := 0 })

/-- Performs a QUEUE instruction at the home of handle h: at once on the issuing core, by a request elsewhere (R141). -/
def State.qCtlOp (s : State) (h : W) (op : QCtlOp) (done : V512 → State → State) : State :=
  s.onReply done fun s =>
    match s.homeCore (s.ctxOf s.myCore) h with
    | none => s.raise 197 h
    | some c =>
      if c = s.myCore then
        match s.qCtlStep s.cur h op with
        | (.ok v, s) => done v s
        | (.error e, s) => s.raise e h
      else
        ((s.send (s.ctxOf s.myCore) s.myCore c (.qctl s.cur h op)).upd fun sl => { sl with latch := { sl.latch with left := 1 } }).park .parkMem .reply

/-- The binding that a queue-end field names, or cause 192. -/
def State.onEnd (s : State) (r : R6) (body : QEnd → State → State) : State :=
  match s.qend r with
  | none => s.raiseOpen 192
  | some e => body e s

/-! Meanings -/

/-- The descriptor of QNEW (Table 06-9); none breaks it. -/
def qnewCheck (e0 e1 e2 e3 : W) : Option Queue :=
  let depth := fld e1 0 13
  let spill := fld e1 40 24
  if spc e0 ≠ 1 ∨ fld e0 21 31 ≠ 0 ∨ fld e0 0 3 ≠ 0 ∨ fld e0 0 21 + 8 * depth + 8 * ceilDiv depth 64 > 2 ^ 21 then none
  else if fld e1 13 27 ≠ 0 ∨ depth < 1 ∨ depth > 4096 then none
  else if spill ≠ 0 ∧ (spc e2 ≠ 0 ∨ fld e2 0 3 ≠ 0) then none
  else if fld e3 3 61 ≠ 0 ∨ fld e3 0 3 > 4 ∨ (fld e3 0 3 = 0 ∧ spill ≠ 0) then none
  else some { alloc := true, scope := fld e3 0 3, ring := fld e0 0 21, depth := depth, spill := spill, sparea := e2 }

/-- QNEW (R155): the free record of lowest index (log 24). -/
def execQnew (d : R6) (s : State) : Out :=
  .next (s.withOps 4 [] (some d) true none fun _ s =>
    let e (i : Nat) := s.eget s.cur i
    match qnewCheck (e 0) (e 1) (e 2) (e 3) with
    | none => s.raiseOpen 193
    | some r =>
      match (List.range 64).find? fun i => !(s.queue (cluOf s.cur * 64 + i)).alloc with
      | none => s.raiseOpen 194
      | some i =>
        let q := cluOf s.cur * 64 + i
        let s := (s.undoable d (.record q (s.queue q).gen)).modQueue q fun o => { r with gen := o.gen, home := s.myCore % 8 }
        s.finish true 4 d (s.handle q))

/-- QBIND (R156). -/
def execQbind (d a b : R6) (s : State) : Out :=
  .next (s.withOps 4 [a, b] none true none fun vs s =>
    let m := arg vs 1
    s.onReply (fun _ s => s.retireIrr 4) fun s =>
    if m.toNat < 1 ∨ m.toNat > 3 then s.raiseOpen 193
    else if (s.qend d).isSome then s.raise 196 (arg vs 0)
    else s.qCtlOp (arg vs 0) (.bind (qIx d) m.toNat) fun _ s => s.retireIrr 4)

/-- QUNBIND (R156). -/
def execQunbind (d : R6) (s : State) : Out :=
  .next (s.withOps 4 [] none true none fun _ s =>
    s.onReply (fun _ s => s.retireIrr 4) fun s => s.onEnd d fun e s => s.qCtlOp e.h (.unbind (qIx d)) fun _ s => s.retireIrr 4)

/-- A QCTL operation through end d (R158): an end held by a stream is cause 200 (R161). -/
def State.qctl (s : State) (d : R6) (op : QCtlOp) : State :=
  s.onReply (fun _ s => s.retireIrr 4) fun s => s.onEnd d fun e s =>
    if e.stream then s.raise 200 e.h else s.qCtlOp e.h op fun _ s => s.retireIrr 4

/-- QCTL with its operation in a register (R158): 0 DRAIN, 1 CLOSE, 2 OPEN. -/
def execQctl (d b : R6) (s : State) : Out :=
  .next (s.withOps 4 [b] none true none fun vs s =>
    match (arg vs 0).toNat with
    | 0 => s.qctl d .drain
    | 1 => s.qctl d .close
    | 2 => s.qctl d .opn
    | _ => match s.qend d with | none => s.raiseOpen 192 | some _ => s.raiseOpen 193)

/-- The operation DRAIN of QCTL (R158). -/
def execQctlDrain (d : R6) (s : State) : Out := .next (s.withOps 4 [] none true none fun _ s => s.qctl d .drain)

/-- The operation CLOSE of QCTL (R158). -/
def execQctlClose (d : R6) (s : State) : Out := .next (s.withOps 4 [] none true none fun _ s => s.qctl d .close)

/-- The operation OPEN of QCTL (R158). -/
def execQctlOpen (d : R6) (s : State) : Out := .next (s.withOps 4 [] none true none fun _ s => s.qctl d .opn)

/-- QTOK (R158): a push with the token bit, after every remote store (R263). -/
def execQtok (d b : R6) (s : State) : Out :=
  .next (s.withOps 4 [b] (some d) true (some 3) fun vs s => s.pure.finish true 4 d (arg vs 0) true)

/-- QSTAT (R159). -/
def execQstat (d a : R6) (s : State) : Out :=
  .next (s.withOps 4 [] (some d) true none fun _ s =>
    s.onReply (fun v s => s.pure.finish true 4 d (asW v)) fun s => s.onEnd a fun e s => s.qCtlOp e.h .stat fun v s => s.pure.finish true 4 d (asW v))

/-- QFREE (R159). -/
def execQfree (a : R6) (s : State) : Out :=
  .next (s.withOps 4 [a] none true none fun vs s => s.qCtlOp (arg vs 0) .free fun _ s => s.retireIrr 4)

/-- The record of QREF (R160); none refuses it. -/
def qrefRecord (w : List Nat) : Option (W × Bool × Nat × W × W) :=
  let b := nat (w.getD 0 0)
  let c := nat (w.getD 1 0)
  let f := fmtOf b
  if spc b ≠ 0 ∨ !((fmtCheck b).toOption.isSome) ∨ (12 ≤ f ∧ f ≠ 21) ∨ fld c 48 15 ≠ 0 ∨ (c.getLsbD 63 ∧ w.getD 2 0 < fld c 0 48) then none
  else some (b, c.getLsbD 63, fld c 0 48, nat (w.getD 2 0), nat (w.getD 3 0))

/-- Marks an end of a core as held by a stream, or gives it back. -/
def State.holdEnd (s : State) (c ix : Nat) (on : Bool) : State :=
  s.modCore c fun co => match co.q.find ix with | some e => { co with q := co.q.put ix { e with stream := on } } | none => co

/-- QREF (R160). -/
def execQref (d a b : R6) (s : State) : Out :=
  .next (s.withOps 4 [b] none true none fun vs s =>
    let p := arg vs 0
    match s.endCheck 1 a, s.endCheck 2 d with
    | some c, _ => s.raiseWith c
    | none, some c => s.raiseWith c
    | none, none =>
      match s.piece 0 p 8 32 with
      | .error (c, t) => s.raise c t
      | .ok pc => s.loadAll true [pc] fun bs s =>
        match qrefRecord ((List.range 4).map fun i => leNat (((bs.headD []).drop (8 * i)).take 8)) with
        | none => s.raise 193 p
        | some (base, sm, bound, sen, fill) =>
          match (List.range 4).find? fun i => ((s.clu (cluOf s.cur)).streams.find i).isNone with
          | none => s.parkRe .parkEng .stream
          | some j =>
            let c := s.myCore
            let s := (s.holdEnd c (qIx a) true).holdEnd c (qIx d) true
            let st : Stream := { c := c, qs := qIx a, qd := qIx d, x := s.ctxOf c, base := base, sm := sm, bound := bound, sentinel := sen, fill := fill, vtid := s.tid s.cur, hs := (s.qend a).elim 0#64 (·.h), hd := (s.qend d).elim 0#64 (·.h) }
            (s.modClu (cluOf s.cur) fun cl => { cl with streams := cl.streams.put j st }).retireIrr 4)

/-- The end of BTOK with the item inspected (R106). -/
def State.btokDone (s : State) (i : BitVec 13) (tok : Bool) : State :=
  s.retireIrrTo (if tok then s.target i.toInt else s.me.pc + 4#64)

/-- BTOK (R106, R158). -/
def execBtok (a : R6) (i : BitVec 13) (s : State) : Out :=
  .next (s.onReply (fun v s => s.btokDone i (Item.dec v).tok) fun s =>
    match s.endCheck 1 a with
    | some c => s.raiseWith c
    | none => s.afterCommit fun s =>
      if s.endLocal a then
        match s.endQueue a with
        | none => s
        | some q => match s.stampMe.qPop q s.cur (qIx a) true with
          | (.item v, s) => s.btokDone i (Item.dec v).tok
          | (_, s) => s.waitEnd a id
      else (s.toHome a fun h => .qpop s.cur (qIx a) h true).waitEnd a id)

/-! Events at a queue home (R157, R281; the rounds of R91) -/

/-- Answers a request of slot k at core c. -/
def State.qReply (s : State) (x c k : Nat) (h : W) : QRes → State
  | .item v => s.answer x c k 0 (.val v)
  | .done => s.answer x c k 0 (.val 0#512)
  | .fault e => s.answer x c k 0 (.fault e h)
  | .wait => s

/-- QUEUE_PUSH_ARRIVAL: message n, a push, arrives at its home. -/
def execQueuePushArrival (n : Nat) (s : State) : Out :=
  match s.deliverable n with
  | some m => match m.body with
    | .qpush k h it =>
      let s := s.accept n m
      match s.findQueue m.ctx h with
      | none => .next (s.answer m.ctx m.dst k 0 (.fault 197 h))
      | some q => let (r, s) := s.qPush q k it; .next (s.qReply m.ctx m.dst k h r)
    | _ => .next s
  | none => .next s

/-- QUEUE_POP_ARRIVAL: message n, a pop or a BTOK inspection, arrives at its home. -/
def execQueuePopArrival (n : Nat) (s : State) : Out :=
  match s.deliverable n with
  | some m => match m.body with
    | .qpop k e h bt =>
      let s := s.accept n m
      match s.findQueue m.ctx h with
      | none => .next (s.answer m.ctx m.dst k 0 (.fault 197 h))
      | some q => let (r, s) := s.qPop q k e bt; .next (s.qReply m.ctx m.dst k h r)
    | _ => .next s
  | none => .next s

/-- QUEUE_CONTROL_ARRIVAL: message n, a QUEUE instruction's request, arrives at its home. -/
def execQueueControlArrival (n : Nat) (s : State) : Out :=
  match s.deliverable n with
  | some m => match m.body with
    | .qctl k h op =>
      match (s.accept n m).qCtlStep k h op with
      | (.ok v, s) => .next (s.answer m.ctx m.dst k 0 (.val v))
      | (.error e, s) => .next (s.answer m.ctx m.dst k 0 (.fault e h))
    | _ => .next s
  | none => .next s

/-- Bit 65 of an answer refuses a reservation (R91). -/
def rsvRefused : V512 := BitVec.ofNat 512 (2 ^ 65)

/-- What a reservation of an item (operand position ix, end e) or of a place for slot k at queue q does: it is served as a pop or push
arriving now (R91, R281). -/
def State.qTakeFor (s : State) (q k ix e : Nat) (push : Bool) : V512 × State :=
  let r := s.queue q
  if push then
    if !r.closed && r.prod.isEmpty && (r.ringRoom || r.handOver || r.spillRoom) then (0#512, (s.placeFor q k).qChanged q)
    else (rsvRefused, s)
  else match r.held.find? (·.of k e) with
  | some o => (o.it.enc (some o.seq) (some e), (s.modQueue q fun r => { r with held := r.held.filter (!·.of k e), rsv := r.rsv ++ [{ o with ix := ix, was := some e }] }).qChanged q)
  | none =>
    if r.avail > 0 then
      let (j, i, s) := s.ringTake q
      (i.enc (some j), (s.modQueue q fun r => { r with rsv := r.rsv ++ [{ k := k, e := e, ix := ix, seq := j, it := i }] }).qChanged q)
    else if r.closed ∧ r.isEmpty then (endToken.enc, s)
    else (rsvRefused, s)

/-- A reservation request of slot k is answered by queue q, whose changes the slot learns of from then on (R281). -/
def State.qReserve (s : State) (q k ix e : Nat) (push : Bool) : V512 × State :=
  let (v, t) := s.qTakeFor q k ix e push
  (v, t.modSlot k fun sl => { sl with latch := { sl.latch with turned := sl.latch.turned ++ [q], moved := (s.slot k).latch.moved } })

/-- RESERVATION_ROUND: message n asks for an item or a place for an instruction under R91. -/
def execReservationRound (n : Nat) (s : State) : Out :=
  match s.deliverable n with
  | some m => match m.body with
    | .qrsv k ix e h push =>
      let s := s.accept n m
      match s.findQueue m.ctx h with
      | none => .next (s.answer m.ctx m.dst k ix (.fault 197 h))
      | some q =>
        if push && (s.queue q).closed then .next (s.answer m.ctx m.dst k ix (.fault 198 h))
        else let (v, s) := s.qReserve q k ix e push; .next (s.answer m.ctx m.dst k ix (.val v))
    | _ => .next s
  | none => .next s

/-- COMMIT_ROUND: message n commits or releases a reservation of an instruction under R91, or brings back what a faulting one had
popped; a commit is confirmed. -/
def execCommitRound (n : Nat) (s : State) : Out :=
  match s.deliverable n with
  | some m => match m.body with
    | .qfin k ix h commit it =>
      let s := s.accept n m
      let s := match s.findQueue m.ctx h with | some q => s.qFinish q k ix commit it | none => s
      .next (if commit then s.answer m.ctx m.dst k ix (.val 0#512) else s)
    | .qback k o =>
      let s := s.accept n m
      .next (match s.findQueue m.ctx o.h with | some q => s.qBack q k o.seq o.it o.was | none => s)
    | _ => .next s
  | none => .next s

end Sys2Proof.Machine
end

