-- ==== Sys2Proof/Machine/Sync.lean ====
section
/-! DEFINITION. The SYNC group (R135 to R139): fences, address monitors, the mailbox wait, chunk cutting, the quiescence probe and
YIELD. -/

namespace Sys2Proof.Machine

/-- Monitors of a slot that are triggered, as a mask. -/
def Slot.monHits (sl : Slot) : Nat := sl.mons.foldl (fun n (i, m) => if m.hit then n + 2 ^ i else n) 0

/-- The lowest-numbered free monitor. -/
def Slot.monFree (sl : Slot) : Option Nat := (List.range 4).find? fun i => (sl.mons.find i).isNone

/-- MONWAIT's return: the mask with the timeout bit, and the triggered monitors disarmed. -/
def State.monReturn (s : State) (d : R6) (timeout : W) : State :=
  let m := nat s.me.monHits ||| timeout
  ((s.undoable d (.mons (s.me.mons.filter fun (_, m) => m.hit) [])).upd fun sl => { sl with mons := sl.mons.filter fun (_, m) => !m.hit }).finish true 4 d m

/-! The parade (R264 to R266) -/

/-- The interfaces of a scope instance for context x, in ascending {vcluster, core}: a cluster's engine interface follows its
cores, a physical die's edge interface the last of its clusters; a ringmaster's is not visited (R265). -/
def State.interfaces (s : State) (x scope inst : Nat) : List Nat :=
  let clu (v : Nat) : List Nat := match s.place x v with
    | none => []
    | some p => (((List.range 8).map (8 * p + ·)).filter fun c => !(isRing c)) ++ [engIf p]
  let own (vs : List Nat) : List Nat := (vs.filterMap (s.place x)).map (· / 32)
  let all (vs : List Nat) : List Nat := vs.zipIdx.flatMap fun (v, i) =>
    clu v ++ match s.place x v with
      | some p => if (own (vs.drop (i + 1))).contains (p / 32) then [] else [edgeIf (p / 32)]
      | none => []
  match scope with
  | 0 => match s.coreAt x inst with | some c => [c] | none => []
  | 1 => clu inst
  | 2 => all ((List.range 32).map (32 * inst + ·))
  | _ => all (List.range 128)

/-- A list turned so that it begins with a, where it holds a. -/
def rotateTo (a : Nat) (l : List Nat) : List Nat := (l.dropWhile (· ≠ a)) ++ (l.takeWhile (· ≠ a))

/-- The instance of a scope that holds core c. -/
def State.instOf (s : State) (c scope : Nat) : Nat :=
  match scope with | 0 => s.vcl c * 8 + c % 8 | 1 => s.vcl c | 2 => s.vcl c / 32 | _ => 0

/-- Joins the parade of a scope instance, or starts it (R266). A ringmaster's interface belongs to no context (R265), so its QUIESCE circles
the interfaces of the instance that pair {0, 0} has there, which may be none; the spec does not say what it does (DESIGN CHOICE, log 7). -/
def State.joinParade (s : State) (scope : Nat) : State :=
  let x := s.ctxOf s.myCore
  let i := s.instOf s.myCore scope
  let k := s.cur
  let s := s.modCtx x fun cx =>
    if cx.parades.any fun p => p.kind = 0 ∧ p.scope = scope ∧ p.inst = i then
      { cx with parades := cx.parades.map fun p => if p.kind = 0 ∧ p.scope = scope ∧ p.inst = i then { p with joined := p.joined ++ [k] } else p }
    else
      let r := rotateTo (coreOf k) (s.interfaces x scope i)
      { cx with parades := cx.parades ++ [{ scope := scope, inst := i, route := r, todo := r, waiters := [k] }] }
  s.park .parkBar .parade

/-! Meanings -/

/-- FENCE (R136). -/
def execFence (b : R6) (s : State) : Out :=
  .next (s.afterCommit fun s =>
    if released s.me (s.vcl s.myCore) b.toNat then s.retireIrr 4 else s.park .parkMem (.fence b.toNat))

/-- MONARM (R137). -/
def execMonarm (d a : R6) (s : State) : Out :=
  .next (s.withOps 4 [a] (some d) true none fun vs s =>
    let p := vs.headD 0#64
    match s.access s.myCore p 1 1 with
    | .error c => s.raise c p
    | .ok t =>
      if t.remote then s.raise 82 p
      else match s.me.monFree with
      | none => s.finish true 4 d (BitVec.allOnes 64)
      | some i => ((s.undoable d (.mons [] [i])).upd fun sl => { sl with mons := sl.mons.put i { block := lineOf t.at_ } }).finish true 4 d (nat i))

/-- MONWAIT (R137): the timeout is counted on the core's counter from issue. -/
def execMonwait (d : R6) (s : State) : Out :=
  .next (s.withOps 4 [] (some d) true none fun _ s =>
    s.onReply (fun v s => s.monReturn d (asW v)) fun s =>
      if s.me.monHits ≠ 0 ∨ s.me.mons.isEmpty then s.monReturn d 0#64 else s.park .parkMon (.monitor (s.core s.myCore).cyc))

/-- MONCLR (R137): the field value x0 disarms all four. -/
def execMonclr (a : R6) (s : State) : Out :=
  .next (s.withOps 4 [a] none true none fun vs s =>
    let p := vs.headD 0#64
    if a = 0#6 then (s.upd fun sl => { sl with mons := [] }).retireIrr 4
    else match s.access s.myCore p 1 1 with
    | .error c => s.raise c p
    | .ok t => (s.upd fun sl => { sl with mons := sl.mons.filter fun (_, m) => m.block ≠ lineOf t.at_ }).retireIrr 4)

/-- WAITMSG (R138): pops nothing. -/
def execWaitmsg (d : R6) (s : State) : Out :=
  .next (s.withOps 4 [] (some d) true none fun _ s =>
    s.onReply (fun v s => s.finish true 4 d (asW v)) fun s =>
      if s.mailCount s.cur ≠ 0 then s.finish true 4 d (nat (s.mailCount s.cur))
      else { s.park .parkMsg (.message (s.core s.myCore).cyc s.serial false) with serial := s.serial + 1 })

/-- CCUT (R139). -/
def execCcut (s : State) : Out := .next (s.afterCommit fun s => s.retireIrr 4)

/-- QUIESCE (R139, R266). -/
def execQuiesce (b : R6) (s : State) : Out :=
  .next (s.afterCommit fun s => s.onReply (fun _ s => s.retireIrr 4) fun s => s.joinParade b.toNat)

/-- YIELD (R139): the slot's next home turn is vacant. -/
def execYield (s : State) : Out := .next (s.afterCommit fun s => (s.upd fun sl => { sl with hold := 1 }).retireIrr 4)

/-- C.YIELD. -/
def execCYield (s : State) : Out := .next (s.afterCommit fun s => (s.upd fun sl => { sl with hold := 1 }).retireIrr 2)

end Sys2Proof.Machine
end

