-- ==== Sys2Proof/Machine/TaskOps.lean ====
section
/-! DEFINITION. Task records and their delivery (R142, R143, R273 to R278), the counter banks (R145 to R147) and the group units
(R148, R149). -/

namespace Sys2Proof.Machine

/-! FREE slots and the ready deque -/

/-- The records of core c's deque that stand in the spill area. -/
def Core.spilled (c : Core) : Nat := c.spill.foldl (fun n (_, _, k) => n + k) 0

/-- FREE slots of core c that no record is reserved for and no pinned record waits in, lowest first (R273). -/
def State.unreserved (s : State) (c : Nat) : List Nat :=
  (List.range 16).filter fun i => (s.slot (16 * c + i)).st == .free && !((s.core c).reserved.contains i) && !((s.core c).pinned.contains (16 * c + i))

/-- A slot that has become FREE is reserved for a pop while the deque holds more records than slots are reserved (R273). -/
def State.reserveFreed (s : State) (k : Nat) : State :=
  s.modCore (coreOf k) fun c =>
    if c.reserved.length < c.deque.length + c.spilled then { c with reserved := insertOn id (k % 16) c.reserved } else c

/-- Answers SPAWNL's wait (R143): at once on the issuing core, by a reply elsewhere. -/
def State.taskReply (s : State) (c : Nat) (r : TaskRec) (v : W) : State :=
  match r.reply with
  | none => s
  | some k => if coreOf k = c then s.completeW k v else s.answer r.ctx c k 0 (.val (v.setWidth 512))

/-- The condition under which core c steals does not hold any more, so its sweeps are forgotten (R276); the answer of a request that is still
outstanding continues none. -/
def State.endSweep (s : State) (c : Nat) : State :=
  s.modCore c fun co => { co with sweep := 0, tried := 0, rest := none, ended := co.stealing }

/-- Pushes a record at the bottom of its level; none when 64 records stand in hardware (R274, R275). -/
def State.pushRec (s : State) (c : Nat) (r : TaskRec) : Option State :=
  if (s.core c).deque.length ≥ 64 then none else
  let s := (s.endSweep c).modCore c fun co => { co with deque := co.deque ++ [{ r with reply := none }] }
  let s := match s.unreserved c with
    | i :: _ => s.modCore c fun co => { co with reserved := insertOn id i co.reserved }
    | [] => s
  some (s.taskReply c r (nat (2 ^ 62)))

/-- A record arrives at core c (R143, R273, R278): it waits to land where an unreserved FREE slot exists, and is pushed where none does;
none when it is not accepted. -/
def State.arrive (s : State) (c : Nat) (r : TaskRec) : Option State :=
  if !r.rel && !(s.unreserved c).isEmpty then
    some ((if r.stolen then s else s.endSweep c).modCore c fun co => { co with arrived := co.arrived ++ [r] })
  else s.pushRec c r

/-- The state that a landing gives slot k (R22, R237, R137); what the slot still has on its way stays counted. -/
def Slot.landed (old : Slot) (r : TaskRec) : Slot :=
  { st := .run, pc := r.w0, x := Tbl.put (Tbl.put (Tbl.put [] 1 r.w1) 2 r.w2) 3 r.w3, acks := old.acks, reds := old.reds }

/-- Lands a record in slot k: the messages addressed to the slot are discarded. -/
def State.land (s : State) (k : Nat) (r : TaskRec) : State :=
  let c := coreOf k
  let s := s.modSlot k fun sl => sl.landed r
  let s := s.modCore c fun co => { co with mail := co.mail.filter fun m => m.dest ≠ some (k % 16) }
  s.taskReply c r (nat (2 ^ 63 + s.tid k))

/-! Targets (R142) -/

/-- The check of a target word against the placement map, and of a record's word 0. -/
def State.targetFault (s : State) (x : Nat) (w0 t : W) : Option (Nat × W) :=
  if fld t 50 14 ≠ 0 ∨ fld t 42 5 ≠ 0 ∨ (!t.getLsbD 47 ∧ (s.coreAt x (fld t 32 10)).isNone) then some (224, t)
  else if w0.getLsbD 0 ∨ w0.toNat ≥ 65536 then some (224, w0)
  else if !t.getLsbD 47 then none
  else match (s.ctx x).groups.find (fld t 32 10) with
  | none => some (228, nat (fld t 32 10))
  | some g => if g.members.isEmpty then some (233, nat (fld t 32 10)) else none

/-- A spawned record that interface src sends to a group unit counts as sent for every scope (R264), `by_` being 1; where its target core
`dst` turns out to lie in none of those instances, or it is refused, that is taken back. -/
def State.countSpawn (s : State) (x src : Nat) (dst : Option Nat) (by_ : Int) : State :=
  [1, 2, 3].foldl (fun s sc =>
    match s.instanceOf x sc src with
    | none => s
    | some inst =>
      if dst.any fun c => c ≠ src && s.visits x sc inst c then s
      else s.modCtx x fun cx => { cx with counts := cx.counts.put (counterIx sc inst src) (Tbl.get 0 cx.counts (counterIx sc inst src) + by_) }) s

/-- Sends a record to the target that t names: to a core, or to a group unit with the position e0 (R143). -/
def State.sendRec (s : State) (x src : Nat) (r : TaskRec) (t : W) (e0 : Nat) : State :=
  let r := { r with pri := fld t 48 2, ctx := x }
  if t.getLsbD 47 then (s.countSpawn x src none 1).send x src (portGroup x (fld t 40 2)) (.group src x (fld t 32 10) (.spawn r e0))
  else match s.coreAt x (fld t 32 10) with
  | some c => s.send x src c (.task r)
  | none => s

/-! Counter banks -/

/-- Release of R146: the target is checked again; a failure discards the record and is recorded. A group position is a value
that the spec does not state (log 22). -/
def State.releaseRec (s : State) (p x src : Nat) (r : TaskRec) (t : W) : State :=
  match s.targetFault x r.w0 t with
  | some _ => s.record (p / 32) ⟨recWord0 5 false false 224 src x, t, 0#64, nat (p * 128)⟩
  | none =>
    let (f, s) := if t.getLsbD 47 then s.free else (0#64, s)
    s.sendRec x (engIf p) { r with rel := true, src := src, reply := none } t (fld f 0 16)

/-- The four words of a record as an answer. -/
def TaskRec.words (r : TaskRec) : V512 := vecOf 64 [r.w0.toNat, r.w1.toNat, r.w2.toNat, r.w3.toNat]

/-- CounterStep of R146 at the bank of physical cluster p for a slot with virtual thread id `src`. -/
def State.bankStep (s : State) (p x src ix : Nat) (op : BankOp) : Except Nat V512 × State :=
  let k := Tbl.get {} (s.clu p).bank ix
  let put (s : State) (k : Counter) : State := s.modClu p fun c => { c with bank := Tbl.set {} c.bank ix k }
  let ok : Except Nat V512 := .ok 0#512
  match op with
  | .dinit n => if k.st ≠ 0 then (.error 226, s) else (ok, put s { st := if n = 0 then 3 else 1, count := n })
  | .darm r t =>
    if k.st ≠ 0 then (.error 226, s)
    else if fld t 0 32 = 0 then (ok, s.releaseRec p x src r t)
    else (ok, put s { st := 2, count := fld t 0 32, task := r, t := t })
  | .dbind r t =>
    match k.st with
    | 0 => (.error 226, s)
    | 1 => (ok, put s { k with st := 2, task := r, t := t })
    | 2 => (.ok k.task.words, put s { k with task := r, t := t })
    | _ => (ok, (put s {}).releaseRec p x src r t)
  | .ddec =>
    if k.st = 0 then (.error 226, s)
    else if k.count = 0 then (.error 227, s)
    else if k.count > 1 then (ok, put s { k with count := k.count - 1 })
    else if k.st = 2 then (ok, (put s {}).releaseRec p x src k.task k.t)
    else (ok, put s { k with st := 3, count := 0 })
  | .dstat => (.ok ((nat (k.st * 2 ^ 62 + (if k.st = 2 then fld k.t 32 18 * 2 ^ 32 else 0) + k.count)).setWidth 512), s)

/-! Group units -/

/-- Completes the generations whose members have all arrived (R149). -/
def State.groupTurn (s : State) (x name : Nat) : Nat → State
  | 0 => s
  | f + 1 =>
    match (s.ctx x).groups.find name with
    | none => s
    | some g =>
      if (if g.members.isEmpty then !g.pending.isEmpty else g.members.all g.arrived.contains) then
        let done := g.parked
        let g' : Group :=
          { gen := (g.gen + 1) % 2 ^ 32, members := (g.members ++ g.pending).filter fun k => !(g.leavers.contains k), pending := []
            arrived := g.early, parked := g.early, leavers := [], early := [] }
        let s := s.modCtx x fun cx => { cx with groups := cx.groups.put name g' }
        (done.foldl (fun s k => s.answer x (portGroup x (name / 256)) k 0 (.val (BitVec.ofNat 512 g.gen))) s).groupTurn x name f
      else s

/-- A slot is a member or pending member of some group of the context. -/
def State.inGroup (s : State) (x k : Nat) : Bool := (s.ctx x).groups.any fun (_, g) => g.members.contains k || g.pending.contains k

/-- Leaving a group (R148): at the next boundary, and an arrival if the slot has not arrived. -/
def State.groupLeave (s : State) (x name k : Nat) : State :=
  let s := s.modCtx x fun cx => match cx.groups.find name with
    | none => cx
    | some g => { cx with groups := cx.groups.put name { g with
        leavers := if g.leavers.contains k then g.leavers else g.leavers ++ [k]
        arrived := if g.arrived.contains k then g.arrived else g.arrived ++ [k] } }
  s.groupTurn x name 3

/-- The core at position e0 among the members' cores, ordered by {vcluster, core} (R143). -/
def State.groupCore (s : State) (g : Group) (e0 : Nat) : Option Nat :=
  let cs := sortOn (fun c => s.vcl c * 8 + c % 8) ((g.members.map coreOf).eraseDups)
  cs[e0 % Nat.max 1 cs.length]?

/-- The location that a record about a spawned task names (Table 13-2): the spawning slot's, or that of the counter bank. -/
def spawnPloc (src : Nat) (r : TaskRec) : Nat := if src < 1024 then src * 16 + r.src % 16 else (src - 1024) * 128

/-- A spawned record that interface src sent to a group is refused (R143): SPAWNL's slot is told, otherwise a record reports it
(log 23). -/
def State.spawnRefused (s : State) (x src name : Nat) (r : TaskRec) (cause : Nat) : State :=
  let s := s.countSpawn x src none (-1)
  match r.reply with
  | some j => s.answer x (portGroup x (name / 256)) j 0 (.fault cause (nat name))
  | none =>
    let k := spawnPloc src r
    if src < 1024 then s.record (dieOf k) ⟨recWord0 0 ((s.slot k).tstat.getLsbD 1) false cause r.src x, nat name, 0#64, nat k⟩
    else s.record (dieOf k) ⟨recWord0 5 false false cause r.src x, nat name, 0#64, nat k⟩

/-- A request of slot k at a group unit (R148, R149): a value or fault to answer at once, or none when the slot waits. For a
spawned record k is the interface that sent it; a group that has lost its members by then refuses the record (log 23). -/
def State.groupStep (s : State) (k x name : Nat) (op : GroupOp) : Option (Except Nat V512) × State :=
  let put (s : State) (g : Group) : State := s.modCtx x fun cx => { cx with groups := cx.groups.put name g }
  let ok : Option (Except Nat V512) := some (.ok 0#512)
  match op with
  | .gnew =>
    match (List.range 256).find? fun i => ((s.ctx x).groups.find (name / 256 * 256 + i)).isNone with
    | none => (some (.error 229), s)
    | some i =>
      let n := name / 256 * 256 + i
      (some (.ok (BitVec.ofNat 512 n)), s.modCtx x fun cx => { cx with groups := cx.groups.put n {} })
  | _ =>
  match (s.ctx x).groups.find name with
  | none => match op with
    | .spawn r _ => (none, s.spawnRefused x k name r 228)
    | _ => (some (.error 228), s)
  | some g =>
    match op with
    | .gnew => (ok, s)
    | .gjoin => if s.inGroup x k then (some (.error 230), s) else (ok, (put s { g with pending := g.pending ++ [k] }).groupTurn x name 3)
    | .gleave => if g.members.contains k || g.pending.contains k then (ok, s.groupLeave x name k) else (some (.error 231), s)
    | .gfree => if g.members.isEmpty && g.pending.isEmpty then (ok, s.modCtx x fun cx => { cx with groups := cx.groups.del name }) else (some (.error 232), s)
    | .gbar =>
      if g.members.contains k then
        (none, (put s { g with arrived := if g.arrived.contains k then g.arrived else g.arrived ++ [k]
                               parked := if g.parked.contains k then g.parked else g.parked ++ [k] }).groupTurn x name 3)
      else if g.pending.contains k then (none, put s { g with early := if g.early.contains k then g.early else g.early ++ [k] })
      else (some (.error 231), s)
    | .spawn r e0 =>
      match s.groupCore g e0 with
      | some c =>
        let s := s.countSpawn x k (some c) (-1)
        (none, { s with net := s.net ++ [⟨k, c, .task r, x, none⟩] })
      | none => (none, s.spawnRefused x k name r 233)

/-- Frees slot k (R144, R321): monitors, holds, mailbox waits, group, kept bank; the slot may be reserved for a pop. R144 gives QUIT no moment
between its issue turn and the slot's next home turn: the slot is FREE at once, so a record may land in it before that turn (DESIGN CHOICE,
log 103). -/
def State.freeSlot (s : State) (k : Nat) : State :=
  let x := s.ctxOf (coreOf k)
  let s := (s.withdraw k).qForget k
  let s := match (s.ctx x).groups.find? fun (_, g) => g.members.contains k || g.pending.contains k with
    | some (n, _) => s.groupLeave x n k
    | none => s
  let s := s.dropKept k
  let s := s.modSlot k fun sl => { sl with st := .free, wait := .none, pend := none, latch := {}, mons := [], iter := none, chunk := {}, hold := 0, commitReq := false }
  s.reserveFreed k

end Sys2Proof.Machine
end

