-- ==== Sys2Proof/Machine/Task.lean ====
section
/-! DEFINITION. The TASK group (R142 to R152), NEXT (R107), and the events of counter banks and group units. -/

namespace Sys2Proof.Machine

/-- The record held in xr to xr+3 of the issuing slot (R142). -/
def State.recAt (s : State) (r : R6) : TaskRec :=
  let g (i : Nat) : W := s.xget s.cur (r.toNat % 32 + i)
  { w0 := g 0, w1 := g 1, w2 := g 2, w3 := g 3, src := s.tid s.cur, ctx := s.ctxOf s.myCore }

/-- SPAWN and SPAWNL (R143): a record for the issuing core itself arrives in the issuing turn (R141). -/
def State.spawn (s : State) (d : Option R6) (r t : R6) : State :=
  s.withOps 4 [t] d true (some 3) fun vs s =>
    s.onReply (fun v s => match d with | some d => s.finish true 4 d (asW v) | none => s.retireIrr 4) fun s =>
      let x := s.ctxOf s.myCore
      let t := arg vs 0
      let rec_ := { s.recAt r with reply := if d.isSome then some s.cur else none, pri := fld t 48 2 }
      match s.targetFault x rec_.w0 t with
      | some (c, v) => s.raise c v
      | none => s.viaNiq fun s =>
        let e0 := fld (s.eget s.cur 0) 0 16
        let after (s : State) : State := if d.isSome then (s.upd fun sl => { sl with latch := { sl.latch with left := 1 } }).park .parkMem .reply else s.retireIrr 4
        if !t.getLsbD 47 && s.coreAt x (fld t 32 10) == some s.myCore then
          match (after s.stampMe).arrive s.myCore rec_ with
          | some s => s
          | none => (after s).sendRec x s.myCore rec_ t e0
        else (after s).sendRec x s.myCore rec_ t e0

/-- A counter instruction (R146) on name n: at once in the own cluster's bank, by a request to another; `done` takes the answer. -/
def State.counterOp (s : State) (n : W) (op : BankOp) (done : V512 → State → State) : State :=
  s.onReply done fun s =>
    match (if fld n 17 47 ≠ 0 then none else s.place (s.ctxOf s.myCore) (fld n 10 7)) with
    | none => s.raise 225 n
    | some p =>
      if p = cluOf s.cur then
        match (s.stamp (portBank p) (s.tid s.cur)).bankStep p (s.ctxOf s.myCore) (s.tid s.cur) (fld n 0 10) op with
        | (.ok v, s) => done v s
        | (.error c, s) => s.raise c n
      else
        ((s.send (s.ctxOf s.myCore) s.myCore (portBank p) (.bank s.cur n.toNat op)).upd fun sl => { sl with latch := { sl.latch with left := 1 } }).park .parkMem .reply

/-- A request to the group unit that name n names (R148). -/
def State.groupOp (s : State) (n : W) (op : GroupOp) (st : SlotSt) (done : V512 → State → State) : State :=
  s.onReply done fun s =>
    if fld n 10 54 ≠ 0 then s.raise 228 n
    else
      let x := s.ctxOf s.myCore
      ((s.send x s.myCore (portGroup x (fld n 8 2)) (.group s.cur x n.toNat op)).upd fun sl => { sl with latch := { sl.latch with left := 1 } }).park st
        (if st = .parkBar then .group else .reply)

/-- SPAWN (R143). -/
def execSpawn (a b : R6) (s : State) : Out := .next (s.spawn none a b)

/-- SPAWNL (R143). -/
def execSpawnl (d a b : R6) (s : State) : Out := .next (s.spawn (some d) a b)

/-- QUIT (R144). -/
def execQuit (s : State) : Out := .next (s.release fun s => s.freeSlot s.cur)

/-- DINIT (R146). -/
def execDinit (a b : R6) (s : State) : Out :=
  .next (s.withOps 4 [a, b] none true (some 3) fun vs s => s.counterOp (arg vs 0) (.dinit (fld (arg vs 1) 0 32)) fun _ s => s.retireIrr 4)

/-- The checks of DARM and DBIND before they send (R146). -/
def State.bindOp (s : State) (d a b : R6) (op : TaskRec → W → BankOp) (done : V512 → State → State) : State :=
  s.withOps 4 [a, b] none true (some 3) fun vs s =>
    s.onReply done fun s =>
      let n := arg vs 0
      let x := s.ctxOf s.myCore
      if fld n 17 47 ≠ 0 ∨ (s.place x (fld n 10 7)).isNone then s.raise 225 n
      else match s.targetFault x (s.recAt d).w0 (arg vs 1) with
      | some (c, t) => s.raise c t
      | none => s.counterOp n (op (s.recAt d) (arg vs 1)) done

/-- DARM (R146). -/
def execDarm (d a b : R6) (s : State) : Out := .next (s.bindOp d a b .darm fun _ s => s.retireIrr 4)

/-- DBIND (R146): xr to xr+3 receive the old record. -/
def execDbind (d a b : R6) (s : State) : Out :=
  .next (s.bindOp d a b .dbind fun v s =>
    ((List.range 4).foldl (fun s i => s.xset s.cur (d.toNat % 32 + i) (nat (lane v 64 i))) s).retireIrr 4)

/-- DDEC (R146). -/
def execDdec (a : R6) (s : State) : Out :=
  .next (s.withOps 4 [a] none true (some 3) fun vs s => s.counterOp (arg vs 0) .ddec fun _ s => s.retireIrr 4)

/-- DSTAT (R146). -/
def execDstat (d a : R6) (s : State) : Out :=
  .next (s.withOps 4 [a] (some d) true none fun vs s => s.counterOp (arg vs 0) .dstat fun v s => s.finish true 4 d (asW v))

/-- GNEW (R148): the free group of lowest index (log 24). -/
def execGnew (d : R6) (s : State) : Out :=
  .next (s.withOps 4 [] (some d) true none fun _ s =>
    s.groupOp (nat (s.vcl s.myCore / 32 * 256)) .gnew .parkMem fun v s => (s.undoable d (.group (s.ctxOf s.myCore) (asW v).toNat)).finish true 4 d (asW v))

/-- GJOIN (R148). -/
def execGjoin (a : R6) (s : State) : Out :=
  .next (s.withOps 4 [a] none true none fun vs s => s.groupOp (arg vs 0) .gjoin .parkMem fun _ s => s.retireIrr 4)

/-- GLEAVE (R148): an arrival, so a release (R140). -/
def execGleave (a : R6) (s : State) : Out :=
  .next (s.withOps 4 [a] none true (some 3) fun vs s => s.groupOp (arg vs 0) .gleave .parkMem fun _ s => s.retireIrr 4)

/-- GBAR (R149). -/
def execGbar (d a : R6) (s : State) : Out :=
  .next (s.withOps 4 [a] (some d) true (some 3) fun vs s => s.groupOp (arg vs 0) .gbar .parkBar fun v s => s.finish true 4 d (asW v))

/-- GFREE (R148). -/
def execGfree (a : R6) (s : State) : Out :=
  .next (s.withOps 4 [a] none true none fun vs s => s.groupOp (arg vs 0) .gfree .parkMem fun _ s => s.retireIrr 4)

/-- The reading of bytes 8 to 55 of a nest descriptor (R151): none where it is invalid. -/
def nestOf (w : List Nat) : Option Iter :=
  let g (i : Nat) : Nat := w.getD i 0
  let pg := g 1
  if g 0 ≥ 2 ^ 40 ∨ pg ≥ 2 ^ 32 ∨ g 2 ≥ 2 ^ 40 ∨ g 3 ≥ 2 ^ 40 ∨ g 4 ≥ 2 ^ 40 ∨ g 5 ≥ 2 ^ 40 then none
  else if pg % 65536 = 0 ∨ pg / 65536 = 0 ∨ g 2 = 0 ∨ g 3 = 0 ∨ g 4 = 0 ∨ g 5 = 0 then none
  else if g 0 ≠ g 2 * g 3 * g 4 * g 5 then none
  else some ⟨pg % 65536, pg / 65536, g 0, g 2, g 3, g 4, g 5⟩

/-- ITERI (R151). -/
def execIteri (a : R6) (s : State) : Out :=
  .next (s.withOps 4 [a] none true none fun vs s =>
    let p := arg vs 0
    if p = 0#64 then (s.upd fun sl => { sl with nestp := 0#64, nestc := 0#64, iter := none }).retireIrr 4
    else match s.access s.myCore p 64 64 with
    | .error c => s.raise c p
    | .ok t =>
      if 3 ≤ spc p ∧ spc p ≤ 5 then (s.upd fun sl => { sl with iter := none }).raise 234 p
      else s.loadAll true [⟨0, p, { t with off := t.off + 8 }, 48, []⟩] fun bs s =>
        let b := bs.headD []
        match nestOf ((List.range 6).map fun i => leNat ((b.drop (8 * i)).take 8)) with
        | none => (s.upd fun sl => { sl with iter := none }).raise 234 p
        | some it => (s.upd fun sl => { sl with iter := some it, nestp := p, nestc := 0#64 }).retireIrr 4)

/-- The index tuple of linear index l (R107): extent 0 varies fastest. -/
def tuple (l : Nat) : List Nat → List Nat
  | [] => []
  | e :: r => (l % e) :: tuple (l / e) r

/-- The loop step of NEXT with the current claim c: k0 to k3 and NESTC; the PC goes to `pc`. -/
def State.nextStep (s : State) (it : Iter) (left idx : Nat) : State :=
  let ks := tuple idx [it.e0, it.e1, it.e2, it.e3]
  let s := ks.zipIdx.foldl (fun s (v, i) => s.xset s.cur (24 + i) (nat v)) s
  s.upd fun sl => { sl with nestc := nat ((left - 1) * 2 ^ 40 + (idx + 1) % 2 ^ 40) }

/-- NEXT (R107): a claim ends the chunk and is performed at the descriptor's home (R152), after the
checks of R114 on NESTP as it stands (DESIGN CHOICE: log 98). -/
def execNext (i : BitVec 13) (s : State) : Out :=
  .next (
    let p := s.me.nestp
    let t := s.target i.toInt
    if p = 0#64 then s.retire 4
    else match s.me.iter with
    | none => s.raise 234 p
    | some it =>
      let c := s.me.nestc
      if fld c 40 24 ≠ 0 then (s.nextStep it (fld c 40 24) (fld c 0 40)).retireTo t
      else s.afterCommit fun s =>
        match s.access s.myCore p 64 64 with
        | .error e => s.raise e p
        | .ok g => s.atHome g (.claim (it.g * it.p) it.total) p fun v s =>
          let n := fld (asW v) 0 24
          if n = 0 then s.retireIrr 4
          else (s.nextStep it n (lane v 64 1)).retireIrrTo t)

/-! Events of the banks and the group units -/

/-- COUNTER_BANK_STEP: message n, the next to arrive at its bank, is applied (R147). -/
def execCounterBankStep (n : Nat) (s : State) : Out :=
  match s.deliverable n with
  | some m => match m.body with
    | .bank k name op =>
      let s := s.accept n m
      let p := m.dst - 2304
      match s.bankStep p m.ctx (s.tid k) (name % 1024) op with
      | (.ok v, s) => .next (s.answer m.ctx m.dst k 0 (.val v))
      | (.error c, s) => .next (s.answer m.ctx m.dst k 0 (.fault c (nat name)))
    | _ => .next s
  | none => .next s

/-- GROUP_REQUEST_ARRIVAL: message n reaches its group unit (R148, R149); a spawned record leaves its interface's queue (R221). -/
def execGroupRequestArrival (n : Nat) (s : State) : Out :=
  .next (match s.deliverable n with
    | some m => match m.body with
      | .group k x name op =>
        let (r, s) := (s.accept n m).groupStep k x name op
        let s := s.freed m.src
        match r with
        | some (.ok v) => s.answer x m.dst k 0 (.val v)
        | some (.error c) => match op with
          | .gnew => let (v, s) := s.free; s.answer x m.dst k 0 (.fault c v)
          | _ => s.answer x m.dst k 0 (.fault c (nat name))
        | none => s
      | _ => s
    | none => s)

end Sys2Proof.Machine
end

