-- ==== Sys2Proof/Machine/Sequencer.lean ====
section
/-! DEFINITION. The service sequencer (R268 to R282): the job that a vacant turn of a core performs, work stealing, and the arrival
of task records and start messages. -/

namespace Sys2Proof.Machine

/-! Running contexts -/

/-- FRZSTAT of a context: a context that was never frozen is active exactly while its pair is activated (Table 13-8). -/
def Ctx.frzStat (c : Ctx) : Nat := if c.frz ≥ 2 then c.frz else if c.active then 1 else 0

/-- Core c takes turns: the device runs (R353) and its context is not being frozen, frozen or thawed (R330, R332). -/
def State.runs (s : State) (c : Nat) : Bool := s.sec.st == 3 && (isRing c || (s.ctx (s.ctxOf c)).frz < 2)

/-- The slot that owns the current turn of core c (R18). -/
def State.turnOwner (s : State) (c : Nat) : Nat := 16 * c + (s.core c).cyc % 16

/-- The owner issues in this turn (R19, R20). -/
def State.issues (s : State) (c : Nat) : Bool :=
  let sl := s.slot (s.turnOwner c)
  sl.st == .run && sl.hold == 0

/-- The next turn of core c is vacant. -/
def State.vacant (s : State) (c : Nat) : Bool := c < 1024 && s.inStep c && s.runs c && !s.issues c && (s.slot (s.turnOwner c)).err.isNone

/-! Agents' records -/

/-- The cause and ORIG that an agent reports (R327): 114 + c for the condition of cause 96 + c, another cause as it is. -/
def agentCause (c : Nat) : Nat × Nat := if 96 ≤ c ∧ c ≤ 104 then (c + 18, c) else (c, 0)

/-- The record of a failure of core c's sequencer (R318, R327). -/
def State.seqRecord (s : State) (c cause : Nat) (tval : W) : State :=
  s.unitRecord (c / 256) 4 (agentCause cause).1 tval (agentCause cause).2 0 (c * 16) 0 (s.ctxOf c)

/-! Jobs -/

/-- A job of Table 11-1. -/
inductive Job where
  | reissue (k : Nat)
  | landPop (k : Nat)
  | landArrived (k : Nat)
  /-- the oldest spilled item of queue q goes to its ring -/
  | refill (q : Nat)
  /-- the first waiting push of queue q is written to its spill area -/
  | spill (q : Nat)
  /-- the top hardware record of a level goes to the spill area, or its bottom spilled record comes back -/
  | dequeOut (l : Nat)
  | dequeBack (l : Nat)
  | steal (v : Nat)
  deriving DecidableEq, Repr

/-- The records of level l in hardware, top first. -/
def Core.level (c : Core) (l : Nat) : List TaskRec := c.deque.filter (·.pri == l)
/-- The number of records of level l in the spill area. -/
def Core.spillCount (c : Core) (l : Nat) : Nat := (Tbl.get (0, 0) c.spill l).2
/-- The highest non-empty level. -/
def Core.topLevel (c : Core) : Option Nat := [3, 2, 1, 0].find? fun l => !(c.level l).isEmpty || c.spillCount l > 0
/-- Records in the deque. -/
def Core.records (c : Core) : Nat := c.deque.length + c.spilled

/-- The place of core c's spill area: DEQSPILL as a GLB or DSR pointer aligned to 64 KiB (R274). -/
def State.spillArea (s : State) (c : Nat) : Option Nat :=
  let p := (s.core c).deqspill
  if p = 0#64 then none
  else match s.resolve c p with
  | .ok t => if (spc p = 0 ∨ spc p = 6) ∧ t.off % 65536 = 0 then some t.at_ else none
  | .error _ => none

/-- The place of position i of level l of a spill area (Table 11-3). -/
def spillRec (a l i : Nat) : Nat := a + l * 16384 + i % 512 * 32

/-- An access of core c's sequencer to n bytes at a place: ready, or what is missing; a place outside GLB is always ready. -/
def State.seqReady (s : State) (c a n : Nat) (wr : Bool) : Ready :=
  if a < glb0 then .ok else s.ready (viewOf (16 * c) (glbCtx a)) (glbVa a) n (!wr) wr

/-- The sequencer can use the place now, or has something to do about it. -/
def State.seqFree (s : State) (c a n : Nat) (wr : Bool) : Bool :=
  match s.seqReady c a n wr with
  | .ok => !wr || !s.mustWait none a n
  | .missing _ => !s.walking (.agent c)
  | .deny _ _ => true

/-- The area of a queue's spilled items: a GLB pointer of its context (R155). -/
def State.spillQ (s : State) (q : Nat) : Nat := glbAt (s.qctx q) (offOf (s.queue q).sparea)

/-- Spill position j of queue q lies at this place; its tag word at the second. -/
def State.spillPlaces (s : State) (q j : Nat) : Nat × Nat :=
  let n := (s.queue q).spill
  (s.spillQ q + 8 * j, s.spillQ q + 8 * n + 8 * (j / 64))

/-- Queue q's first move of row 7: a refill before a spill (R282). -/
def State.queueJob (s : State) (c q : Nat) : Option Job :=
  let r := s.queue q
  let free (j : Nat) (wr : Bool) : Bool := let (a, b) := s.spillPlaces q j; s.seqFree c a 8 wr && s.seqFree c b 8 wr
  if !r.alloc then none
  else if r.sn > 0 && r.used < r.depth then (if free r.shead false then some (.refill q) else none)
  else if r.inbox.isEmpty then none
  else if r.sn < r.spill ∧ free ((r.shead + r.sn) % r.spill) true then some (.spill q)
  else none

/-- The queues homed at core c. -/
def State.homed (s : State) (c : Nat) : List Nat :=
  ((s.clu (c / 8)).queues.filter fun (_, r) => r.alloc && r.home == c % 8).map fun (i, _) => c / 8 * 64 + i

/-- Row 8 (R275). -/
def State.dequeJob (s : State) (c : Nat) : Option Job :=
  let co := s.core c
  match s.spillArea c with
  | none => none
  | some a =>
    let out := [0, 1, 2, 3].find? fun l => !(co.level l).isEmpty
    let back := [3, 2, 1, 0].find? fun l => co.spillCount l > 0
    match out, back with
    | some l, _ =>
      if co.deque.length > 56 then
        (if !co.spillBad ∧ co.spillCount l < 512 ∧ s.seqFree c (spillRec a l ((Tbl.get (0, 0) co.spill l).1 + co.spillCount l)) 32 true then some (.dequeOut l) else none)
      else match back with
        | some b => if co.deque.length < 40 ∧ s.seqFree c (spillRec a b ((Tbl.get (0, 0) co.spill b).1 + co.spillCount b - 1)) 32 false then some (.dequeBack b) else none
        | none => none
    | none, some b => if s.seqFree c (spillRec a b ((Tbl.get (0, 0) co.spill b).1 + co.spillCount b - 1)) 32 false then some (.dequeBack b) else none
    | none, none => none

/-- The victims of core c in the order of a sweep (R276). -/
def State.victims (s : State) (c : Nat) : List Nat :=
  let x := s.ctxOf c
  let v := s.vcl c
  let d := v / 32
  let cores (v : Nat) (l : List Nat) : List Nat := l.filterMap fun i => s.coreAt x (v * 8 + i)
  let own := cores v ((List.range 8).drop (c % 8 + 1) ++ List.range (c % 8))
  let die := ((List.range 32).drop (v % 32 + 1) ++ List.range (v % 32)).flatMap fun i => cores (32 * d + i) (List.range 8)
  let rest := ((List.range 128).drop (v + 1) ++ List.range v).filter (· / 32 ≠ d) |>.flatMap fun u => cores u (List.range 8)
  own ++ die ++ rest

/-- The condition under which a core steals (R276). -/
def State.hungry (s : State) (c : Nat) : Bool :=
  let co := s.core c
  !isRing c && (s.owner (c / 8)).isSome && !(s.unreserved c).isEmpty && co.records == 0 && co.arrived.isEmpty

/-- Row 9 (R276). -/
def State.stealJob (s : State) (c : Nat) : Option Job :=
  let co := s.core c
  let vs := s.victims c
  if !s.hungry c || co.stealing || co.rest.isSome || vs.isEmpty then none
  else (vs[(co.sweep + co.tried) % vs.length]?).map .steal

/-- The landing of row 2 or 5 can be performed: its record stands in hardware, or can be read back. -/
def State.canPopRec (s : State) (c : Nat) : Bool :=
  let co := s.core c
  match co.topLevel with
  | none => false
  | some l =>
    if !(co.level l).isEmpty then true
    else match s.spillArea c with
      | some a => s.seqFree c (spillRec a l ((Tbl.get (0, 0) co.spill l).1 + co.spillCount l - 1)) 32 false
      | none => false

/-- The first row of Table 11-1 that has work for core c in the current turn (R268). -/
def State.job (s : State) (c : Nat) : Option Job :=
  let o := s.turnOwner c
  let co := s.core c
  let sl := s.slot o
  let waiting := s.slots.filter fun (k, sl) => coreOf k == c && sl.wait == .reissue
  let oldest := waiting.foldl (fun b (k, sl) => match b with
    | none => some (k, sl.wakeAt)
    | some (j, w) => if sl.wakeAt < w then some (k, sl.wakeAt) else some (j, w)) none  -- of one cycle's wakes the lowest slot
  let reserved := co.reserved.filter fun i => (s.slot (16 * c + i)).st == .free
  if sl.wait = .reissue ∨ sl.nudged then some (.reissue o)
  else if reserved.contains (o % 16) ∧ s.canPopRec c then some (.landPop o)
  else
    let free := s.unreserved c
    let arrival : Option Job := if co.arrived.isEmpty then none else free.head?.map fun i => .landArrived (16 * c + i)
    (if free.contains (o % 16) then arrival else none)
      <|> oldest.map (fun (k, _) => .reissue k)
      <|> (if s.canPopRec c then reserved.head?.map (fun i => .landPop (16 * c + i)) else none)
      <|> arrival
      <|> (s.homed c).findSome? (s.queueJob c)
      <|> s.dequeJob c
      <|> s.stealJob c

/-! Performing a job -/

/-- A fault that waits for slot k is taken (R322, R325). -/
def State.takeInjected (s : State) (k : Nat) (f : Nat × W × Nat) : State :=
  (s.modSlot k fun sl => { sl with inj := none, wait := .none, st := .run, pend := none, latch := {} }).raiseAt k f.1 f.2.1 f.2.2

/-- The snapshot of a chunk that opens with the instruction about to act (R31). -/
def State.openChunk (s : State) (k : Nat) : State :=
  let sl := s.slot k
  if sl.chunk.count = 0 ∧ !sl.chunk.global then s.modSlot k fun sl => { sl with chunk := { sl.chunk with snap := sl.snapshot } } else s

/-- The pending instruction of slot k is reissued (R270); the fault of FINJECT is taken in its place (R322). A slot that the solo grant
restarts has none pending: it issues the instruction at its PC in this turn, for which it keeps the mark of the reissue until then. What
NUDGE had reissued finds its condition unmet and parks again (R167). -/
def State.reissueNow (s : State) (k : Nat) : State :=
  let sl := s.slot k
  if sl.nudged && sl.wait != .reissue then s.modSlot k fun sl => { sl with nudged := false } else
  match sl.inj with
  | some f => s.takeInjected k f
  | none =>
    let s := (s.modSlot k fun sl => { sl with st := .run, wait := if sl.pend.isSome then .none else .reissue, nudged := false }).openChunk k
    { s with replay := s.replay ++ [k] }

/-- A record that cannot be read back is discarded, and the spill area counts as full from then on (R327). -/
def State.spillFails (s : State) (c l cause : Nat) (tval : W) (lose : Bool) : State :=
  (s.modCore c fun co =>
    let (h, n) := Tbl.get (0, 0) co.spill l
    let co := { co with spillBad := true, spill := if lose then Tbl.set (0, 0) co.spill l (if n ≤ 1 then (0, 0) else (h, n - 1)) else co.spill }
    { co with reserved := co.reserved.take co.records }).seqRecord c cause tval

/-- A record from its 32 bytes in a spill area. -/
def State.recAtPlace (s : State) (a l x : Nat) : TaskRec :=
  let g (i : Nat) : W := nat (s.num (a + 8 * i) 8)
  { w0 := g 0, w1 := g 1, w2 := g 2, w3 := g 3, pri := l, ctx := x }

/-- Takes the bottom record of level l out of the spill area at a; none when its translation is still to come or it is lost. -/
def State.unspill (s : State) (c l : Nat) : Option TaskRec × State :=
  let co := s.core c
  let (h, n) := Tbl.get (0, 0) co.spill l
  match s.spillArea c with
  | none => (none, s)
  | some a =>
    let p := spillRec a l (h + n - 1)
    match s.seqReady c p 32 false with
    | .missing va => (none, s.askWalk (.agent c) (glbCtx p) va)
    | .deny e va => (none, s.spillFails c l e (nat va) true)
    | .ok =>
      let s := if p < glb0 then s else s.haveLines (glbCtx p) (glbVa p) 32
      (some (s.recAtPlace p l (s.ctxOf c)), s.modCore c fun co => { co with spill := Tbl.set (0, 0) co.spill l (if n ≤ 1 then (0, 0) else (h, n - 1)) })

/-- Removes the last record of level l. -/
def dropLast (l : Nat) (ds : List TaskRec) : List TaskRec :=
  match ds.reverse.findIdx? (·.pri == l) with
  | some i => (ds.reverse.eraseIdx i).reverse
  | none => ds

/-- Lands the bottom record of the highest non-empty level in the reserved slot k (R273, R274). -/
def State.landPop (s : State) (k : Nat) : State :=
  let c := coreOf k
  let co := s.core c
  match co.topLevel with
  | none => s
  | some l =>
    match (co.level l).getLast? with
    | some r => ((s.modCore c fun co => { co with deque := dropLast l co.deque, reserved := co.reserved.erase (k % 16) })).land k r
    | none =>
      match s.unspill c l with
      | (some r, s) => (s.modCore c fun co => { co with reserved := co.reserved.erase (k % 16) }).land k r
      | (none, s) => s

/-- Lands the oldest arrived record in slot k. -/
def State.landArrived (s : State) (k : Nat) : State :=
  match (s.core (coreOf k)).arrived with
  | [] => s
  | r :: rs => (s.modCore (coreOf k) fun co => { co with arrived := rs }).land k r

/-- The first obstacle among the places of a spill position. -/
def State.spillObstacle (s : State) (q j : Nat) (wr : Bool) : Ready :=
  let (a, b) := s.spillPlaces q j
  match s.seqReady (s.qcore q) a 8 wr with
  | .ok => s.seqReady (s.qcore q) b 8 wr
  | r => r

/-- How many of n spilled items of queue q from position j on cannot be read, until one that can, or whose page is still to be looked up;
the walk of address `bad` has failed, for every word of its 4 KiB. -/
def State.unreadable (s : State) (q : Nat) (bad : Option Nat) (j : Nat) : Nat → Nat
  | 0 => 0
  | n + 1 => match s.spillObstacle q (j % (s.queue q).spill) false with
    | .deny _ _ => s.unreadable q bad (j + 1) n + 1
    | .missing va => if bad.any (· / 4096 == va / 4096) then s.unreadable q bad (j + 1) n + 1 else 0
    | .ok => 0

/-- A queue's spill area failed (R327), on a permission or in the walk of address `bad`: the queue is closed and, on a refill, the oldest
spilled items are discarded as far as they cannot be read. -/
def State.queueFails (s : State) (c q cause : Nat) (lose : Bool) (bad : Option Nat := none) : State :=
  let h := s.handle q
  let r := s.queue q
  let n := if lose then s.unreadable q bad r.shead r.sn else 0
  let s := s.modQueue q fun r => { r with closed := true, sn := r.sn - n, shead := (r.shead + n) % Nat.max 1 r.spill }
  ((s.qEvict q (· < 32768)).qChanged q).seqRecord c cause h

/-- Brings in the lines of a spill position. -/
def State.spillLines (s : State) (q j : Nat) : State :=
  let (a, b) := s.spillPlaces q j
  (s.haveLines (s.qctx q) (glbVa a) 8).haveLines (s.qctx q) (glbVa b) 8

/-- Moves the oldest spilled item of queue q into its ring (R282). -/
def State.refill (s : State) (c q : Nat) : State :=
  let r := s.queue q
  match s.spillObstacle q r.shead false with
  | .missing va => s.askWalk (.agent c) (s.qctx q) va
  | .deny e _ => s.queueFails c q e true
  | .ok =>
    let s := s.spillLines q r.shead
    let i := s.areaItem (s.spillQ q) r.spill r.shead
    let s := s.modQueue q fun r => { r with shead := (r.shead + 1) % r.spill, sn := r.sn - 1 }
    (s.qAccept q i false).qChanged q

/-- Writes the first waiting push of queue q to its spill area (R282). -/
def State.spillOne (s : State) (c q : Nat) : State :=
  let r := s.queue q
  match r.inbox with
  | [] => s
  | (k, i) :: rest =>
    let j := (r.shead + r.sn) % r.spill
    match s.spillObstacle q j true with
    | .missing va => s.askWalk (.agent c) (s.qctx q) va true
    | .deny e _ => s.queueFails c q e false
    | .ok =>
      let s := (s.spillLines q j).putAreaItem (s.spillQ q) r.spill j i
      let (a, b) := s.spillPlaces q j
      let s := s.notePages [a, b]
      ((s.modQueue q fun r => { r with inbox := rest, sn := r.sn + 1 }).pushed q k).qChanged q

/-- Removes the first record of level l. -/
def dropFirst (l : Nat) (ds : List TaskRec) : List TaskRec :=
  match ds.findIdx? (·.pri == l) with
  | some i => ds.eraseIdx i
  | none => ds

/-- Puts a record above the records of its level. -/
def putTop (r : TaskRec) (ds : List TaskRec) : List TaskRec := ds.takeWhile (·.pri ≠ r.pri) ++ r :: ds.dropWhile (·.pri ≠ r.pri)

/-- Moves the top hardware record of level l to the spill area (R275). -/
def State.dequeOut (s : State) (c l : Nat) : State :=
  let co := s.core c
  match s.spillArea c, (co.level l).head? with
  | some a, some r =>
    let (h, n) := Tbl.get (0, 0) co.spill l
    let p := spillRec a l (h + n)
    match s.seqReady c p 32 true with
    | .missing va => s.askWalk (.agent c) (glbCtx p) va true
    | .deny e va => s.spillFails c l e (nat va) false
    | .ok =>
      let s := if p < glb0 then s else s.haveLines (glbCtx p) (glbVa p) 32
      let s := s.unitWrite p ([r.w0, r.w1, r.w2, r.w3].flatMap fun w => leBytes w.toNat 8)
      s.modCore c fun co => { co with deque := dropFirst l co.deque, spill := co.spill.put l (h, n + 1) }
  | _, _ => s

/-- Moves the bottom spilled record of level l back, above the hardware's (R275). -/
def State.dequeBack (s : State) (c l : Nat) : State :=
  match s.unspill c l with
  | (some r, s) => s.modCore c fun co => { co with deque := putTop r co.deque }
  | (none, s) => s

/-- Performs a job of core c. -/
def State.perform (s : State) (c : Nat) : Job → State
  | .reissue k => s.reissueNow k
  | .landPop k => s.landPop k
  | .landArrived k => s.landArrived k
  | .refill q => s.refill c q
  | .spill q => s.spillOne c q
  | .dequeOut l => s.dequeOut c l
  | .dequeBack l => s.dequeBack c l
  | .steal v => (s.send (s.ctxOf c) c v (.steal c)).modCore c fun co => { co with stealing := true }

/-- Core c begins its next cycle: the shared-bank writes of the one before have landed (R25). -/
def State.beginCycle (s : State) (c : Nat) : State := (s.landWrites c).modCore c fun co => { co with beat := co.beat + 1 }

/-- The core's counter goes on, and a sweep whose condition has ended is forgotten (R276). -/
def State.endTurn (s : State) (c : Nat) : State :=
  let s := if s.hungry c || (s.core c).arrived.any (·.stolen) then s else s.endSweep c
  s.modCore c fun co => { co with cyc := (co.cyc + 1) % 2 ^ 64 }

/-- One of the further home turns of slot k's long operation passes (R92). -/
def State.passTurn (s : State) (k : Nat) : State :=
  if (s.slot k).hold = 0 then s else s.modSlot k fun sl => { sl with hold := sl.hold - 1 }

/-- A vacant turn of core c: the first job with work. The turn ends when the completions of the step are done, so that a reissued
instruction acts as if issued in this turn (R270). -/
def State.vacantTurn (s : State) (c : Nat) : State :=
  let s : State := { (s.beginCycle c).passTurn (s.turnOwner c) with ending := some c }
  match s.job c with
  | some j => s.perform c j
  | none => s

/-- The vacant turn of core c when its job is one that satisfies f; otherwise nothing happens. -/
def State.seqTurn (s : State) (c : Nat) (f : Job → Bool) : Out :=
  .next (if s.vacant c && ((s.beginCycle c).job c).any f then s.vacantTurn c else s)

/-! Events -/

/-- LAND_RECORD: the sequencer of core c lands a record (R268, R273). -/
def execLandRecord (c : Nat) (s : State) : Out :=
  s.seqTurn c (fun j => match j with | .landPop _ => true | .landArrived _ => true | _ => false)

/-- SEQUENCER_REISSUE: the sequencer reissues the woken instruction of slot k (R268, R270). -/
def execSequencerReissue (k : Nat) (s : State) : Out :=
  s.seqTurn (coreOf k) (fun j => j == .reissue k)

/-- QUEUE_SPILL_REFILL: the sequencer at the home of record q of cluster cl moves one item (R282). -/
def execQueueSpillRefill (cl q : Nat) (s : State) : Out :=
  s.seqTurn (s.qcore (cl * 64 + q % 64)) (fun j => j == .refill (cl * 64 + q % 64) || j == .spill (cl * 64 + q % 64))

/-- DEQUE_SPILL_MOVE: the sequencer of core c moves one deque record (R275). -/
def execDequeSpillMove (c : Nat) (s : State) : Out :=
  s.seqTurn c (fun j => match j with | .dequeOut _ => true | .dequeBack _ => true | _ => false)

/-- STEAL_REQUEST: the sequencer of core c sends a steal request (R276). -/
def execStealRequest (c : Nat) (s : State) : Out :=
  s.seqTurn c (fun j => match j with | .steal _ => true | _ => false)

/-- The level whose top record a steal takes: the highest non-empty one whose top record is in hardware (R274, R277). -/
def Core.stealLevel (c : Core) : Option Nat := [3, 2, 1, 0].find? fun l => !(c.level l).isEmpty && c.spillCount l == 0

/-- The position of core v in c's order of victims. -/
def State.victimIx (s : State) (c v : Nat) : Nat := ((s.victims c).findIdx? (· == v)).getD 0

/-- A refusal reaches thief t: its sweep goes on with the next victim, or ends without success (R276). -/
def State.stealRefused (s : State) (t : Nat) : State :=
  let vs := s.victims t
  s.modCore t fun th =>
    if th.ended then { th with stealing := false, ended := false }
    else if th.tried + 1 ≥ vs.length then { th with stealing := false, tried := 0, sweep := (th.sweep + 1) % Nat.max 1 vs.length, rest := some th.cyc }
    else { th with stealing := false, tried := th.tried + 1 }

/-- Victim v answers the steal request of core t (R277): its top record of the highest level that has one in hardware, or a refusal. -/
def State.stealAnswer (s : State) (x v t : Nat) : State :=
  let co := s.core v
  match (if co.reserved.isEmpty then co.stealLevel else none).bind fun l => ((co.level l).head?).map fun r => (l, r) with
  | none => s.send x v t (.stealNo v)
  | some (l, r) =>
    let s := s.modCore v fun co => { co with deque := dropFirst l co.deque, stolenFrom := (co.stolenFrom + 1) % 2 ^ 32 }
    let i := s.victimIx t v
    let s := s.modCore t fun th => { th with stole := (th.stole + 1) % 2 ^ 32, sweep := if th.ended then 0 else (i + 1) % Nat.max 1 (s.victims t).length, tried := 0 }
    s.send x v t (.task { r with src := s.vcl v * 128 + v % 8 * 16, reply := none, rel := false, stolen := true, ctx := x })

/-- STEAL_ANSWER: message n, a steal request, reaches its victim, which answers (R277), or the refusal reaches the thief (R276). -/
def execStealAnswer (n : Nat) (s : State) : Out :=
  .next (match s.deliverable n with
    | some m => match m.body with
      | .steal t => (s.accept n m).stealAnswer m.ctx m.dst t
      | .stealNo _ => (s.accept n m).stealRefused m.dst
      | _ => s
    | none => s)

/-- STEAL_SWEEP_DELAY: 256 cycles after a sweep with no success core c may sweep again (R276). -/
def execStealSweepDelay (c : Nat) (s : State) : Out :=
  .next (match (s.core c).rest with
    | some t => if (s.core c).cyc ≥ t + 256 then s.modCore c fun co => { co with rest := none } else s
    | none => s)

/-- The counter by which the sender of a message measures its back-off (R9, R222). -/
def State.senderCyc (s : State) (m : Msg) : Nat := (s.core (s.clockOf m.src)).cyc

/-- A refusal carries a back-off hint of 16 to 1,024 cycles, chosen by the refusing unit (R222); the sender keeps the message until so
many of its cycles have passed. A hint out of that range is none, and nothing happens. -/
def State.refuseMsg (s : State) (n h : Nat) : Out :=
  .next (if 16 ≤ h ∧ h ≤ 1024 then { s with net := s.net.modify n fun m => { m with back := some (s.senderCyc m + h) } } else s)

/-- TASK_RECORD_ARRIVAL: message n, a task record, arrives at its core, or is refused with hint h (R143, R273, R275, R278). -/
def execTaskRecordArrival (n h : Nat) (s : State) : Out :=
  match s.deliverable n with
  | some m => match m.body with
    | .task r =>
      match (s.accept n m).arrive m.dst r with
      | some s => .next ((if r.stolen then s.modCore m.dst fun co => { co with stealing := false, ended := false } else s).freed m.src)
      | none => s.refuseMsg n h
    | _ => .next s
  | none => .next s

/-- REFUSAL_RESEND: message n, refused before, is sent again once its back-off has passed (R222, R349). -/
def execRefusalResend (n : Nat) (s : State) : Out :=
  .next (match s.net[n]? with
    | some m => match m.back with
      | some due => if s.senderCyc m ≥ due then { s with net := s.net.modify n fun m => { m with back := none } } else s
      | none => s
    | none => s)

/-- A slot that waits for its core's start message, pinned by firmware or restored by THAW, enters RUN (R280, R332). -/
def State.startSlot (s : State) (k : Nat) : State :=
  if (s.core (coreOf k)).pinned.contains k then
    (s.modSlot k fun sl => { sl with st := if sl.st = .frozen then .run else sl.st }).modCore (coreOf k) fun co => { co with pinned := co.pinned.erase k }
  else s

/-- PINNED_START: message n, a start message, sets the slots that its core holds for it together (R280, R332). -/
def execPinnedStart (n : Nat) (s : State) : Out :=
  match s.deliverable n with
  | some m => match m.body with
    | .start ks => .next (ks.foldl State.startSlot (s.accept n m))
    | _ => .next s
  | none => .next s

end Sys2Proof.Machine
end

