-- ==== Sys2Proof/Machine/Net.lean ====
section
/-! DEFINITION. What reaches a slot or a home from outside its turns: replies, acknowledgements, remote accesses, grants at slices
and commit arbiters, write-backs, parades, time-outs (R116, R127, R128, R137, R245, R252 to R266, R270, R328, R329). -/

namespace Sys2Proof.Machine

/-- The pending instruction of slot k goes on in place, with no value delivered. -/
def State.resumeSlot (s : State) (k : Nat) : State :=
  let s := s.modSlot k fun sl => { sl with st := .run, wait := .none }
  { s with replay := s.replay ++ [k] }

/-! Replies -/

/-- Lines that slot k waited for arrive: those with no translation any more are walked for again. Where its core's L1D has no room for
them its chunk ends before the access; the first access of a chunk waits (R250, R251). -/
def State.fillReply (s : State) (n k : Nat) (as : List Nat) (wr : Bool) : State :=
  let c := coreOf k
  let ls := as.map lineOf
  if s.walking (.slot k) then s
  else if !s.l1dRoom c ls then
    if (s.slot k).chunk.global then { s with net := s.net.eraseIdx n }.parkReAt k .parkMem .commit else s
  else
    let x := s.ctxOf c
    let lost := as.filter fun a => a ≥ glb0 && (s.trans x (glbVa a)).isNone
    if !lost.isEmpty then lost.foldl (fun s a => s.askWalk (.slot k) x (glbVa a) wr) s
    else
      let s := as.foldl (fun s a => if a ≥ glb0 then s.haveLine x (glbVa a) else s) { s with net := s.net.eraseIdx n }
      (ls.foldl (fun s l => s.l1dTake c ls l) s).resumeSlot k

/-- One of the answers that slot k collects by lane: the last one ends the wait. -/
def State.partReply (s : State) (k part : Nat) (r : Answer) : State :=
  let l := (s.slot k).latch
  let l := match r with
    | .fault c t => { l with parts := l.parts.put (faultKey + part) (BitVec.ofNat 512 (c * 2 ^ 64 + t.toNat)) }
    | .val v => { l with parts := if l.stage = 5 then l.parts else l.parts.put part v
                         refused := l.refused || (!l.partials.isEmpty && l.stage == 0 && v.getLsbD 65) }
  let l := { l with left := l.left - 1 }
  let s := s.modSlot k fun sl => { sl with latch := l }
  if l.left > 0 then s
  else match l.fault with
    | some (c, t) => if l.partials.isEmpty then s.raiseAt k c t else s.complete k 0#512
    | none => s.complete k (Tbl.get 0#512 l.parts 0)

/-- REPLY: message n, the answer of a unit to a slot, arrives (R270, R271); what a slot no longer waits for is dropped. -/
def execReply (n : Nat) (s : State) : Out :=
  match s.net[n]? with
  | some m => match m.body with
    | .reply k part r =>
      let rest := { s with net := s.net.eraseIdx n }
      let whole : State := match r with | .val v => rest.complete k v | .fault c t => rest.raiseAt k c t
      match (s.slot k).wait with
      | .fill as wr => .next (s.fillReply n k as wr)
      | .reply => .next (rest.partReply k part r)
      | .queue => .next whole
      | .group => .next whole
      | .system => .next whole
      | .engine => .next whole
      | .fe => .next whole
      | .bbar => .next whole
      | .resv => .next whole
      | _ => .next rest
    | _ => .next s
  | none => .next s

/-- A slot's waits that the last acknowledgement or no-return AMO ends (R116, R136, R140). -/
def State.ackWake (s : State) (k : Nat) : State :=
  let sl := s.slot k
  let v := s.vcl (coreOf k)
  match sl.wait with
  | .acks 4 => if sl.acks.length < 8 then s.resumeSlot k else s
  | .acks sc => if released sl v sc then s.wakeReissue k else s
  | .fence sc => if released sl v sc then s.complete k 0#512 else s
  | _ => s

/-- ACKNOWLEDGEMENT: message n acknowledges a remote store of its slot (R258). -/
def execAcknowledgement (n : Nat) (s : State) : Out :=
  match s.net[n]? with
  | some m => match m.body with
    | .ack k vc => .next (({ s with net := s.net.eraseIdx n }.modSlot k fun sl => { sl with acks := sl.acks.erase vc }).ackWake k)
    | _ => .next s
  | none => .next s

/-! Homes -/

/-- A fault of a step whose slot does not wait for it (R318): SRC 0, PREC 0, at the ringmaster of die d. -/
def State.lateFault (s : State) (d k x cause : Nat) (ptr : W) : State :=
  s.record d ⟨recWord0 0 ((s.slot k).tstat.getLsbD 1) false cause (s.tid k) x, ptr, 0#64, nat k⟩

/-- The die in which a local place lies. -/
def dieOfPlace (a : Nat) : Nat := if 2 ^ 61 ≤ a then (a - 2 ^ 61) / 2 ^ 18 / 256 else (a - 2 ^ 60) / 2 ^ 21 / 32

/-- The places of the words that a reservation's step touches. -/
def State.resvPlaces (s : State) (r : Resv) : List Nat :=
  match r.op with
  | .route ids start _ _ => routeWords r.place ids start (s.num r.place 2)
  | _ => [r.place]

/-- The permission fault of a step under reservation (R115, R47): it reads and writes its word. -/
def State.resvDeny (s : State) (r : Resv) (a : Nat) : Option Nat :=
  if a < glb0 then none
  else match s.trans (glbCtx a) (glbVa a) with
  | none => none
  | some t => (t.deny true true (!modeF r.k)).orElse fun _ => match r.op with | .fe .. => if t.kind ≠ 0 ∨ !t.fe then some 104 else none | _ => none

/-- The first places of a reservation's step that its slice cannot reach yet; the header's line is held first. -/
def State.resvMissing (s : State) (r : Resv) : List Nat :=
  let need (a : Nat) : Bool := a ≥ glb0 && (s.trans (glbCtx a) (glbVa a)).isNone
  if need r.place then [r.place] else (s.resvPlaces r).filter need

/-- Who asks for the walk of a reservation. -/
def Resv.who (r : Resv) : Who := if r.red then .red r.id else .slot r.k

/-- The end of a no-return AMO of slot k (R129, R140). -/
def State.redDone (s : State) (k : Nat) : State := (s.modSlot k fun sl => { sl with reds := sl.reds - 1 }).ackWake k

/-- A no-return AMO comes before the later chunk of its slot (R255): what that chunk has read of the line it has read too early (log 100). -/
def State.squashOwn (s : State) (k : Nat) (ls : List Nat) : State :=
  if ls.any fun l => ((s.slot k).chunk.reads.find l).isSome then s.squash k else s

/-- The outcome of a granted reservation for its slot. -/
def State.resvResult (s : State) (r : Resv) (o : HomeRes) : State :=
  if r.red then
    match o with
    | .fault c t => (s.lateFault (dieOf r.k) r.k r.ctx c (t.getD r.ptr)).redDone r.k
    | _ => s.redDone r.k
  else match o with
    | .val v => (s.complete r.k v).homeAfter r.place r.op
    | .wait => s.parkAt r.k r.op.parked.1 r.op.parked.2
    | .fault c t => s.raiseAt r.k c (t.getD r.ptr)

/-- A mirror operation has reserved the record in which reservation r's word lies, and came before it (R213). -/
def State.mirrorHolds (s : State) (r : Resv) : Bool :=
  s.clusters.any fun (_, c) => c.matq.any fun o =>
    3 ≤ o.req.kind && o.req.kind ≤ 5 && o.st ≠ 0 && (o.granted || o.seq < r.id)
      && match s.resolve (coreOf o.req.k) (o.req.e.getD 6 0#64) with | .ok t => t.at_ ≤ r.place && r.place < t.at_ + 128 | .error _ => false

/-- SLICE_RESERVATION_GRANT: reservation n, the first on its word and after those that its slot made before it, is granted and its step is
performed (R122, R127, R152, R242, R255). -/
def execSliceReservationGrant (n : Nat) (s : State) : Out :=
  match s.resv[n]? with
  | none => .next s
  | some r =>
    if ((s.resv.take n).any fun o => o.place / 8 == r.place / 8 || o.k == r.k) || s.mirrorHolds r || s.walking r.who || r.held then .next s
    else match s.resvMissing r with
    | a :: as => .next ((a :: as).foldl (fun s a => s.askWalk r.who (glbCtx a) (glbVa a) true (match r.op with | .fe .. => true | _ => false)) s)
    | [] =>
      let at0 := if r.place ≥ glb0 then s.haveLine (glbCtx r.place) (glbVa r.place) else s
      match at0.resvMissing r with
      | a :: as => .next ((a :: as).foldl (fun s a => s.askWalk r.who (glbCtx a) (glbVa a) true) s)
      | [] =>
        let ps := at0.resvPlaces r
        if (ps.any fun a => at0.mustWait (some r.k) a 8) || at0.logOver ps then .next s
        else
          let s1 : State := { at0 with resv := at0.resv.eraseIdx n }
          match ps.findSome? (at0.resvDeny r) with
          | some c => .next (s1.resvResult r (.fault c))
          | none =>
            let s2 := ps.foldl (fun s a => if a ≥ glb0 then s.haveLine (glbCtx a) (glbVa a) else s) s1
            let (o, s3) := s2.homeStep r.k false r.place r.op
            .next ((match r.red, o with | true, .val _ => s3.squashOwn r.k (ps.map lineOf) | _, _ => s3).resvResult r o)

/-! Commit -/

/-- The commit arbiters: of a die, and (number 4) of the package. -/
def portArb (d : Nat) : Nat := 1160 + d

/-- Slot k waits for the commit of its chunk. -/
def Slot.wantsCommit (sl : Slot) : Bool := match sl.wait with | .commit => true | .commitFault .. => true | _ => false

/-- COMMIT_REQUEST: the parked slot k sends the signatures of its chunk to its die's arbiter (R252); requests of one cycle come in the
order of their virtual thread ids. -/
def execCommitRequest (k : Nat) (s : State) : Out :=
  let sl := s.slot k
  .next (if sl.wantsCommit && !sl.commitReq && s.inOrder (portArb (dieOf k)) (s.tid k) then
    (((s.stamp (portArb (dieOf k)) (s.tid k)).modSlot k fun sl => { sl with commitReq := true }).modDie (dieOf k) fun d => { d with arb := d.arb ++ [k] })
  else s)

/-- The signatures of two chunks overlap: a line that one writes is read or written by the other (R252). -/
def Chunk.overlap (a b : Chunk) : Bool :=
  let w (c : Chunk) : List Nat := (c.stores.map fun (p, _) => lineOf p).eraseDups
  let r (c : Chunk) : List Nat := c.reads.map (·.1)
  (w a).any (fun l => (w b).contains l || (r b).contains l) || (w b).any fun l => (r a).contains l

/-- What follows the commit of slot k's chunk: the waiting instruction is reissued, or the fault is delivered, or the slot runs on
(R117, R252, R256, R315). -/
def State.committed (s : State) (k : Nat) : State :=
  let sl := s.slot k
  let s := s.chunkDone k
  match sl.wait with
  | .commitFault c t src => s.deliver k c t src
  | _ => if sl.pend.isSome then s.wakeReissue k else s.modSlot k fun sl => { sl with st := .run, wait := .none }

/-- The die that is home to a global line: that of its slice, or of the die SRAM. -/
def homeOfLine (l : Nat) : Nat := if l * 64 ≥ glb0 then sliceOf (glbVa (l * 64)) / 32 else (l * 64 - 2 ^ 62) / 2 ^ 25

/-- A chunk of slot k writes a line whose home lies on another die (R252). -/
def State.crossDie (s : State) (k : Nat) : Bool := (s.slot k).chunk.stores.any fun (a, _) => homeOfLine (lineOf a) ≠ dieOf k

/-- Arbiter list `arb` grants slot k: no request before it overlaps (R252). -/
def State.arbGrants (s : State) (arb : List Nat) (k : Nat) : Bool :=
  arb.contains k && !((arb.takeWhile (· ≠ k)).any fun j => (s.slot k).chunk.overlap (s.slot j).chunk)

/-- COMMIT_GRANT: slot k's arbiter grants its request. A chunk that writes a line at home on another die then asks the package's
arbiter; at the final grant it takes effect whole (R252, R255), after the slot's earlier no-return AMOs (R129), and once no write of it
must wait (R217, R254, R301). -/
def execCommitGrant (k : Nat) (s : State) : Out :=
  let as := (s.slot k).chunk.stores.map (·.1)
  let firsts := (as.map lineOf).eraseDups.map fun l => (as.find? fun a => lineOf a == l).getD 0
  .next (
    if !s.arbGrants (s.die (dieOf k)).arb k then s
    else if s.crossDie k && !s.pkgArb.contains k then
      (if s.inOrder (portArb 4) (s.tid k) then { s.stamp (portArb 4) (s.tid k) with pkgArb := s.pkgArb ++ [k] } else s)
    else if (s.crossDie k && !s.arbGrants s.pkgArb k) || (s.slot k).reds ≠ 0 || s.logOver firsts || as.any (fun a => s.mustWait (some k) a 1) then s
    else
      let s : State := { s.modDie (dieOf k) fun d => { d with arb := d.arb.erase k } with pkgArb := s.pkgArb.erase k }
      (s.commitWrites k).committed k)

/-- SOLO_GRANT: the package's solo grant goes to the oldest requester, which restarts its chunk when the sequencer reissues it
(R254, R270). The grantee's no-return AMOs are performed first: the chunk commits after them (R129), and none may then squash it (log
100). -/
def execSoloGrant (s : State) : Out :=
  .next (match s.soloHolder, s.soloQ with
    | none, k :: q =>
      let s0 := s
      let s : State := { s with soloQ := q }
      if (s.slot k).wait = .solo ∧ (s.slot k).reds ≠ 0 then s0
      else if (s.slot k).wait = .solo then { (s.modSlot k fun sl => { sl with solo := true }).wakeReissue k with soloHolder := some k } else s
    | _, _ => s)

/-- LINE_WRITEBACK: a committed dirty line is written to its home, and may be dropped from the caches (R245, R251). -/
def execLineWriteback (l : Nat) (drop : Bool) (s : State) : Out :=
  match s.lines.find l with
  | none => .next s
  | some c =>
    if (!c.dirty && !drop) || (drop && s.lineMarked l) then .next s
    else .next (if drop then (s.writeBack l).dropLine l else s.writeBack l)

/-! Time-outs -/

/-- MONITOR_TIMEOUT: MONTO cycles have passed since slot k's MONWAIT (R137). -/
def execMonitorTimeout (k : Nat) (s : State) : Out :=
  let sl := s.slot k
  match sl.wait with
  | .monitor t =>
    if sl.monto ≠ 0#64 ∧ (s.core (coreOf k)).cyc ≥ t + sl.monto.toNat then .next (s.complete k (BitVec.ofNat 512 (2 ^ 63))) else .next s
  | _ => .next s

/-- WAITMSG_TIMEOUT: MONTO cycles have passed since slot k's WAITMSG (R138). -/
def execWaitmsgTimeout (k : Nat) (s : State) : Out :=
  let sl := s.slot k
  match sl.wait with
  | .message t _ false =>
    if sl.monto ≠ 0#64 ∧ (s.core (coreOf k)).cyc ≥ t + sl.monto.toNat then .next (s.complete k 0#512) else .next s
  | _ => .next s

/-- NORMALISER_DONE: the slot that core c's normaliser serves has had its two home turns (R67); the next one is taken. -/
def execNormaliserDone (c : Nat) (s : State) : Out :=
  match (s.core c).normQ with
  | [] => .next s
  | k :: q => match (s.slot k).wait with
    | .norm (some t) =>
      if (s.core c).cyc < t + 32 then .next s
      else .next (((s.modCore c fun co => { co with normQ := q }).normNext c).complete k 0#512)
    | _ => .next s

/-! Parades (R264 to R266, R328, R329) -/

/-- The stuck queues homed at core c, and their edges (R328): to queue Q' from each queue Q one of whose
popping cores holds a slot in the producer list of Q'. -/
def State.stuckAtCore (s : State) (c : Nat) : List Nat × List (Nat × Nat) :=
  let stuck := (s.homed c).filter fun q => (s.queue q).stuckAt.isSome
  let edges := stuck.flatMap fun q' => (((s.queue q').prod.filter (·.1 < 16384)).map fun (k, _) => coreOf k).eraseDups.flatMap fun pc =>
    ((s.core pc).q.filter fun (_, e) => e.dir % 2 == 1).filterMap fun (_, e) =>
      match s.findQueue (s.ctxOf pc) e.h with
      | some q => if (s.queue q).stuckAt.isSome then some (q, q') else none
      | none => none
  (stuck, edges.eraseDups)

/-- A shortest cycle of edges through queue q, searched along paths that end at their first entry; empty where there is none. -/
def cycleVia (es : List (Nat × Nat)) (q : Nat) : Nat → List (List Nat) → List Nat → List Nat
  | 0, _, _ => []
  | f + 1, paths, seen =>
    let ext := paths.flatMap fun p => (es.filter (·.1 == p.headD q)).map fun e => (e.2, p)
    match ext.find? (·.1 == q) with
    | some (_, p) => p
    | none =>
      let new := ext.foldl (fun l (r, p) => if seen.contains r || l.any (·.1 == r) then l else l ++ [(r, p)]) []
      cycleVia es q f (new.map fun (r, p) => r :: p) (seen ++ new.map (·.1))

/-- Cycles of the edges, each through the queue of lowest number that no earlier one holds (log 77). -/
def cyclesOf (es : List (Nat × Nat)) : List (List Nat) :=
  (sortOn id ((es.map (·.1)).eraseDups)).foldl (fun cs q =>
    if cs.any (·.contains q) then cs else match cycleVia es q es.length [[q]] [q] with | [] => cs | c => cs ++ [c]) []

/-- The pops so far of every queue of context x. -/
def State.allPops (s : State) (x : Nat) : List (Nat × Nat) :=
  s.clusters.flatMap fun (p, c) => (c.queues.filter fun (i, r) => r.alloc && s.qctx (p * 64 + i) == x).map fun (i, r) => (p * 64 + i, r.pops)

/-- The watch breaks a cycle (R329): the push of the lowest virtual thread id is cancelled with cause 201. -/
def State.breakCycle (s : State) (qs : List Nat) : State :=
  let ks := qs.flatMap fun q => ((s.queue q).prod.filter (·.1 < 16384)).map fun (k, _) => (s.tid k, k, q)
  match ks.foldl (fun b (t, k, q) => match b with | none => some (t, k, q) | some (t', k', q') => if t < t' then some (t, k, q) else some (t', k', q')) none with
  | none => s
  | some (_, k, q) =>
    let h := s.handle q
    let s := (s.modQueue q fun r => { r with prod := r.prod.filter (·.1 ≠ k) }).qChanged q
    if coreOf k = s.qcore q then s.raiseAt k 201 h else s.answer (s.qctx q) (s.qcore q) k 0 (.fault 201 h)

/-- The end of a circuit of context x's blocked-cycle watch (R329): among the queues from which nothing was popped since the circuit before
this one began, each cycle of edges that both circuits found is broken once; a circuit without a stuck queue ends the watch. -/
def State.watchEnd (s : State) (x : Nat) (p : Parade) : State × Option Parade :=
  if p.stuck.isEmpty then (s, none)
  else
    let still (q : Nat) : Bool := p.lastBase.any fun (r, n) => r == q && n == (s.queue q).pops
    let quiet := cyclesOf (p.edges.filter fun e => p.lastEdges.contains e && still e.1 && still e.2)
    let s := quiet.foldl State.breakCycle s
    let left := p.edges.filter fun e => !quiet.any (·.contains e.1)
    (s, some { p with todo := p.route, sum := 0, black := false, lastEdges := left, lastBase := p.base, base := s.allPops x, edges := [], stuck := [] })

/-- The drain of FREEZE has succeeded (R330 step 5); the completion finds it so. -/
def Parade.done (p : Parade) : Parade := { p with todo := [], route := [] }

/-- The end of a circuit of parade p of context x (R265, R266): none when the parade is over. -/
def State.circuitEnd (s : State) (x : Nat) (p : Parade) : State × Option Parade :=
  if p.kind = 1 then s.watchEnd x p
  else
    let ok := p.sum == 0 && !p.black
    let again : Parade := { p with todo := p.route, sum := 0, black := false, waiters := if ok then p.joined else p.waiters ++ p.joined, joined := [] }
    if !ok then (s, some again)
    else if p.kind = 2 then (s, some p.done)
    else
      let s := p.waiters.foldl (fun s k => if (s.slot k).wait = .parade then s.complete k 0#512 else s) s
      (s, if p.joined.isEmpty then none else some again)

/-- Parade j of context x goes on as q, or ends. -/
def State.keepParade (s : State) (x j : Nat) (q : Option Parade) : State :=
  s.modCtx x fun cx => { cx with parades := match q with
    | some q => cx.parades.set j q
    | none => cx.parades.eraseIdx j }

/-- PARADE_VISIT: parade j of context x visits its next interface and, after the last, completes its circuit (R265, R266). A route without
an interface, which only a ringmaster's QUIESCE has, is a circuit that succeeds (DESIGN CHOICE, log 7). -/
def execParadeVisit (x j : Nat) (s : State) : Out :=
  match (s.ctx x).parades[j]? with
  | none => .next s
  | some p => match p.todo with
    | [] =>
      let (s, q) := s.circuitEnd x p
      .next (s.keepParade x j q)
    | i :: rest =>
      let ix := counterIx p.scope p.inst i
      let cx := s.ctx x
      let p := if p.kind = 1 then
          let (st, es) := if i < 1024 then s.stuckAtCore i else ([], [])
          { p with todo := rest, stuck := p.stuck ++ st, edges := p.edges ++ es }
        else { p with todo := rest, sum := p.sum + Tbl.get 0 cx.counts ix, black := p.black || Tbl.get false cx.blacks ix }
      let s := if p.kind = 1 then s else s.modCtx x fun cx => { cx with blacks := Tbl.set false cx.blacks ix false }
      if rest.isEmpty then
        let (s, q) := s.circuitEnd x p
        .next (s.keepParade x j q)
      else .next (s.keepParade x j (some p))

/-- QUEUE_STUCK_TIMEOUT: queue q of cluster cl has stayed stuck for 4,096 cycles and starts or joins its context's watch (R328). -/
def execQueueStuckTimeout (cl q : Nat) (s : State) : Out :=
  let id := cl * 64 + q % 64
  match (s.queue id).stuckAt with
  | none => .next s
  | some t =>
    let x := s.qctx id
    if (s.core (s.qcore id)).cyc < t + 4096 then .next s
    else if (s.ctx x).parades.any fun p => p.kind = 1 then .next s
    else
      let r := rotateTo (s.qcore id) (s.interfaces x 3 0)
      .next (s.modCtx x fun cx => { cx with parades := cx.parades ++ [{ scope := 3, inst := 0, route := r, todo := r, kind := 1, base := s.allPops x }] })

end Sys2Proof.Machine
end

