-- ==== Sys2Proof/Machine/Residency.lean ====
section
/-! DEFINITION. Expert residency (R238, R239, R305 to R309): model records, entries, and the steps performed on an entry at its
slice. -/

namespace Sys2Proof.Machine

/-- The HBM place of a physical address (R288): HBM holds 2^40 bytes. -/
def hbmAt (pa : Nat) : Nat := pa % 2 ^ 40

/-- The place of model record m, if the model table is valid. -/
def State.modelAt (s : State) (m : Nat) : Option Nat :=
  if s.links.extab.getLsbD 0 then some (hbmAt (fld s.links.extab 14 38 * 16384 + 64 * m)) else none

/-- The first four words of model record m in memory. -/
def State.modelMem (s : State) (m : Nat) : Option (List W) :=
  (s.modelAt m).map fun a => (List.range 4).map fun i => nat (s.num (a + 8 * i) 8)

/-- An expert's entry: its place, its slice, and its model record as that slice holds it (R305, R306). -/
structure Expert where
  at_ : Nat
  sl : Nat
  m : Nat
  rcd : List W
  deriving DecidableEq, Repr

/-- The place of a key's entry by a model record, if the key lies within its limits. -/
def entryOf (r : List W) (key : Nat) : Option Nat :=
  let l := bitsOf key 16 12
  let e := key % 65536
  let w := r.getD 2 0#64
  if (r.getD 0 0#64).getLsbD 63 ∧ l < fld w 32 13 ∧ e < fld w 0 17 then some (fld (r.getD 1 0#64) 0 52 + 32 * (l * fld w 0 17 + e)) else none

/-- The entry of a key: the slice's copy of the model record where it has one (R305). -/
def State.expertOf (s : State) (key : Nat) : Option Expert :=
  let m := bitsOf key 28 8
  (s.modelMem m).bind fun r => (entryOf r key).bind fun pa =>
    let sl := sliceOf pa
    let r := ((s.clu sl).models.find m).getD r
    (entryOf r key).map fun pa => ⟨hbmAt pa, sl, m, r⟩

/-- The owner pair of a model record. -/
def ownerOf (r : List W) : Nat := fld (r.getD 0 0#64) 0 24

/-- The slice now holds the model record (R305). -/
def State.cacheModel (s : State) (e : Expert) : State := s.modClu e.sl fun c => { c with models := c.models.put e.m e.rcd }

/-! Entries (Table 09-9, R306) -/

def State.exStatus (s : State) (a : Nat) : W := nat (s.num a 8)
/-- State codes: 0 ABSENT, 1 FETCHING, 2 RESIDENT, 3 PINNED, 4 EVICTING. -/
def State.exSt (s : State) (a : Nat) : Nat := fld (s.exStatus a) 61 3
def State.exPins (s : State) (a : Nat) : Nat := fld (s.exStatus a) 32 16
def State.exTurn (s : State) (a : Nat) : Nat := (Tbl.get (0, 0) s.exCnt a).1
def State.exRefs (s : State) (a : Nat) : Nat := (Tbl.get (0, 0) s.exCnt a).2
def State.exImage (s : State) (a : Nat) : W := nat (s.num (a + 8) 8)
def State.exLoc (s : State) (a : Nat) : W := nat (s.num (a + 16) 8)
def State.exW3 (s : State) (a : Nat) : W := nat (s.num (a + 24) 8)

/-- A word written by the residency hardware. -/
def State.exWord (s : State) (a : Nat) (w : W) : State := s.write none false a (leBytes w.toNat 8)

/-- Writes the status word: TURN and REFS saturate in it. -/
def State.exPut (s : State) (a st pins turn refs : Nat) : State :=
  let s : State := { s with exCnt := Tbl.set (0, 0) s.exCnt a (turn, refs) }
  s.exWord a (nat (st * 2 ^ 61 + pins % 65536 * 2 ^ 32 + Nat.min turn 65535 * 65536 + Nat.min refs 65535))

def State.exSetSt (s : State) (a st : Nat) : State := s.exPut a st (s.exPins a) (s.exTurn a) (s.exRefs a)
/-- Changes TURN by what f makes of it. -/
def State.exSetTurn (s : State) (a : Nat) (f : Nat → Nat) : State := s.exPut a (s.exSt a) (s.exPins a) (f (s.exTurn a)) (s.exRefs a)

/-- The word of a residency request (Table 12-13). -/
def exreqWord (evict : Bool) (key : Nat) : W := nat (2 ^ 63 + (if evict then 2 ^ 62 else 0) + key % 2 ^ 36)

/-- Queues a residency request for the ringmaster of the slice's die (R307). -/
def State.exRequest (s : State) (e : Expert) (evict : Bool) (key : Nat) : State :=
  s.modDie (e.sl / 32) fun d => { d with exreq := d.exreq ++ [exreqWord evict key] }

/-- REFS changes; an eviction is ready when it reaches 0 (R307). -/
def State.exSetRefs (s : State) (e : Expert) (key : Nat) (f : Nat → Nat) : State :=
  let n := f (s.exRefs e.at_)
  let s' := s.exPut e.at_ (s.exSt e.at_) (s.exPins e.at_) (s.exTurn e.at_) n
  if n = 0 ∧ s.exRefs e.at_ ≠ 0 ∧ s.exSt e.at_ = 4 then s'.exRequest e true key else s'

/-- A page-in request (Table 12-9). -/
def State.exPageIn (s : State) (e : Expert) (key : Nat) : State :=
  match s.exSt e.at_ with
  | 0 => (s.exSetSt e.at_ 1).exRequest e false key
  | 4 => s.exWord (e.at_ + 24) (setFld (s.exW3 e.at_) 60 1 1)
  | _ => s

/-- NPINNED of the model record, in memory. -/
def State.npinned (s : State) (m : Nat) : Nat := match s.modelAt m with | some a => s.num (a + 28) 2 | none => 0
def State.setNpinned (s : State) (m n : Nat) : State := match s.modelAt m with | some a => s.write none false (a + 28) (leBytes n 2) | none => s

/-- The last part of EPIN, on a resident expert (R238): the new PINS, or cause 322. -/
def State.exPin (s : State) (e : Expert) : Except Nat W × State :=
  let p := s.exPins e.at_
  let lim := fld (e.rcd.getD 3 0#64) 0 16
  if p ≥ 65535 ∨ (p = 0 ∧ s.npinned e.m + 1 > lim) then (.error 322, s)
  else
    let s := if p = 0 then s.setNpinned e.m (s.npinned e.m + 1) else s
    (.ok (nat (p + 1)), s.exPut e.at_ 3 (p + 1) (s.exTurn e.at_) (s.exRefs e.at_))

/-- The expert is in HBM: RESIDENT or PINNED. -/
def State.exHere (s : State) (e : Expert) : Bool := s.exSt e.at_ == 2 || s.exSt e.at_ == 3

/-- A residency request of slot k on its entry (R238): an answer, or none when the slot waits. Operations: 0 ELOOK, 1 EREQ, 2 EPIN,
3 EUNPIN. -/
def State.exStep (s : State) (k : Nat) (e : Expert) (key : W) (op : Nat) (w : W) : Option (Except Nat W) × State :=
  let a := e.at_
  match op with
  | 0 => (some (.ok (s.exStatus a)), s)
  | 3 =>
    let p := s.exPins a
    if p = 0 then (some (.error 321), s)
    else
      let s := if p = 1 then s.setNpinned e.m (s.npinned e.m - 1) else s
      (some (.ok (nat (p - 1))), s.exPut a (if p = 1 ∧ s.exSt a = 3 then 2 else s.exSt a) (p - 1) (s.exTurn a) (s.exRefs a))
  | _ =>
    if s.exImage a = 0#64 then (some (.error 328), s)
    else
      let st := s.exSt a
      let s1 := s.exPageIn e key.toNat
      if op = 2 then
        if s.exHere e then let (r, s) := s.exPin e; (some r, s)
        else (none, { s1 with exWait := s1.exWait ++ [(k, key, 2)] })
      else if w.getLsbD 0 ∧ !s.exHere e then (none, { s1 with exWait := s1.exWait ++ [(k, key, 1)] })
      else (some (.ok (nat st)), s1)

/-- Ends the wait of every EREQ and EPIN on a key. -/
def State.exWake (s : State) (e : Expert) (key : W) (failed : Bool) : State :=
  let ws := s.exWait.filter (·.2.1 == key)
  let s : State := { s with exWait := s.exWait.filter (·.2.1 != key) }
  ws.foldl (fun s (k, _, op) =>
    let x := s.ctxOf (coreOf k)
    let back (s : State) (r : Except Nat W) : State := s.answer x (portSlice e.sl) k 0 (match r with | .ok v => .val (v.setWidth 512) | .error c => .fault c key)
    if failed then back s (.error 323)
    else if op = 2 then let (r, s) := s.exPin e; back s r
    else back s (.ok (nat (s.exSt e.at_)))) s

/-- The release of a key's parked records goes to every die's turnstile, behind the parks that the slice sent (R309). -/
def State.exRelease (s : State) (e : Expert) (key : W) (fail : Bool) : State :=
  (List.range 4).foldl (fun s d => s.send (ownerOf e.rcd) (portSlice e.sl) (portSlice (32 * d)) (.tsRelease d key fail)) s

end Sys2Proof.Machine
end

