-- ==== Sys2Proof/Machine/Expert.lean ====
section
/-! DEFINITION. The EXPERT group (R220, R238 to R242) and the firmware's residency commands (R307, R311). -/

namespace Sys2Proof.Machine

/-- Sends a residency request to its entry's slice; a key without an entry is refused there. -/
def State.sendExpert (s : State) (key : W) (op : Nat) (w : W) : State :=
  let sl := match s.expertOf key.toNat with | some e => e.sl | none => 0
  s.send (s.ctxOf s.myCore) s.myCore (portSlice sl) (.expert s.cur key (s.ctxOf s.myCore) op w.toNat)

/-- A residency instruction that waits for its reply. -/
def State.expertOp (s : State) (d : R6) (key : W) (op : Nat) (w : W) : State :=
  if fld key 36 28 ≠ 0 then s.raise 320 key
  else s.onReply (fun v s => s.finish true 4 d (asW v)) fun s =>
    ((s.sendExpert key op w).upd fun sl => { sl with latch := { sl.latch with left := 1 } }).park .parkMem .reply

/-- ELOOK (R238). -/
def execElook (d a : R6) (s : State) : Out := .next (s.withOps 4 [a] (some d) true (some 3) fun vs s => s.expertOp d (vs.getD 0 0#64) 0 0#64)

/-- EREQ (R238): its w is checked after the key, at the slice. -/
def execEreq (d a b : R6) (s : State) : Out :=
  .next (s.withOps 4 [a, b] (some d) true (some 3) fun vs s =>
    s.expertOp d (vs.getD 0 0#64) 1 (vs.getD 1 0#64))

/-- EPIN (R238). -/
def execEpin (d a : R6) (s : State) : Out := .next (s.withOps 4 [a] (some d) true (some 3) fun vs s => s.expertOp d (vs.getD 0 0#64) 2 1#64)

/-- EUNPIN (R238). -/
def execEunpin (d a : R6) (s : State) : Out := .next (s.withOps 4 [a] (some d) true (some 3) fun vs s => s.expertOp d (vs.getD 0 0#64) 3 0#64)

/-- EHINT (R238): waits for no reply. -/
def execEhint (a b : R6) (s : State) : Out :=
  .next (s.withOps 4 [a, b] none true (some 3) fun vs s =>
    let key := vs.getD 0 0#64
    let h := vs.getD 1 0#64
    if fld key 36 28 ≠ 0 then s.raise 320 key
    else if h.toNat > 3 then s.raise 327 h
    else s.viaNiq fun s => (s.sendExpert key 4 h).retireIrr 4)

/-- RESIDENCY_STEP: message n, a residency request, is performed at its entry's slice (R238, R306, R307). What a hint finds wrong is
reported to the ringmaster; a hint for a model not granted is discarded. -/
def execResidencyStep (n : Nat) (s : State) : Out :=
  match s.deliverable n with
  | some m => match m.body with
    | .expert k key x op w =>
      let s := s.accept n m
      let back (s : State) (r : Answer) : State := s.answer x m.dst k 0 r
      match s.expertOf key.toNat with
      | some e =>
        if ownerOf e.rcd ≠ x then .next (if op = 4 then s.freed m.src else back s (.fault 320 key))
        else
          let s := s.cacheModel e
          if op = 4 then
            let s := s.freed m.src
            if s.exImage e.at_ = 0#64 then .next (s.lateFault (e.sl / 32) k x 328 key)
            else
              let s := s.exWord (e.at_ + 24) (setFld (s.exW3 e.at_) 61 2 (w % 4))
              .next (if w = 1 then s.exPageIn e key.toNat else s)
          else if op = 1 ∧ w > 1 then .next (back s (.fault 327 (nat w)))
          else match s.exStep k e key op (nat w) with
          | (some (.ok v), s) => .next (back s (.val (v.setWidth 512)))
          | (some (.error c), s) => .next (back s (.fault c key))
          | (none, s) => .next s
      | none => .next (if op = 4 then s.freed m.src else back s (.fault 320 key))
    | _ => .next s
  | none => .next s

/-! ROUTE (R240 to R242) -/

/-- Whether heap entry e ranks before f: higher score, NaN scores last, lower id among equals. -/
def ranksBefore (e f : Nat) : Bool :=
  let id (x : Nat) : Nat := x % 2 ^ 32
  match (score e).isNan, (score f).isNan with
  | true, true => id e < id f
  | true, false => false
  | false, true => true
  | false, false => (score f).lt (score e) || (!(score e).lt (score f) && id e < id f)

/-- Inserts an entry in rank order. -/
def rankIn (e : Nat) : List Nat → List Nat
  | [] => [e]
  | f :: r => if ranksBefore e f then e :: f :: r else f :: rankIn e r

/-- The ids of a heap's entries in rank order. -/
def rankIds (l : List Nat) : List Nat := (l.foldl (fun acc e => rankIn e acc) []).map (· % 2 ^ 32)

/-- ROUTE (R241): rd is a third source. The heap is read in the issue turn alone. -/
def execRoute (d a b : R6) (s : State) : Out :=
  .next (s.withOps 4 [a, b] (some d) true (some 3) fun vs s => s.onReply (fun v s => s.finish true 4 d (asW v)) fun s =>
    let p := vs.getD 0 0#64
    let q := vs.getD 1 0#64
    let t := s.rd d
    match s.heapAt p with
    | .error c => s.raise c p
    | .ok h =>
      let hd := s.num h 8
      let cap := bitsOf hd 8 5
      let n := bitsOf hd 0 5
      if s.anyPoison h 136 then s.raise 128 p
      else if hd / 2 ^ 13 ≠ 0 ∨ bitsOf hd 5 3 ≠ 0 ∨ cap < 1 ∨ cap > 16 ∨ n > cap then s.raise 168 p
      else if n = 0 then s.raise 325 p
      else match s.resolve s.myCore q with
      | .error c => s.raise c q
      | .ok tg =>
        if 3 ≤ spc q ∧ spc q ≤ 5 ∨ tg.off % 8 ≠ 0 then s.raise 326 q
        else match tg.extent 8 with
        | .error c => s.raise c q
        | .ok tg =>
          let ids := (rankIds ((List.range n).map fun j => s.num (h + 8 + 8 * j) 8)).take 8
          s.atHome tg (.route ids (fld t 32 3) (fld t 0 32) q) q fun v s => s.finish true 4 d (asW v))

/-! Firmware commands -/

/-- A command of firmware on a key (R307): an entry of any owner; cause 329 refuses it. -/
def State.exCommand (s : State) (key : Nat) (ok : Expert → Bool) (body : Expert → State → State) : State :=
  match s.expertOf key with
  | some e => if ok e then body e s else s.raiseOpen 329
  | none => s.raiseOpen 329

/-- EXDONE (Tables 12-9, 12-13). -/
def State.exDone (s : State) (act key : Nat) : State :=
  let k := nat key
  match act with
  | 0 => s.exCommand key (fun e => s.exSt e.at_ == 1) fun e s =>
      let s := s.exWord (e.at_ + 16) (s.die (dieOf s.cur)).exloc
      let s := s.exSetSt e.at_ (if s.exPins e.at_ > 0 then 3 else 2)
      let s := s.exSetRefs e key (· + s.exTurn e.at_)
      (s.exRelease e k false).exWake e k false
  | 1 => s.exCommand key (fun e => s.exSt e.at_ == 1) fun e s =>
      let s := (s.exSetSt e.at_ 0).exRelease e k true
      let s := s.exWake e k true
      let (o, s) := s.free
      s.unitRecord (e.sl / 32) 5 323 k (fld o 0 9) 0 (e.sl * 128) 0 (ownerOf e.rcd)
  | 2 => s.exCommand key (fun e => s.exSt e.at_ == 4) fun e s =>
      let follow := (s.exW3 e.at_).getLsbD 60
      let s := s.exWord (e.at_ + 24) (setFld (s.exW3 e.at_) 60 1 0)
      let s := s.exSetSt e.at_ 0
      if follow then s.exPageIn e key else s
  | _ => s.raiseOpen 329

/-- EXEVICT (Table 12-9). -/
def State.exEvict (s : State) (w : W) : State :=
  let key := fld w 0 36
  s.exCommand key (fun e => s.exSt e.at_ == 2 && s.exPins e.at_ == 0) fun e s =>
    let s := s.exSetSt e.at_ 4
    if s.exRefs e.at_ = 0 then s.exRequest e true key else s

/-- EXREQ: pops the oldest residency request of the die; 0 where there is none. -/
def State.exReq (s : State) : W × State :=
  let d := dieOf s.cur
  match (s.die d).exreq with
  | w :: r => (w, s.modDie d fun di => { di with exreq := r })
  | [] => (0#64, s)

/-- EXDONE with ACT 0: page-in done. -/
def execExdonePageInDone (key : BitVec 36) (s : State) : Out := s.command fun s => s.exDone 0 key.toNat
/-- EXDONE with ACT 1: page-in failed (R239). -/
def execExdonePageInFailed (key : BitVec 36) (s : State) : Out := s.command fun s => s.exDone 1 key.toNat
/-- EXDONE with ACT 2: eviction done. -/
def execExdoneEvictionDone (key : BitVec 36) (s : State) : Out := s.command fun s => s.exDone 2 key.toNat
/-- EXDONE with ACT 3 is refused with cause 329 (Table 12-13). -/
def execExdoneRefused (key : BitVec 36) (s : State) : Out := s.command fun s => s.exDone 3 key.toNat
/-- EXEVICT: a write of the register. -/
def execExevict (w : W) (s : State) : Out := s.command fun s => s.exEvict w
/-- EXREQ: a read of the register into d. -/
def execExreq (d : R6) (s : State) : Out := s.command fun s => let (w, s) := s.exReq; s.wr d w

end Sys2Proof.Machine
end

