-- ==== Sys2Proof/Machine/SlotRegs.lean ====
section
/-! DEFINITION. The per-slot and core-level system registers (R32 to R35, R164): what a read gives and a write stores. -/

namespace Sys2Proof.Machine

/-- The state codes of Table 01-1. -/
def SlotSt.code : SlotSt → Nat
  | .free => 0
  | .run => 1
  | .parkMem => 2
  | .parkPage => 3
  | .parkFe => 4
  | .parkQ => 5
  | .parkMon => 6
  | .parkMsg => 7
  | .parkEng => 8
  | .parkBar => 9
  | .parkNorm => 10
  | .faulted => 11
  | .frozen => 12

/-- SLOTST of slot k (Table 01-11). -/
def State.slotSt (s : State) (k : Nat) : W :=
  let sl := s.slot k
  nat ((if sl.solo then 4096 else 0) + sl.streak * 256 + k % 16 * 16 + sl.st.code)

/-- Per-slot register n of slot k (Table 01-4). -/
def State.slotReg (s : State) (k n : Nat) : W :=
  let sl := s.slot k
  match n with
  | 0 => sl.tvec
  | 1 => sl.tstat
  | 2 => sl.tcause
  | 3 => sl.txpc
  | 4 => sl.tval
  | 5 => sl.fflags
  | 6 => sl.frm
  | 7 => sl.ftrap
  | 8 => sl.monto
  | 9 => sl.chunklim
  | 10 => nat (s.ctxOf (coreOf k))
  | 11 => s.slotSt k
  | 12 => sl.nestp
  | 13 => sl.nestc
  | 14 => sl.tscr
  | _ => 0#64

/-- The n low-order bits of a written value. -/
def low (w : W) (n : Nat) : W := nat (fld w 0 n)

/-- A write of per-slot register n (R34, R164): writable fields only. -/
def Slot.sysSet (sl : Slot) (n : Nat) (w : W) : Slot :=
  match n with
  | 0 => { sl with tvec := nat (fld w 1 15 * 2) }
  | 1 => { sl with tstat := low w 2 }
  | 2 => { sl with tcause := low w 9 }
  | 3 => { sl with txpc := w }
  | 4 => { sl with tval := w }
  | 5 => { sl with fflags := low w 5 }
  | 6 => { sl with frm := nat (fld w 3 1 * 8 + if fld w 0 3 < 5 then fld w 0 3 else fld sl.frm 0 3) }
  | 7 => { sl with ftrap := low w 5 }
  | 8 => { sl with monto := low w 32 }
  | 9 => { sl with chunklim := nat (Nat.max 32 (Nat.min 512 w.toNat)) }
  | 12 => { sl with nestp := w }
  | 13 => { sl with nestc := w }
  | 14 => { sl with tscr := w }
  | _ => sl

/-- Records of level l in core c's deque, spilled ones included. -/
def Core.count (c : Core) (l : Nat) : Nat := (c.deque.filter (·.pri == l)).length + (Tbl.get (0, 0) c.spill l).2

/-- Core-level register n of core c (Table 01-12). -/
def State.coreReg (s : State) (c n : Nat) : W :=
  let co := s.core c
  match n with
  | 0x100 => nat ((List.range 12).foldl (fun a i => if (co.q.find i).isSome then a + 2 ^ i else a) 0)
  | 0x101 => nat co.mail.length
  | 0x102 => nat ((List.range 4).foldl (fun a l => a + co.count l % 65536 * 2 ^ (16 * l)) 0)
  | 0x103 => nat co.sqcnt
  | 0x104 => nat co.cmcnt
  | 0x105 => nat co.normcnt
  | 0x106 => nat (co.stole * 2 ^ 32 + co.stolenFrom)
  | 0x107 => co.deqspill
  | _ => 0#64

/-- Whether an index below 0x200 is assigned (R32). -/
def lowIndex (n : Nat) : Bool := n < 15 || (256 ≤ n && n ≤ 263)

/-- A read of register n, below 0x200, of slot k or of its core. -/
def State.lowReg (s : State) (k n : Nat) : W := if n < 256 then s.slotReg k n else s.coreReg (coreOf k) n

/-- A write of register n, below 0x200, of slot k or of its core, with mode-F rights. -/
def State.setLow (s : State) (k n : Nat) (w : W) : State :=
  if n < 256 then s.modSlot k fun sl => sl.sysSet n w
  else if n = 0x107 then s.modCore (coreOf k) fun c => { c with deqspill := w }
  else s

/-! Commands on a target slot (R321, R322) -/

/-- FINJECT of w, with FINJVAL v, on slot k; none refuses it (R322). -/
def State.injectAt (s : State) (k : Nat) (w v : W) : Option State :=
  let c := fld w 0 9
  let st := (s.slot k).st
  if isRing (coreOf k) ∨ st = .free ∨ st = .faulted ∨ st = .frozen ∨ c < 32 ∨ c = 133 ∨ c ≥ 384 then none
  else some (s.modSlot k fun sl => { sl with inj := some (c, v, 6) })

/-- SLOTPC: the PC of slot k, if it is FAULTED; otherwise discarded. -/
def State.pcAt (s : State) (k : Nat) (w : W) : State :=
  if (s.slot k).st = .faulted then s.modSlot k fun sl => { sl with pc := low w 16 } else s

/-- SLOTKILL: a write of 1 frees slot k with the effects of QUIT, if it is FAULTED; otherwise discarded. -/
def State.killAt (s : State) (k : Nat) (w : W) : State :=
  if (s.slot k).st = .faulted ∧ w = 1#64 then s.freeSlot k else s

/-- An access to register n of the mode-F map that concerns slot t: what a read gives, or the state that a write leaves; none is a refused
FINJECT. -/
def State.slotAccess (s : State) (t n : Nat) (w : Option W) (v : W) : Option (W × State) :=
  match w, n with
  | none, 0xD07 => some (low (s.slot t).pc 16, s)
  | none, n => some (if n < 0xC00 then s.lowReg t (n - 0xA00) else 0#64, s)
  | some w, 0xD05 => (s.injectAt t w v).map fun s => (0#64, s)
  | some w, 0xD07 => some (0#64, s.pcAt t w)
  | some w, 0xD08 => some (0#64, s.killAt t w)
  | some w, n => some (0#64, s.setLow t (n - 0xA00) w)

end Sys2Proof.Machine
end

