-- ==== Sys2Proof/Machine/Elements.lean ====
section
/-! DEFINITION. Elements of arrays in memory by format code (R51 to R63): plain, block, entropy-coded and sparse layouts. A reader
`rd off n` gives the little-endian number of n bytes at a byte offset from the array's base. -/

namespace Sys2Proof.Machine

/-- Bytes of one element of a plain format (Table 02-1). -/
def plainBytes (f : Nat) : Nat := match f with | 3 => 2 | 4 => 4 | 5 => 8 | 6 => 2 | 7 => 2 | 8 => 4 | 9 => 8 | 21 => 4 | _ => 1

/-- The floating-point format of a plain or sparse format code. -/
def codeFmt (f : Nat) : Fmt := match f with | 6 => fp16 | 7 => bf16 | 8 => fp32 | 9 => fp64 | 11 => e5m2 | 19 => bf16 | _ => e4m3

/-- The exact value of an element code of a plain format. -/
def plainValue (f code : Nat) : FV :=
  match f with
  | 1 => FV.ofInt (sInt code 8) | 3 => FV.ofInt (sInt code 16) | 4 => FV.ofInt (sInt code 32) | 5 => FV.ofInt (sInt code 64)
  | 22 => FV.ofInt (sInt code 4)
  | 6 => fp16.value code | 7 => bf16.value code | 8 => fp32.value code | 9 => fp64.value code
  | 10 => e4m3.value code | 11 => e5m2.value code
  | _ => FV.ofInt code

/-- The code of element n of a plain array or of INT4 (R52). -/
def plainCode (f : Nat) (rd : Nat → Nat → Nat) (n : Nat) : Nat :=
  if f = 22 then bitsOf (rd (n / 2) 1) (4 * (n % 2)) 4 else rd (n * plainBytes f) (plainBytes f)

/-- Element format of an MX format code (Table 02-1). -/
def mxFmt (f : Nat) : Fmt := match f with | 13 => e5m2 | 14 => e3m2 | 15 => e2m3 | 16 => e2m1 | _ => e4m3

/-- Bytes of a block group of 64 elements (R56). -/
def mxGroup (f : Nat) : Nat := 8 + 8 * (mxFmt f).bits

/-- Byte offset of the data of element block q (elements 8q to 8q + 7). -/
def mxData (f q : Nat) : Nat := q / 8 * mxGroup f + 8 + q % 8 * (mxFmt f).bits

/-- Byte offset of the scale of element block q. -/
def mxScale (f q : Nat) : Nat := q / 8 * mxGroup f + q % 8

/-- The scale and the codes of element block q. -/
def mxBlock (f : Nat) (rd : Nat → Nat → Nat) (q : Nat) : Nat × List Nat :=
  let w := (mxFmt f).bits
  let d := rd (mxData f q) w
  (rd (mxScale f q) 1, (List.range 8).map fun j => bitsOf d (w * j) w)

/-! KEF8 (R59, R60) -/

/-- The bits of bytes, most significant first. -/
def bitsMsb : List Nat → List Bool
  | [] => []
  | b :: r => ((List.range 8).map fun i => b.testBit (7 - i)) ++ bitsMsb r

/-- A field of n bits, most significant first. -/
def takeBits : Nat → Nat → List Bool → Option (Nat × List Bool)
  | 0, v, l => some (v, l)
  | n + 1, v, b :: r => takeBits n (2 * v + if b then 1 else 0) r
  | _ + 1, _, [] => none

/-- The exponent token (Table 02-5) under base b; none where the stream ends, or a plain token decodes to 0 or less. -/
def kefExp (b : Nat) (l : List Bool) : Option (Nat × List Bool) :=
  let short (d : Nat) (r : List Bool) : Option (Nat × List Bool) := if b > d then some (b - d, r) else none
  match l with
  | false :: r => short 0 r
  | true :: false :: r => short 1 r
  | true :: true :: false :: r => short 2 r
  | true :: true :: true :: false :: r => (takeBits 3 0 r).bind fun (v, r) => short (3 + v) r
  | true :: true :: true :: true :: r => takeBits 4 0 r
  | _ => none

/-- n element codes of a block: sign, mantissa, token. -/
def kefElems (b : Nat) : Nat → List Bool → Option (List Nat × List Bool)
  | 0, l => some ([], l)
  | n + 1, l =>
    (takeBits 4 0 l).bind fun (sm, l) => (kefExp b l).bind fun (e, l) => (kefElems b n l).map fun (cs, l) =>
      ((sm / 8 * 128 + e * 8 + sm % 8) :: cs, l)

/-- n blocks: scale, base, elements. -/
def kefBlocks : Nat → List Bool → Option (List (Nat × List Nat) × List Bool)
  | 0, l => some ([], l)
  | n + 1, l =>
    (takeBits 8 0 l).bind fun (sc, l) => (takeBits 4 0 l).bind fun (b, l) => (kefElems b 8 l).bind fun (cs, l) =>
      (kefBlocks n l).map fun (bs, l) => ((sc, cs) :: bs, l)

/-- LENGTH of a strip by its header word; none where the header is malformed. -/
def kefLength (h : Nat) : Option Nat :=
  if h / 2 ^ 21 ≠ 0 ∨ h % 4 ≠ 0 ∨ h % 65536 < 12 then none else some (h % 65536)

/-- The blocks of a strip from its header word and the bytes after it; none where it is malformed (R60). -/
def kefStrip (h : Nat) (body : List Nat) : Option (List (Nat × List Nat)) :=
  let n := if bitsOf h 16 5 = 0 then 32 else bitsOf h 16 5
  (kefBlocks n (bitsMsb body)).bind fun (bs, rest) => if rest.any id then none else some bs

/-! KEF8 encoding (R60) -/

def bitsOfNum (v : Nat) : Nat → List Bool
  | 0 => []
  | n + 1 => v.testBit n :: bitsOfNum v n

/-- The canonical token of exponent e under base b. -/
def kefToken (b e : Nat) : List Bool :=
  if e = 0 ∨ b - e ≥ 11 then [true, true, true, true] ++ bitsOfNum e 4
  else match b - e with
  | 0 => [false]
  | 1 => [true, false]
  | 2 => [true, true, false]
  | d => [true, true, true, false] ++ bitsOfNum (d - 3) 3

/-- The canonical bits of a block. -/
def kefBlockBits (sc : Nat) (cs : List Nat) : List Bool :=
  let b := cs.foldl (fun m c => Nat.max m (bitsOf c 3 4)) 0
  bitsOfNum sc 8 ++ bitsOfNum b 4 ++ cs.flatMap fun c => bitsOfNum (bitsOf c 7 1 * 8 + c % 8) 4 ++ kefToken b (bitsOf c 3 4)

/-- Bytes from bits, most significant first, padded with zeros. -/
def packMsb : Nat → List Bool → List Nat
  | 0, _ => []
  | n + 1, l => ((l ++ List.replicate 8 false).take 8).foldl (fun v b => 2 * v + if b then 1 else 0) 0 :: packMsb n (l.drop 8)

/-- A strip in canonical form: header and blocks, padded to 4 bytes. -/
def kefEncode (bs : List (Nat × List Nat)) : List Byte :=
  let bits := bs.flatMap fun (sc, cs) => kefBlockBits sc cs
  let len := 4 + ceilDiv bits.length 32 * 4
  leBytes (bs.length % 32 * 65536 + len) 4 ++ (packMsb (len - 4) bits).map (BitVec.ofNat 8)

/-! Sparse formats (R61, R62) -/

/-- The metadata nibble of group g. -/
def spNibble (md : Nat → Nat → Nat) (g : Nat) : Nat := bitsOf (md (8 * (g / 16)) 8) (4 * (g % 16)) 4

/-- A nibble whose positions do not ascend. -/
def spBad (nib : Nat) : Bool := nib % 4 ≥ nib / 4

/-- Element n of an SP24 (18) or SP24B (19) operand. -/
def spValue (f : Nat) (rd md : Nat → Nat → Nat) (n : Nat) : FV :=
  let g := n / 4
  let nib := spNibble md g
  let w := if f = 18 then 1 else 2
  if n % 4 = nib % 4 then (codeFmt f).value (rd (2 * g * w) w)
  else if n % 4 = nib / 4 then (codeFmt f).value (rd ((2 * g + 1) * w) w)
  else FV.zero false

/-- Bits set in a 64-bit bitmap. -/
def popNat (m : Nat) : Nat := ((List.range 64).filter m.testBit).length

/-- Bytes of a BMP8 unit with bitmap m. -/
def bmpSize (m : Nat) : Nat := 8 + 8 * ceilDiv (popNat m) 8

/-- Element j of the unit at byte offset u. -/
def bmpValue (rd : Nat → Nat → Nat) (u j : Nat) : FV :=
  let m := rd u 8
  if m.testBit j then e4m3.value (rd (u + 8 + popNat (m % 2 ^ j)) 1) else FV.zero false

end Sys2Proof.Machine
end

