-- ==== Sys2Proof/Machine/Engines.lean ====
section
/-! DEFINITION. The copy and indirect engines (R220 to R235): descriptors and their checks, plans and blocks, byte-barrier credits,
completion and stops. Engine numbers: copy engine of cluster p is p, its indirect engine 128 + p, edge engine i of die d
256 + 16 d + i. -/

namespace Sys2Proof.Machine

/-! Engines -/

/-- The accepted operations of an engine. -/
def State.engOps (s : State) (e : Nat) : List EngOp :=
  if e < 128 then (s.clu e).copyOps
  else if e < 256 then (s.clu (e - 128)).indOps
  else Tbl.get [] (s.die ((e - 256) / 16)).edge ((e - 256) % 16)

def State.setEngOps (s : State) (e : Nat) (l : List EngOp) : State :=
  if e < 128 then s.modClu e fun c => { c with copyOps := l }
  else if e < 256 then s.modClu (e - 128) fun c => { c with indOps := l }
  else s.modDie ((e - 256) / 16) fun d => { d with edge := d.edge.put ((e - 256) % 16) l }

/-- The interface of an engine. -/
def engFace (e : Nat) : Nat := if e < 256 then engIf (e % 128) else edgeIf ((e - 256) / 16)

/-- The cluster whose router an engine uses (R222). -/
def engClu (e : Nat) : Nat := if e < 256 then e % 128 else edgeRouter ((e - 256) / 16)

/-- The die that holds an engine. -/
def engDie (e : Nat) : Nat := engClu e / 32

/-- SRC of a record that an engine sends (Table 13-1). -/
def engSrc (e : Nat) : Nat := if 128 ≤ e ∧ e < 256 then 3 else 2

/-- The engine that a request arriving at an interface is for (R222). -/
def EngReq.engine (r : EngReq) (dst : Nat) : Nat :=
  if dst ≥ 1152 then 256 + 16 * (dst - 1152) + r.ticket % 16 else if r.kind = 0 then dst - 1024 else 128 + (dst - 1024)

/-- Operation `id` of an engine. -/
def State.engOp (s : State) (e id : Nat) : Option EngOp := (s.engOps e).find? (·.id == id)

/-- Changes operation `id` of an engine. -/
def State.modEng (s : State) (e id : Nat) (f : EngOp → EngOp) : State :=
  s.setEngOps e ((s.engOps e).map fun o => if o.id = id then f o else o)

/-! Descriptors -/

/-- The view in which an operation reaches memory. -/
def EngReq.view (r : EngReq) : Nat := viewOf r.k r.ctx
/-- Register ei of a descriptor. -/
def EngReq.g (r : EngReq) (i : Nat) : W := r.e.getD i 0#64
/-- Field [lo + n − 1 : lo] of ei. -/
def EngReq.f (r : EngReq) (i lo n : Nat) : Nat := fld (r.g i) lo n
/-- A signed field. -/
def EngReq.sf (r : EngReq) (i lo n : Nat) : Int := sInt (r.f i lo n) n

/-- MODE of Table 09-2. -/
def EngReq.mode (r : EngReq) : Nat := r.f 4 0 2
def EngReq.hasBar (r : EngReq) : Bool := r.mode ≥ 2
def EngReq.hasMsg (r : EngReq) : Bool := r.mode % 2 == 1
def EngReq.xp (r : EngReq) : Bool := (r.g 4).getLsbD 63
def EngReq.xd (r : EngReq) : Bool := (r.g 4).getLsbD 62
/-- The pointer of the byte barrier that e4 describes. -/
def EngReq.bar (r : EngReq) : W :=
  if (r.g 4).getLsbD 28 then nat (2 * 2 ^ 52 + r.f 4 21 7 * 2 ^ 21 + r.f 4 3 18 * 8) else nat (2 ^ 52 + r.f 4 3 18 * 8)

/-- COPY's PLANES, ROWS and RBYTES. -/
def EngReq.planes (r : EngReq) : Nat := if r.f 5 48 16 = 0 then 1 else r.f 5 48 16
def EngReq.rows (r : EngReq) : Nat := r.f 2 24 24
def EngReq.rb (r : EngReq) : Nat := r.f 2 0 24

/-- The lowest and the highest byte offset of n rows of stride a in p planes of stride b, each row rb bytes (R227). -/
def span (p : Nat) (b : Int) (n : Nat) (a : Int) (rb : Nat) : Int × Int :=
  let x := (p - 1 : Nat) * b
  let y := (n - 1 : Nat) * a
  (min 0 x + min 0 y, max 0 x + max 0 y + rb - 1)

/-- A first-pass check of a pointer (R40, R42 unless `plain`, alignment). -/
def State.ptrCheck (s : State) (c : Nat) (p : W) (plain : Bool) (al : Nat) : Option Nat :=
  match s.resolve c p with
  | .error e => some e
  | .ok t => match (if plain then .ok () else fmtCheck p) with
    | .error e => some e
    | .ok _ => if t.off % al ≠ 0 then some 79 else none

/-- A second-pass check of an extent (R114 step 5, R227). -/
def State.extCheck (s : State) (c : Nat) (p : W) (lo hi : Int) : Option Nat :=
  match s.resolve c p with
  | .error e => some e
  | .ok t =>
    if t.off + lo < 0 ∨ t.off + hi ≥ (2 ^ t.width : Nat) then some 80
    else if hi ≥ lo ∧ t.off + hi ≥ (t.limit : Nat) then some 68 else none

/-- The context holds a grant for a package (R228, R348). -/
def State.granted (s : State) (x pkg : Nat) : Option W :=
  ((s.ctx x).xgrant.find? fun (_, w) => w.getLsbD 63 && fld w 50 12 == pkg).map (·.2)

/-- e4's own checks (Table 09-2, R226, R228). -/
def State.e4Check (s : State) (c x : Nat) (r : EngReq) : Option Nat :=
  let bx := (r.g 4).getLsbD 28
  if r.f 4 29 21 ≠ 0 then some 288
  else if !r.xp && (r.xd || r.f 4 50 12 ≠ 0) then some 288
  else if !bx && r.f 4 21 7 ≠ 0 then some 288
  else if !r.hasBar && (bx || r.f 4 21 7 ≠ 0 || r.f 4 3 18 ≠ 0) then some 288
  else if !r.hasMsg && (r.g 4).getLsbD 2 then some 288
  else if r.xp && (r.kind ≠ 0 || spc (r.g (if r.xd then 1 else 0)) ≠ 0 || (s.granted x (r.f 4 50 12)).isNone) then some 298
  else if r.hasBar then s.ptrCheck c r.bar true 8 else none

/-- Two footprints in one space and unit overlap (R227, R235). -/
def State.overlaps (s : State) (c : Nat) (p q : W) (lp lq : Int × Int) : Bool :=
  match s.resolve c p, s.resolve c q with
  | .ok a, .ok b => a.base == b.base && decide (a.off + lp.1 ≤ b.off + lq.2) && decide (b.off + lq.1 ≤ a.off + lp.2)
  | _, _ => false

/-- The first failure of a list of checks {e register, cause}. -/
def firstBad : List (Nat × Option Nat) → Option (Nat × Nat)
  | [] => none
  | (i, some c) :: _ => some (c, i)
  | (_, none) :: r => firstBad r

def badIf (b : Bool) (c : Nat) : Option Nat := if b then some c else none

/-- COPY's checks in their three passes (R220, R226 to R228): the cause and the e register. -/
def State.copyCheck (s : State) (c x : Nat) (r : EngReq) : Option (Nat × Nat) :=
  let ss := 64 * r.sf 5 24 24
  let ds := 64 * r.sf 5 0 24
  let ls := span r.planes ss r.rows (r.sf 3 32 32) r.rb
  let ld := span r.planes ds r.rows (r.sf 3 0 32) r.rb
  firstBad [(0, s.ptrCheck c (r.g 0) true 1), (1, s.ptrCheck c (r.g 1) true 1),
    (2, badIf (r.f 2 48 16 ≠ 0) 288), (2, badIf (r.rows = 0 || r.rb = 0) 289),
    (4, s.e4Check c x r),
    (6, badIf (r.g 6 ≠ 0#64) 288), (7, badIf (r.g 7 ≠ 0#64) 288),
    (2, badIf (decide (r.planes * r.rows * r.rb > 2 ^ 40)) 289),
    (0, s.extCheck c (r.g 0) ls.1 ls.2), (1, s.extCheck c (r.g 1) ld.1 ld.2),
    (0, badIf (!r.xp && s.overlaps c (r.g 0) (r.g 1) ls ld) 294)]

/-- GATHER's (scat false) and SCATTER's checks (R232). -/
def State.gsCheck (s : State) (c x : Nat) (r : EngReq) (scat : Bool) : Option (Nat × Nat) :=
  let pk := if scat then 0 else 1
  let n := r.rows
  let ptr (i : Nat) : Option Nat := (s.ptrCheck c (r.g i) false 1).orElse fun _ => badIf (i == pk && !(spc (r.g i) = 1 || spc (r.g i) = 2)) 290
  let li := span 1 0 (r.f 7 0 32) (r.sf 3 32 32) r.rb
  let pext := s.extCheck c (r.g pk) 0 ((n * r.rb : Nat) - 1)
  let iext := s.extCheck c (r.g (1 - pk)) li.1 li.2
  firstBad [(0, ptr 0), (1, ptr 1),
    (2, badIf (r.f 2 48 16 ≠ 0) 288), (2, badIf (n = 0 || r.rb = 0 || decide (r.rb > 4096)) 289),
    (3, badIf (r.f 3 0 32 ≠ 0) 288), (4, s.e4Check c x r),
    (5, badIf (scat && r.g 5 ≠ 0#64) 288), (6, s.ptrCheck c (r.g 6) false 4),
    (7, badIf (r.f 7 0 32 = 0) 289), (7, badIf (r.f 7 32 32 ≠ 0 && decide (r.f 7 32 32 < r.f 7 0 32)) 292),
    (0, if scat then pext else iext), (1, if scat then iext else pext),
    (6, s.extCheck c (r.g 6) 0 ((4 * n : Nat) - 1))]

/-- ISECT's checks (R234). -/
def State.isectCheck (s : State) (c x : Nat) (r : EngReq) : Option (Nat × Nat) :=
  let ext (i n : Nat) : Option Nat := s.extCheck c (r.g i) 0 ((n : Int) - 1)
  firstBad [(0, s.ptrCheck c (r.g 0) false 4), (1, s.ptrCheck c (r.g 1) false 4),
    (2, badIf (r.f 2 48 16 ≠ 0) 288), (3, s.ptrCheck c (r.g 3) false 8), (4, s.e4Check c x r),
    (5, badIf (r.f 5 32 32 ≠ 0) 288), (6, s.ptrCheck c (r.g 6) false 8), (7, badIf (r.g 7 ≠ 0#64) 288),
    (0, ext 0 (4 * r.f 2 0 24)), (1, ext 1 (4 * r.f 2 24 24)), (3, ext 3 (8 * r.f 5 0 32)), (6, ext 6 8)]

/-- RSORT's checks (R235). -/
def State.rsortCheck (s : State) (c x : Nat) (r : EngReq) : Option (Nat × Nat) :=
  let n := r.f 2 0 21
  let l : Int × Int := (0, (8 * n : Nat) - 1)
  let ext (i : Nat) : Option Nat := s.extCheck c (r.g i) l.1 l.2
  let ovl (i j : Nat) : Bool := s.overlaps c (r.g i) (r.g j) l l
  let same : Bool := match s.resolve c (r.g 0), s.resolve c (r.g 1) with | .ok a, .ok b => a.at_ == b.at_ | _, _ => false
  firstBad [(0, s.ptrCheck c (r.g 0) false 8), (1, s.ptrCheck c (r.g 1) false 8),
    (2, badIf (r.f 2 21 43 ≠ 0) 288), (2, badIf (n = 0 || decide (n > 2 ^ 20)) 289),
    (3, s.ptrCheck c (r.g 3) false 1), (4, s.e4Check c x r),
    (5, badIf (r.f 5 6 58 ≠ 0) 288), (5, badIf (decide (r.f 5 0 3 > r.f 5 3 3)) 289),
    (6, badIf (r.g 6 ≠ 0#64) 288), (7, badIf (r.g 7 ≠ 0#64) 288),
    (0, ext 0), (1, ext 1), (3, ext 3),
    (0, badIf ((ovl 0 1 && !same) || ovl 0 3) 294), (1, badIf (ovl 1 3) 294)]

/-- The launch checks of a request. -/
def State.engCheck (s : State) (c : Nat) (r : EngReq) : Option (Nat × Nat) :=
  match r.kind with
  | 0 => s.copyCheck c r.ctx r
  | 1 => s.gsCheck c r.ctx r false
  | 2 => s.gsCheck c r.ctx r true
  | 3 => s.isectCheck c r.ctx r
  | _ => s.rsortCheck c r.ctx r

/-! Reaching operands -/

/-- What stops an engine's access: a translation to come, or a cause with the place that has it. -/
inductive Obst where
  | walk (va : Nat)
  | stop (c a : Nat)
  deriving DecidableEq, Repr

/-- The place of offset 0 of an operand pointer of a unit of core c. -/
def State.opBase (s : State) (c : Nat) (p : W) : Nat := match s.resolve c p with | .ok t => t.at_ | .error _ => 0

/-- The address that a place has in its space. -/
def addrOf (a : Nat) : Nat :=
  if a ≥ glb0 then glbVa a else if a ≥ 2 ^ 62 then a % 2 ^ 25 else if a ≥ 2 ^ 61 then a % 2 ^ 18 else a % 2 ^ 21

/-- What stops an access to these places in view v, and the state with their lines held. -/
def State.reachAll (s : State) (v : Nat) (ps : List Nat) (rd wr : Bool) : Except Obst State :=
  let gs := ps.filter (· ≥ glb0)
  let x := v % 2 ^ 24
  match gs.findSome? (fun a => match s.trans x (glbVa a) with
      | none => some (Obst.walk (glbVa a))
      | some t => (t.denyIn v rd wr).map fun c => Obst.stop c a) with
  | some o => .error o
  | none => .ok ((gs.map lineOf).eraseDups.foldl (fun s l => s.haveLine x (glbVa (l * 64))) s)

/-- Reads bytes at places; a poisoned word is cause 128 (R324). -/
def State.engRead (s : State) (x : Nat) (ps : List Nat) : Except Obst (List Byte × State) :=
  match s.reachAll x ps true false with
  | .error o => .error o
  | .ok s => match ps.find? s.poisonAt with
    | some a => .error (.stop 128 a)
    | none => .ok (ps.map s.byteAt, s)

/-- n consecutive places. -/
def placesFrom (a n : Nat) : List Nat := (List.range n).map (a + ·)

/-- Reads n consecutive bytes. -/
def State.engReadRun (s : State) (x a n : Nat) : Except Obst (List Byte × State) := s.engRead x (placesFrom a n)

/-- Cuts consecutive bytes at a into the parts that lie in one aligned 64-byte block each. -/
def cutBlocks (credit : Bool) : Nat → Nat → List Byte → List Block
  | 0, _, _ => []
  | _, _, [] => []
  | f + 1, a, d => let n := 64 - a % 64; ⟨a, d.take n, credit⟩ :: cutBlocks credit f (a + n) (d.drop n)

/-- The blocks of consecutive bytes at a. -/
def blocksAt (credit : Bool) (a : Nat) (d : List Byte) : List Block := cutBlocks credit (d.length / 64 + 2) a d

/-- Numbers of w bytes in a run of bytes. -/
def numsOf (w : Nat) : Nat → List Byte → List Nat
  | 0, _ => []
  | n + 1, d => leNat (d.take w) :: numsOf w n (d.drop w)

/-! Lists (R233 to R235): the words that an operation reads before it writes -/

/-- Words of the lists of a request, and bytes of a word: indices, LA and LB, or keys. -/
def EngReq.listLen (r : EngReq) : Nat := match r.kind with | 0 => 0 | 3 => r.f 2 0 24 + r.f 2 24 24 | 4 => r.f 2 0 21 | _ => r.rows
def EngReq.listWidth (r : EngReq) : Nat := if r.kind = 4 then 8 else 4

/-- The place of word i of the lists. -/
def State.listWord (s : State) (r : EngReq) (i : Nat) : Nat :=
  let at_ (j : Nat) : Nat := s.opBase (coreOf r.k) (r.g j)
  match r.kind with
  | 3 => if i < r.f 2 0 24 then at_ 0 + 4 * i else at_ 1 + 4 * (i - r.f 2 0 24)
  | 4 => at_ 0 + 8 * i
  | _ => at_ 6 + 4 * i

/-- The next words to be read that lie in one 64-byte block. -/
def State.listNext (s : State) (o : EngOp) : List Nat :=
  let n := o.got.length
  let ws := ((List.range 16).map (n + ·)).filter (· < o.req.listLen) |>.map (s.listWord o.req)
  ws.takeWhile fun a => a / 64 = s.listWord o.req n / 64

/-- Reads the next words of the lists. -/
def State.listRead (s : State) (o : EngOp) : Except Obst (List Nat × State) :=
  let ws := s.listNext o
  (s.engRead o.req.view (ws.flatMap fun a => placesFrom a o.req.listWidth)).map fun (d, s) => (numsOf o.req.listWidth ws.length d, s)

/-- Index i is the sentinel (R233). -/
def EngReq.skips (r : EngReq) (i : Nat) : Bool := r.f 7 32 32 ≠ 0 && i = r.f 7 32 32

/-- A list is strictly ascending. -/
def ascending : List Nat → Bool
  | a :: b :: r => a < b && ascending (b :: r)
  | _ => true

/-- The matches of two ascending lists with their positions (R234). -/
def matches_ (la lb : List Nat) : List (Nat × Nat) := la.zipIdx.filterMap fun (v, i) => (lb.findIdx? (· == v)).map fun j => (i, j)

/-- LA and LB as read. -/
def EngOp.lists (o : EngOp) : List Nat × List Nat := (o.got.take (o.req.f 2 0 24), o.got.drop (o.req.f 2 0 24))

/-- The fault that whole lists give (R233, R234). -/
def EngOp.listFault (o : EngOp) : Option Nat :=
  match o.req.kind with
  | 3 => badIf (!(ascending o.lists.1 && ascending o.lists.2)) 293
  | 4 => none
  | _ => badIf (o.got.any fun i => !o.req.skips i && decide (i ≥ o.req.f 7 0 32)) 291

/-- The keys after the pass in progress (R235): stably sorted by its digit. -/
def EngOp.passKeys (o : EngOp) : List Nat := sortOn (fun k => bitsOf k (8 * (o.req.f 5 0 3 + o.plane)) 8) o.got
/-- The pass in progress is RSORT's last. -/
def EngOp.lastPass (o : EngOp) : Bool := o.req.f 5 0 3 + o.plane ≥ o.req.f 5 3 3

/-- The blocks of an operation whose lists are read: ISECT's pairs and count (R234), or a pass of RSORT, to SCR or at last to DST
(R235). -/
def State.enginePlan (s : State) (o : EngOp) : List Block :=
  let r := o.req
  let at_ (j : Nat) : Nat := s.opBase (coreOf r.k) (r.g j)
  match r.kind with
  | 3 =>
    let ms := matches_ o.lists.1 o.lists.2
    blocksAt true (at_ 3) ((ms.take (r.f 5 0 32)).flatMap fun (i, j) => leBytes (j * 2 ^ 32 + i) 8) ++ [⟨at_ 6, leBytes ms.length 8, true⟩]
  | 4 => blocksAt o.lastPass (at_ (if o.lastPass then 1 else 3)) (o.passKeys.flatMap fun k => leBytes k 8)
  | _ => []

/-- Bytes that an operation credits in all; of a list read in part the words not read count as records (R223; log 26). -/
def EngOp.total (o : EngOp) : Nat :=
  let r := o.req
  match r.kind with
  | 0 => r.planes * r.rows * r.rb
  | 1 => r.rows * r.rb
  | 2 => r.rb * (r.rows - (o.got.filter r.skips).length)
  | 3 => 8 * Nat.min (matches_ o.lists.1 o.lists.2).length (r.f 5 0 32) + 8
  | _ => 8 * r.f 2 0 21

/-! The bytes that COPY, GATHER and SCATTER move (R227, R233) -/

/-- One byte to be written: where it goes, and where it comes from, or a byte of FILL. -/
structure Move where
  src : Option Nat
  fill : Byte := 0#8
  dst : Nat
  deriving DecidableEq, Repr

/-- A position {plane, row, byte} of an operation. -/
abbrev Pos := Nat × Nat × Nat

/-- Planes of an operation: COPY alone has more than one. -/
def EngReq.planeCount (r : EngReq) : Nat := if r.kind = 0 then r.planes else 1

/-- The first position of the row after position p's. -/
def EngReq.nextRow (r : EngReq) : Pos → Pos | (p, n, _) => if n + 1 < r.rows then (p, n + 1, 0) else (p + 1, 0, 0)

/-- Where row n of plane p goes, from base dst; none for a record that SCATTER skips. -/
def EngOp.rowDst (o : EngOp) (dst p n : Nat) : Option Int :=
  let r := o.req
  match r.kind with
  | 0 => some (dst + (64 * p * r.sf 5 0 24 + n * r.sf 3 0 32))
  | 1 => some (dst + n * r.rb : Nat)
  | _ => let i := o.got.getD n 0; if r.skips i then none else some (dst + i * r.sf 3 32 32)

/-- What byte b of row n of plane p, from base src, is written with; FILL where GATHER has a sentinel. -/
def EngOp.rowSrc (o : EngOp) (src p n b : Nat) : Option Nat × Byte :=
  let r := o.req
  match r.kind with
  | 0 => (some (src + (64 * p * r.sf 5 24 24 + n * r.sf 3 32 32 + b)).toNat, 0#8)
  | 1 =>
    let i := o.got.getD n 0
    if r.skips i then (none, BitVec.ofNat 8 (bitsOf (r.g 5).toNat (8 * (b % 8)) 8)) else (some (src + (i * r.sf 3 32 32 + b)).toNat, 0#8)
  | _ => (some (src + n * r.rb + b), 0#8)

/-- The numbers n below `rows` for which rb bytes from a + n · d on reach 64-byte block blk, for a stride d that is not negative. -/
def rowsUp (rows : Nat) (a d : Int) (rb blk : Nat) : List Nat :=
  if d = 0 then (if a < 64 * blk + 64 ∧ a + rb > 64 * blk then List.range rows else [])
  else
    let lo := (max 0 ((64 * blk - rb - a) / d + 1)).toNat
    let hi := Nat.min rows (-((a - 64 * blk - 64) / d)).toNat
    (List.range (hi - lo)).map (lo + ·)

/-- The same for any stride. -/
def rowsNear (rows : Nat) (a d : Int) (rb blk : Nat) : List Nat :=
  if d < 0 then (rowsUp rows (a + (rows - 1 : Nat) * d) (-d) rb blk).reverse.map (rows - 1 - ·) else rowsUp rows a d rb blk

/-- The rows of plane p that reach a destination block, in ascending order. -/
def EngOp.blockRows (o : EngOp) (dst blk p : Nat) : List Nat :=
  let r := o.req
  match r.kind with
  | 0 => rowsNear r.rows (dst + 64 * p * r.sf 5 0 24) (r.sf 3 0 32) r.rb blk
  | 1 => rowsNear r.rows dst r.rb r.rb blk
  | _ => (List.range r.rows).filter fun n => (o.rowDst dst p n).any fun (a : Int) => decide (a < 64 * blk + 64) && decide (a + r.rb > 64 * blk)

/-- The part of row n of plane p that lies in a destination block: its first position and its bytes. -/
def EngOp.rowPart (o : EngOp) (src dst blk p n : Nat) : Pos × List Move :=
  match o.rowDst dst p n with
  | none => ((p, n, 0), [])
  | some a =>
    let lo := (64 * blk - a).toNat
    let hi := Nat.min o.req.rb (64 * blk + 64 - a).toNat
    ((p, n, lo), (List.range (hi - lo)).map fun i => let (m, f) := o.rowSrc src p n (lo + i); ⟨m, f, (a + (lo + i : Nat)).toNat⟩)

/-- All the bytes of an operation that lie in a destination block, by row, in ascending order (R224, R225; log 11). -/
def EngOp.blockParts (o : EngOp) (src dst blk : Nat) : List (Pos × List Move) :=
  (List.range o.req.planeCount).flatMap fun p => (o.blockRows dst blk p).map (o.rowPart src dst blk p)

/-! Byte barriers (R229) -/

/-- The words that a credit of n bytes leaves, in order: after the first flip, and at its end; and whether it meets REMAIN 0. -/
def creditWords (w n : Nat) : List Nat × Bool :=
  let rem := w % 2 ^ 32
  let rel := bitsOf w 32 31
  let ph := w / 2 ^ 63
  let mk (p q : Nat) : Nat := p % 2 * 2 ^ 63 + rel * 2 ^ 32 + q
  if n = 0 then ([w], false)
  else if rem = 0 then ([w], true)
  else if n < rem then ([mk ph (rem - n)], false)
  else
    let m := n - rem
    if rel = 0 then ([mk (ph + 1) 0], m > 0)
    else [mk (ph + 1) rel, mk (ph + 1 + m / rel) (rel - m % rel)] |> fun l => (l, false)

/-! Ends of operations (R223, R224) -/

/-- A ticket is free again: the launch that waits for it is reissued (R221). -/
def State.freeTicket (s : State) (c t : Nat) : State :=
  let s := s.modCore c fun co => { co with live := co.live.erase t }
  s.wakeAll fun k sl => coreOf k == c && sl.wait == .ticket t

/-- The operation is over. -/
def State.engGone (s : State) (e : Nat) (o : EngOp) : State :=
  let s := s.setEngOps e ((s.engOps e).filter (·.id ≠ o.id))
  let s : State := { s with walks := s.walks.filter fun w => w.who ≠ Who.eng e o.id }
  s.freeTicket (coreOf o.req.k) o.req.ticket

/-- The completion message (Table 09-1). -/
def EngOp.message (o : EngOp) : W := nat (o.req.ticket * 2 ^ 48 + if o.err = 0 then 0 else 2 ^ 47 + o.err)

/-- Ends an operation whose blocks and credits are done: the message, or the end, with a record of cause 299 for a stop without a
message. -/
def State.engEnd (s : State) (e id : Nat) : State :=
  match s.engOp e id with
  | none => s
  | some o =>
    if !o.done || o.credits > 0 || !o.remote.isEmpty || o.sent then s
    else if o.req.hasMsg then
      (s.send o.req.ctx (engFace e) (coreOf o.req.k)
        (.mail o.req.k { dest := if (o.req.g 4).getLsbD 2 then none else some (o.req.k % 16), data := o.message } o.req.ctx)).modEng e id fun o => { o with sent := true }
    else
      let s := s.engGone e o
      if o.err = 0 then s
      else
        let (v, s) := s.free
        s.unitRecord (engDie e) (engSrc e) 299 v o.err o.req.ticket (engClu e * 128) o.req.vtid o.req.ctx

/-- Sends a credit of n bytes of an operation to its barrier's bank (R224, R229). -/
def State.sendCredit (s : State) (e id n : Nat) : State :=
  match s.engOp e id with
  | none => s
  | some o =>
    if !o.req.hasBar ∨ n = 0 then s
    else
      let a := s.opBase (coreOf o.req.k) o.req.bar
      (s.send o.req.ctx (engFace e) (portOf a) (.credit e id a n o.req.vtid)).modEng e id fun o => { o with credited := o.credited + n, credits := o.credits + 1 }

/-- An operation whose last bytes have gone: a put is credited as a whole once the other package has answered for all of them (R228). -/
def State.engLast (s : State) (e id : Nat) : State :=
  match s.engOp e id with
  | none => s
  | some o =>
    (if o.req.kind = 0 && o.req.xp && o.req.xd && o.done && o.remote.isEmpty && o.credited = 0 then s.sendCredit e id o.total else s).engEnd e id

/-- A run fault stops the operation (R223): the rest of its bytes is credited, unless the barrier itself failed. -/
def State.engStop (s : State) (e id cause : Nat) (bar : Bool := false) : State :=
  match s.engOp e id with
  | none => s
  | some o =>
    if o.done && o.err ≠ 0 then s
    else
      let rest := o.total - o.credited
      let s := s.modEng e id fun o => { o with done := true, err := cause, plan := some [], remote := [] }
      (if bar then s else s.sendCredit e id rest).engEnd e id

/-- Bytes by place as runs of consecutive bytes. -/
def runsOf : List (Nat × Byte) → List (Nat × List Byte)
  | [] => []
  | (a, b) :: r => match runsOf r with
    | (c, d) :: q => if c = a + 1 then (a, b :: d) :: q else (a, [b]) :: (c, d) :: q
    | [] => [(a, [b])]

/-- Writes runs of bytes as one write of an engine: the data, with poison where `bad`, then the FE bits of the words (R46, R224, R239);
the pages are noted once (R304). -/
def State.engWrites (s : State) (bad : Bool) (rs : List (Nat × List Byte)) : State :=
  let ws := (rs.flatMap fun (a, d) => wordsOf a d.length).eraseDups
  let s := rs.foldl (fun s (a, d) => s.write none true a d) s
  let s := s.notePages ((rs.flatMap fun (a, d) => (linesOf a d.length).map fun l => Nat.max a (l * 64)).filter (· ≥ glb0))
  let s := if bad then ws.foldl (fun s w => s.setPoison w true) s else s
  ws.foldl (fun s w => if s.hasFe w then (s.feSet none w true).feChanged w else s) s

/-- Writes consecutive bytes as an engine. -/
def State.engWrite (s : State) (a : Nat) (data : List Byte) : State := s.engWrites false [(a, data)]

end Sys2Proof.Machine
end

