-- ==== Sys2Proof/Machine/MatrixOps.lean ====
section
/-! DEFINITION. The matrix engine (R187 to R207): descriptors and their checks, operands by row and k-block, the accumulation order,
output, the queue with its priorities and banks, and handles. -/

namespace Sys2Proof.Machine

/-! Descriptor fields (Tables 08-2 to 08-4) -/

/-- The view in which an operation reaches memory. -/
def MatReq.view (r : MatReq) : Nat := viewOf r.k r.ctx
def MatReq.g (r : MatReq) (i : Nat) : W := r.e.getD i 0#64
def MatReq.f (r : MatReq) (i lo n : Nat) : Nat := fld (r.g i) lo n
/-- M and N: 0 means 256. -/
def dim (n : Nat) : Nat := if n = 0 then 256 else n
def MatReq.kk (r : MatReq) : Nat := r.f 3 18 24
def MatReq.nn (r : MatReq) : Nat := dim (r.f 3 9 9)
def MatReq.mm (r : MatReq) : Nat := dim (r.f 3 0 9)
def MatReq.lda (r : MatReq) : Nat := r.f 4 0 24
def MatReq.ldb (r : MatReq) : Nat := r.f 4 24 24
def MatReq.ldc (r : MatReq) : Nat := r.f 5 0 24
def MatReq.acc (r : MatReq) : Nat := r.f 5 24 2
def MatReq.keep (r : MatReq) : Bool := (r.g 5).getLsbD 26
def MatReq.bst (r : MatReq) : Bool := (r.g 5).getLsbD 27
def MatReq.zsm (r : MatReq) : Bool := (r.g 5).getLsbD 28
def MatReq.pri (r : MatReq) : Nat := r.f 5 32 2
def MatReq.ta (r : MatReq) : Bool := (r.g 5).getLsbD 34
def MatReq.tb (r : MatReq) : Bool := (r.g 5).getLsbD 35
/-- The reduction length: the list's length for MMAX (R200). -/
def MatReq.red (r : MatReq) : Nat := if r.kind = 2 then r.f 7 0 24 else r.kk
/-- The operations with k-blocks. -/
def MatReq.multiplies (r : MatReq) : Bool := r.kind ≤ 4
def MatReq.mirror (r : MatReq) : Bool := r.kind == 3 || r.kind == 4
def MatReq.kblocks (r : MatReq) : Nat := if r.multiplies then ceilDiv r.red 8 else 0
/-- The operation runs in a bank of its own; ACC = 2 and MSTC use the kept bank, MINV and MLOADB none (R204). -/
def MatReq.ownBank (r : MatReq) : Bool := r.multiplies && r.acc ≠ 2

/-! Handles (R201, R202) -/

def State.handleAt (s : State) (cl i : Nat) : Handle := Tbl.get {} (s.clu cl).handles i
def State.modHandle (s : State) (cl i : Nat) (f : Handle → Handle) : State :=
  s.modClu cl fun c => { c with handles := c.handles.put i (f (s.handleAt cl i)) }

/-- The entry that a handle value names, if it is live and current. -/
def State.handleOf (s : State) (cl : Nat) (w : W) : Option Nat :=
  let h := s.handleAt cl (fld w 0 6)
  if fld w 16 48 = 0 ∧ h.live ∧ h.gen = fld w 6 10 then some (fld w 0 6) else none

/-- The generation after g. -/
def nextGen (g : Nat) : Nat := if g ≥ 1023 then 1 else g + 1

/-- The words of a handle's tile that hold k-block kb: of column j, a half of a block row in the narrow class, a whole one in the wide
class (R187, R201). -/
def Handle.blockWords (h : Handle) (kb : Nat) : List Nat :=
  (List.range h.nn).flatMap fun j =>
    if h.fmt = 6 ∨ h.fmt = 7 then [(h.row + kb) * 512 + 2 * j, (h.row + kb) * 512 + 2 * j + 1] else [(h.row + kb / 2) * 512 + 2 * j + kb % 2]

/-- The words of block rows a to a + n − 1. -/
def rowWords (w a n : Nat) : Bool := a * 512 ≤ w && w < (a + n) * 512

/-- The place by which a stop names word w of a B-store; no program can address it. -/
def bstPlace (w : Nat) : Nat := 2 ^ 64 + 8 * w

/-- The entry's rows are in use. -/
def Handle.used (h : Handle) : Bool := h.live || h.taken || h.freed

/-- Block rows of a K × N tile (R201). -/
def tileRows (f k : Nat) : Nat := if f = 6 ∨ f = 7 then ceilDiv k 8 else ceilDiv k 16

/-- The lowest range of n free handle rows. -/
def State.freeRows (s : State) (cl n : Nat) : Option Nat :=
  let us := (s.clu cl).handles.filter (·.2.used)
  ((List.range 1537).map (· + 512)).find? fun a => a + n ≤ 2048 && us.all fun (_, h) => h.row + h.rows ≤ a || a + n ≤ h.row

/-- Some operation of the engine, queued, at its port or on its way, names entry i. -/
def State.handleNamed (s : State) (cl i : Nat) : Bool :=
  (s.clu cl).matq.any (·.req.handle == some i) || (s.clu cl).matPort.any (·.handle == some i)
    || s.net.any fun m => m.dst == engIf cl && match m.body with | .mat r => r.handle == some i | _ => false

/-- The rows of a freed entry return once no operation names it. -/
def State.handleDone (s : State) (cl i : Nat) : State :=
  if (s.handleAt cl i).freed && !s.handleNamed cl i then s.modHandle cl i fun h => { gen := h.gen } else s

/-! Issue checks (R191, R193, R194) -/

/-- R40, R42 and R57 for an operand pointer aligned to `al`. -/
def State.matPtr (s : State) (c : Nat) (p : W) (al : Nat) : Option Nat :=
  match s.resolve c p with
  | .error e => some e
  | .ok t => match fmtCheck p with
    | .error e => some e
    | .ok _ => if t.off % al ≠ 0 then some 76 else none

/-- Alignment of an array by its format (R57). -/
def arrayAlign (p : W) : Nat :=
  let f := fmtOf p
  if (12 ≤ f ∧ f ≤ 16) ∨ f = 20 then 8 else if f = 17 then 4 else if f = 19 then 2 else 1

/-- The multiple that a leading dimension must be (R193). -/
def ldMult (f : Nat) : Nat := if f = 17 then 256 else if 12 ≤ f ∧ f ≤ 20 then 64 else 1
def ldBad (f ld need : Nat) : Bool := ld < need || ld % ldMult f ≠ 0

/-- Bytes of an element of C; FMT 0 is FP32 (R194). -/
def cBytes (f : Nat) : Nat := if f = 0 ∨ f = 8 then 4 else plainBytes f
/-- Formats of C. -/
def cOk (f : Nat) : Bool := [0, 6, 7, 8, 10, 11].contains f
def wideFmt (f : Nat) : Bool := f = 6 || f = 7
def narrowFmt (f : Nat) : Bool := 10 ≤ f && f ≤ 17
/-- Formats that permit TA and TB. -/
def transOk (f : Nat) : Bool := [6, 7, 10, 11].contains f

/-- The format of A is permitted for the operation (Table 08-5). -/
def aOk (kind f : Nat) : Bool :=
  match kind with | 0 => wideFmt f || narrowFmt f | 1 => f == 18 || f == 19 | 2 => f == 20 || f == 10 | _ => f == 7 || f == 8
/-- The format of B is permitted; `h`: it is named by a handle. FMT 17 is by handle only for every operation with B of the narrow class, as
Table 08-5 says of MMA: no register is left for its strip offset table (DESIGN CHOICE, log 107). -/
def bOk (kind f : Nat) (h : Bool) : Bool :=
  let narrow := narrowFmt f && (f ≠ 17 || h)
  match kind with | 0 => wideFmt f || narrow | 1 => wideFmt f || narrow | 2 => f == 10 || f == 11 | _ => narrow
/-- A and B are of one class (Table 08-5). -/
def pairOk (kind a b : Nat) : Bool :=
  match kind with | 0 => wideFmt a == wideFmt b | 1 => (a == 19) == wideFmt b | _ => true

/-- Bytes of an array up to the end of element n. -/
def opBytes (f n : Nat) : Nat :=
  if 12 ≤ f ∧ f ≤ 16 then mxData f (n / 8) + (mxFmt f).bits
  else if f = 17 then 0
  else if f = 18 then 2 * (n / 4) + 2
  else if f = 19 then 2 * (2 * (n / 4) + 2)
  else if f = 20 then 8 * (n / 64 + 1)
  else (n + 1) * plainBytes f

/-- The last element of a rows × cols operand. -/
def lastIx (rows cols ld : Nat) (tr : Bool) : Nat := if tr then (cols - 1) * ld + rows - 1 else (rows - 1) * ld + cols - 1

/-- The extent of the first n bytes at a pointer. -/
def State.extN (s : State) (c : Nat) (p : W) (n : Nat) : Option Nat := s.extCheck c p 0 ((n : Int) - 1)

/-- The checks of e3. -/
def MatReq.shapeChecks (r : MatReq) : List (Nat × Option Nat) :=
  [(3, badIf (r.f 3 42 22 ≠ 0) 256), (3, badIf (r.kk = 0 || r.f 3 9 9 > 256 || r.f 3 0 9 > 256) 257)]

/-- The reserved fields, ORM and ACC of e5. -/
def MatReq.e5Checks (r : MatReq) : List (Nat × Option Nat) :=
  [(5, badIf (r.f 5 36 28 ≠ 0) 256), (5, badIf (r.f 5 29 3 = 5 || r.f 5 29 3 = 6 || r.acc = 3) 259)]

/-- The kept bank that a slot holds. -/
def State.heldBank (s : State) (cl k : Nat) : Option Bank := (s.clu cl).kept.filter (·.k == k)

/-- The format of B. -/
def State.bFmt (s : State) (cl : Nat) (r : MatReq) : Nat :=
  match r.handle with | some h => (s.handleAt cl h).fmt | none => fmtOf (r.g 1)

/-- The checks of MMA, MMAS, MMAX, MDELTA and MREFRESH (R191 to R200, R212, R214), in their three passes. A limit that needs the
field of another register is checked with the register that holds the limited field. -/
def State.mulCheck (s : State) (c cl : Nat) (r : MatReq) : Option (Nat × Nat) :=
  let fa := fmtOf (r.g 0)
  let fb := s.bFmt cl r
  let fc := fmtOf (r.g 2)
  let hb := r.bst
  let mi := r.mirror
  let held := s.heldBank cl r.k
  let kcols := r.red
  let e1 : List (Nat × Option Nat) :=
    if hb then [(1, badIf (r.f 1 16 48 ≠ 0) 256), (1, badIf r.handle.isNone 260)] else [(1, s.matPtr c (r.g 1) (arrayAlign (r.g 1)))]
  let e2 : List (Nat × Option Nat) :=
    if r.keep && !mi then [(2, badIf (r.g 2 ≠ 0#64) 259)] else [(2, s.matPtr c (r.g 2) 1), (2, badIf (!cOk fc) 258)]
  let e5 : List (Nat × Option Nat) :=
    [(5, badIf (decide (r.ldc < r.nn)) 257),
     (5, badIf ((r.ta && !transOk fa) || (r.tb && (hb || !transOk fb))) 259),
     (5, badIf (mi && (r.acc ≠ 0 || r.keep || r.ta)) 259),
     (5, badIf (r.acc = 1 && !(fc = 0 || fc = 8)) 259),
     (5, badIf ((r.acc = 2 && held.isNone) || (r.keep && r.acc ≠ 2 && ((s.clu cl).kept.isSome || (s.clu cl).keepRsv.isSome))) 262)]
  let e6 : List (Nat × Option Nat) :=
    match r.kind with
    | 0 => if fa = 17 then [(6, s.matPtr c (r.g 6) 4)] else [(6, badIf (r.g 6 ≠ 0#64) 256)]
    | 1 => [(6, s.matPtr c (r.g 6) 8)]
    | 2 => [(6, s.ptrCheck c (r.g 6) false 4)]
    | _ => [(6, s.matPtr c (r.g 6) 1), (6, badIf (!(spc (r.g 6) = 0 || spc (r.g 6) = 6) || offOf (r.g 6) % 128 ≠ 0) 266)]
  let e7 : List (Nat × Option Nat) :=
    match r.kind with
    | 0 => [(7, badIf (r.g 7 ≠ 0#64) 256)]
    | 1 => [(7, badIf (r.g 7 ≠ 0#64) 256)]
    | 2 => [(7, badIf (r.f 7 24 40 ≠ 0) 256), (7, badIf (r.red = 0 || decide (r.red > r.kk)) 273)]
    | _ => []
  let na := lastIx r.mm kcols r.lda r.ta
  let aux : Nat := match r.kind with
    | 0 => if fa = 17 then 4 * (na / 256 + 1) else 0
    | 1 => 8 * (na / 64 + 1)
    | 2 => 4 * r.red
    | _ => 128
  firstBad ([(0, s.matPtr c (r.g 0) (arrayAlign (r.g 0))), (0, badIf (!aOk r.kind fa) 258)]
    ++ e1 ++ [(1, badIf (!bOk r.kind fb hb) 258)] ++ e2 ++ r.shapeChecks
    ++ [(3, badIf (r.acc = 2 && !mi && held.any fun b => b.mm ≠ r.mm || b.nn ≠ r.nn) 263),
        (4, badIf (r.f 4 48 16 ≠ 0) 256),
        (4, badIf (hb && r.ldb ≠ 0) 259),
        (4, badIf (ldBad fa r.lda (if r.ta then r.mm else r.kk) || (!hb && ldBad fb r.ldb (if r.tb then r.nn else r.kk))) 257)]
    ++ r.e5Checks ++ e5 ++ e6 ++ e7
    ++ [(0, s.extN c (r.g 0) (opBytes fa na)),
        (1, if hb then none else s.extN c (r.g 1) (opBytes fb (lastIx r.nn r.kk r.ldb r.tb))),
        (2, if r.keep && !mi then none else s.extN c (r.g 2) ((lastIx r.mm r.nn r.ldc false + 1) * cBytes fc)),
        (6, if aux = 0 then none else s.extN c (r.g 6) aux),
        (0, badIf (!pairOk r.kind fa fb) 258),
        (1, badIf (r.handle.any fun h => (s.handleAt cl h).kk ≠ r.kk || (s.handleAt cl h).nn ≠ r.nn) 257)])

/-- The checks of MLOADB (R201), but for the space it takes. -/
def State.loadbCheck (s : State) (c : Nat) (r : MatReq) : Option (Nat × Nat) :=
  let f := fmtOf (r.g 1)
  let n := lastIx r.nn r.kk r.ldb r.tb
  firstBad [(0, badIf (r.g 0 ≠ 0#64) 256), (1, s.matPtr c (r.g 1) (arrayAlign (r.g 1))), (1, badIf (!(wideFmt f || narrowFmt f)) 258),
    (2, badIf (r.g 2 ≠ 0#64) 256), (3, badIf (r.f 3 42 22 ≠ 0) 256),
    (3, badIf (r.kk = 0 || r.f 3 9 9 > 256 || r.f 3 0 9 ≠ 0 || tileRows f r.kk > 1536) 257),
    (4, badIf (r.f 4 48 16 ≠ 0) 256), (4, badIf (r.lda ≠ 0 || ldBad f r.ldb (if r.tb then r.nn else r.kk)) 257),
    (5, badIf (r.f 5 36 28 ≠ 0) 256), (5, badIf (r.f 5 0 32 ≠ 0 || r.ta || (r.tb && !transOk f)) 259),
    (6, if f = 17 then s.matPtr c (r.g 6) 4 else badIf (r.g 6 ≠ 0#64) 256), (7, badIf (r.g 7 ≠ 0#64) 256),
    (1, s.extN c (r.g 1) (opBytes f n)), (6, if f = 17 then s.extN c (r.g 6) (4 * (n / 256 + 1)) else none)]

/-- The checks of MSTC (R203). A bank that is not held fails at e3, before the comparison with it (DESIGN CHOICE, log 107). -/
def State.mstcCheck (s : State) (c cl : Nat) (r : MatReq) : Option (Nat × Nat) :=
  let f := fmtOf (r.g 2)
  let held := s.heldBank cl r.k
  firstBad [(0, badIf (r.g 0 ≠ 0#64) 256), (1, badIf (r.g 1 ≠ 0#64) 256), (2, s.matPtr c (r.g 2) 1), (2, badIf (!cOk f) 258),
    (3, badIf (r.f 3 42 22 ≠ 0) 256), (3, badIf held.isNone 262),
    (3, badIf (r.kk ≠ 0 || held.any fun b => b.mm ≠ r.mm || b.nn ≠ r.nn || r.f 3 9 9 > 256 || r.f 3 0 9 > 256) 263),
    (4, badIf (r.g 4 ≠ 0#64) 256), (5, badIf (r.f 5 36 28 ≠ 0) 256),
    (5, badIf (r.f 5 24 5 ≠ 0 || r.f 5 29 3 = 5 || r.f 5 29 3 = 6 || r.ta || r.tb) 259), (5, badIf (decide (r.ldc < r.nn)) 257),
    (6, badIf (r.g 6 ≠ 0#64) 256), (7, badIf (r.g 7 ≠ 0#64) 256),
    (2, s.extN c (r.g 2) ((lastIx r.mm r.nn r.ldc false + 1) * cBytes f))]

/-- The checks of MGROUP (R208). -/
def State.mgroupCheck (s : State) (c : Nat) (r : MatReq) : Option (Nat × Nat) :=
  firstBad [(0, badIf (r.g 0 ≠ 0#64) 256), (1, badIf (r.g 1 ≠ 0#64) 256), (2, badIf (r.g 2 ≠ 0#64) 256), (3, badIf (r.g 3 ≠ 0#64) 256),
    (4, badIf (r.g 4 ≠ 0#64) 256), (5, badIf (r.f 5 36 28 ≠ 0) 256),
    (5, badIf (r.f 5 29 3 = 5 || r.f 5 29 3 = 6 || r.acc > 1 || r.keep || r.bst || r.ldc ≠ 0) 259),
    (6, s.matPtr c (r.g 6) 1),
    (6, badIf ((3 ≤ spc (r.g 6) && spc (r.g 6) ≤ 5) || offOf (r.g 6) % 64 ≠ 0) 269),
    (7, badIf (r.g 7 = 0#64 || r.f 7 16 48 ≠ 0) 269),
    (6, s.extN c (r.g 6) (64 * r.f 7 0 16))]

/-! Operands (R193): rows of k-blocks {scale code, element codes} -/

/-- An operand in memory: places of its array and of its auxiliary array, and the k-blocks of it that are read. -/
structure Src where
  base : Nat
  aux : Nat
  f : Nat
  ld : Nat
  tr : Bool
  rows : Nat
  cols : Nat
  kbs : List Nat
  deriving DecidableEq, Repr

/-- All k-blocks of n elements. -/
def allKbs (n : Nat) : List Nat := List.range (ceilDiv n 8)

/-- The index of element k of row i. -/
def Src.ix (o : Src) (i k : Nat) : Nat := if o.tr then k * o.ld + i else i * o.ld + k
/-- Rows and k-blocks. -/
def Src.blocks (o : Src) : List (Nat × Nat) := (List.range o.rows).flatMap fun i => o.kbs.map fun kb => (i, kb)
/-- Elements of k-block kb. -/
def Src.len (o : Src) (kb : Nat) : Nat := Nat.min 8 (o.cols - 8 * kb)
/-- Element numbers of k-block kb. -/
def Src.elems (o : Src) (kb : Nat) : List Nat := (List.range (o.len kb)).map (8 * kb + ·)

/-- What a value format's element codes mean. -/
def elemFmt (f : Nat) : Fmt := if 12 ≤ f ∧ f ≤ 16 then mxFmt f else codeFmt f

/-- Reaches ranges {place, length} for reading and finds poison. -/
def State.need (s : State) (x : Nat) (rs : List (Nat × Nat)) (cause : Nat := 128) : Except Obst State :=
  let ps := (rs.flatMap fun (a, n) => wordsOf a n).eraseDups
  match s.reachAll x ps true false with
  | .error o => .error o
  | .ok s => match ps.find? s.poisonAt with
    | some a => .error (.stop cause a)
    | none => .ok s

/-- The data ranges of an operand without inner lengths. -/
def Src.ranges (o : Src) : List (Nat × Nat) :=
  let w := plainBytes o.f
  if 12 ≤ o.f ∧ o.f ≤ 16 then
    o.blocks.flatMap fun (i, kb) => let q := o.ix i (8 * kb) / 8; [(o.base + mxScale o.f q, 1), (o.base + mxData o.f q, (mxFmt o.f).bits)]
  else if o.f = 18 ∨ o.f = 19 then
    let v := if o.f = 18 then 1 else 2
    o.blocks.map fun (i, kb) => (o.base + 2 * (o.ix i (8 * kb) / 4) * v, 2 * v * ceilDiv (o.len kb) 4)
  else if o.tr then (o.kbs.flatMap o.elems).map fun k => (o.base + k * o.ld * w, o.rows * w)
  else o.blocks.map fun (i, kb) => (o.base + o.ix i (8 * kb) * w, o.len kb * w)

/-- The metadata ranges of SP24 and SP24B. -/
def Src.metas (o : Src) : List (Nat × Nat) :=
  if o.f = 18 ∨ o.f = 19 then (o.blocks.map fun (i, kb) => (o.aux + 8 * (o.ix i (8 * kb) / 64), 8)).eraseDups else []

/-- The code of element n of an SP24 or SP24B array; an absent element is +0. -/
def spCode (f : Nat) (rd md : Nat → Nat → Nat) (n : Nat) : Nat :=
  let g := n / 4
  let nib := spNibble md g
  let w := if f = 18 then 1 else 2
  if n % 4 = nib % 4 then rd (2 * g * w) w else if n % 4 = nib / 4 then rd ((2 * g + 1) * w) w else 0

/-- The code of element j of the BMP8 unit at byte u. -/
def bmpCode (rd : Nat → Nat → Nat) (u j : Nat) : Nat :=
  let m := rd u 8
  if m.testBit j then rd (u + 8 + popNat (m % 2 ^ j)) 1 else 0

/-- Byte offsets of units 0 to n of a BMP8 array: each bitmap must be read first. -/
def State.bmpUnits (s : State) (x base : Nat) : Nat → Nat → Except Obst (List Nat × State)
  | 0, u => .ok ([u], s)
  | n + 1, u =>
    match s.need x [(base + u, 8)] 130 with
    | .error o => .error o
    | .ok s => match s.bmpUnits x base n (u + bmpSize (s.num (base + u) 8)) with
      | .error o => .error o
      | .ok (us, s) => .ok (u :: us, s)

/-- The strips of a KEF8 array that an operand reads, by number: table entry, header, body; malformed is cause 74 (R60). -/
def State.kefStrips (s : State) (x : Nat) (o : Src) : List Nat → Except Obst (List (Nat × List (Nat × List Nat)) × State)
  | [] => .ok ([], s)
  | t :: ts =>
    match s.need x [(o.aux + 4 * t, 4)] with
    | .error e => .error e
    | .ok s =>
      let a := o.base + s.num (o.aux + 4 * t) 4
      if a % 4 ≠ 0 then .error (.stop 76 a)
      else match s.need x [(a, 4)] with
      | .error e => .error e
      | .ok s => match kefLength (s.num a 4) with
        | none => .error (.stop 74 a)
        | some len => match s.need x [(a, len)] with
          | .error e => .error e
          | .ok s => match kefStrip (s.num a 4) ((List.range (len - 4)).map fun i => s.num (a + 4 + i) 1) with
            | none => .error (.stop 74 a)
            | some bs => match s.kefStrips x o ts with
              | .error e => .error e
              | .ok (r, s) => .ok ((t, bs) :: r, s)

/-- An operand's rows of k-blocks. -/
abbrev Rows := List (List (Nat × List Nat))

/-- Rows of k-blocks from a function. -/
def Src.mk_ (o : Src) (f : Nat → Nat → Nat × List Nat) : Rows :=
  (List.range o.rows).map fun i => o.kbs.map fun kb => let (sc, cs) := f i kb; (sc, cs.take (o.len kb))

/-- Reads an operand. -/
def State.loadRows (s : State) (x : Nat) (o : Src) : Except Obst (Rows × State) :=
  if o.f = 17 then
    match s.kefStrips x o ((o.blocks.map fun (i, kb) => o.ix i (8 * kb) / 256).eraseDups) with
    | .error e => .error e
    | .ok (st, s) =>
      let at_ (i kb : Nat) : Option (Nat × List Nat) :=
        let n := o.ix i (8 * kb)
        (st.find? (·.1 == n / 256)).bind fun (_, bs) => bs[n % 256 / 8]?
      if o.blocks.any fun (i, kb) => (at_ i kb).isNone then .error (.stop 74 o.base)
      else .ok (o.mk_ fun i kb => (at_ i kb).getD (0, []), s)
  else if o.f = 20 then
    match s.bmpUnits x o.base (lastIx o.rows o.cols o.ld false / 64 + 1) 0 with
    | .error e => .error e
    | .ok (us, s) =>
      let u (n : Nat) : Nat := us.getD (n / 64) 0
      match s.need x ((o.blocks.map fun (i, kb) => o.ix i (8 * kb) / 64).eraseDups.filterMap fun j =>
          let z := us.getD (j + 1) 0 - us.getD j 0 - 8; if z = 0 then none else some (o.base + us.getD j 0 + 8, z)) with
      | .error e => .error e
      | .ok s =>
        let rd (off n : Nat) : Nat := s.num (o.base + off) n
        .ok (o.mk_ fun i kb => (127, (o.elems kb).map fun k => bmpCode rd (u (o.ix i k)) (o.ix i k % 64)), s)
  else match s.need x o.metas 130 with
  | .error e => .error e
  | .ok s =>
    let rd (off n : Nat) : Nat := s.num (o.base + off) n
    let md (off n : Nat) : Nat := s.num (o.aux + off) n
    match (if o.f = 18 ∨ o.f = 19 then (o.blocks.flatMap fun (i, kb) => (o.elems kb).map (o.ix i)).find? fun n => spBad (spNibble md (n / 4)) else none) with
    | some n => .error (.stop 75 (o.aux + 8 * (n / 64)))
    | none => match s.need x o.ranges with
      | .error e => .error e
      | .ok s =>
        .ok (o.mk_ fun i kb =>
          if 12 ≤ o.f ∧ o.f ≤ 16 then mxBlock o.f rd (o.ix i (8 * kb) / 8)
          else if o.f = 18 ∨ o.f = 19 then (127, (o.elems kb).map fun k => spCode o.f rd md (o.ix i k))
          else (127, (o.elems kb).map fun k => rd (o.ix i k * plainBytes o.f) (plainBytes o.f)), s)

/-! Accumulation (R69, R70, R195) -/

/-- A NaN that does not signal: engines set NV only for a NaN that arises from operands that are not NaN (R197). -/
def FV.quiet : FV → FV | .nan _ => .nan false | v => v

/-- The value of an element without its block's scale (R69). -/
def elemValue (f : Fmt) (sc c : Nat) : FV := if sc = 0 then FV.zero (bitsOf c (f.eb + f.mb) 1 == 1) else (f.value c).quiet

/-- The block holds an infinite or NaN element (R70). -/
def nonFinite (f : Fmt) (b : Nat × List Nat) : Bool := b.1 ≠ 0 && b.1 ≠ 0xFF && b.2.any fun c => !(f.value c).isFin

/-- SkipBlock (R70). -/
def skipBlock (fa fb : Fmt) (strict : Bool) (a b : Nat × List Nat) : Bool :=
  if a.1 = 0xFF ∨ b.1 = 0xFF then false
  else (a.1 = 0 || b.1 = 0) && !(strict && (nonFinite fb b || nonFinite fa a))

/-- The exponent of a scale code; code 0 stands for 1. -/
def scaleExp (sc : Nat) : Int := if sc = 0 then 0 else (sc : Int) - 127

/-- A value times 2^e. -/
def FV.scaled (v : FV) (d : Int) : FV := match v with | .fin n m e => .fin n m (e + d) | w => w

/-- One k-block of AccumulateElement on {accumulator, flags}. -/
def accBlock (fa fb : Fmt) (strict : Bool) (acc : Nat × Nat) (a b : Nat × List Nat) : Nat × Nat :=
  if skipBlock fa fb strict a b then acc
  else if a.1 = 0xFF ∨ b.1 = 0xFF then (fp32.canon, acc.2)
  else
    let (p, f1) := exactSum ((a.2.zip b.2).map fun (x, y) => (elemValue fa a.1 x, elemValue fb b.1 y))
    let (v, f2) := ((fp32.value acc.1).quiet).add (p.scaled (scaleExp a.1 + scaleExp b.1)) false
    let r := fp32.round 0 v
    (r.bits, acc.2 ||| f1 ||| f2 ||| r.flags)

/-- One k-block of the whole tile: a by row, b by column, on accumulators by row; the new accumulators and the OR of the flags. -/
def accTile (fa fb : Fmt) (strict : Bool) (accs : List (List Nat)) (a b : List (Nat × List Nat)) : List (List Nat) × Nat :=
  let cells := (a.zip accs).map fun (ra, row) => (b.zip row).map fun (cb, v) => accBlock fa fb strict (v, 0) ra cb
  (cells.map fun r => r.map (·.1), orAll (cells.flatMap fun r => r.map (·.2)))

/-- The k-block is skipped for every cell of the tile (Table 08-10). -/
def tileSkipped (fa fb : Fmt) (strict : Bool) (a b : List (Nat × List Nat)) : Bool := a.all fun ra => b.all fun cb => skipBlock fa fb strict ra cb

/-! Output (R197) -/

/-- FP32 values of a row converted to C's format: codes and flags. In a last group of fewer than 8 columns the missing ones have d = 0
(DESIGN CHOICE: log 95). -/
def outRow (f rm : Nat) (vs : List Nat) : List Nat × Nat :=
  if f = 0 ∨ f = 8 then (vs, 0)
  else
    let t := codeFmt f
    let xs := vs.map fun v => (fp32.value v).quiet
    let ds := xs.map t.d
    let rs := xs.zipIdx.map fun (v, j) => t.round rm v (hash16 ((ds.drop (j / 8 * 8)).take 8) (j % 8))
    (rs.map (·.bits), orAll (rs.map (·.flags)))

/-- C's rows as places and bytes. -/
def outRows (base f ld : Nat) (rows : List (List Nat)) : List (Nat × List Byte) :=
  rows.zipIdx.map fun (r, i) => (base + i * ld * cBytes f, r.flatMap fun c => leBytes c (cBytes f))

/-- Rows of FP32 values as an operand. -/
def Rows.vals (r : Rows) : List (List Nat) := r.map fun bs => bs.flatMap (·.2)

/-- What an operation has to write and to report. -/
structure MatRes where
  outs : List (Nat × List Byte) := []
  flags : Nat := 0
  skip : Nat := 0
  res16 : Nat := 0
  refr : Bool := false
  keep : Option Bank := none
  cols : Rows := []
  watch : Option (Nat × Nat) := none
  deriving DecidableEq, Repr

/-- The status word (Table 08-1). -/
def matStatus (r : MatRes) (ovt kept : Bool) : W :=
  nat ((if kept then 2 ^ 50 else 0) + (if ovt then 2 ^ 49 else 0) + (if r.refr then 2 ^ 48 else 0) + Nat.min r.res16 65535 * 2 ^ 32
    + Nat.min r.skip (2 ^ 24 - 1) * 256 + r.flags % 32)

/-- k-blocks of A in memory. -/
def State.srcA (s : State) (c : Nat) (r : MatReq) (kbs : List Nat) : Src :=
  ⟨s.opBase c (r.g 0), s.opBase c (r.g 6), fmtOf (r.g 0), r.lda, r.ta, r.mm, r.red, kbs⟩
/-- k-blocks of B in memory, by columns. -/
def State.srcB (s : State) (c : Nat) (r : MatReq) (kbs : List Nat) : Src :=
  ⟨s.opBase c (r.g 1), s.opBase c (r.g 6), fmtOf (r.g 1), r.ldb, r.tb, r.nn, r.kk, kbs⟩
/-- k-blocks of m × n FP32 values at a pointer. -/
def State.srcF (s : State) (c : Nat) (p : W) (m n ld : Nat) (kbs : List Nat) : Src := ⟨s.opBase c p, 0, 8, ld, false, m, n, kbs⟩

/-- The first block of each row. -/
def Rows.heads (r : Rows) : List (Nat × List Nat) := r.map fun l => l.headD (0, [])

/-- K-block kb of a handle's tile by column; a poisoned word of it stops the operation (R324). -/
def State.handleBlock (s : State) (cl h kb : Nat) : Except Obst (List (Nat × List Nat)) :=
  let e := s.handleAt cl h
  match (e.blockWords kb).find? (Tbl.get false (s.clu cl).bpoison) with
  | some w => .error (.stop 128 (bstPlace w))
  | none => .ok (e.cols.map fun c => c.getD kb (0, []))

/-- The staging rows take a block of B (R187, R198). -/
def State.stage (s : State) (cl : Nat) (b : List (Nat × List Nat)) : State :=
  s.modClu cl fun c => { c with staged := b, bpoison := c.bpoison.filter fun (w, _) => !rowWords w 0 1 }

/-- K-block kb of B by column: of the handle, or read from memory into the staging rows. -/
def State.blockB (s : State) (x c cl : Nat) (r : MatReq) (kb : Nat) : Except Obst (List (Nat × List Nat) × State) :=
  match r.handle with
  | some h => (s.handleBlock cl h kb).map fun b => (b, s)
  | none => (s.loadRows x (s.srcB c r [kb])).map fun (rows, s) => let s := s.stage cl (Rows.heads rows); ((s.clu cl).staged, s)

/-- The list of MMAX, checked (R200). An index out of range goes before the order of the list, and TVAL of cause 272 is the list's address
(DESIGN CHOICE, log 107). -/
def State.loadList (s : State) (x c : Nat) (r : MatReq) : Except Obst (List Nat × State) :=
  let a := s.opBase c (r.g 6)
  match s.need x [(a, 4 * r.red)] with
  | .error e => .error e
  | .ok s =>
    let is := (List.range r.red).map fun l => s.num (a + 4 * l) 4
    match is.findIdx? (· ≥ r.kk), ascending is with
    | some l, _ => .error (.stop 291 (a + 4 * l))
    | none, false => .error (.stop 272 a)
    | none, true => .ok (is, s)

/-- The k-block of B that up to eight listed rows make (R200). -/
def State.pickedB (s : State) (x c cl : Nat) (r : MatReq) (is : List Nat) : Except Obst (List (Nat × List Nat) × State) :=
  match r.handle with
  | some h =>
    (((is.map (· / 8)).eraseDups.mapM fun kb => (s.handleBlock cl h kb).map fun b => (kb, b))).map fun bs =>
      ((List.range r.nn).map fun j => (127, is.map fun i => ((((bs.find? (·.1 == i / 8)).map (·.2)).getD []).getD j (0, [])).2.getD (i % 8) 0), s)
  | none =>
    let o := s.srcB c r []
    (s.need x (is.flatMap fun i => if o.tr then [(o.base + i * o.ld, r.nn)] else (List.range r.nn).map fun j => (o.base + o.ix j i, 1))).map fun s =>
      let s := s.stage cl ((List.range r.nn).map fun j => (127, is.map fun i => s.num (o.base + o.ix j i) 1))
      ((s.clu cl).staged, s)

/-- The initial accumulators (R196, R214): +0, C, or the kept bank; a kept bank in which an error was found stops the operation
(R325). -/
def State.firstAcc (s : State) (x c cl : Nat) (r : MatReq) : Except Obst (List (List Nat) × State) :=
  match r.acc with
  | 1 => (s.loadRows x (s.srcF c (r.g 2) r.mm r.nn r.ldc (allKbs r.nn))).map fun (rows, s) => (Rows.vals rows, s)
  | 2 => match (s.clu cl).kept with
    | some b =>
      if b.bad then .error (.stop 134 0)
      else .ok ((List.range r.mm).map fun i => (List.range r.nn).map fun j => (b.vals.getD (i * r.nn + j) 0#32).toNat, s)
    | none => .ok (List.replicate r.mm (List.replicate r.nn 0), s)
  | _ => .ok (List.replicate r.mm (List.replicate r.nn 0), s)

/-- C's part of a result, or the kept bank (R196, R197). -/
def State.outC (s : State) (c : Nat) (r : MatReq) (vals : List (List Nat)) (res : MatRes) : MatRes :=
  if r.keep then { res with keep := some ⟨r.k, r.mm, r.nn, vals.flatten.map (BitVec.ofNat 32), false⟩ }
  else
    let f := fmtOf (r.g 2)
    let os := vals.map (outRow f r.rm)
    { res with outs := res.outs ++ outRows (s.opBase c (r.g 2)) f r.ldc (os.map (·.1)), flags := res.flags ||| orAll (os.map (·.2)) }

/-- What a k-step takes: the operation with what it holds of its lists and initial accumulators, A's row-blocks, B's column-blocks, and
the words that the step writes. -/
structure KStep where
  o : MatOp
  a : List (Nat × List Nat)
  b : List (Nat × List Nat)
  outs : List (Nat × List Byte) := []
  deriving DecidableEq, Repr

/-- The operation's accumulators, with MMAX's list read before its first k-block (R196, R200). -/
def State.kBegin (s : State) (cl : Nat) (o : MatOp) : Except Obst (MatOp × State) :=
  if o.accs.isSome then .ok (o, s)
  else
    let c := coreOf o.req.k
    (if o.req.kind = 2 then s.loadList o.req.view c o.req else .ok ([], s)).bind fun (is, s) =>
      (s.firstAcc o.req.view c cl o.req).map fun (acc, s) => ({ o with accs := some acc, list := is }, s)

/-- The next k-block of MMA, MMAS, MMAX or a tile (R198 to R200). -/
def State.kTake (s : State) (cl : Nat) (o : MatOp) : Except Obst (KStep × State) :=
  let c := coreOf o.req.k
  (s.kBegin cl o).bind fun (o, s) =>
    (if o.req.kind = 2 then s.pickedB o.req.view c cl o.req ((o.list.drop (8 * o.kb)).take 8) else s.blockB o.req.view c cl o.req o.kb).bind fun (b, s) =>
      (s.loadRows o.req.view (s.srcA c o.req [o.kb])).map fun (rows, s) => (⟨o, Rows.heads rows, b, []⟩, s)

/-- The operation after a k-block (R69, R189): accumulators, flags, SKIP and skipped blocks. -/
def KStep.done (q : KStep) (fa fb : Fmt) : MatOp :=
  let (accs, fl) := accTile fa fb q.o.req.zsm (q.o.accs.getD []) q.a q.b
  { q.o with kb := q.o.kb + 1, accs := some accs, flags := q.o.flags ||| fl, skip := q.o.skip + (q.a.filter (·.1 == 0)).length
             skips := q.o.skips + (if tileSkipped fa fb q.o.req.zsm q.a q.b then 1 else 0) }

/-! Queue, priority, banks (R204 to R206) -/

def State.modMat (s : State) (cl id : Nat) (f : MatOp → MatOp) : State :=
  s.modClu cl fun c => { c with matq := c.matq.map fun o => if o.id = id then f o else o }

def State.bump (s : State) (cl i n : Nat) : State :=
  if n = 0 then s else s.modClu cl fun c => { c with mstat := c.mstat.put i ((Tbl.get 0 c.mstat i + n) % 2 ^ 64) }

/-- Effective priority. -/
def MatOp.eff (o : MatOp) : Nat := Nat.min 3 (o.base + o.aged)

/-- The best of a list: highest effective priority, then the oldest. -/
def bestOp (l : List MatOp) : Option MatOp :=
  l.foldl (fun b o => match b with | none => some o | some p => if o.eff > p.eff then some o else some p) none

/-- An operation enters the queue, or waits at the port while 32 entries are occupied. -/
def State.matEnter (s : State) (cl : Nat) (r : MatReq) : State :=
  if (s.clu cl).matq.length ≥ 32 then s.modClu cl fun c => { c with matPort := c.matPort ++ [r] }
  else { s.modClu cl fun c => { c with matq := c.matq ++ [{ id := s.serial, req := r, base := if r.kind = 5 then 0 else r.pri }] } with serial := s.serial + 1 }

/-- Entries that have become free go to the operations at the port. -/
def State.matAdmit (s : State) (cl : Nat) : Nat → State
  | 0 => s
  | f + 1 =>
    match (s.clu cl).matPort with
    | [] => s
    | r :: rs => if (s.clu cl).matq.length ≥ 32 then s else ((s.modClu cl fun c => { c with matPort := rs }).matEnter cl r).matAdmit cl f

/-- The running operation. -/
def State.matRun (s : State) (cl : Nat) : Option MatOp := (s.clu cl).matq.find? (·.st == 1)

/-- Accumulator banks that are kept or in use. -/
def State.banksUsed (s : State) (cl : Nat) : Nat :=
  (if (s.clu cl).kept.isSome then 1 else 0) + ((s.clu cl).matq.filter fun o => o.st ≠ 0 && o.req.ownBank).length

/-- An operation can start when the array is idle (R204); MGROUP walks and never runs on the array. -/
def State.canStart (s : State) (cl : Nat) (o : MatOp) : Bool :=
  o.req.kind ≠ 9 && (o.st = 2 || !o.req.ownBank || s.banksUsed cl < 2)

end Sys2Proof.Machine
end

