-- ==== Sys2Proof/Machine/Matrix.lean ====
section
/-! DEFINITION. The MAT group (R187 to R218): launches, controls, and the events of the matrix engine, of group walks, of the die's
turnstile and of mirror reservations. -/

namespace Sys2Proof.Machine

/-! Launches (R188, R191) -/

/-- A request with the registers of the issuing slot; ORM 7 takes FRM.RM at issue. -/
def State.matReq (s : State) (kind : Nat) : MatReq :=
  let e := (List.range 8).map (s.eget s.cur)
  let e5 := e.getD 5 0#64
  { kind := kind, e := e, k := s.cur, ctx := s.ctxOf s.myCore, vtid := s.tid s.cur
    rm := if fld e5 29 3 = 7 then s.me.rm else fld e5 29 3
    handle := if kind ≤ 4 && e5.getLsbD 27 then s.handleOf (cluOf s.cur) (e.getD 1 0#64) else none }

/-- Sends a request to the cluster's engine; the slot waits for the operation. -/
def State.matSend (s : State) (r : MatReq) : State := (s.send r.ctx s.myCore (engIf (cluOf s.cur)) (.mat r)).park .parkEng .engine

/-- A MAT operation: operands from e0 to e7, checks, launch, and rd on completion. -/
def State.matOp (s : State) (kind : Nat) (d : R6) (check : State → MatReq → Option (Nat × Nat)) (go : State → MatReq → State) : State :=
  s.withOps 4 [] (some d) true (some 3) fun _ s =>
    s.onReply (fun v s => s.finish true 4 d (asW v)) fun s =>
      let r := s.matReq kind
      match check s r with
      | some (c, i) => s.raise c (nat i)
      | none => go s r

/-- A multiply: KEEP = 1 without ACC = 2 reserves the kept bank at launch (R196). -/
def State.mulOp (s : State) (kind : Nat) (d : R6) : State :=
  s.matOp kind d (fun s r => s.mulCheck s.myCore (cluOf s.cur) r) fun s r =>
    let s := if r.keep && !r.mirror && r.acc ≠ 2 then s.modClu (cluOf s.cur) fun c => { c with keepRsv := some s.cur } else s
    s.matSend r

/-- MMA (R198). -/
def execMma (d : R6) (s : State) : Out := .next (s.mulOp 0 d)
/-- MMAS (R199). -/
def execMmas (d : R6) (s : State) : Out := .next (s.mulOp 1 d)
/-- MMAX (R200). -/
def execMmax (d : R6) (s : State) : Out := .next (s.mulOp 2 d)
/-- MDELTA (R214). -/
def execMdelta (d : R6) (s : State) : Out := .next (s.mulOp 3 d)
/-- MREFRESH (R214). -/
def execMrefresh (d : R6) (s : State) : Out := .next (s.mulOp 4 d)

/-- MINV (R216): the record pointer stands in ra. -/
def execMinv (d a : R6) (s : State) : Out :=
  .next (s.withOps 4 [a] (some d) true (some 3) fun vs s =>
    s.onReply (fun v s => s.finish true 4 d (asW v)) fun s =>
      let p := vs.getD 0 0#64
      match s.matPtr s.myCore p 1 with
      | some c => s.raise c p
      | none =>
        if !(spc p = 0 || spc p = 6) ∨ offOf p % 128 ≠ 0 then s.raise 266 p
        else s.matSend { kind := 5, e := List.replicate 6 0#64 ++ [p, 0#64], k := s.cur, ctx := s.ctxOf s.myCore, vtid := s.tid s.cur, rm := 0 })

/-- MLOADB (R201): the entry and the rows are taken at launch. The spec names no e register for cause 261: TVAL is 1, that of the tile
(DESIGN CHOICE, log 107). -/
def execMloadb (d : R6) (s : State) : Out :=
  .next (s.matOp 6 d (fun s r => s.loadbCheck s.myCore r) fun s r =>
    let cl := cluOf s.cur
    let n := tileRows (fmtOf (r.g 1)) r.kk
    match (List.range 64).find? fun i => !(s.handleAt cl i).used, s.freeRows cl n with
    | some i, some a => (s.modHandle cl i fun h => { h with taken := true, row := a, rows := n }).matSend { r with handle := some i }
    | _, _ => s.raise 261 1#64)

/-- MSTC (R203). -/
def execMstc (d : R6) (s : State) : Out := .next (s.matOp 8 d (fun s r => s.mstcCheck s.myCore (cluOf s.cur) r) fun s r => s.matSend r)

/-- MGROUP (R208). -/
def execMgroup (d : R6) (s : State) : Out := .next (s.matOp 9 d (fun s r => s.mgroupCheck s.myCore r) fun s r => s.matSend r)

/-! Controls -/

/-- MFREEB (R202). -/
def execMfreeb (a : R6) (s : State) : Out :=
  .next (s.withOps 4 [a] none true none fun vs s =>
    let cl := cluOf s.cur
    match s.handleOf cl (vs.getD 0 0#64) with
    | none => s.raiseOpen 260
    | some i =>
      ((s.modHandle cl i fun h => { h with live := false, freed := true, gen := nextGen h.gen, row := h.row }).handleDone cl i).retireIrr 4)

/-- MPRI (R205). -/
def execMpri (d a b : R6) (s : State) : Out :=
  .next (s.withOps 4 [a, b] (some d) true none fun vs s =>
    let t := vs.getD 0 0#64
    let p := vs.getD 1 0#64
    let cl := cluOf s.cur
    if fld t 14 50 ≠ 0 ∨ fld p 2 62 ≠ 0 then s.raiseOpen 271
    else
      let n := ((s.clu cl).matq.filter (·.req.vtid == t.toNat)).length
      (s.modClu cl fun c => { c with matq := c.matq.map fun o => if o.req.vtid = t.toNat then { o with base := p.toNat } else o }).finish true 4 d (nat n))

/-- The counter that MSTAT's selector names (Table 08-10). -/
def State.matStat (s : State) (cl sel : Nat) : W :=
  let c := s.clu cl
  match sel with
  | 0 => nat (Nat.min 32 c.matq.length + if c.matq.any (·.st == 2) then 256 else 0)
  | 4 => match (c.kept.map (·.k)).orElse fun _ => c.keepRsv with | some k => nat (2 ^ 63 + s.tid k) | none => 0#64
  | 5 => nat c.mirrors.length
  | 10 => nat (1536 - (c.handles.foldl (fun n (_, h) => if h.used then n + h.rows else n) 0) + (c.handles.filter fun (_, h) => h.live || h.taken).length * 65536)
  | n => nat (Tbl.get 0 c.mstat n)

/-- MSTAT (R218). -/
def execMstat (d a : R6) (s : State) : Out :=
  .next (s.withOps 4 [a] (some d) true none fun vs s =>
    let v := vs.getD 0 0#64
    if v.toNat ≥ 11 then s.raiseOpen 271 else s.pure.finish true 4 d (s.matStat (cluOf s.cur) v.toNat))

/-! Ends of operations -/

/-- A request that is over holds its expert's reference no more (R238). -/
def State.expertDone (s : State) (r : MatReq) : State :=
  match r.expert with
  | some key => (match s.expertOf key.toNat with | some e => s.exSetRefs e key.toNat (· - 1) | none => s)
  | none => s

/-- The operation leaves the queue; its handle, the engine's port and a reference go on. -/
def State.matGone (s : State) (cl : Nat) (o : MatOp) : State :=
  let s := s.modClu cl fun c => { c with matq := c.matq.filter (·.id ≠ o.id) }
  let s : State := { s with walks := s.walks.filter fun w => w.who ≠ Who.mat cl o.id && w.who ≠ Who.mirror cl o.id }
  let s := match o.req.handle with | some h => s.handleDone cl h | none => s
  (s.expertDone o.req).matAdmit cl 33

/-- Wakes the slot of an operation with its status or its fault (R188, R191). -/
def State.matWake (s : State) (k : Nat) (r : Except (Nat × W) W) : State :=
  if (s.slot k).wait = .engine then
    match r with
    | .ok v => s.completeW k v
    | .error (c, t) => s.raiseAt k c t
  else s

/-- A record of cause 270: a stopped tile that its MGROUP does not report (R209, R211). -/
def State.tileRecord (s : State) (cl : Nat) (r : MatReq) (rec : W) (cause : Nat) : State :=
  s.unitRecord (cl / 32) 1 270 rec cause 0 (cl * 128) r.vtid r.ctx

/-- Completes a group walk whose records are all complete or parked (R211). -/
def State.groupCheck (s : State) (cl id : Nat) : State :=
  match (s.clu cl).matq.find? (·.id == id) with
  | none => s
  | some o =>
    if !(o.walkDone && o.open_ == 0) then s
    else
      let s := o.others.foldl (fun s (p, c) => if c = 268 then s else s.tileRecord cl o.req p c) s
      let s := (s.matGone cl o).bump cl 1 1
      match o.bad with
      | some (_, c, t) => s.matWake o.req.k (.error (c, t))
      | none => s.matWake o.req.k (.ok (matStatus { flags := o.flags, skip := o.skip, res16 := o.parked } o.ovt false))

/-- Notes that the record at `rec` stopped: the walk reports the first in record order. -/
def MatOp.stopAt (o : MatOp) (rec : W) (c : Nat) (t : W) : MatOp :=
  match o.bad with
  | none => { o with bad := some (rec, c, t) }
  | some (r, c0, t0) => if rec.toNat < r.toNat then { o with bad := some (rec, c, t), others := o.others ++ [(r, c0)] }
                        else { o with others := o.others ++ [(rec, c)], bad := some (r, c0, t0) }

/-- The end of a tile of a group walk (R209, R211). -/
def State.tileEnd (s : State) (cl : Nat) (r : MatReq) (rec : W) (res : Except (Nat × W) MatRes) : State :=
  let wc := cluOf r.k
  if (s.clu wc).matq.any (·.id == r.walk) then
    let s := s.modMat wc r.walk fun o =>
      let o := { o with open_ := o.open_ - 1 }
      match res with
      | .ok m => { o with flags := o.flags ||| m.flags, skip := o.skip + m.skip }
      | .error (c, t) => o.stopAt rec c t
    s.groupCheck wc r.walk
  else match res with
  | .ok _ => s
  | .error (c, _) => s.tileRecord cl r rec c

/-- The operation of request r has stopped, in the queue or before it (R191, R201): its kept bank is released, the entry that it was to
fill freed. -/
def State.reqFault (s : State) (cl : Nat) (r : MatReq) (c : Nat) (t : W) : State :=
  let s := if r.multiplies && !r.mirror && (r.acc = 2 || r.keep) || r.kind = 8 then s.dropKept r.k else s
  let s := match r.kind, r.handle with
    | 6, some h => s.modHandle cl h fun h => { gen := nextGen h.gen }
    | _, _ => s
  match r.tile with
  | some rec => s.tileEnd cl r rec (.error (c, t))
  | none => s.matWake r.k (.error (c, t))

/-- Operation o has stopped: it leaves the queue. -/
def State.matFault (s : State) (cl : Nat) (o : MatOp) (c : Nat) (t : W) : State := (s.matGone cl o).reqFault cl o.req c t

/-- Operation o has completed with what it computed. -/
def State.matDone (s : State) (cl : Nat) (o : MatOp) (res : MatRes) : State :=
  let r := o.req
  let s := match r.kind, r.handle with
    | 6, some h =>
      let e := s.handleAt cl h
      let s := s.modClu cl fun c => { c with bpoison := c.bpoison.filter fun (w, _) => !rowWords w e.row e.rows }
      s.modHandle cl h fun h => { h with live := true, taken := false, kk := r.kk, nn := r.nn, fmt := fmtOf (r.g 1), watch := res.watch, cols := res.cols }
    | _, _ => s
  let s := if res.keep.isSome then s.modClu cl fun c => { c with kept := res.keep, keepRsv := none }
           else if (r.multiplies && !r.mirror && r.acc = 2) || r.kind = 8 then s.modClu cl fun c => { c with kept := none } else s
  let s := if r.kind ≤ 5 && r.kind ≥ 3 then
      let p := s.opBase (coreOf r.k) (r.g 6)
      s.modClu cl fun c => { c with mirrors := (p :: c.mirrors.filter (· ≠ p)).take 64 }
    else s
  let s := (s.matGone cl o).bump cl 1 1
  match r.tile with
  | some rec => s.tileEnd cl r rec (.ok res)
  | none => s.matWake r.k (.ok (matStatus res o.ovt res.keep.isSome))

/-! Mirror operations (R212 to R217) -/

/-- Word i of a mirror record. -/
def State.mrec (s : State) (p i : Nat) : W := nat (s.num (p + 8 * i) 8)

/-- The generation of watched region w of context x; a free value without a watch table. -/
def State.watchGen (s : State) (x w : Nat) : Nat × State :=
  let t := (s.ctx x).watchtab
  if t.getLsbD 0 then (s.num (hbmAt (fld t 9 43 * 512 + 8 * w)) 4, s) else let (v, s) := s.free; (fld v 0 32, s)

/-- An X̂ or Ŷ pointer: FP32 in GLB, DSR or SPD, with its extent (R212). -/
def State.mirrorPtr (s : State) (c : Nat) (p : W) (n : Nat) : Bool :=
  fmtOf p == 8 && (spc p == 0 || spc p == 6 || spc p == 1) && (s.matPtr c p 1).isNone && (s.extN c p (4 * n)).isNone

/-- The checks of causes 264 to 266 on the record at p (R212, R213). MINV names no tag and no shape, so its record's own shape stands
(R216; log 99). -/
def State.mirrorCheck (s : State) (r : MatReq) (p : Nat) : Option Nat :=
  let c := coreOf r.k
  let w := s.mrec p
  let sh (v : W) : Nat × Nat × Nat := (fld v 18 24, dim (fld v 9 9), dim (fld v 0 9))
  let tau := fp32.value (fld (w 5) 32 32)
  let (kk, nn, mm) := sh (w 8)
  if fld (w 1) 0 24 ≠ r.ctx then some 264
  else if r.kind ≠ 5 ∧ w 0 ≠ r.g 7 then some 265
  else if r.kind ≠ 5 ∧ sh (w 8) ≠ sh (r.g 3) ∨ fld (w 8) 42 22 ≠ 0 ∨ fld (w 8) 9 9 > 256 ∨ fld (w 8) 0 9 > 256 then some 266
  else if fld (w 1) 24 40 ≠ 0 ∨ fld (w 2) 32 8 ≠ 0 ∨ fld (w 3) 0 32 ≠ 0 ∨ fld (w 5) 0 32 ≠ 0 ∨ (List.range 7).any (fun i => w (9 + i) ≠ 0#64) then some 266
  else if tau.isNan ∨ (tau.neg ∧ !tau.isZero) then some 266
  else if !(s.mirrorPtr c (w 6) (mm * kk) && s.mirrorPtr c (w 7) (mm * nn)) then some 266
  else none

/-- The words of the record at p are read: of a foreign one, which is cause 264, none but the tag (R213). -/
def State.recordWords (s : State) (r : MatReq) (p : Nat) : Except Obst State :=
  match s.need r.view [(p + 8, 8)] with
  | .error o => .error o
  | .ok s => if fld (s.mrec p 1) 0 24 ≠ r.ctx then .error (.stop 264 p) else s.need r.view [(p, 128)]

/-- The record at p is reserved: by a mirror operation that asked for it before `seq` or holds it, or by an AMO that came before (R127,
R213). -/
def State.recordTaken (s : State) (p id seq : Nat) : Bool :=
  (s.clusters.any fun (_, d) => d.matq.any fun q =>
    q.id ≠ id && 3 ≤ q.req.kind && q.req.kind ≤ 5 && q.st ≠ 0 && s.opBase (coreOf q.req.k) (q.req.g 6) == p && (q.granted || q.seq < seq))
  || s.resv.any fun r => decide (p ≤ r.place) && decide (r.place < p + 128) && decide (r.id < seq)

/-- MIRROR_RESERVATION_GRANT: the running mirror operation of engine cl takes its record, the first in the order of reservations
(R213, R215, R217); it keeps the record's words as it took them. A poisoned or forbidden word met while it reads its own record stops it
before it has taken the record, which stays as it was (R191 does not say; DESIGN CHOICE, log 106). -/
def execMirrorReservationGrant (cl : Nat) (s : State) : Out :=
  match s.matRun cl with
  | none => .next s
  | some o =>
    let r := o.req
    let c := coreOf r.k
    let p := s.opBase c (r.g 6)
    if !(3 ≤ r.kind && r.kind ≤ 5) || o.granted || s.recordTaken p o.id o.seq || s.walking (.mirror cl o.id) || (s.ctx r.ctx).frz ≥ 2 then
      .next s
    else match s.recordWords r p with
    | .error (.walk va) => .next (s.askWalk (.mirror cl o.id) r.ctx va)
    | .error (.stop e a) => .next (s.matFault cl o e (if e = 264 then r.g 6 else nat (addrOf a)))
    | .ok s =>
      match s.mirrorCheck r p with
      | some e => .next (s.matFault cl o e (r.g 6))
      | none =>
        let ws := (List.range 16).map (s.mrec p)
        let w2 := s.mrec p 2
        let wen := w2.getLsbD 46 && r.kind ≠ 5
        let ix := fld w2 40 6
        let take (s : State) (g : Nat) (region : Option Nat) : Out :=
          .next (s.modMat cl o.id fun o => { o with granted := true, rcd := ws, mirrorGen := g, region := region })
        if !wen then take s 0 none
        else match r.handle with
        | some h => match (s.handleAt cl h).watch with
          | some (i, g) => if i = ix then take s g none else .next (s.matFault cl o 267 (r.g 6))
          | none => .next (s.matFault cl o 267 (r.g 6))
        | none => let (g, s) := s.watchGen r.ctx ix; take s g (some (r.ctx * 64 + ix))

/-- A mirror word with VALID cleared and VERSION advanced. -/
def mirrorStale (w2 : W) : W := setFld (setFld w2 47 1 0) 48 16 (fld w2 48 16 + 1)

/-- One k-block of MirrorStep: the quantised delta of a block and X̂ after it. -/
def deltaBlock (tau : FV) (x xh : List FV) : (Nat × List Nat) × List Nat :=
  let pad (l : List FV) : List FV := l ++ List.replicate (8 - l.length) (FV.zero false)
  let d := (pad x).zip (pad xh) |>.map fun (a, b) => (a.add b.negate false).1
  let q := quantise e4m3 0 tau d
  ((q.scale, q.codes), (xh.zip q.codes).map fun (h, c) => (fp32.round 0 (h.add (blockValue e4m3 q.scale c) false).1).bits)

/-- Word i of the record as the operation took it. -/
def MatOp.w (o : MatOp) (i : Nat) : W := o.rcd.getD i 0#64

/-- The invocation refreshes (R214). -/
def MatOp.refreshes (o : MatOp) : Bool :=
  let inv := fld (o.w 3) 48 16
  let rint := fld (o.w 3) 32 16
  let drift := fld (o.w 4) 32 32
  let dlim := fld (o.w 4) 0 32
  o.req.kind == 4 || !(o.w 2).getLsbD 47 || (rint ≠ 0 && inv ≥ rint) || (dlim ≠ 0 && drift ≥ dlim)
    || ((o.w 2).getLsbD 46 && o.mirrorGen ≠ fld (o.w 2) 0 32)

/-- Ŷ of a record. -/
def State.yhat (s : State) (o : MatOp) : Src := s.srcF (coreOf o.req.k) (o.w 7) o.req.mm o.req.nn o.req.nn (allKbs o.req.nn)

/-- The next k-block of MDELTA or MREFRESH (R214): A's row-blocks are the quantised deltas, and X̂ is written. -/
def State.mirrorTake (s : State) (cl : Nat) (o : MatOp) : Except Obst (KStep × State) :=
  let r := o.req
  let c := coreOf r.k
  let x := r.view
  let fresh := o.refreshes
  let n := Nat.min 8 (r.kk - 8 * o.kb)
  let fx := elemFmt (fmtOf (r.g 0))
  let tau := if fresh then FV.zero false else fp32.value (fld (o.w 5) 32 32)
  let xh := s.srcF c (o.w 6) r.mm r.kk r.kk [o.kb]
  (if o.accs.isSome then .ok (o, s)
   else if fresh then .ok ({ o with accs := some (List.replicate r.mm (List.replicate r.nn 0)) }, s)
   else (s.loadRows x (s.yhat o)).map fun (rows, s) => ({ o with accs := some (Rows.vals rows) }, s)).bind fun (o, s) =>
  (s.blockB x c cl r o.kb).bind fun (b, s) =>
  (s.loadRows x (s.srcA c r [o.kb])).bind fun (xs, s) =>
  (if fresh then .ok (List.replicate r.mm (List.replicate n (FV.zero false)), s)
   else (s.loadRows x xh).map fun (rows, s) => ((Rows.heads rows).map fun h => h.2.map fp32.value, s)).map fun (hs, s) =>
    let ds := ((Rows.heads xs).zip hs).map fun (a, h) => deltaBlock tau (a.2.map fx.value) h
    (⟨o, ds.map fun (q, _) => (q.1, q.2.take n), b, ds.zipIdx.map fun ((_, v), i) => (xh.base + (i * r.kk + 8 * o.kb) * 4, v.flatMap fun u => leBytes u 4)⟩, s)

/-- What MDELTA or MREFRESH leaves once its k-blocks are taken (R214): Ŷ, C and the record. -/
def State.mirrorResult (s : State) (o : MatOp) : MatRes :=
  let r := o.req
  let c := coreOf r.k
  let fresh := o.refreshes
  let vals := o.accs.getD []
  let inv' := Nat.min ((if fresh then 0 else fld (o.w 3) 48 16) + 1) 65535
  let drift' := Nat.min ((if fresh then 0 else fld (o.w 4) 32 32) + r.mm * r.kblocks - o.skip) (2 ^ 32 - 1)
  let ver := (fld (o.w 2) 48 16 + 1) % 65536
  let w2 := setFld (if fresh then setFld (o.w 2) 47 1 1 else o.w 2) 48 16 ver
  let w2 := if (o.w 2).getLsbD 46 then setFld w2 0 32 o.mirrorGen else w2
  let rcd := [w2, setFld (o.w 3) 48 16 inv', setFld (o.w 4) 32 32 drift'].flatMap fun v => leBytes v.toNat 8
  s.outC c { r with e := r.e.set 5 (setFld (r.g 5) 26 1 0) } vals
    { flags := o.flags, skip := o.skip, res16 := ver, refr := fresh
      outs := outRows (s.yhat o).base 8 r.nn vals ++ [(s.opBase c (r.g 6) + 16, rcd)] }

/-- What the running operation leaves at its end. -/
def State.matResult (s : State) (cl : Nat) (o : MatOp) : Except Obst (MatRes × State) :=
  let r := o.req
  let c := coreOf r.k
  match r.kind with
  | 3 => .ok (s.mirrorResult o, s)
  | 4 => .ok (s.mirrorResult o, s)
  | 5 =>
    let w := mirrorStale (o.w 2)
    .ok ({ outs := [(s.opBase c (r.g 6) + 16, leBytes w.toNat 8)], res16 := fld w 48 16 }, s)
  | 6 =>
    let a := s.opBase c (r.g 1)
    (s.loadRows r.view (s.srcB c r (allKbs r.kk))).map fun (b, s) =>
      let h := r.handle.getD 0
      let m : MatRes := { cols := b, res16 := (s.handleAt cl h).gen * 64 + h }
      match (if a ≥ glb0 then (s.trans r.ctx (glbVa a)).bind (·.watch) else none) with
      | some i => let (g, s) := s.watchGen r.ctx i; ({ m with watch := some (i, g) }, s)
      | none => (m, s)
  | 8 => (s.firstAcc r.view c cl { r with e := r.e.set 5 (setFld (r.g 5) 24 2 2) }).map fun (vals, s) => (s.outC c r vals {}, s)
  | _ => .ok (s.outC c r (o.accs.getD []) { flags := o.flags, skip := o.skip }, s)

/-- Reaches the output words of an operation. -/
def State.reachOuts (s : State) (x : Nat) (outs : List (Nat × List Byte)) : Except Obst State :=
  s.reachAll x (outs.flatMap fun (a, d) => wordsOf a d.length) false true

/-- The canonical NaNs that a metadata error or a failed page-in leaves in C (R191, R239). -/
def State.nanC (s : State) (r : MatReq) : List (Nat × List Byte) :=
  let f := fmtOf (r.g 2)
  let n := if f = 0 ∨ f = 8 then fp32.canon else (codeFmt f).canon
  outRows (s.opBase (coreOf r.k) (r.g 2)) f r.ldc (List.replicate r.mm (List.replicate r.nn n))

/-- Outputs by the 64-byte blocks in which they lie: each is one write (R255, R304). -/
def outBlocks (outs : List (Nat × List Byte)) : List (List (Nat × List Byte)) :=
  let cs := (outs.flatMap fun (a, d) => blocksAt false a d).map fun b => (b.place, b.data)
  ((cs.map (·.1 / 64)).eraseDups).map fun b => cs.filter (·.1 / 64 == b)

/-- Writes outputs block by block, each word's data first and its FE bit after; `bad`: with poison set. -/
def State.putOuts (s : State) (outs : List (Nat × List Byte)) (bad : Bool) : State := (outBlocks outs).foldl (fun s b => s.engWrites bad b) s

/-- Some output must wait, or the dirty logs have no room for them together (R217, R254, R301). -/
def State.outsWait (s : State) (outs : List (Nat × List Byte)) : Bool :=
  (outs.any fun (a, d) => s.mustWait none a d.length) || s.logOver (outs.flatMap fun (a, d) => (linesOf a d.length).map fun l => Nat.max a (l * 64))

/-- The TVAL of a run fault at place a (R191): a free value for an error inside the engine, whose address the spec does not give. -/
def State.stopTval (s : State) (c a : Nat) : W × State := if c = 134 ∨ (2 ^ 64 ≤ a ∧ a < glb0) then s.free else (nat (addrOf a), s)

/-- Writes a list of outputs of an operation and goes on; none while a write must wait. -/
def State.outsThen (s : State) (cl : Nat) (o : MatOp) (outs : List (Nat × List Byte)) (bad : Bool) (stop : Nat → Nat → State → Option State)
    (go : State → State) : Option State :=
  match s.reachOuts o.req.view outs with
  | .error (.walk va) => some (s.askWalk (.mat cl o.id) o.req.ctx va true)
  | .error (.stop c a) => stop c a s
  | .ok s => if s.outsWait outs then none else some (go (s.putOuts outs bad))

/-- A run fault at place a (R191): a metadata error leaves poisoned NaNs in C, a mirror operation a stale record; none while a write must
wait. -/
def State.matStop (s : State) (cl : Nat) (o : MatOp) (c a : Nat) : Option State :=
  let (t, s) := s.stopTval c a
  if c = 130 ∧ !o.req.keep then
    s.outsThen cl o (s.nanC o.req) true (fun e b s => some (s.matFault cl o e (nat (addrOf b)))) fun s => s.matFault cl o c t
  else if o.req.mirror then
    s.outsThen cl o [(s.opBase (coreOf o.req.k) (o.req.g 6) + 16, leBytes (mirrorStale (o.w 2)).toNat 8)] false
      (fun _ _ s => some (s.matFault cl o c t)) fun s => s.matFault cl o c t
  else some (s.matFault cl o c t)

/-- An operation whose translation was refused goes on with its stop; none where that is not so (R191, R214). -/
def State.matRefused (s : State) (cl : Nat) (o : MatOp) : Option State :=
  o.rej.map fun (c, va) => (s.matStop cl o c (glbAt o.req.ctx va)).getD s

/-! Events of the engine -/

/-- MATRIX_LAUNCH_ARRIVAL: message n, a MAT operation, enters its engine's queue or waits at its port (R204). -/
def execMatrixLaunchArrival (n : Nat) (s : State) : Out :=
  match s.deliverable n with
  | some m => match m.body with
    | .mat r => .next (match r.bad with
      | some t => ((s.accept n m).expertDone r).reqFault (m.dst - 1024) r 134 t
      | none => (s.accept n m).matEnter (m.dst - 1024) r)
    | _ => .next s
  | none => .next s

/-- The watched region that an MLOADB reads (R217). -/
def State.loadRegion (s : State) (r : MatReq) : Option Nat :=
  let a := s.opBase (coreOf r.k) (r.g 1)
  if r.kind = 6 ∧ a ≥ glb0 then ((s.trans r.ctx (glbVa a)).bind (·.watch)).map (r.ctx * 64 + ·) else none

/-- ARRAY_IDLE_START: the idle array of engine cl starts the best operation that can start, or resumes the overtaken one (R204,
R206). -/
def execArrayIdleStart (cl : Nat) (s : State) : Out :=
  match s.matRun cl, bestOp ((s.clu cl).matq.filter fun o => s.canStart cl o && (s.ctx o.req.ctx).frz < 2) with
  | none, some o =>
    .next { s.modMat cl o.id fun o => { o with st := 1, seq := if o.st = 0 then s.serial else o.seq, region := o.region.orElse fun _ => s.loadRegion o.req } with serial := s.serial + 1 }
  | _, _ => .next s

/-- A tile whose expert's format or layout does not fit stops when it would run (R191, R209). -/
def State.tileFault (s : State) (cl : Nat) (o : MatOp) : Option (Nat × W) :=
  if o.req.expert.isSome then (s.mulCheck (coreOf o.req.k) cl o.req).map fun (c, _) => (c, o.req.tile.getD 0#64) else none

/-- The next k-block of the running operation, which MSTAT counts if the whole tile skips it; none while a write must wait. -/
def State.kStep (s : State) (cl : Nat) (o : MatOp) : Option State :=
  match (if o.req.mirror then s.mirrorTake cl o else s.kTake cl o) with
  | .error (.walk va) => some (s.askWalk (.mat cl o.id) o.req.ctx va)
  | .error (.stop c a) => s.matStop cl o c a
  | .ok (q, s) =>
    let fa := if o.req.mirror then e4m3 else elemFmt (fmtOf (o.req.g 0))
    s.outsThen cl o q.outs false (fun c a s => s.matStop cl o c a) fun s =>
      let o' := q.done fa (elemFmt (s.bFmt cl o.req))
      (s.modMat cl o.id fun _ => o').bump cl 3 (o'.skips - o.skips)

/-- K_STEP_BOUNDARY: at a k-step boundary the best queued operation overtakes the running one (R206), or the next k-block is
taken. -/
def execKStepBoundary (cl : Nat) (s : State) : Out :=
  .next (match s.matRun cl with
  | none => s
  | some o =>
    if o.kb ≥ o.req.kblocks || (o.req.mirror && !o.granted) || s.walking (.mat cl o.id) || (s.ctx o.req.ctx).frz ≥ 2 then s
    else
      let q := (s.clu cl).matq
      match (bestOp (q.filter fun p => p.st == 0 && p.req.kind ≠ 9 && (s.ctx p.req.ctx).frz < 2)).filter fun b =>
          b.eff > o.eff && s.banksUsed cl < 2 && !q.any (·.st == 2) with
      | some b =>
        let s := (s.modMat cl o.id fun o => { o with st := 2, ovt := true }).modMat cl b.id fun b => { b with st := 1, seq := s.serial, region := s.loadRegion b.req }
        { s with serial := s.serial + 1 }.bump cl 2 1
      | none => match s.tileFault cl o with
        | some (c, t) => s.matFault cl o c t
        | none => (s.matRefused cl o).getD ((s.kStep cl o).getD s))

/-- PRIORITY_AGEING: operation j in the queue of engine cl has waited 4,096 more cycles (R204). -/
def execPriorityAgeing (cl j : Nat) (s : State) : Out :=
  match (s.clu cl).matq[j]? with
  | some o => if o.st = 1 ∨ o.req.kind = 9 ∨ o.aged ≥ 3 then .next s else .next (s.modMat cl o.id fun o => { o with aged := o.aged + 1 })
  | none => .next s

/-- MATRIX_OPERATION_COMPLETION: the running operation of engine cl has taken its last k-block; its result is written, and its slot or
its walk is told (R189 to R203, R214). -/
def execMatrixOperationCompletion (cl : Nat) (s : State) : Out :=
  .next (match s.matRun cl with
  | none => s
  | some o =>
    let mirror := 3 ≤ o.req.kind && o.req.kind ≤ 5
    if o.kb < o.req.kblocks || (mirror && !o.granted) || s.walking (.mat cl o.id) || (s.ctx o.req.ctx).frz ≥ 2 then s
    else (s.matRefused cl o).getD ((match s.matResult cl o with
      | .error (.walk va) => some (s.askWalk (.mat cl o.id) o.req.ctx va)
      | .error (.stop c a) => s.matStop cl o c a
      | .ok (res, s) => s.outsThen cl o res.outs false (fun c a s => s.matStop cl o c a) fun s => s.matDone cl o res).getD s))

/-! Group walks (R208 to R211, R308, R309) -/

/-- A group record as an MMA request of the walk's slot (Table 08-7). -/
def groupTile (o : MatReq) (id : Nat) (rec : W) (w : List W) : MatReq :=
  let g (i : Nat) : W := w.getD i 0#64
  let hb := (g 5).getLsbD 25
  let e5 := setFld (setFld (setFld (o.g 5) 0 24 (fld (g 5) 0 24)) 26 1 0) 27 1 (if hb then 1 else 0)
  { o with kind := 0, e := [g 0, g 1, g 2, g 3, g 4, e5, g 7, 0#64], handle := none, tile := some rec, walk := id
           expert := if (g 5).getLsbD 24 then some (g 6) else none }

/-- The tile with its handle, if it names one. -/
def State.tileHandle (s : State) (cl : Nat) (r : MatReq) : MatReq := if r.bst then { r with handle := s.handleOf cl (r.g 1) } else r

/-- The record's own checks, B apart for an expert-gated one. -/
def State.recordBad (s : State) (cl : Nat) (r : MatReq) (w : List W) : Bool :=
  let g (i : Nat) : W := w.getD i 0#64
  let eg := r.expert.isSome
  let stand : W := nat ((if wideFmt (fmtOf (g 0)) then 6 else 10) * 2 ^ 58)
  fld (g 5) 26 38 ≠ 0 || fld (g 6) 36 28 ≠ 0
    || (eg && ((g 5).getLsbD 25 || g 1 ≠ 0#64))
    || (s.mulCheck (coreOf r.k) cl (if eg then { r with e := r.e.set 1 stand } else s.tileHandle cl r)).isSome

/-- B of an expert-gated tile: the handle of a B-store copy in this engine's cluster, which has its own layout (R193), or the resident
copy (R306). -/
def State.expertB (s : State) (cl : Nat) (r : MatReq) (e : Expert) : MatReq :=
  let w3 := s.exW3 e.at_
  let h := s.handleOf cl (nat (fld w3 0 16))
  if w3.getLsbD 63 ∧ fld w3 16 7 = cl ∧ h.isSome then
    { r with e := ((r.e.set 1 (nat (fld w3 0 16))).set 4 (setFld (r.g 4) 24 24 0)).set 5 (setFld (setFld (r.g 5) 27 1 1) 35 1 0), handle := h }
  else { r with e := r.e.set 1 (s.exLoc e.at_) }

/-- Dispatches a tile into the queue of engine cl. -/
def State.dispatchTile (s : State) (cl : Nat) (r : MatReq) : State :=
  (s.matEnter cl r).modMat (cluOf r.k) r.walk fun o => { o with open_ := o.open_ + 1 }

/-- The walk goes on to its next record. -/
def State.walkNext (s : State) (cl : Nat) (o : MatOp) : State :=
  (s.modMat cl o.id fun o => { o with next := o.next + 1, stalled := false, walkDone := o.next + 1 ≥ o.req.f 7 0 16 }).groupCheck cl o.id

/-- The walk stops at a record. -/
def State.walkBad (s : State) (cl : Nat) (o : MatOp) (rec : W) (c : Nat) (t : W) : State :=
  (s.modMat cl o.id fun o => { o.stopAt rec c t with walkDone := true }).groupCheck cl o.id

/-- Records on their way to die d's turnstile. -/
def State.tsFlight (s : State) (d : Nat) (f : Parked → Bool) : Nat :=
  (s.net.filter fun m => match m.body with | .tsPark d' q => d' == d && f q | _ => false).length

def State.ovf (s : State) (x d : Nat) : Ovf := Tbl.get {} (s.ctx x).overflow d
def State.modOvf (s : State) (x d : Nat) (f : Ovf → Ovf) : State := s.modCtx x fun cx => { cx with overflow := Tbl.set {} cx.overflow d (f (s.ovf x d)) }

/-- The turnstile of die d, with the overflow list, has room for one more record of context x (R308); a list that failed counts as full
(R327). -/
def State.tsRoom (s : State) (d x : Nat) : Bool :=
  let t := (s.die d).turnstile
  let ctl := Tbl.get 0#64 (s.ctx x).tsctl d
  let v := s.ovf x d
  let mine := (t.filter (·.ctx == x)).length + s.tsFlight d (·.ctx == x) + v.len
  let other := (t.filter (·.ctx != x)).length + s.tsFlight d (·.ctx != x)
  mine < Nat.min (fld ctl 16 11) (1024 - other) + (if v.bad then v.len else fld ctl 0 16)

/-- GROUP_RECORD_WALK: the oldest walk of engine cl takes its next record (R208, R209, R309). A key that names no expert of the context makes
the record invalid, cause 268, where R238 gives an instruction 320 for it (DESIGN CHOICE, log 109). -/
def execGroupRecordWalk (cl : Nat) (s : State) : Out :=
  match (s.clu cl).matq.find? fun o => o.req.kind == 9 && !o.walkDone with
  | none => .next s
  | some o =>
    let c := coreOf o.req.k
    let x := o.req.ctx
    let rp := o.req.g 6 + nat (64 * o.next)
    let a := s.opBase c rp
    if s.walking (.mat cl o.id) || (s.ctx x).frz ≥ 2 then .next s
    else match s.need o.req.view [(a, 64)] with
    | .error (.walk va) => .next (s.askWalk (.mat cl o.id) x va)
    | .error (.stop e b) => .next (s.walkBad cl o rp e (nat (addrOf b)))
    | .ok s =>
      let w := (List.range 8).map fun i => nat (s.num (a + 8 * i) 8)
      let r := groupTile o.req o.id rp w
      if s.recordBad cl r w then .next (s.walkBad cl o rp 268 rp)
      else match r.expert with
      | none =>
        if (s.clu cl).matq.length ≥ 32 then .next s
        else .next ((s.dispatchTile cl (s.tileHandle cl r)).walkNext cl o)
      | some key =>
        match (s.expertOf key.toNat).filter fun e => ownerOf e.rcd == x with
        | none => .next (s.walkBad cl o rp 268 rp)
        | some e =>
          let s := s.cacheModel e
          if s.exHere e then
            if (s.clu cl).matq.length ≥ 32 then .next s
            else .next (((s.exSetRefs e key.toNat (· + 1)).dispatchTile cl (s.expertB cl r e)).walkNext cl o)
          else
            let d := cl / 32
            if !s.tsRoom d x then
              if o.stalled then .next s
              else .next (((s.exPageIn e key.toNat).modMat cl o.id fun o => { o with stalled := true }).bump cl 8 1)
            else
              let s := (s.exPageIn e key.toNat).exSetTurn e.at_ (· + 1)
              let s := s.send x (portSlice e.sl) (portSlice (32 * d)) (.tsPark d ⟨key, rp, x, o.req.k, cl, o.req.g 5, o.req.rm, o.id, false, false⟩)
              .next (((s.bump cl 9 1).modMat cl o.id fun o => { o with parked := o.parked + 1 }).walkNext cl o)

/-- TILE_MOVE: the idle engine cl takes the oldest unstarted grouped tile of the engine of its die and context that has most of
them (R210). -/
def execTileMove (cl : Nat) (s : State) : Out :=
  match s.owner cl with
  | none => .next s
  | some (x, _) =>
    let waiting (p : Nat) : List MatOp := (s.clu p).matq.filter fun o => o.st == 0 && o.req.tile.isSome
    let ps := (List.range 128).filterMap fun v => (s.place x v).filter fun p => p / 32 == cl / 32 && p ≠ cl && (waiting p).length > 1
    let best := ps.foldl (fun b p => match b with | none => some p | some q => if (waiting p).length > (waiting q).length then some p else some q) none
    if !((s.clu cl).matq.isEmpty && (s.clu cl).matPort.isEmpty) || (s.ctx x).frz ≥ 2 then .next s
    else match best with
    | none => .next s
    | some p => match (waiting p).find? fun o => o.req.handle.isNone with
      | none => .next s
      | some o =>
        let s := s.modClu p fun c => { c with matq := c.matq.filter (·.id ≠ o.id) }
        let s := s.modClu cl fun c => { c with matq := c.matq ++ [o] }
        .next (((s.bump cl 6 1).bump p 7 1).matAdmit p 33)

/-! The turnstile and its overflow lists (R308, R309, R239, R327) -/

/-- The walk's request that a parked record stands for. -/
def State.parkedReq (s : State) (q : Parked) : MatReq :=
  { kind := 9, e := (List.replicate 5 0#64) ++ [q.fl, 0#64, 0#64], k := q.k, ctx := q.ctx, vtid := s.tid q.k, rm := q.rm, walk := q.walk }

/-- The 32 bytes of an overflow entry (R308; log 74): key, record address, {slot [45:32], cluster [22:16], rounding [14:12], e5[35:24]
[11:0], tile [63]}, walk. -/
def Parked.words (q : Parked) : List W :=
  [q.key, q.rcd, nat ((if q.tile then 2 ^ 63 else 0) + q.k % 2 ^ 14 * 2 ^ 32 + q.cl % 128 * 65536 + q.rm % 8 * 4096 + fld q.fl 24 12), nat q.walk]

/-- An entry of context x from its words. -/
def parkedOf (x : Nat) (ws : List W) : Parked :=
  let w (i : Nat) : W := ws.getD i 0#64
  ⟨w 0, w 1, x, fld (w 2) 32 14, fld (w 2) 16 7, setFld 0#64 24 12 (fld (w 2) 0 12), fld (w 2) 12 3, (w 3).toNat, (w 2).getLsbD 63, false⟩

/-- The place of ring position i of context x's overflow list on die d: TSOVF is an address of its GLB view (log 74). -/
def State.ovPlace (s : State) (x d i : Nat) : Nat :=
  glbAt x ((fld (Tbl.get 0#64 (s.ctx x).tsovf d) 5 47 * 32 + 32 * (i % Nat.max 1 (fld (Tbl.get 0#64 (s.ctx x).tsctl d) 0 16))) % 2 ^ 52)

/-- The die agent's number as a requester. -/
def dieAgent (d : Nat) : Who := .agent (1024 + d)

/-- The record of a failure of die d's residency agent (R327). -/
def State.residencyRecord (s : State) (d x cause : Nat) (va : Nat) : State := s.unitRecord d 5 (agentCause cause).1 (nat va) (agentCause cause).2 0 (d * 32 * 128) 0 x

/-- An overflow list fails: it is treated as full from now on (R327). -/
def State.ovFails (s : State) (d x cause va : Nat) : State := (s.residencyRecord d x cause va).modOvf x d fun v => { v with bad := true }

/-- Reads ring position i. -/
def State.ovRead (s : State) (x d i : Nat) : Except Obst (Parked × State) :=
  (s.engReadRun x (s.ovPlace x d i) 32).map fun (b, s) => (parkedOf x ((List.range 4).map fun j => nat (leNat ((b.drop (8 * j)).take 8))), s)

/-- The entries of a list from position i on, oldest first; of a list that failed those that can be read. -/
def State.ovList (s : State) (x d : Nat) : Nat → Nat → Except Obst (List (Nat × Parked) × State)
  | 0, _ => .ok ([], s)
  | n + 1, i =>
    if (s.ovf x d).gone.contains i then s.ovList x d n (i + 1)
    else match s.ovRead x d i with
    | .error (.walk va) => .error (.walk va)
    | .error (.stop c a) => if (s.ovf x d).bad then s.ovList x d n (i + 1) else .error (.stop c a)
    | .ok (q, s) => (s.ovList x d n (i + 1)).map fun (l, s) => ((i, q) :: l, s)

/-- All entries of a list. -/
def State.ovAll (s : State) (x d : Nat) : Except Obst (List (Nat × Parked) × State) := s.ovList x d (s.ovf x d).len (s.ovf x d).head

/-- Position i is released: the head moves past released positions. -/
def Ovf.trim : Nat → Ovf → Ovf
  | 0, v => v
  | f + 1, v => if v.len ≠ 0 ∧ v.gone.contains v.head then Ovf.trim f { v with head := v.head + 1, len := v.len - 1, gone := v.gone.filter (· ≠ v.head) } else v

def Ovf.drop (v : Ovf) (i : Nat) : Ovf := Ovf.trim v.len { v with gone := i :: v.gone }

/-- The turnstile takes a record. -/
def State.tsPut (s : State) (d : Nat) (q : Parked) : State := s.modDie d fun di => { di with turnstile := di.turnstile ++ [q] }

/-- Entries of die d's turnstile that the records of other contexts on their way to it need: those for which their lists have no room. -/
def State.tsOwed (s : State) (d x : Nat) : Nat :=
  let xs := (s.net.filterMap fun m => match m.body with | .tsPark d' q => if d' = d ∧ q.ctx ≠ x then some q.ctx else none | _ => none).eraseDups
  xs.foldl (fun n y => n + (s.tsFlight d (·.ctx == y) - if (s.ovf y d).bad then 0 else fld (Tbl.get 0#64 (s.ctx y).tsctl d) 0 16 - (s.ovf y d).len)) 0

/-- The turnstile of die d has an entry free for context x. -/
def State.tsFree (s : State) (d x : Nat) : Bool :=
  let t := (s.die d).turnstile
  t.length + s.tsOwed d x < 1024 && (t.filter (·.ctx == x)).length < fld (Tbl.get 0#64 (s.ctx x).tsctl d) 16 11

/-- The oldest overflow entry of context x on die d moves into the turnstile while it has room (R308). -/
def State.tsRefill (s : State) (d x : Nat) : State :=
  let v := s.ovf x d
  if v.len = 0 || v.bad || !s.tsFree d x || s.walking (dieAgent d) then s
  else match s.ovRead x d v.head with
  | .error (.walk va) => s.askWalk (dieAgent d) x va
  | .error (.stop c a) => s.ovFails d x c (addrOf a)
  | .ok (q, s) => (s.tsPut d q).modOvf x d fun v => v.drop v.head

/-- TURNSTILE_PARK: message n, a parked record, enters its die's turnstile or the tail of its context's overflow list, behind every record
that the list holds (R308, R309). A record already on its way when the list fails waits for an entry of the turnstile, behind the list's records; where the release that
would free entries stands behind it in the channel, it takes one beyond LIM (log 74). -/
def execTurnstilePark (n : Nat) (s : State) : Out :=
  match s.deliverable n with
  | some m => match m.body with
    | .tsPark d q =>
      let x := q.ctx
      let v := s.ovf x d
      let cap := fld (Tbl.get 0#64 (s.ctx x).tsctl d) 0 16
      if (v.len = 0 && (s.tsFree d x || cap = 0)) || v.bad then
        let behind := (s.net.drop (n + 1)).any fun o => o.src == m.src && match o.body with | .tsRelease d' _ _ => d' == d | _ => false
        if (s.die d).turnstile.length < 1024 && (s.tsFree d x || behind || !v.bad) then .next ((s.accept n m).tsPut d { q with late := v.len ≠ 0 }) else .next s
      else if s.walking (dieAgent d) then .next s
      else if v.len ≥ cap then .next (s.tsRefill d x)
      else
        let a := s.ovPlace x d (v.head + v.len)
        match s.reachAll x (placesFrom a 32) false true with
        | .error (.walk va) => .next (s.askWalk (dieAgent d) x va true)
        | .error (.stop c b) => .next (s.ovFails d x c (addrOf b))
        | .ok s =>
          if s.mustWait none a 32 then .next s
          else .next ((((s.accept n m).unitWrite a (q.words.flatMap fun w => leBytes w.toNat 8)).modOvf x d fun v => { v with len := v.len + 1 }).tsRefill d x)
    | _ => .next s
  | none => .next s

/-- The oldest record of context x parked on die d under a key, with its ring position where it stands in the overflow list: the turnstile's
come first, but for those that came after the records of a failed list. -/
def State.tsFind (s : State) (d x : Nat) (key : W) : Except Obst (Option (Parked × Option Nat) × State) :=
  let inTs (late : Bool) : Option (Parked × Option Nat) := ((s.die d).turnstile.find? fun q => q.ctx == x && q.key == key && q.late == late).map fun q => (q, none)
  match inTs false with
  | some q => .ok (some q, s)
  | none => (s.ovAll x d).map fun (l, s) => (((l.find? fun (_, q) => q.key == key).map fun (i, q) => (q, some i)).orElse fun _ => inTs true, s)

/-- Takes a record out of die d's turnstile or its overflow list: TURN decreases, and the entry that frees is filled. -/
def State.tsTake (s : State) (d : Nat) (q : Parked) (i : Option Nat) : State :=
  let s := match i with
    | none => s.modDie d fun di => { di with turnstile := di.turnstile.erase q }
    | some i => s.modOvf q.ctx d fun v => v.drop i
  let s := s.modDie d fun di => { di with tsSkip := [] }
  let s := match s.expertOf q.key.toNat with | some e => s.exSetTurn e.at_ (· - 1) | none => s
  s.tsRefill d q.ctx

/-- A released record that cannot start ends as a stopped tile (R209, R211). -/
def State.tsStop (s : State) (q : Parked) (c : Nat) (t : W) : State :=
  (s.modMat (cluOf q.k) q.walk fun o => { o with open_ := o.open_ + 1 }).tileEnd (cluOf q.k) (s.parkedReq q) q.rcd (.error (c, t))

/-- The parts of a failed record's C words that can be written, line by line, and the pages that refuse them (R239); a translation to come
holds them all. -/
def State.failOuts (s : State) (d v : Nat) (outs : List (Nat × List Byte)) : Except Obst (List (Nat × List Byte) × List (Nat × Nat) × State) :=
  let skip := (s.die d).tsSkip
  let x := v % 2 ^ 24
  let bs := outs.flatMap fun (a, b) => blocksAt false a b
  let gs := bs.filter fun b => b.place ≥ glb0 && !skip.any (·.1 == glbVa b.place / 4096)
  match gs.find? fun b => (s.trans x (glbVa b.place)).isNone with
  | some b => .error (.walk (glbVa b.place))
  | none =>
    let deny (b : Block) : Option Nat := (s.trans x (glbVa b.place)).bind fun t => t.denyIn v false true
    let good (b : Block) : Bool := b.place < glb0 || (!skip.any (·.1 == glbVa b.place / 4096) && (deny b).isNone)
    let ok := bs.filter good
    (s.reachAll v ((ok.filter (·.place ≥ glb0)).map (·.place)) false true).map fun s =>
      (ok.map fun b => (b.place, b.data), (gs.filterMap fun b => (deny b).map fun c => (c, glbVa b.place / 4096 * 4096)).eraseDups, s)

/-- The cause by which the release in progress could not reach address va. -/
def State.tsSkipped (s : State) (d va : Nat) : Option Nat := ((s.die d).tsSkip.find? (·.1 == va / 4096)).map (·.2)

/-- A released record that cannot start gives back the reference that the end of the page-in gave it (R309), and ends as a stopped tile. -/
def State.tsLost (s : State) (d : Nat) (q : Parked) (i : Option Nat) (c : Nat) (t : W) : State :=
  let s := s.tsTake d q i
  let s := match s.expertOf q.key.toNat with | some e => s.exSetRefs e q.key.toNat (· - 1) | none => s
  s.tsStop q c t

/-- A released record with its 64 bytes read (R308): it is dispatched (R209), or as failed has its C words poisoned (R239). -/
def State.tsGo (s : State) (d : Nat) (q : Parked) (i : Option Nat) (fail : Bool) (w : List W) : State :=
  let r := groupTile (s.parkedReq q) q.walk q.rcd w
  if fail then
    match s.failOuts d (viewOf q.k q.ctx) (s.nanC r) with
    | .error (.walk va) => s.askWalk (dieAgent d) q.ctx va true
    | .error (.stop _ _) => s
    | .ok (outs, bad, s) =>
      if s.outsWait outs then s
      else (bad.foldl (fun s (c, va) => s.residencyRecord d q.ctx c va) (s.putOuts outs true)).tsTake d q i
  else if s.recordBad q.cl r w then s.tsLost d q i 268 q.rcd
  else match s.expertOf q.key.toNat with
  | some e => (s.tsTake d q i).dispatchTile q.cl (s.expertB q.cl r e)
  | none => s.tsLost d q i 268 q.rcd

/-- TURNSTILE_RELEASE: message n releases, one by one, the records parked under its key on its die; after the last one the message
is done (R209, R239, R309). A record that can no longer be read ends with its cause. -/
def execTurnstileRelease (n : Nat) (s : State) : Out :=
  .next (match s.deliverable n with
  | some m => match m.body with
    | .tsRelease d key fail =>
      if s.walking (dieAgent d) then s
      else match s.tsFind d m.ctx key with
      | .error (.walk va) => s.askWalk (dieAgent d) m.ctx va
      | .error (.stop c a) => s.ovFails d m.ctx c (addrOf a)
      | .ok (none, s) => s.accept n m
      | .ok (some (q, i), s) =>
        let a := s.opBase (coreOf q.k) q.rcd
        let lost (c va : Nat) (s : State) : State :=
          if fail then (s.residencyRecord d q.ctx c va).tsTake d q i else s.tsLost d q i c (nat va)
        match s.need (viewOf q.k q.ctx) [(a, 64)] with
        | .error (.walk va) => match s.tsSkipped d va with | some c => lost c va s | none => s.askWalk (dieAgent d) q.ctx va
        | .error (.stop c b) => lost c (addrOf b) s
        | .ok s => s.tsGo d q i fail ((List.range 8).map fun j => nat (s.num (a + 8 * j) 8))
    | _ => s
  | none => s)

/-- An access of die d's residency agent has no translation: its overflow list fails, or the release in progress goes on without that page
(R239, R327). -/
def State.dieAgentFails (s : State) (d x va cause : Nat) : State :=
  let v := s.ovf x d
  let ring := (List.range (v.len + 1)).any fun i => (linesOf (s.ovPlace x d (v.head + i)) 32).any fun l => l == lineOf (glbAt x va)
  if ring then s.ovFails d x cause va
  else (s.residencyRecord d x cause va).modDie d fun di => { di with tsSkip := (va / 4096, cause) :: di.tsSkip }

end Sys2Proof.Machine
end

