-- ==== Sys2Proof/Machine/Xfer.lean ====
section
/-! DEFINITION. The XFER group (R220 to R237): launches, byte barriers, SENDM, and the events of the copy and indirect engines,
of streams and of mailboxes. -/

namespace Sys2Proof.Machine

/-! Cross-package messages (R347 to R349) -/

/-- The port that XROUTE assigns to a package; 16 while none is assigned. -/
def State.portTo (s : State) (pkg : Nat) : Nat :=
  let w := Tbl.get 0#64 s.links.xrport pkg
  if w.getLsbD 63 then fld w 0 4 else 16

/-- Hands a message to the port of a package. -/
def State.toPackage (s : State) (pkg : Nat) (m : XMsg) : State :=
  { s with links := { s.links with xout := s.links.xout ++ [(pkg, s.portTo pkg, m)] } }

/-! Launches -/

/-- The descriptor that the issuing slot launches: e0 to e7 as they stand, and the core's next ticket (R220, R221). -/
def State.engReq (s : State) (kind : Nat) : EngReq :=
  { kind := kind, e := (List.range 8).map (s.eget s.cur), k := s.cur, ticket := (s.core s.myCore).ticket
    ctx := s.ctxOf s.myCore, vtid := s.tid s.cur }

/-- The interface that serves a request (R222): a COPY that names GLB or crosses packages goes to the die's edge engines. -/
def State.engTarget (s : State) (r : EngReq) : Nat :=
  if r.kind = 0 ∧ (r.xp ∨ spc (r.g 0) = 0 ∨ spc (r.g 1) = 0) then edgeIf (dieOf s.cur) else engIf (cluOf s.cur)

/-- The ticket after t (R221). -/
def nextTicket (t : Nat) : Nat := if t ≥ 65535 then 1 else t + 1

/-- A launch (R220, R221): the checks, the ticket, the request. -/
def State.launch (s : State) (kind : Nat) (d : R6) : State :=
  s.withOps 4 [] (some d) true (some 3) fun _ s =>
    let r := s.engReq kind
    match s.engCheck s.myCore r with
    | some (c, i) => s.raise c (nat i)
    | none =>
      if (s.core s.myCore).live.contains r.ticket then s.parkRe .parkEng (.ticket r.ticket)
      else s.viaNiq fun s =>
        let s := s.send r.ctx s.myCore (s.engTarget r) (.engine r)
        (s.modCore s.myCore fun c => { c with ticket := nextTicket r.ticket, live := c.live ++ [r.ticket] }).finish true 4 d (nat r.ticket)

/-- COPY (R226 to R228). -/
def execCopy (d : R6) (s : State) : Out := .next (s.launch 0 d)
/-- GATHER (R232, R233). -/
def execGather (d : R6) (s : State) : Out := .next (s.launch 1 d)
/-- SCATTER (R232, R233). -/
def execScatter (d : R6) (s : State) : Out := .next (s.launch 2 d)
/-- ISECT (R234). -/
def execIsect (d : R6) (s : State) : Out := .next (s.launch 3 d)
/-- RSORT (R235). -/
def execRsort (d : R6) (s : State) : Out := .next (s.launch 4 d)

/-! Byte barriers (R230) -/

/-- A byte-barrier instruction on pointer p: SPC SPD or SPX, the checks of R114, then the operand's own limit, then the step at the
word's bank. -/
def State.barrierOp (s : State) (p b : W) (ok : Bool) (op : HomeOp) (done : V512 → State → State) : State :=
  if spc p ≠ 1 ∧ spc p ≠ 2 then s.raise 290 p
  else match s.access s.myCore p 8 8 with
  | .error c => s.raise c p
  | .ok t => if ok then s.atHome t op p done else s.raise 295 b

/-- BBINIT (R230). -/
def execBbinit (a b : R6) (s : State) : Out :=
  .next (s.withOps 4 [a, b] none true (some 3) fun vs s =>
    let v := vs.getD 1 0#64
    s.barrierOp (vs.getD 0 0#64) v (decide (1 ≤ v.toNat ∧ v.toNat < 2 ^ 31)) (.bbinit v) fun _ s => s.retireIrr 4)

/-- BBEXPECT (R230). -/
def execBbexpect (a b : R6) (s : State) : Out :=
  .next (s.withOps 4 [a, b] none true (some 3) fun vs s =>
    let v := vs.getD 1 0#64
    s.barrierOp (vs.getD 0 0#64) v (decide (v.toNat < 2 ^ 32)) (.bbexpect v) fun _ s => s.retireIrr 4)

/-- BBWAIT (R230). -/
def execBbwait (d a b : R6) (s : State) : Out :=
  .next (s.withOps 4 [a, b] (some d) true (some 3) fun vs s =>
    let v := vs.getD 1 0#64
    s.barrierOp (vs.getD 0 0#64) v (decide (v.toNat < 2)) (.bbwait (v.getLsbD 0)) fun r s => s.finish true 4 d (asW r))

/-! SENDM (R236) -/

/-- The target word's own fields are invalid: a reserved bit, a slot number without S, a package number without XP. -/
def sendmBad (t : W) : Bool :=
  t.getLsbD 62 || fld t 15 35 ≠ 0 || (!t.getLsbD 14 && fld t 0 4 ≠ 0) || (!t.getLsbD 63 && fld t 50 12 ≠ 0)

/-- The message for a target word. -/
def mailOf (t d : W) : Mail := { dest := if t.getLsbD 14 then some (fld t 0 4) else none, data := d }

/-- SENDM (R236): every check at issue. -/
def execSendm (a b : R6) (s : State) : Out :=
  .next (s.withOps 4 [a, b] none true (some 3) fun vs s =>
    let t := vs.getD 0 0#64
    let d := vs.getD 1 0#64
    let x := s.ctxOf s.myCore
    if sendmBad t then s.raise 297 t
    else if t.getLsbD 63 then
      match s.granted x (fld t 50 12) with
      | none => s.raise 298 t
      | some g => s.viaNiq fun s => (s.toPackage (fld t 50 12) (.sendm (fld g 0 24) t d)).retireIrr 4
    else match s.coreAt x (fld t 4 10) with
    | none => s.raise 297 t
    | some c => s.viaNiq fun s => (s.send x s.myCore c (.mail s.cur (mailOf t d) x)).retireIrr 4)

/-- MAILBOX_MESSAGE_ARRIVAL: message n reaches its mailbox, which holds 64 or refuses it with hint h (R224, R237); an engine's message
ends its operation. -/
def execMailboxMessageArrival (n h : Nat) (s : State) : Out :=
  match s.deliverable n with
  | some m => match m.body with
    | .mail _ d _ =>
      let c := m.dst
      if (s.core c).mail.length ≥ 64 then s.refuseMsg n h
      else
        let s := (s.accept n m).mailAccept c d
        if m.src < 1024 then .next (s.freed m.src)
        else
          let t := fld d.data 48 16
          let es := if m.src < 1152 then [m.src - 1024, 128 + (m.src - 1024)] else [256 + 16 * (m.src - 1152) + t % 16]
          match es.findSome? fun e => ((s.engOps e).find? fun o => o.sent && o.req.ticket == t && coreOf o.req.k == c).map fun o => (e, o) with
          | some (e, o) => .next (s.engGone e o)
          | none => .next s
    | _ => .next s
  | none => .next s

/-! Engines -/

/-- ENGINE_REQUEST_ARRIVAL: message n, a launch, reaches its engine, which holds 16 copies or 8 indirect operations, or refuses it
with hint h (R222). -/
def execEngineRequestArrival (n h : Nat) (s : State) : Out :=
  match s.deliverable n with
  | some m => match m.body with
    | .engine r =>
      let e := r.engine m.dst
      let ops := s.engOps e
      if ops.length ≥ (if r.kind = 0 then 16 else 8) then s.refuseMsg n h
      else
        let s := s.accept n m
        let o : EngOp := { id := s.serial, req := r }
        let s : State := { s with serial := s.serial + 1 }
        .next ((s.setEngOps e (ops ++ [o])).freed m.src)
    | _ => .next s
  | none => .next s

/-- What an engine does about an obstacle: a translation to come holds it, a fault stops it (R223). -/
def State.engObst (s : State) (e id x : Nat) (wr : Bool) : Obst → State
  | .walk va => s.askWalk (.eng e id) x va wr
  | .stop c _ => s.engStop e id c

/-- The operation may go on: its context runs, or is being frozen and the row or record in progress is not finished, for COPY up to the next
64 KiB boundary of the destination (Table 13-4; log 11). -/
def State.engMayRun (s : State) (o : EngOp) : Bool :=
  let f := (s.ctx o.req.ctx).frz
  let at_ : Option Int := o.rowDst (s.opBase (coreOf o.req.k) (o.req.g 1)) o.plane o.row
  f < 2 || (f == 2 && o.byte != 0 && (o.req.kind == 1 || o.req.kind == 2 || (o.req.kind == 0 && at_.any fun (a : Int) => (a + o.byte) % 65536 != 0)))

/-- The next block of a COPY, GATHER or SCATTER, written whole with the bytes of every row that lies in it; from another package the parts of
all rows are asked for, to another it goes as one message (R224, R225, R227, R228, R233); none while its write must wait. Where an earlier row has brought the block, the operation goes on. -/
def State.moveBlock (s : State) (e : Nat) (o : EngOp) : Option State :=
  let r := o.req
  let c := coreOf r.k
  let x := r.ctx
  let v := r.view
  let pos := (o.plane, o.row, o.byte)
  let src := s.opBase c (r.g 0)
  let dst := s.opBase c (r.g 1)
  let go (q : Pos) (s : State) (rem : List Remote) : State := s.modEng e o.id fun o =>
    { o with plane := q.1, row := q.2.1, byte := q.2.2, done := decide (q.1 ≥ r.planeCount), remote := o.remote ++ rem }
  match o.rowDst dst o.plane o.row with
  | none => some ((go (r.nextRow pos) s []).engLast e o.id)
  | some a =>
    let blk := (a + o.byte).toNat / 64
    let end_ := (64 * blk + 64 - a).toNat
    let q := if end_ < r.rb then (o.plane, o.row, end_) else r.nextRow pos
    let pkg := r.f 4 50 12
    let g := fld ((s.granted x pkg).getD 0#64) 0 24
    let ps := o.blockParts src dst blk
    let l := ps.flatMap (·.2)
    if ps.head?.any fun p => p.1 ≠ pos then some ((go q s []).engLast e o.id)
    else if r.kind = 0 && r.xp && !r.xd then
      match s.reachAll v (l.map (·.dst)) false true with
      | .error ob => some (s.engObst e o.id x true ob)
      | .ok s =>
        let parts := (ps.map (·.2)).filter (!·.isEmpty)
        let first (m : List Move) (f : Move → Nat) : Nat := (m.head?.map f).getD 0
        let s := parts.foldl (fun s m => s.toPackage pkg (.get pkg e o.id g (glbVa (first m fun b => b.src.getD 0)) m.length)) s
        some (go q s (parts.map fun m => { place := first m (·.dst), n := m.length }))
    else match s.engRead v (l.filterMap (·.src)) with
      | .error ob => some (s.engObst e o.id x false ob)
      | .ok (_, s) =>
        let bs : Tbl Byte := l.foldl (fun t m => t.put m.dst (match m.src with | some b => s.byteAt b | none => m.fill)) []
        let rs := runsOf bs
        if r.kind = 0 && r.xp then
          some (go q (s.toPackage pkg (.put pkg e o.id g (rs.map fun (b, d) => (glbVa b, d)))) [{ place := 64 * blk, n := bs.length }])
        else match s.reachAll v (l.map (·.dst)) false true with
        | .error ob => some (s.engObst e o.id x true ob)
        | .ok s =>
          if s.mustWait none (64 * blk) 1 then none
          else some (((go q (s.engWrites false rs) []).sendCredit e o.id l.length).engEnd e o.id)

/-- The end of a plan: the next pass of RSORT starts from the keys of this one (R235), or the operation is done. -/
def EngOp.planEnd (o : EngOp) : EngOp :=
  if o.req.kind = 4 ∧ !o.lastPass then { o with plane := o.plane + 1, got := o.passKeys, plan := none } else { o with done := true }

/-- The next planned block of ISECT or of a pass of RSORT; none while its write must wait. A plan that FREEZE made start again credits
only what it has not credited yet. -/
def State.planBlock (s : State) (e : Nat) (o : EngOp) : List Block → Option State
  | [] => some ((s.modEng e o.id EngOp.planEnd).engEnd e o.id)
  | b :: bs =>
    let n := b.data.length
    match s.reachAll o.req.view (placesFrom b.place n) false true with
    | .error ob => some (s.engObst e o.id o.req.ctx true ob)
    | .ok s =>
      if s.mustWait none b.place n then none
      else
        let w := o.wrote + if b.credit then n else 0
        let s := (s.engWrite b.place b.data).modEng e o.id fun o =>
          let o := { o with plan := some bs, wrote := w }
          if bs.isEmpty then o.planEnd else o
        some ((s.sendCredit e o.id (w - o.credited)).engEnd e o.id)

/-- The lists of an operation of the indirect engine: their next words, and, once they are read, their check and the plan (R233 to
R235). -/
def State.listStep (s : State) (e : Nat) (o : EngOp) : State :=
  if o.got.length < o.req.listLen then
    match s.listRead o with
    | .error ob => s.engObst e o.id o.req.ctx false ob
    | .ok (ws, s) => s.modEng e o.id fun o => { o with got := o.got ++ ws }
  else match o.listFault with
  | some c => s.engStop e o.id c
  | none => s.modEng e o.id fun o => { o with plan := some (s.enginePlan o) }

/-- ENGINE_BLOCK_WRITE: operation j of engine e reads its lists or writes its next destination block (R222 to R225, R227, R233 to
R235). -/
def execEngineBlockWrite (e j : Nat) (s : State) : Out :=
  .next (match (s.engOps e)[j]? with
  | none => s
  | some o =>
    if o.done || s.walking (.eng e o.id) || !s.engMayRun o then s
    else if o.req.kind = 0 then (s.moveBlock e o).getD s
    else match o.plan with
    | none => s.listStep e o
    | some bs => ((if o.req.kind ≤ 2 then s.moveBlock e o else s.planBlock e o bs)).getD s)

/-- CREDIT: message n, a credit, is performed at its barrier's bank (R229). -/
def execCredit (n : Nat) (s : State) : Out :=
  match s.deliverable n with
  | some m => match m.body with
    | .credit e id a k _ =>
      let s := (s.accept n m).modEng e id fun o => { o with credits := o.credits - 1 }
      if s.poisonAt a then .next ((s.engStop e id 128 true).engEnd e id)
      else
        let (ws, bad) := creditWords (s.num a 8) k
        let s := ws.foldl (fun s w => s.write none true a (leBytes w 8)) s
        .next ((if bad then s.engStop e id 296 true else s).engEnd e id)
    | _ => .next s
  | none => .next s

/-! Streams (R160, R161) -/

/-- A stream is over: its ends are given back, and a QREF that waits is reissued. -/
def State.streamEnd (s : State) (cl j : Nat) (st : Stream) : State :=
  let s := (s.holdEnd st.c st.qs false).holdEnd st.c st.qd false
  let s := s.modClu cl fun c => { c with streams := c.streams.del j }
  let s : State := { s with walks := s.walks.filter fun w => w.who ≠ Who.stream cl j }
  s.wakeAll fun k sl => cluOf k == cl && sl.wait == .stream

/-- Changes stream j of cluster cl. -/
def State.modStream (s : State) (cl j : Nat) (f : Stream → Stream) : State :=
  s.modClu cl fun c => match c.streams.find j with | some st => { c with streams := c.streams.put j (f st) } | none => c

/-- The value that a stream gives for index i, and whether it is the last (R161); an obstacle while the element cannot be
reached. -/
def State.streamItem (s : State) (st : Stream) (i : Nat) : Except Nat ((Item × Bool) × State) :=
  let tok (c : Nat) : Item × Bool := (⟨nat (0xE000000000000000 + c), true⟩, true)
  let n := plainBytes (fmtOf st.base)
  if i < st.bound then
    let off := offOf st.base + i * n
    if off + n > 2 ^ 52 then .ok (tok 80, s)
    else
      let a := glbAt st.x off
      match s.engReadRun (viewOf (16 * st.c) st.x) a n with
      | .error (.walk va) => .error va
      | .error (.stop c _) => .ok (tok c, s)
      | .ok (bs, s) => .ok ((⟨nat (leNat bs), false⟩, false), s)
  else if st.sm && i = st.sentinel.toNat then .ok ((⟨st.fill, false⟩, false), s)
  else .ok (tok 291, s)

/-- STREAM_ITEM: stream j of cluster cl takes its next step: the pop of an index, the read of its element, or the push of its
value (R160, R161); once QUNBIND has taken an end, it stops after its current item (R156). Its pops and pushes keep their place among
the requests of a cycle (R281). -/
def execStreamItem (cl j : Nat) (s : State) : Out :=
  match (s.clu cl).streams.find j with
  | none => .next s
  | some st =>
    let f := (s.ctx st.x).frz
    let me := 16384 + cl * 4 + j
    if s.walking (.stream cl j) || f > 2 || (f == 2 && st.idx.isNone && st.out.isNone) then .next s
    else match s.findQueue st.x st.hs, s.findQueue st.x st.hd with
    | some qs, some qd =>
      if (s.queue qd).prod.any (·.1 == me) || (s.queue qd).inbox.any (·.1 == me) then .next s
      else if st.fin then .next (s.streamEnd cl j st)
      else match st.out, st.idx with
      | some (i, last), _ =>
        let last := last || st.stop
        if !s.inOrder (s.qcore qd) st.vtid then .next s
        else match (s.stamp (s.qcore qd) st.vtid).qPush qd me i with
        | (.done, s) => .next (if last then s.streamEnd cl j st else s.modStream cl j fun st => { st with out := none })
        | (.fault _, s) => .next (s.streamEnd cl j st)
        | (_, s) => .next (s.modStream cl j fun st => { st with out := none, fin := last })
      | none, some i =>
        match s.streamItem st i with
        | .error va => .next (s.askWalk (.stream cl j) st.x va)
        | .ok (o, s) => .next (s.modStream cl j fun st => { st with idx := none, out := some o })
      | none, none =>
        let r := s.queue qs
        if st.stop then .next (s.streamEnd cl j st)
        else if (r.avail = 0 ∧ !(r.closed && r.isEmpty)) || !s.inOrder (s.qcore qs) st.vtid then .next s
        else match (s.stamp (s.qcore qs) st.vtid).qPop qs me st.qs false with
          | (.item v, s) =>
            let i := Item.dec v
            .next (s.modStream cl j fun st => if i.tok then { st with out := some (i, i == endToken) } else { st with idx := some i.w.toNat })
          | (_, s) => .next s
    | _, _ => .next (s.streamEnd cl j st)

end Sys2Proof.Machine
end

