-- ==== Sys2Proof/Machine/Translation.lean ====
section
/-! DEFINITION. Translation (R287 to R302): walks, misses and their resolution by firmware or by the host, activation of a pair,
TINV, and the dirty logs. -/

namespace Sys2Proof.Machine

/-! Page-table entries (R288, R290) -/

/-- A page-table entry: its words 0 and 1. -/
structure PtEnt where
  w0 : W
  w1 : W
  deriving DecidableEq, Repr

def PtEnt.v (e : PtEnt) : Bool := e.w0.getLsbD 0
def PtEnt.leaf (e : PtEnt) : Bool := e.w0.getLsbD 7
def PtEnt.size (e : PtEnt) : Nat := fld e.w0 8 2
def PtEnt.kind (e : PtEnt) : Nat := fld e.w0 10 2
/-- The physical address that PPN names. -/
def PtEnt.pa (e : PtEnt) : Nat := fld e.w0 12 40 * 4096

/-- Bytes of a page of size code c (R287). -/
def codeBytes (c : Nat) : Nat := 2 ^ (12 + 2 * c)

/-- The first byte past the range of a KIND. -/
def kindLimit (kind : Nat) : Nat := match kind with | 0 => 2 ^ 40 | 1 => 2 ^ 44 | _ => 2 ^ 52

/-- A malformed entry at level l (R290), for a context with a watch table or without. -/
def PtEnt.malformed (e : PtEnt) (l : Nat) (watch : Bool) : Bool :=
  let c := 4 * l + e.size
  e.kind == 3 || fld e.w0 52 12 ≠ 0 || e.w0.getLsbD 1 || fld e.w1 16 48 ≠ 0 || fld e.w1 0 6 ≠ 0
    || if e.leaf then
        l ≥ 3 || decide (e.pa % codeBytes c ≠ 0) || decide (e.pa + codeBytes c > kindLimit e.kind) || (e.w0.getLsbD 6 && e.w0.getLsbD 3)
          || (e.w1.getLsbD 12 && !watch)
      else l == 0 || fld e.w0 8 4 ≠ 0 || fld e.w0 2 5 ≠ 0 || e.w1 ≠ 0#64

/-- What a walk finds: nothing, a fault, or a leaf with the place of its first entry. -/
inductive Found where
  | miss
  | fault (c : Nat)
  | leaf (e : PtEnt) (l first : Nat)
  deriving DecidableEq, Repr

/-- The walk of R291 from a node at level l downwards. -/
def State.walkFrom (s : State) (x va node : Nat) : Nat → Found
  | 0 => .miss
  | f + 1 =>
    let a := node + 16 * bitsOf va (12 + 8 * f) 8
    if node ≥ 2 ^ 40 then .fault 126
    else if s.poisonAt a || s.poisonAt (a + 8) then .fault 103
    else
      let e : PtEnt := ⟨nat (s.num a 8), nat (s.num (a + 8) 8)⟩
      if !e.v then .miss
      else if e.malformed f ((s.ctx x).watchtab.getLsbD 0) then .fault 99
      else if e.leaf then
        let first := node + 16 * (bitsOf va (12 + 8 * f) 8 / 4 ^ e.size * 4 ^ e.size)
        if s.poisonAt (first + 8) then .fault 103 else .leaf e f first
      else s.walkFrom x va e.pa f

/-- The whole walk (R291). -/
def State.walkTable (s : State) (x va : Nat) : Found :=
  let r := (s.ctx x).ptroot
  if r.getLsbD 0 then s.walkFrom x va (fld r 12 40 * 4096) 5 else .miss

/-- An indivisible OR of one bit into word 1 of the entry at a. -/
def State.orEntry (s : State) (a bit : Nat) : State :=
  let w := s.num (a + 8) 8
  if w.testBit bit then s else s.write none false (a + 8) (leBytes (w + 2 ^ bit) 8)

/-- The translation that a leaf gives for address va of context x; the place of a host page is set when ATS answers. -/
def leafTrans (x va : Nat) (e : PtEnt) (l : Nat) (w1 : W) : Trans :=
  let c := 4 * l + e.size
  { ctx := if e.w0.getLsbD 6 then none else some x, va := va / codeBytes c * codeBytes c, size := codeBytes c, code := c
    place := pageBase e.kind e.pa, kind := e.kind, r := e.w0.getLsbD 2, w := e.w0.getLsbD 3, u := e.w0.getLsbD 5
    fe := e.w1.getLsbD 13 && e.kind == 0, watch := if e.w1.getLsbD 12 then some (fld e.w1 6 6) else none, dirty := w1.getLsbD 15 }

/-- Every 4 KiB block of a second-tier page lies on a port that is present (R345). -/
def State.attached (s : State) (pa size : Nat) : Bool :=
  let ways := 2 ^ fld s.links.stcfg 0 2
  (List.range (Nat.min ways (size / 4096))).all fun i => s.links.stcfg.getLsbD (8 + (pa / 4096 + i) % ways)

/-! Requesters -/

/-- The first job of core c's sequencer that waits for a translation of address va fails (R327). -/
def State.agentFails (s : State) (c va cause : Nat) : State :=
  let waits (q j : Nat) (wr : Bool) : Bool := match s.spillObstacle q j wr with | .missing a => a == va | _ => false
  match (s.homed c).find? fun q => (s.queue q).sn > 0 && waits q (s.queue q).shead false with
  | some q => s.queueFails c q cause true (some va)
  | none => match (s.homed c).find? fun q => let r := s.queue q; !r.inbox.isEmpty && r.spill > 0 && waits q ((r.shead + r.sn) % r.spill) true with
    | some q => s.queueFails c q cause false
    | none => match s.spillArea c with
      | none => s
      | some a =>
        let pos (l : Nat) : Nat × Nat := Tbl.get (0, 0) (s.core c).spill l
        let at_ (l : Nat) (n : Nat) (wr : Bool) : Bool := match s.seqReady c (spillRec a l n) 32 wr with | .missing b => b == va | _ => false
        match [0, 1, 2, 3].find? fun l => (pos l).2 > 0 && at_ l ((pos l).1 + (pos l).2 - 1) false with
        | some l => s.spillFails c l cause (nat va) true
        | none => match [0, 1, 2, 3].find? fun l => at_ l ((pos l).1 + (pos l).2) true with
          | some l => s.spillFails c l cause (nat va) false
          | none => s

/-- A matrix operation whose operand cannot be translated stops (R191); a mirror operation then leaves its record stale, if it can reach it,
as soon as that write need not wait (R214, R254). -/
def State.matReject (s : State) (cl id va cause : Nat) : State :=
  match (s.clu cl).matq.find? (·.id == id) with
  | none => s
  | some o =>
    if o.req.kind = 9 then s.walkBad cl o (o.req.g 6 + nat (64 * o.next)) cause (nat va)
    else match o.rej with
      | some (c, a) => s.matFault cl o c (nat a)
      | none => if o.req.mirror && o.granted then s.modMat cl id fun o => { o with rej := some (cause, va) } else s.matFault cl o cause (nat va)

/-- A requester's access ends with a cause (R191, R223, R295, R298, R318, R327). The TVAL of a slot's fault is stated for cause 101
alone. -/
def State.rejectWho (s : State) (w : Walk) (cause : Nat) : State :=
  match w.who with
  | .slot k =>
    let s := s.withdraw k
    let s : State := { s with resv := s.resv.filter fun r => r.red || r.k ≠ k }
    if cause = 101 then s.raiseAt k cause (nat w.va) else let (v, s) := s.free; s.raiseAt k cause v
  | .red n =>
    match s.resv.find? fun r => r.red && r.id == n with
    | some r => (({ s with resv := s.resv.filter (· ≠ r) }).lateFault (dieOf r.k) r.k r.ctx cause r.ptr).redDone r.k
    | none => s
  | .eng e op => s.engStop e op cause
  | .mat cl op => s.matReject cl op w.va cause
  | .mirror cl op => s.matReject cl op w.va cause
  | .stream cl j => s.modStream cl j fun st => { st with idx := none, out := some (⟨nat (0xE000000000000000 + cause), true⟩, true) }
  | .agent c =>
    if c < 1024 then s.agentFails c w.va cause
    else if c < 2048 then s.dieAgentFails (c - 1024) w.x w.va cause
    else { s with links := { s.links with xrej := s.links.xrej ++ [(w.x, w.va / 4096, cause)] } }

/-- A walk in progress or a waiter is gone. -/
def State.dropWalks (s : State) (f : Walk → Bool) : State := { s with walks := s.walks.filter fun w => !f w }

/-- Slot k parks in PARK-PAGE on walk w, the only one that it keeps: its instruction is to be reissued whole (R115, R293). -/
def State.parkPage (s : State) (k : Nat) (w : Walk) : State :=
  let s := s.withdraw k
  let s : State := { s with resv := s.resv.filter (fun r => r.red || r.k ≠ k), walks := s.walks ++ [{ w with st := 2 }] }
  s.modSlot k fun sl => { sl with st := .parkPage, wait := .page, latch := if sl.latch.stage = 1 ∨ sl.latch.stage = 3 then { sl.latch with parts := [], left := 0 } else {} }

/-- The requester of walk w joins the list of its key's miss record. -/
def State.joinMiss (s : State) (w : Walk) : State :=
  match w.who with
  | .slot k => s.parkPage k w
  | _ => { s with walks := s.walks.map fun v => if v = w then { v with st := 2, leaf := none } else v }

/-! Misses (R293 to R296) -/

/-- The key of an address: context and VA[51:12]. -/
def missKey (x va : Nat) : Nat := x * 2 ^ 40 + va / 4096

/-- Router p's port toward its die's root: first along x, then along y; none at the root, whose cluster holds the ringmaster. -/
def treeUp (p : Nat) : Option Nat := if p % 8 ≠ 0 then some (p - 1) else if p % 32 ≠ 0 then some (p - 8) else none

/-- Numbers of the fault network's units: router p is p, die d's ringmaster 128 + d, slice p 256 + p. -/
def fltPort (u : Nat) : Nat := 8192 + u

/-- Sends a message of the fault network from unit u to unit v. -/
def State.fltSend (s : State) (u v : Nat) (b : Body) : State := { s with net := s.net ++ [⟨fltPort u, fltPort v, b, 0, none⟩] }

/-- The key of a message of the fault network. -/
def Body.fltKey : Body → Option Nat
  | .faultMsg key .. => some key
  | .wake key .. => some key
  | _ => none

/-- Message n of the fault network can be taken: messages of one key keep their order on a link (Table 14-1). -/
def State.fltReady (s : State) (n : Nat) : Option Msg :=
  match s.net[n]? with
  | none => none
  | some m =>
    if m.body.fltKey.isSome && (s.net.take n).all fun o => !(o.src == m.src && o.dst == m.dst && o.body.fltKey == m.body.fltKey) then some m else none

/-- The miss record of a key at a slice. -/
def State.missOf (s : State) (sl x va : Nat) : Option Miss := s.misses.find? fun m => m.sl == sl && m.x == x && m.vpn == va / 4096

/-- Replaces the record of m's key at its slice by nothing, or by m'. -/
def State.setMiss (s : State) (m : Miss) (m' : Option Miss) : State :=
  { s with misses := s.misses.filter (fun o => !(o.sl == m.sl && o.x == m.x && o.vpn == m.vpn)) ++ m'.toList }

/-- The waiters of a key's miss record at a slice. -/
def State.waiters (s : State) (m : Miss) : List Walk := s.walks.filter fun w => w.st == 2 && w.sl == m.sl && w.x == m.x && w.va / 4096 == m.vpn

/-- Every waiter of a record takes a cause, and the record ends. -/
def State.rejectMiss (s : State) (m : Miss) (cause : Nat) : State :=
  let ws := s.waiters m
  ws.foldl (fun s w => s.rejectWho w cause) ((s.setMiss m none).dropWalks fun w => ws.contains w)

/-- Every waiter of a record tries again (R295); the record keeps REP (R296). -/
def State.retryMiss (s : State) (m : Miss) : State :=
  let ws := s.waiters m
  let s := (s.setMiss m (some { m with open_ := false, page := false, asked := false })).dropWalks fun w => ws.contains w
  ws.foldl (fun s w => match w.who with | .slot k => s.wakeReissue k | _ => s) s

/-- The function bound to a context. -/
def State.vfOf (s : State) (x : Nat) : Option Nat := (s.links.vfctx.find? fun (_, w) => w.getLsbD 63 && fld w 0 24 == x).map (·.1)

/-- Page requests of context x that are outstanding: requests of several slices for one page are one (R297). -/
def State.askedPages (s : State) (x : Nat) : List Nat := ((s.misses.filter fun m => m.x == x && m.open_ && m.asked).map (·.vpn)).eraseDups

/-- The oldest page requests of context x that wait at the host interface are sent while the host's allocation lasts (R297). -/
def State.pageSend (s : State) (x : Nat) : Nat → State
  | 0 => s
  | f + 1 =>
    let out := s.askedPages x
    match s.misses.find? fun m => m.x == x && m.open_ && m.page && !m.asked with
    | none => s
    | some m =>
      if out.contains m.vpn ∨ out.length < ((s.vfOf x).map fun v => Tbl.get 0 s.links.priAlloc v).getD 0 then
        State.pageSend { s with misses := s.misses.map fun o => if o.x = x ∧ o.vpn = m.vpn ∧ o.open_ ∧ o.page then { o with asked := true } else o } x f
      else s

/-- The record stands, its fault message or page request goes out, and the requester waits. -/
def State.missSend (s : State) (m : Miss) (w : Walk) : State :=
  let s := (s.setMiss m (some m)).joinMiss w
  if m.page then s.pageSend m.x s.misses.length
  else s.fltSend (256 + m.sl) m.sl (.faultMsg (missKey w.x w.va) m.sl (256 + m.sl) m.wr m.fea m.rep)

/-- Every requester of w's key at its slice takes a cause (R296). -/
def State.rejectKey (s : State) (w : Walk) (cause : Nat) : State :=
  let ws := s.walks.filter fun v => v.sl == w.sl && v.x == w.x && v.va / 4096 == w.va / 4096
  ws.foldl (fun s v => s.rejectWho v cause) (s.dropWalks fun v => ws.contains v)

/-- Walk w has found nothing: a first or a repeated miss, livelock for every requester of the key after the fourth repeat (R293, R296,
R297). `page`: the host is asked in place of firmware. None while the slice's 32 records are in use. -/
def State.missed (s : State) (w : Walk) (page : Bool) : Option State :=
  let full := (s.misses.filter fun m => m.sl == w.sl && m.open_).length ≥ 32
  match s.missOf w.sl w.x w.va with
  | some m =>
    if m.open_ then some (s.joinMiss w)
    else if m.rep ≥ 4 then some ((s.setMiss m none).rejectKey w 100)
    else if full then none
    else some (s.missSend { m with rep := m.rep + 1, open_ := true, page := page, asked := false, wr := w.wr, fea := w.fea } w)
  | none =>
    if full then none
    else some (s.missSend { sl := w.sl, x := w.x, vpn := w.va / 4096, page := page, wr := w.wr, fea := w.fea } w)

/-- A walk has succeeded: its slice holds the translation, the oldest of 1,024 making way, and the requester goes on (R292, R296). -/
def State.installed (s : State) (w : Walk) (t : Trans) : State :=
  let s := match s.missOf w.sl w.x w.va with | some m => if m.open_ then s else s.setMiss m none | none => s
  (s.modClu w.sl fun c => { c with tlb := (if c.tlb.length ≥ 1024 then c.tlb.drop 1 else c.tlb) ++ [t] }).dropWalks (· == w)

/-- A walk that faults: its requester takes the cause. -/
def State.walkFault (s : State) (w : Walk) (cause : Nat) : State :=
  let s := match s.missOf w.sl w.x w.va with | some m => if m.open_ then s else s.setMiss m none | none => s
  (s.dropWalks (· == w)).rejectWho w cause

/-- TRANSLATION_WALK: entry n of the accesses that found no translation is walked at its slice (R290 to R293, R296, R345). -/
def execTranslationWalk (n : Nat) (s : State) : Out :=
  match s.walks[n]? with
  | none => .next s
  | some w =>
    if w.st ≠ 0 then .next s
    else if (s.tlb w.x w.va).isSome then .next (s.dropWalks (· == w))
    else if (s.missOf w.sl w.x w.va).any (·.open_) then .next (s.joinMiss w)
    else match s.walkTable w.x w.va with
    | .miss => .next ((s.missed w false).getD s)
    | .fault c => .next (s.walkFault w c)
    | .leaf e l first =>
      if e.kind = 1 ∧ !(s.attached e.pa (codeBytes (4 * l + e.size))) then .next (s.walkFault w 127)
      else
        let t := leafTrans w.x w.va e l (nat (s.num (first + 8) 8))
        let s := s.orEntry first 14
        if e.kind = 2 then .next { s with walks := s.walks.map fun v => if v = w then { v with st := 1, leaf := some t } else v }
        else .next (s.installed w t)

/-- FAULT_MESSAGE: message n, a fault message, reaches a router, which merges or forwards it, or its die's ringmaster (R294). -/
def execFaultMessage (n : Nat) (s : State) : Out :=
  match s.fltReady n with
  | some m => match m.body with
    | .faultMsg key u src wr fea rep =>
      let rest : State := { s with net := s.net.eraseIdx n }
      if u ≥ 128 then
        let d := u - 128
        match (List.range 64).find? fun i => ((s.die d).faults.find i).isNone with
        | some i => .next { (rest.modDie d fun di => { di with faults := di.faults.put i ⟨s.serial, key, wr, fea, rep, false⟩ }) with serial := s.serial + 1 }
        | none => .next s
      else
        let tab := (s.clu u).merge
        if tab.any (·.1 == key) then
          .next (rest.modClu u fun c => { c with merge := tab.map fun (k, r, ps) => if k = key then (k, Nat.max r rep, if ps.contains src then ps else ps ++ [src]) else (k, r, ps) })
        else if tab.length ≥ 16 then .next s
        else
          let up := (treeUp u).getD (128 + u / 32)
          .next ((rest.modClu u fun c => { c with merge := tab ++ [(key, rep, [src])] }).fltSend u up (.faultMsg key up u wr fea rep))
    | _ => .next s
  | none => .next s

/-- WAKE: message n, a wake, is copied by a router to the ports its entry recorded, or acts on a slice's waiters (R295). -/
def execWake (n : Nat) (s : State) : Out :=
  match s.fltReady n with
  | some m => match m.body with
    | .wake key u act =>
      let s : State := { s with net := s.net.eraseIdx n }
      if u ≥ 256 then
        match s.misses.find? fun m => m.sl == u - 256 && m.x * 2 ^ 40 + m.vpn == key && m.open_ && !m.page with
        | some r => .next (if act = 0 then s.retryMiss r else s.rejectMiss r 101)
        | none => .next s
      else match (s.clu u).merge.find? (·.1 == key) with
      | none => .next s
      | some (_, _, ps) =>
        .next (ps.foldl (fun s p => s.fltSend u p (.wake key p act)) (s.modClu u fun c => { c with merge := c.merge.filter (·.1 ≠ key) }))
    | _ => .next s
  | none => .next s

/-! Host translations (R297) -/

/-- ATS_COMPLETION: the host answers the translation request of entry n: 0 the page at host address pa, 1 not present, 2 the request
failed, 3 narrower than the leaf's permissions. -/
def execAtsCompletion (n st pa : Nat) (s : State) : Out :=
  match s.walks[n]? with
  | none => .next s
  | some w => match w.st, w.leaf with
    | 1, some t =>
      match st with
      | 0 => if pa % t.size ≠ 0 ∨ pa + t.size > 2 ^ 52 then .next s else .next (s.installed w { t with place := pageBase 2 pa })
      | 1 =>
        if ((s.vfOf w.x).map fun f => Tbl.get false s.links.noPri f).getD false then .next (s.walkFault w 102)
        else .next ((s.missed w true).getD s)
      | 2 => .next (s.walkFault w 123)
      | 3 => .next (s.walkFault w 124)
      | _ => .next s
    | _, _ => .next s

/-- The records that one page request stands for: those of its key at every slice (R297). -/
def State.pageGroup (s : State) (n : Nat) : List Miss :=
  match s.misses[n]? with
  | some m => if m.asked && m.open_ then s.misses.filter fun o => o.asked && o.open_ && o.x == m.x && o.vpn == m.vpn else []
  | none => []

/-- The host's answer to the page request of miss record n; the next waiting request of the context may then go out. -/
def State.pageAnswer (s : State) (n : Nat) (f : List Miss → State → State) : Out :=
  .next (match s.pageGroup n with
  | [] => s
  | m :: ms => let s := f (m :: ms) s; s.pageSend m.x s.misses.length)

/-- PAGE_REQUEST_SUCCESS acts as a retry wake. -/
def execPageRequestSuccess (n : Nat) (s : State) : Out := s.pageAnswer n fun ms s => ms.foldl State.retryMiss s

/-- PAGE_REQUEST_INVALID_REQUEST gives cause 102 to every waiter. -/
def execPageRequestInvalidRequest (n : Nat) (s : State) : Out := s.pageAnswer n fun ms s => ms.foldl (fun s m => s.rejectMiss m 102) s

/-- PAGE_REQUEST_RESPONSE_FAILURE gives cause 102 to the waiters and to every later host miss of the function. -/
def execPageRequestResponseFailure (n : Nat) (s : State) : Out :=
  s.pageAnswer n fun ms s =>
    let f := (ms.head?.bind fun m => s.vfOf m.x)
    let s := match f with | some f => { s with links := { s.links with noPri := s.links.noPri.put f true } } | none => s
    ms.foldl (fun s m => s.rejectMiss m 102) s

/-- The host gives function vf an allocation of n page requests (R297). -/
def State.hostAlloc (s : State) (vf n : Nat) : State :=
  let s := { s with links := { s.links with priAlloc := Tbl.set 0 s.links.priAlloc vf n } }
  match s.links.vfctx.find vf with | some w => s.pageSend (fld w 0 24) s.misses.length | none => s

/-- PAGE_REQUEST_REENABLE: firmware enables the page requests of function vf again. -/
def execPageRequestReenable (vf : Nat) (s : State) : Out :=
  if Tbl.get false s.links.noPri vf then .next { s with links := { s.links with noPri := s.links.noPri.del vf } }
  else .next s

/-! Firmware's side (Tables 12-11, 12-12) -/

/-- FLTINFO: pops the oldest unread fault of the die. -/
def State.fltPop (s : State) : W × State :=
  let d := dieOf s.cur
  let oldest := (s.die d).faults.foldl (fun (b : Option (Nat × FEntry)) (i, e) =>
    if e.popped then b else match b with | some (j, o) => if e.seq < o.seq then some (i, e) else some (j, o) | none => some (i, e)) none
  match oldest with
  | none => (0#64, s)
  | some (i, e) =>
    (nat (2 ^ 63 + e.rep * 2 ^ 60 + (if e.wr then 2 ^ 59 else 0) + (if e.fea then 2 ^ 58 else 0) + i * 2 ^ 40 + e.key / 2 ^ 40),
      s.modDie d fun di => { di with faults := di.faults.put i { e with popped := true }, fltva := nat (e.key % 2 ^ 40 * 4096) })

/-- FLTDONE: resolves a pending entry; a write that names none, or action 2 or 3, is discarded (R295). -/
def State.fltDone (s : State) (act id : Nat) : State :=
  let d := dieOf s.cur
  match (s.die d).faults.find id with
  | some e =>
    if e.popped && act < 2 then (s.modDie d fun di => { di with faults := di.faults.del id }).fltSend (128 + d) (32 * d) (.wake e.key (32 * d) act) else s
  | none => s

/-- FLTINFO: a read of the register into d. -/
def execFltinfo (d : R6) (s : State) : Out := s.command fun s => let (w, s) := s.fltPop; s.wr d w
/-- FLTDONE with ACT 0. -/
def execFltdoneRetry (id : BitVec 6) (s : State) : Out := s.command fun s => s.fltDone 0 id.toNat
/-- FLTDONE with ACT 1. -/
def execFltdoneReject (id : BitVec 6) (s : State) : Out := s.command fun s => s.fltDone 1 id.toNat

/-! Dirty logs (R301, R302) -/

/-- The merge of one logged page: D in the first entry of its leaf, or a record (R302, R327). -/
def State.mergePage (s : State) (d : Nat) (e : Nat × Nat × Nat) : State :=
  let bad (c : Nat) : State :=
    let (v, s) := s.free
    s.unitRecord d 5 (agentCause c).1 v (agentCause c).2 0 (d * 32 * 128) 0 e.1
  match s.walkTable e.1 (e.2.1 * 4096) with
  | .miss => bad 125
  | .fault c => bad c
  | .leaf _ _ first => s.orEntry first 15

/-- DIRTY_LOG_MERGE: the residency agent merges the log of slice cl, which holds 128 entries or is being harvested. -/
def execDirtyLogMerge (cl : Nat) (s : State) : Out :=
  let d := cl / 32
  let log := (s.clu cl).dlog
  if log.length < 128 ∧ Tbl.get 0 (s.die d).harvest cl = 0 then .next s
  else .next (log.foldl (fun s e => s.mergePage d e) ((s.modClu cl fun c => { c with dlog := [] }).modDie d fun di => { di with harvest := di.harvest.del cl }))

/-- DHARV: a write of 1 starts a harvest of every log of the die. -/
def State.harvest (s : State) (w : W) : State :=
  let d := dieOf s.cur
  if w = 1#64 then
    s.modDie d fun di => { di with harvest := (List.range 32).foldl (fun t i =>
      let n := (s.clu (32 * d + i)).dlog.length
      if n = 0 then t else t.put (32 * d + i) n) di.harvest }
  else s

/-- DHARV: a write of the register. -/
def execDharv (w : W) (s : State) : Out := s.command fun s => s.harvest w

/-! Activation (R299) -/

/-- The place of the byte that holds the ASID table's bit of pair x, and the bit. -/
def State.asidBit (s : State) (x : Nat) : Nat × Nat :=
  (hbmAt (fld s.links.asidtab 21 31 * 2 ^ 21 + 32 * (x % 65536)) + x / 65536 / 8, x / 65536 % 8)

/-- Sets or clears the ASID table's bit of pair x. -/
def State.setAsid (s : State) (x : Nat) (b : Bool) : State :=
  let (a, i) := s.asidBit x
  let o := s.num a 1
  if o.testBit i = b then s else s.write none false a [BitVec.ofNat 8 (if b then o + 2 ^ i else o - 2 ^ i)]

/-- Some slot of context x is in RUN or in a park state (R37). -/
def State.busy (s : State) (x : Nat) : Bool :=
  s.slots.any fun (k, sl) => sl.st ≠ .free && sl.st ≠ .faulted && sl.st ≠ .frozen && (s.owner (cluOf k)).any (·.1 == x) && !isRing (coreOf k)

/-- The context that CTXSEL of the issuing ringmaster selects. -/
def State.selCtx (s : State) : Nat := fld (s.die (dieOf s.cur)).ctxsel 0 24

/-- A write of PTROOT (R299): refused with cause 36 or 37, or an activation when V = 1. -/
def State.writePtroot (s : State) (w : W) : State :=
  let x := s.selCtx
  let w' := nat (fld w 12 40 * 4096 + fld w 0 1)
  if s.busy x then s.raiseOpen 36
  else if w.getLsbD 0 then
    let (a, i) := s.asidBit x
    if !(s.links.asidtab.getLsbD 0) || (s.num a 1).testBit i then s.raiseOpen 37
    else (s.setAsid x true).modCtx x fun cx => { cx with ptroot := w', active := true, frz := 0, groups := [] }
  else s.modCtx x fun cx => { cx with ptroot := w' }

/-- PTROOT: a write of the register. -/
def execPtrootWrite (w : W) (s : State) : Out := s.command fun s => s.writePtroot w

/-! TINV (R300) -/

/-- What TINV acts on: the whole pair, its model records, or a page with its size. -/
inductive TinvForm where
  | pair
  | models
  | page (va size : Nat)
  deriving DecidableEq, Repr

/-- The forms of b; none is cause 38. -/
def tinvForm (b : W) : Option TinvForm :=
  if b = BitVec.allOnes 64 then some .pair
  else if b = 0xFFFFFFFFFFFFFFFE#64 then some .models
  else
    let c := fld b 0 4
    let va := fld b 12 40 * 4096
    if fld b 52 12 ≠ 0 ∨ fld b 4 8 ≠ 0 ∨ c > 11 ∨ va % codeBytes c ≠ 0 then none else some (.page va (codeBytes c))

/-- A line number of context x in a range of addresses. -/
def lineIn (x lo hi l : Nat) : Bool := l * 64 ≥ glb0 && glbCtx (l * 64) == x && lo ≤ glbVa (l * 64) && glbVa (l * 64) < hi

/-- TINV at every slice and every L1D, on addresses lo to hi of context x; `page`: G translations are dropped too, and walks of other
contexts whose leaf is one (R292). -/
def State.tinvRange (s : State) (x lo hi : Nat) (page : Bool) : State :=
  let hit (t : Trans) : Bool := (t.ctx == some x || (page && t.ctx.isNone)) && t.va < hi && lo < t.va + t.size
  let s : State := { s with clusters := s.clusters.map fun (p, c) => (p, { c with tlb := c.tlb.filter fun t => !hit t }) }
  let s := ((s.lines.map (·.1)).filter (lineIn x lo hi)).foldl (fun s l => (s.writeBack l).dropLine l) s
  let s := s.slots.foldl (fun s (k, sl) =>
    if sl.chunk.reads.any (fun (l, _) => lineIn x lo hi l) || sl.chunk.stores.any (fun (a, _) => lineIn x lo hi (lineOf a)) then s.squash k else s) s
  let ws := s.walks.filter fun w => w.st == 1 && (w.x == x || (page && w.leaf.any (·.ctx.isNone))) && lo ≤ w.va && w.va < hi
  ws.foldl (fun s w => match w.who with | .slot k => (s.withdraw k).wakeReissue k | _ => s) (s.dropWalks fun w => ws.contains w)

/-- What TINV does before it waits for the acknowledgements. -/
def State.tinv (s : State) (x : Nat) : TinvForm → State
  | .pair => s.tinvRange x 0 (2 ^ 52) false
  | .models => { s with clusters := s.clusters.map fun (p, c) => (p, { c with models := c.models.filter fun (_, r) => ownerOf r ≠ x }) }
  | .page va n => s.tinvRange x va (va + n) true

/-- The queue records of cluster p and the queue ends of its cores are discarded; a record keeps its GEN, which its next assignment
counts on (R154). -/
def State.dropQueues (s : State) (p : Nat) : State :=
  let s := s.modClu p fun c => { c with queues := c.queues.map fun (i, q) => (i, { gen := q.gen }) }
  ((List.range 8).map (8 * p + ·)).foldl (fun s c => s.modCore c fun co => { co with q := [] }) s

/-- The end of TINV: a whole-pair TINV ends the pair's activation (R299), and the pair's queue records, bindings and groups are
discarded (R154). -/
def State.tinvEnd (s : State) (x : Nat) : TinvForm → State
  | .pair =>
    let s := ((List.range 128).filterMap (s.place x)).foldl State.dropQueues (s.setAsid x false)
    s.modCtx x fun cx => { cx with active := false, groups := [], frz := if cx.frz = 3 then 0 else cx.frz }
  | _ => s

/-- TINV (R300). -/
def execTinv (a b : R6) (s : State) : Out :=
  .next (s.modeOnlyF fun s => s.withOps 4 [a, b] none true none fun vs s =>
    let p := vs.getD 0 0#64
    match (if fld p 24 40 ≠ 0 then none else tinvForm (vs.getD 1 0#64)) with
    | none => s.raiseOpen 38
    | some f => s.onReply (fun _ s => (s.tinvEnd p.toNat f).retireIrr 4) fun s =>
        ((s.tinv p.toNat f).send 0 (portSlice 0) s.myCore (.reply s.cur 0 (.val 0#512))).park .parkMem .system)

end Sys2Proof.Machine
end

