-- ==== Sys2Proof/Machine/Faults.lean ====
section
/-! DEFINITION. Fault records, injection, soft errors, scrubbing and NUDGE (R167, R318 to R326, R334). -/

namespace Sys2Proof.Machine

/-! The record queue (R320) -/

/-- The record of lost records: cause 47 with the number dropped, from the die's agents. -/
def lostRecord (d n : Nat) : FRec := ⟨recWord0 5 false false 47 0 0, nat n, 0#64, nat (d * 4096)⟩

/-- A record reaches die d's queue of 256. -/
def Die.accept (di : Die) (d : Nat) (r : FRec) : Die :=
  let room := 256 - di.frq.length
  let drop (di : Die) : Die := { di with frlost := di.frlost + 1, lostSince := di.lostSince + 1 }
  if di.lostSince = 0 then (if room = 0 then drop di else { di with frq := di.frq ++ [r] })
  else if room = 0 then drop di
  else
    let di := { di with frq := di.frq ++ [lostRecord d di.lostSince], lostSince := 0 }
    if room = 1 then drop di else { di with frq := di.frq ++ [r] }

/-- The place of a record among those of one cycle (R320): slot records by VTID, then the others by cluster and SRC. -/
def FRec.rank (r : FRec) : Nat := if fld r.w0 60 3 = 0 then fld r.w0 32 14 else 2 ^ 14 + fld r.w3 7 7 * 8 + fld r.w0 60 3

/-- FAULT_RECORD_ARRIVAL: record n on its way reaches its die's queue, in the order of the records of one cycle (R320). -/
def execFaultRecordArrival (n : Nat) (s : State) : Out :=
  match s.frFlight[n]? with
  | some (d, r) =>
    if s.inOrder (portRecords d) r.rank then
      .next (({ s with frFlight := s.frFlight.eraseIdx n }.stamp (portRecords d) r.rank).modDie d fun di => di.accept d r)
    else .next s
  | none => .next s

/-- FRPOP: pops the oldest record and gives word 0; 0 when the queue is empty. -/
def State.frPop (s : State) : W × State :=
  let d := dieOf s.cur
  match (s.die d).frq with
  | r :: rs => (r.w0, s.modDie d fun di => { di with frq := rs, frw := [r.w1, r.w2, r.w3] })
  | [] => (0#64, s)

/-- FRPOP: a read of the register into d. -/
def execFrpop (d : R6) (s : State) : Out := s.command fun s => let (w, s) := s.frPop; s.wr d w

/-! Commands on the target slot (R321, R322) -/

/-- The slot that TGT of the issuing ringmaster names. -/
def State.tgtSlot (s : State) : Nat := fld (s.die (dieOf s.cur)).tgt 0 14

/-- FINJECT (R322). -/
def State.finject (s : State) (w : W) : State := (s.injectAt s.tgtSlot w (s.die (dieOf s.cur)).finjval).getD (s.raiseOpen 44)

/-- SLOTPC on the target. -/
def State.slotPc (s : State) (w : W) : State := s.pcAt s.tgtSlot w

/-- SLOTKILL on the target. -/
def State.slotKill (s : State) (w : W) : State := s.killAt s.tgtSlot w

/-- FINJECT: a write of the register. -/
def execFinject (w : W) (s : State) : Out := s.command fun s => s.finject w
/-- SLOTPC: a write of the register. -/
def execSlotpc (w : W) (s : State) : Out := s.command fun s => s.slotPc w
/-- SLOTKILL: a write of the register. -/
def execSlotkill (w : W) (s : State) : Out := s.command fun s => s.slotKill w

/-- INJECTED_FAULT_TAKEN: slot k, in RUN at its home turn, takes the fault that waits for it in place of issue (R322). -/
def execInjectedFaultTaken (k : Nat) (s : State) : Out :=
  let c := coreOf k
  .next (match (s.slot k).inj with
    | some f =>
      if c < 1024 && s.inStep c && s.runs c && s.turnOwner c == k && s.issues c && (s.slot k).err.isNone then
        { (s.beginCycle c).takeInjected k f with ending := some c }
      else s
    | none => s)

/-- A request of the issuing slot about a slot of core c: its reply completes the instruction (R141). -/
def State.askSlot (s : State) (c : Nat) (b : Body) : State :=
  ((s.send (s.ctxOf s.myCore) s.myCore c b).upd fun sl => { sl with latch := { sl.latch with left := 1 } }).park .parkMem .reply

/-! NUDGE (R167) and slots that leave their waits -/

/-- A request of slot k whose answer it waits for. -/
def Msg.asks (m : Msg) (k : Nat) : Bool :=
  match m.body with
  | .access j _ _ _ true _ _ => j == k
  | .bank j .. => j == k
  | .group j _ _ (.spawn r _) => r.reply == some k && j < 16384
  | .group j .. => j == k
  | .qctl j .. => j == k
  | .qrsv j .. => j == k
  | .slotReg j .. => j == k
  | .nudge j _ => j == k
  | .task r => r.reply == some k
  | .expert j .. => j == k
  | .mat r => r.k == k && r.tile.isNone
  | _ => false

/-- The requests of slot k that have not arrived are taken off the network; a tracked one counts as accepted. -/
def State.takeBack (s : State) (k : Nat) : State :=
  let s := (s.net.filter fun m => m.asks k && m.body.tracked).foldl (fun s m => s.track m.ctx m.src m.dst false) s
  let s := (s.net.filter fun m => m.asks k).foldl (fun s m => match m.body with | .group _ _ _ (.spawn ..) => s.countSpawn m.ctx m.src none (-1) | _ => s) s
  { s with net := s.net.filter fun m => !m.asks k }

/-- Nothing that slot k asked for has been performed elsewhere, but for reads and reservations, which can be asked for again. -/
def State.unperformed (s : State) (k : Nat) : Bool :=
  let l := (s.slot k).latch
  !l.ends.isEmpty || l.left ≤ (s.net.filter fun m => m.asks k).length ||
    (s.net.all fun m => match m.body with | .reply j _ _ => j ≠ k | _ => true) && s.cores.all fun (_, c) => c.arrived.all (·.reply ≠ some k)

/-- Slot k leaves every list in which it waits, and what it asked for is taken back (R325). -/
def State.abandon (s : State) (k : Nat) : State :=
  let s := (s.recallEnd k).getD s
  let s := (s.takeBack k).unpop k
  let s : State := { s.withdraw k with
    net := (s.withdraw k).net.filter fun m => match m.body with | .reply j _ _ => j ≠ k | _ => true
    resv := s.resv.filter fun r => r.red || r.k ≠ k
    feWait := s.feWait.filter (·.k ≠ k)
    bbWait := s.bbWait.filter (·.2 ≠ k)
    soloQ := s.soloQ.filter (· ≠ k)
    exWait := s.exWait.filter (·.1 ≠ k) }
  let x := s.ctxOf (coreOf k)
  s.modCtx x fun cx => { cx with
    parades := cx.parades.map fun p => { p with waiters := p.waiters.filter (· ≠ k), joined := p.joined.filter (· ≠ k) }
    groups := cx.groups.map fun (n, g) => (n, { g with parked := g.parked.filter (· ≠ k), early := g.early.filter (· ≠ k) }) }

/-- Slot k leaves the lists in which it waits and its instruction is to be reissued; a fault from outside that waited for the commit waits
again. Where it waits for the solo grant with no instruction pending, or for the outcome of what another unit has already performed or is
performing for it, nothing of it can be taken back, and it keeps its place (log 44). -/
def State.recall (s : State) (k : Nat) : State :=
  let sl := s.slot k
  let again : State := ((s.abandon k).modSlot k fun sl =>
    { sl with commitReq := false
              inj := match sl.wait with | .commitFault c t 6 => some (c, t, 6) | _ => sl.inj
              err := match sl.wait with | .commitFault 132 t 0 => some t | _ => sl.err
              latch := {} }).wakeReissue k
  match sl.wait with
  | .none => s
  | .reissue => s
  | .solo => s
  | .system => s
  | .engine => if s.net.any (·.asks k) then again else s
  | .reply => if sl.latch.stage ≠ 2 ∧ s.unperformed k then again else s
  | .queue =>
    if sl.latch.stage = 2 then (s.recallEnd k).elim s (·.requeue k)
    else if (s.recallEnd k).isSome then again else s
  | _ => again

/-- NUDGE of slot k: a FAULTED slot returns to RUN at its PC, a parked one reissues its instruction; what keeps its place parks again at its
next home turn, where the reissue finds its condition unmet. -/
def State.nudge (s : State) (k : Nat) : State :=
  match (s.slot k).st with
  | .free => s
  | .run => s
  | .frozen => s
  | .faulted => s.modSlot k fun sl => { sl with st := .run, wait := .none, pend := none, latch := {} }
  | _ => let t := s.recall k; if (t.slot k).wait = .reissue then t else t.modSlot k fun sl => { sl with nudged := true }

/-- NUDGE (R167): of a slot of another core by a request, whose reply completes it (R141). -/
def execNudge (d a : R6) (s : State) : Out :=
  .next (s.modeOnlyF fun s => s.withOps 4 [a] (some d) true none fun vs s =>
    s.onReply (fun v s => s.finish true 4 d (asW v)) fun s =>
      let k := fld (vs.getD 0 0#64) 0 14
      if coreOf k = s.myCore then (s.nudge k).finish true 4 d (nat (s.slot k).st.code)
      else s.askSlot (coreOf k) (.nudge s.cur k))

/-! Soft errors (R325) -/

/-- A register that has lost its value reads 0: bank 0 x, 1 v, 2 m, 3 e, 4 system. -/
def Slot.lose (sl : Slot) (bank ix : Nat) : Slot :=
  match bank with
  | 0 => { sl with x := sl.x.del ix }
  | 1 => { sl with v := sl.v.del ix }
  | 2 => { sl with m := sl.m.del ix }
  | 3 => { sl with e := sl.e.del ix }
  | _ => if ix = 9 then { sl with chunklim := 0#64 } else sl.sysSet ix 0#64

/-- The copy of the register that a squash would restore is lost with it (R31, R325). -/
def Slot.loseSnap (sl : Slot) (bank ix : Nat) : Slot :=
  let p := sl.chunk.snap
  let p := match bank with
    | 0 => { p with x := p.x.del ix }
    | 1 => { p with v := p.v.del ix }
    | 2 => { p with m := p.m.del ix }
    | 3 => { p with e := p.e.del ix }
    | _ => if ix = 5 then { p with fflags := 0#64 } else if ix = 13 then { p with nestc := 0#64 } else p
  { sl with chunk := { sl.chunk with snap := p } }

/-- Registers of a bank. -/
def bankSize (bank : Nat) : Nat := match bank with | 0 => 32 | 1 => 32 | 2 => 8 | 3 => 8 | 4 => 15 | _ => 32

/-- An uncorrectable error in register ix of a bank of slot k (R325). -/
def State.slotError (s : State) (k bank ix : Nat) : State :=
  let st := (s.slot k).st
  let s := s.modSlot k fun sl => (sl.lose bank ix).loseSnap bank ix
  if st = .free then s
  else
    let s := s.abandon k
    (s.modSlot k fun sl => { sl with wait := .none, st := .run, pend := none, latch := {} }).raiseAt k 132 (nat (bank * 32 + ix))

/-- An error in core-shared register ix of core c: every slot in use takes cause 132 at its next home turn. What the register then
holds is open. -/
def State.coreError (s : State) (c ix : Nat) : State :=
  let (v, s) := s.free
  let s := if ix < 16 then s.modCore c fun co => { co with g := co.g.put ix v } else s
  (List.range 16).foldl (fun s i =>
    if (s.slot (16 * c + i)).st = .free then s else s.modSlot (16 * c + i) fun sl => { sl with err := some (nat (5 * 32 + ix)) }) s

/-- The home turn of slot k, whatever it waits for, takes the error that waits for it: every slot in use gets cause 132 (R325). -/
def State.takeError (s : State) (k : Nat) (t : W) : State :=
  let s := s.modSlot k fun sl => { sl with err := none }
  match (s.slot k).st with
  | .free => s
  | _ => ((s.abandon k).modSlot k fun sl => { sl with wait := .none, st := .run, pend := none, latch := {} }).raiseAt k 132 t

/-- An error in the accumulator bank or the queue entry of operation j of matrix engine cl. -/
def State.matError (s : State) (cl j : Nat) : Option State :=
  ((s.clu cl).matq[j]?).map fun o =>
    let (v, s) := s.free
    if o.req.kind = 9 then s.walkBad cl o (o.req.g 6 + nat (64 * o.next)) 134 v else s.matFault cl o 134 v

/-- The requests on their way to cluster cl's engine that name handle i carry the error with them. -/
def Msg.lost (m : Msg) (cl i : Nat) (v : W) : Msg :=
  match m.body with
  | .mat r => if m.dst == engIf cl && r.handle == some i then { m with body := .mat { r with bad := some v } } else m
  | _ => m

/-- An error in a B-store row of handle i of cluster cl: the handle is stale, and the operations that use it stop, queued, at the engine's
port or when they arrive. -/
def State.handleError (s : State) (cl i : Nat) : State :=
  let (v, s) := s.free
  let os := (s.clu cl).matq.filter fun o => o.req.handle == some i
  let rs := (s.clu cl).matPort.filter fun r => r.handle == some i
  let s : State := { s.modClu cl fun c => { c with matPort := c.matPort.filter fun r => r.handle ≠ some i } with net := s.net.map (·.lost cl i v) }
  let s := rs.foldl (fun s r => (s.expertDone r).reqFault cl r 134 v) s
  let s := os.foldl (fun s o => s.matFault cl o 134 v) s
  if (s.handleAt cl i).live then (s.modHandle cl i fun h => { h with live := false, freed := true, gen := nextGen h.gen }).handleDone cl i else s

/-- An error in block row r of cluster cl's B-store (R325): a staging row stops the running operation that stages B there, another row
makes its handle stale. -/
def State.rowError (s : State) (cl r : Nat) : State :=
  if r < 512 then
    let (v, s) := s.free
    ((s.clu cl).matq.filter fun o => o.st == 1 && o.req.handle.isNone && o.req.kind ≠ 9).foldl (fun s o => s.matFault cl o 134 v) s
  else match (s.clu cl).handles.find? fun (_, h) => h.used && h.row ≤ r && r < h.row + h.rows with
    | some (i, _) => s.handleError cl i
    | none => s

/-- REGISTER_SOFT_ERROR: banks 0 to 4 are registers of slot k, bank 5 core-shared registers of core k, bank 6 operation ix of matrix
engine k, bank 7 block row ix of cluster k's B-store, bank 8 operation ix of copy or indirect engine k, bank 9 the kept bank of matrix
engine k. A number that names nothing is no error. -/
def execRegisterSoftError (k bank ix : Nat) (s : State) : Out :=
  .next (
    if bank ≤ 5 ∧ ix ≥ bankSize bank then s
    else if bank ≤ 4 then s.slotError k bank ix
    else match bank with
    | 5 => s.coreError k ix
    | 6 => (s.matError k ix).getD s
    | 7 => if ix < 2048 then s.rowError k ix else s
    | 8 => match (s.engOps k)[ix]? with | some o => s.engStop k o.id 134 | none => s
    | 9 => s.modClu k fun c => { c with kept := c.kept.map fun b => { b with bad := true } }
    | _ => s)

/-! Scrubbing (R326) -/

/-- The level of a place that a scrubber reads: memory by its place, a cached line by the level named. -/
def levelHas (lv a : Nat) : Bool :=
  match lv with
  | 0 => 2 ^ 61 ≤ a && a < 2 ^ 61 + 2 ^ 28
  | 1 => 2 ^ 60 ≤ a && a < 2 ^ 60 + 2 ^ 28
  | 2 => a ≥ glb0
  | 3 => a ≥ glb0
  | 4 => 2 ^ 62 ≤ a && a < 2 ^ 62 + 2 ^ 27
  | 5 => a < 2 ^ 40
  | 7 => tier2Base ≤ a && a < tier2Base + 2 ^ 44
  | _ => false

/-- The physical address or unit offset that a scrubber reports, and the die whose ringmaster is told. -/
def State.scrubAddr (s : State) (a : Nat) : Nat × Nat :=
  if a ≥ glb0 then
    match s.lines.find (lineOf a) with
    | some l => (l.tr.place + (glbVa a - l.tr.va), sliceOf (glbVa a) / 32)
    | none => (glbVa a, sliceOf (glbVa a) / 32)
  else if a ≥ 2 ^ 62 then (a % 2 ^ 25, (a - 2 ^ 62) / 2 ^ 25)
  else if a ≥ 2 ^ 60 then (addrOf a, dieOfPlace a)
  else if a ≥ tier2Base then (a - tier2Base, sliceOf (a - tier2Base) / 32)
  else (a, sliceOf a / 32)

/-- The agents' record of level lv and kind kd (R326). -/
def State.scrubRecord (s : State) (d lv kd addr : Nat) : State := s.unitRecord d 5 (136 + 3 * lv + kd) (nat addr) 0 0 (d * 4096) 0 0

/-- SCRUB: a scrubber of level lv meets an uncorrectable word (kind 0), a corrected error (kind 1) or a bad tag (kind 2) at place ad; in
the B-store ad is cluster · 2^23 + offset. A place that the level does not hold, and a tag outside the caches, is none. -/
def execScrub (lv kd ad : Nat) (s : State) : Out :=
  let bstore := lv == 6 && ad / 2 ^ 23 < 128
  let cached := (s.lines.find (lineOf ad)).isSome
  .next (
    if !(bstore || (levelHas lv ad && ((lv ≠ 2 && lv ≠ 3) || cached))) then s
    else
      let (addr, d) := if bstore then (ad % 2 ^ 23, ad / 2 ^ 23 / 32) else s.scrubAddr ad
      match kd with
      | 0 =>
        let s := if bstore then s.modClu (ad / 2 ^ 23) fun c => { c with bpoison := c.bpoison.put (ad % 2 ^ 23 / 8) true } else s.setPoison (ad / 8 * 8) true
        s.scrubRecord d lv 0 addr
      | 1 =>
        let n := Tbl.get 0 (s.die d).corrected lv + 1
        let lim := (s.die d).eccthr.toNat
        if lim ≠ 0 ∧ n ≥ lim then (s.modDie d fun di => { di with corrected := di.corrected.del lv }).scrubRecord d lv 1 addr
        else s.modDie d fun di => { di with corrected := di.corrected.put lv n }
      | 2 =>
        if lv ≠ 2 ∧ lv ≠ 3 then s
        else match s.lines.find (lineOf ad) with
        | none => s
        | some l =>
          let pa := l.tr.place + (glbVa (lineOf ad * 64) - l.tr.va)
          let s := s.squashReaders none [lineOf ad]
          let s := if l.dirty then (List.range 8).foldl (fun s i => s.setPoison (pa + 8 * i) true) s else s
          (s.dropLine (lineOf ad)).scrubRecord d lv 2 addr
      | _ => s)

end Sys2Proof.Machine
end

