-- ==== Sys2Proof/Machine/Codec.lean ====
section
/-! DEFINITION. How the records for which Table 13-5 gives a section of the safety net and no layout stand there as bytes: the model's
own layout (R331; DESIGN CHOICE, log 63). -/

namespace Sys2Proof.Machine

/-- How the values of a type stand as bytes, and what bytes stand for, with the bytes after them. -/
structure Codec (α : Type) where
  put : α → List Byte
  get : List Byte → α × List Byte

/-! Numbers, pairs and lists -/

/-- A number under 240 is one byte; before the bytes of another stands 240 + k for k < 15 of them, or 255 and k. -/
def Codec.nat : Codec Nat where
  put n :=
    let k := n.log2 / 8 + 1
    if n < 240 then [BitVec.ofNat 8 n] else (if k < 15 then [BitVec.ofNat 8 (240 + k)] else [255#8, BitVec.ofNat 8 k]) ++ leBytes n k
  get
    | [] => (0, [])
    | b :: r =>
      let k := if b = 255#8 then (r.headD 0#8).toNat else b.toNat - 240
      let d := if b = 255#8 then r.drop 1 else r
      if b.toNat < 240 then (b.toNat, r) else (leNat (d.take k), d.drop k)

/-- Values that stand as others do. -/
def Codec.via {α β : Type} (c : Codec β) (f : α → β) (g : β → α) : Codec α := ⟨fun a => c.put (f a), fun bs => (g (c.get bs).1, (c.get bs).2)⟩

/-- One value after another. -/
def Codec.pair {α β : Type} (c : Codec α) (d : Codec β) : Codec (α × β) :=
  ⟨fun p => c.put p.1 ++ d.put p.2, fun bs => ((((c.get bs).1, (d.get (c.get bs).2).1)), (d.get (c.get bs).2).2)⟩

/-- n values. -/
def Codec.take {α : Type} (c : Codec α) : Nat → List Byte → List α × List Byte
  | 0, bs => ([], bs)
  | n + 1, bs => let (a, r) := c.get bs; let (l, r) := c.take n r; (a :: l, r)

/-- A list after its length. -/
def Codec.list {α : Type} (c : Codec α) : Codec (List α) :=
  ⟨fun l => Codec.nat.put l.length ++ l.flatMap c.put, fun bs => c.take (Nat.min (Codec.nat.get bs).1 bs.length) (Codec.nat.get bs).2⟩

/-- n numbers. -/
def Codec.nums (n : Nat) : Codec (List Nat) := ⟨fun l => l.flatMap Codec.nat.put, Codec.nat.take n⟩

def Codec.opt {α : Type} (c : Codec α) : Codec (Option α) := c.list.via Option.toList List.head?
def Codec.tbl {α : Type} (c : Codec α) : Codec (Tbl α) := (Codec.nat.pair c).list
def Codec.bits (w : Nat) : Codec (BitVec w) := Codec.nat.via BitVec.toNat (BitVec.ofNat w)
def Codec.bool : Codec Bool := Codec.nat.via Bool.toNat (· != 0)
def Codec.word : Codec W := Codec.bits 64
def Codec.bytes : Codec (List Byte) := (Codec.bits 8).list
def Codec.int : Codec Int := (Codec.nums 2).via (fun i => [(i < 0 : Bool).toNat, i.natAbs]) fun l => if l.getD 0 0 = 0 then (l.getD 1 0 : Int) else -(l.getD 1 0 : Int)

/-- A number that may be absent, as one number. -/
def optNum : Option Nat → Nat | some n => n + 1 | none => 0
def numOpt : Nat → Option Nat | 0 => none | n + 1 => some n
/-- The numbers of a record by their places. -/
def numAt (l : List Nat) (i : Nat) : Nat := l.getD i 0
def wordAt (l : List Nat) (i : Nat) : W := nat (numAt l i)
def boolAt (l : List Nat) (i : Nat) : Bool := numAt l i != 0
def optAt (l : List Nat) (i : Nat) : Option Nat := numOpt (numAt l i)

/-! Records -/

def itemCodec : Codec Item := (Codec.nums 2).via (fun i => [i.w.toNat, i.tok.toNat]) fun l => ⟨wordAt l 0, boolAt l 1⟩

def tookCodec : Codec Took := ((Codec.nums 3).pair itemCodec).via (fun t => ([t.h.toNat, t.seq, optNum t.was], t.it)) fun (l, i) => ⟨wordAt l 0, numAt l 1, i, optAt l 2⟩

def taskCodec : Codec TaskRec :=
  (Codec.nums 10).via (fun r => [r.w0.toNat, r.w1.toNat, r.w2.toNat, r.w3.toNat, r.pri, r.src, optNum r.reply, r.ctx, r.rel.toNat, r.stolen.toNat]) fun l =>
    ⟨wordAt l 0, wordAt l 1, wordAt l 2, wordAt l 3, numAt l 4, numAt l 5, optAt l 6, numAt l 7, boolAt l 8, boolAt l 9⟩

def mailCodec : Codec Mail := (Codec.nums 3).via (fun m => [optNum m.dest, m.data.toNat, m.seq]) fun l => ⟨optAt l 0, wordAt l 1, numAt l 2⟩

def engReqCodec : Codec EngReq :=
  ((Codec.nums 5).pair Codec.word.list).via (fun r => ([r.kind, r.k, r.ticket, r.ctx, r.vtid], r.e)) fun (l, e) => ⟨numAt l 0, e, numAt l 1, numAt l 2, numAt l 3, numAt l 4⟩

def matReqCodec : Codec MatReq :=
  ((Codec.nums 10).pair Codec.word.list).via
    (fun r => ([r.kind, r.k, r.ctx, r.vtid, r.rm, optNum r.handle, optNum (r.tile.map (·.toNat)), optNum (r.expert.map (·.toNat)), r.walk, optNum (r.bad.map (·.toNat))], r.e)) fun (l, e) =>
    ⟨numAt l 0, e, numAt l 1, numAt l 2, numAt l 3, numAt l 4, optAt l 5, (optAt l 6).map nat, (optAt l 7).map nat, numAt l 8, (optAt l 9).map nat⟩

def parkedCodec : Codec Parked :=
  (Codec.nums 10).via (fun q => [q.key.toNat, q.rcd.toNat, q.ctx, q.k, q.cl, q.fl.toNat, q.rm, q.walk, q.tile.toNat, q.late.toNat]) fun l =>
    ⟨wordAt l 0, wordAt l 1, numAt l 2, numAt l 3, numAt l 4, wordAt l 5, numAt l 6, numAt l 7, boolAt l 8, boolAt l 9⟩

def endCodec : Codec REnd := (Codec.nums 4).via (fun e => [e.q, e.ix, e.push.toNat, e.h.toNat]) fun l => ⟨numAt l 0, numAt l 1, boolAt l 2, wordAt l 3⟩

def monitorCodec : Codec Monitor := (Codec.nums 2).via (fun m => [m.block, m.hit.toNat]) fun l => ⟨numAt l 0, boolAt l 1⟩

def undoCodec : Codec Undo :=
  ((Codec.nums 3).pair (Codec.bytes.pair (monitorCodec.tbl.pair Codec.nat.list))).via
    (fun
      | .bytes a b => ([0, a, 0], b, [], [])
      | .record q g => ([1, q, g], [], [], [])
      | .group x n => ([2, x, n], [], [], [])
      | .mons on off => ([3, 0, 0], [], on, off))
    fun (l, b, on, off) => match numAt l 0 with
      | 0 => .bytes (numAt l 1) b
      | 1 => .record (numAt l 1) (numAt l 2)
      | 2 => .group (numAt l 1) (numAt l 2)
      | _ => .mons on off

/-- What a saved slot waits for. -/
def waitCodec : Codec Wait :=
  (Codec.nums 4).via
    (fun
      | .reissue => [1, 0, 0, 0]
      | .solo => [2, 0, 0, 0]
      | .fe => [3, 0, 0, 0]
      | .queue => [4, 0, 0, 0]
      | .monitor n => [5, n, 0, 0]
      | .message n o b => [6, n, o, b.toNat]
      | .engine => [7, 0, 0, 0]
      | .bbar => [8, 0, 0, 0]
      | .group => [9, 0, 0, 0]
      | _ => [0, 0, 0, 0])
    fun l => match numAt l 0 with
      | 1 => .reissue
      | 2 => .solo
      | 3 => .fe
      | 4 => .queue
      | 5 => .monitor (numAt l 1)
      | 6 => .message (numAt l 1) (numAt l 2) (boolAt l 3)
      | 7 => .engine
      | 8 => .bbar
      | 9 => .group
      | _ => .none

def latchCodec : Codec Latch :=
  ((Codec.nums 5).pair (Codec.word.opt.list.pair (Codec.word.list.opt.pair ((Codec.bits 512).tbl.pair ((Codec.bits 512).opt.pair (Codec.word.opt.pair
    (endCodec.list.pair (Codec.nat.list.pair (itemCodec.opt.pair ((Codec.nums 2).opt.pair ((Codec.nat.pair Codec.word.opt).opt.pair (undoCodec.list.pair
    ((Codec.nat.pair Codec.word).opt.pair (tookCodec.list.pair mailCodec.list)))))))))))))).via
    (fun l => ([l.left, l.refused.toNat, l.stage, l.nomail.toNat, l.moved.toNat], l.partials, l.vals, l.parts, l.res, l.goto, l.ends, l.turned, l.out,
      l.fin.map fun (a, b) => [a, b], l.refusal, l.undo, l.at_, l.took, l.mails))
    fun (n, partials, vals, parts, res, goto, ends, turned, out, fin, refusal, undo, at_, took, mails) =>
    { partials := partials, vals := vals, parts := parts, left := numAt n 0, refused := boolAt n 1, stage := numAt n 2, res := res, goto := goto, ends := ends, turned := turned
      nomail := boolAt n 3, moved := boolAt n 4, out := out, fin := fin.map fun l => (numAt l 0, numAt l 1), refusal := refusal, undo := undo, at_ := at_, took := took, mails := mails }

/-- The state of a slot with this code. -/
def SlotSt.ofCode (n : Nat) : SlotSt :=
  ([.free, .run, .parkMem, .parkPage, .parkFe, .parkQ, .parkMon, .parkMsg, .parkEng, .parkBar, .parkNorm, .faulted, .frozen] : List SlotSt).getD n .free

/-- What of a saved slot its area's registers do not hold; the instruction that is pending is that at its PC. -/
def slotCodec : Codec Slot :=
  ((Codec.nums 6).pair (monitorCodec.tbl.pair (waitCodec.pair (latchCodec.pair (Codec.nums 3).opt)))).via
    (fun s => ([s.st.code, s.streak, s.hold, s.wakeAt, s.resume.toNat, optNum (s.err.map (·.toNat))], s.mons, s.wait, s.latch, s.inj.map fun (c, t, r) => [c, t.toNat, r]))
    fun (n, mons, wait, latch, inj) =>
    { st := .ofCode (numAt n 0), streak := numAt n 1, hold := numAt n 2, wakeAt := numAt n 3, resume := boolAt n 4, err := (optAt n 5).map nat, mons := mons, wait := wait
      latch := latch, inj := inj.map fun l => (numAt l 0, wordAt l 1, numAt l 2) }

/-- What of a saved core its shared registers and queue ends are not. -/
def coreCodec : Codec Core :=
  ((Codec.nums 11).pair (mailCodec.list.pair (taskCodec.list.pair ((Codec.nums 2).tbl.pair (taskCodec.list.pair (Codec.nat.list.pair (Codec.nat.list.pair Codec.nat.list))))))).via
    (fun c => ([c.mailSeq, c.sqcnt, c.cmcnt, c.normcnt, c.stolenFrom, c.stole, c.deqspill.toNat, c.spillBad.toNat, c.ended.toNat, c.ticket, c.tried], c.mail, c.deque,
      c.spill.map fun (i, a, b) => (i, [a, b]), c.arrived, c.reserved, c.live, c.pinned))
    fun (n, mail, deque, spill, arrived, reserved, live, pinned) =>
    { mailSeq := numAt n 0, sqcnt := numAt n 1, cmcnt := numAt n 2, normcnt := numAt n 3, stolenFrom := numAt n 4, stole := numAt n 5, deqspill := wordAt n 6, spillBad := boolAt n 7
      ended := boolAt n 8, ticket := numAt n 9, tried := numAt n 10, mail := mail, deque := deque, spill := spill.map fun (i, l) => (i, numAt l 0, numAt l 1), arrived := arrived
      reserved := reserved, live := live, pinned := pinned }

def holdCodec : Codec QHold :=
  ((Codec.nums 5).pair itemCodec).via (fun o => ([o.k, o.e, o.ix, o.seq, optNum o.was], o.it)) fun (l, i) => ⟨numAt l 0, numAt l 1, numAt l 2, numAt l 3, i, optAt l 4⟩

def queueCodec : Codec Queue :=
  let waiting := (Codec.nat.pair itemCodec).list
  ((Codec.nums 17).pair (waiting.pair (holdCodec.list.pair (holdCodec.list.pair (waiting.pair ((Codec.nat.pair .bool).list.pair ((Codec.nums 2).list.pair waiting))))))).via
    (fun q => ([q.alloc.toNat, q.gen, q.home, q.scope, q.ring, q.depth, q.spill, q.sparea.toNat, q.head, q.n, q.shead, q.sn, q.closed.toNat, q.seq, q.pops, q.hostEnds, optNum q.stuckAt],
      q.inbox, q.held, q.rsv, q.back, q.places, q.cons.map fun (k, e) => [k, optNum e], q.prod))
    fun (n, inbox, held, rsv, back, places, cons, prod) =>
    { alloc := boolAt n 0, gen := numAt n 1, home := numAt n 2, scope := numAt n 3, ring := numAt n 4, depth := numAt n 5, spill := numAt n 6, sparea := wordAt n 7, head := numAt n 8
      n := numAt n 9, shead := numAt n 10, sn := numAt n 11, closed := boolAt n 12, seq := numAt n 13, pops := numAt n 14, hostEnds := numAt n 15, stuckAt := optAt n 16
      inbox := inbox, held := held, rsv := rsv, back := back, places := places, cons := cons.map fun l => (numAt l 0, optAt l 1), prod := prod }

def counterCodec : Codec Counter :=
  ((Codec.nums 3).pair taskCodec).via (fun c => ([c.st, c.count, c.t.toNat], c.task)) fun (l, r) => ⟨numAt l 0, numAt l 1, r, wordAt l 2⟩

def streamCodec : Codec Stream :=
  ((Codec.nums 15).pair (itemCodec.pair .bool).opt).via
    (fun t => ([t.c, t.qs, t.qd, t.x, t.base.toNat, t.sm.toNat, t.bound, t.sentinel.toNat, t.fill.toNat, t.vtid, t.hs.toNat, t.hd.toNat, optNum t.idx, t.fin.toNat, t.stop.toNat], t.out))
    fun (l, out) =>
    { c := numAt l 0, qs := numAt l 1, qd := numAt l 2, x := numAt l 3, base := wordAt l 4, sm := boolAt l 5, bound := numAt l 6, sentinel := wordAt l 7, fill := wordAt l 8
      vtid := numAt l 9, hs := wordAt l 10, hd := wordAt l 11, idx := optAt l 12, out := out, fin := boolAt l 13, stop := boolAt l 14 }

def blockCodec : Codec Block := ((Codec.nums 2).pair Codec.bytes).via (fun b => ([b.place, b.credit.toNat], b.data)) fun (l, d) => ⟨numAt l 0, d, boolAt l 1⟩

def remoteCodec : Codec Remote := ((Codec.nums 2).pair Codec.bytes.opt).via (fun r => ([r.place, r.n], r.data)) fun (l, d) => ⟨numAt l 0, numAt l 1, d⟩

def engOpCodec : Codec EngOp :=
  ((Codec.nums 10).pair (engReqCodec.pair (Codec.nat.list.pair (blockCodec.list.opt.pair remoteCodec.list)))).via
    (fun o => ([o.id, o.plane, o.row, o.byte, o.wrote, o.credited, o.credits, o.done.toNat, o.err, o.sent.toNat], o.req, o.got, o.plan, o.remote))
    fun (n, req, got, plan, remote) =>
    { id := numAt n 0, req := req, plane := numAt n 1, row := numAt n 2, byte := numAt n 3, got := got, plan := plan, wrote := numAt n 4, credited := numAt n 5, credits := numAt n 6
      done := boolAt n 7, err := numAt n 8, sent := boolAt n 9, remote := remote }

/-- A k-block of a column: scale code and element codes. -/
def kBlockCodec : Codec (Nat × List Nat) := Codec.nat.pair Codec.nat.list

/-- A handle entry without its tile, which the B-store's section holds. -/
def handleCodec : Codec Handle :=
  ((Codec.nums 9).pair (Codec.nums 2).opt).via
    (fun h => ([h.gen, h.live.toNat, h.taken.toNat, h.freed.toNat, h.kk, h.nn, h.fmt, h.row, h.rows], h.watch.map fun (a, b) => [a, b]))
    fun (n, w) =>
    { gen := numAt n 0, live := boolAt n 1, taken := boolAt n 2, freed := boolAt n 3, kk := numAt n 4, nn := numAt n 5, fmt := numAt n 6, row := numAt n 7, rows := numAt n 8
      watch := w.map fun l => (numAt l 0, numAt l 1) }

def matOpCodec : Codec MatOp :=
  ((Codec.nums 18).pair (matReqCodec.pair (Codec.nat.list.list.opt.pair (Codec.nat.list.pair (Codec.word.list.pair ((Codec.nums 2).opt.pair
    ((Codec.word.pair (Codec.nat.pair .word)).opt.pair (Codec.word.pair .nat).list))))))).via
    (fun o => ([o.id, o.base, o.aged, o.st, o.ovt.toNat, o.kb, o.skips, o.seq, o.granted.toNat, o.mirrorGen, optNum o.region, o.flags, o.skip, o.next, o.open_, o.parked, o.walkDone.toNat,
      o.stalled.toNat], o.req, o.accs, o.list, o.rcd, o.rej.map fun (a, b) => [a, b], o.bad, o.others))
    fun (n, req, accs, list, rcd, rej, bad, others) =>
    { id := numAt n 0, req := req, base := numAt n 1, aged := numAt n 2, st := numAt n 3, ovt := boolAt n 4, kb := numAt n 5, accs := accs, list := list, skips := numAt n 6, seq := numAt n 7
      granted := boolAt n 8, rcd := rcd, mirrorGen := numAt n 9, region := optAt n 10, rej := rej.map fun l => (numAt l 0, numAt l 1), flags := numAt n 11, skip := numAt n 12
      next := numAt n 13, open_ := numAt n 14, parked := numAt n 15, bad := bad, others := others, walkDone := boolAt n 16, stalled := boolAt n 17 }

def bankCodec : Codec Bank :=
  ((Codec.nums 4).pair (Codec.bits 32).list).via (fun b => ([b.k, b.mm, b.nn, b.bad.toNat], b.vals)) fun (l, v) => ⟨numAt l 0, numAt l 1, numAt l 2, v, boolAt l 3⟩

def groupCodec : Codec Group :=
  (Codec.nat.pair Codec.nat.list.list).via (fun g => (g.gen, [g.members, g.pending, g.arrived, g.parked, g.leavers, g.early])) fun (n, l) =>
    let f (i : Nat) : List Nat := l.getD i []
    ⟨n, f 0, f 1, f 2, f 3, f 4, f 5⟩

/-- A request that waits for resend: a task record, an engine command or a message for a mailbox (R222, R236, R275). -/
def msgCodec : Codec Msg :=
  ((Codec.nums 5).pair (taskCodec.opt.pair (engReqCodec.opt.pair mailCodec.opt))).via
    (fun m => match m.body with
      | .task r => ([m.src, m.dst, m.ctx, 0, 0], some r, none, none)
      | .engine r => ([m.src, m.dst, m.ctx, 0, 0], none, some r, none)
      | .mail k d x => ([m.src, m.dst, m.ctx, k, x], none, none, some d)
      | _ => ([m.src, m.dst, m.ctx, 0, 0], none, none, none))
    fun (l, t, e, d) =>
      let b : Body := match t, e, d with
        | some r, _, _ => .task r
        | _, some r, _ => .engine r
        | _, _, some d => .mail (numAt l 3) d (numAt l 4)
        | _, _, _ => .start []
      ⟨numAt l 0, numAt l 1, b, numAt l 2, some 0⟩

/-- A waiter of a GLB or DSR home in 16 bytes (Table 13-5): its place, then its slot and what it waits to do. -/
def waiterCodec : Codec (Nat × Nat) := ⟨fun w => leBytes w.1 8 ++ leBytes w.2 8, fun bs => ((leNat (bs.take 8), leNat ((bs.drop 8).take 8)), bs.drop 16)⟩

end Sys2Proof.Machine
end

