-- ==== Sys2Proof/Machine/Links.lean ====
section
/-! DEFINITION. The host link, the second tier's checkpoint and the scale-up ports (R338, R342 to R350). -/

namespace Sys2Proof.Machine

def State.modLinks (s : State) (f : Links → Links) : State := { s with links := f s.links }

/-! Host-queue windows (R342 to R344) -/

/-- A window or a forwarder of context x becomes an end of the queue that h names, or ceases to be one; a frozen queue's record stands
in the image. -/
def State.hostEnd (s : State) (x : Nat) (h : W) (add : Bool) : State :=
  let f (q : Queue) : Queue := { q with hostEnds := if add then q.hostEnds + 1 else q.hostEnds - 1 }
  match s.findQueue x h with
  | some q => s.modQueue q f
  | none => s.modCtx x fun cx => match cx.image.clusters.find (fld h 9 7) with
    | some c => match c.queues.find (fld h 0 6) with
      | some q => { cx with image := { cx.image with clusters := cx.image.clusters.put (fld h 9 7) { c with queues := c.queues.put (fld h 0 6) (f q) } } }
      | none => cx
    | none => cx

/-- The window that HQSEL selects. -/
def State.selWin (s : State) : Nat := winOf (fld s.links.hqsel 8 6) (fld s.links.hqsel 0 6)

/-- A write of HQMAP (R342): a mapping of a stale handle, of a queue that is not of host scope, or for a VF that is not bound to the
queue's context is discarded, and HQMAP then reads V = 0. -/
def State.writeHqmap (s : State) (w : W) : State :=
  let i := s.selWin
  let old := Tbl.get 0#64 s.links.hqmap i
  let x := s.vfCtx (i / 64)
  let s := if old.getLsbD 63 then s.hostEnd (Tbl.get 0 s.links.hqctx i) (low old 35) false else s
  let h := low w 35
  let ok := w.getLsbD 63 && match x with
    | some x => match s.findQueue x h with | some q => (s.queue q).scope == 4 | none => false
    | none => false
  let s := s.modLinks fun l => { l with hqmap := l.hqmap.put i (if ok then nat (2 ^ 63) ||| h else if w.getLsbD 63 then 0#64 else h), hqctx := if ok then l.hqctx.put i (x.getD 0) else l.hqctx.del i }
  if ok then s.hostEnd (x.getD 0) h true else s

/-- HQMAP: a write of the register. -/
def execHqmapWrite (w : W) (s : State) : Out := s.command fun s => s.writeHqmap w

/-- The context and the queue of a mapped window of a VF. -/
def State.window (s : State) (vf win : Nat) : Option (Nat × W) := if vf < 64 ∧ win < 64 then s.mapped (winOf vf win) else none

/-- A host push takes effect at the queue home, after the device's pushes of the cycle (R343); one that cannot land sets OVF. -/
def State.hostPush (s : State) (vf win q : Nat) (i : Item) : State :=
  if !(s.queue q).takesNow then s.modLinks fun l => { l with ovf := l.ovf.put (winOf vf win) true }
  else ((s.stamp (s.qcore q) (2 ^ 30)).qPush q (32768 + vf) i).2

/-- What a host read returns. -/
def State.hostData (s : State) (v : W) : State := s.modLinks fun l => { l with readData := v }

/-- STATUS of a window (Table 14-3). -/
def State.winStatus (s : State) (vf win : Nat) : W :=
  match (s.window vf win).bind fun (x, h) => s.findQueue x h with
  | none => BitVec.allOnes 64
  | some q =>
    let r := s.queue q
    let items := r.avail + r.held.length + r.rsv.length + r.sn + r.inbox.length
    nat ((if r.closed then 2 ^ 63 else 0) + (if Tbl.get false s.links.ovf (winOf vf win) then 2 ^ 62 else 0)
      + Nat.min (2 ^ 24 - 1) r.room * 2 ^ 32 + items)

/-- A register of a mapped window as a host read returns it (Table 14-3). -/
def State.winRead (s : State) (vf win o : Nat) : W :=
  let i := winOf vf win
  match o with
  | 0x18 => Tbl.get 0#64 s.links.popst i
  | 0x20 => s.winStatus vf win
  | 0x28 => bit (Tbl.get false s.links.irqen i)
  | _ => 0#64

/-- An access to a window takes effect: PUSH (kind 0), PUSHT (1), ACK (2), CTL (3), a read of POP (4) or of the register at an offset. A
POP acts as a pop that arrives now (R343); one that finds only spilled items waits. -/
def State.hostAccess (s : State) (vf win kind : Nat) (w : W) : State :=
  match s.window vf win with
  | none => if kind ≥ 4 then s.hostData (BitVec.allOnes 64) else s
  | some (x, h) =>
    match kind, s.findQueue x h with
    | 2, _ => if w.getLsbD 62 then s.modLinks fun l => { l with ovf := l.ovf.del (winOf vf win) } else s
    | 3, _ => s.modLinks fun l => { l with irqen := Tbl.set false l.irqen (winOf vf win) (w.getLsbD 0) }
    | 0, some q => s.hostPush vf win q ⟨w, false⟩
    | 1, some q => s.hostPush vf win q ⟨w, true⟩
    | 4, some q =>
      let s := s.modLinks fun l => { l with hostq := l.hostq ++ [⟨vf, win, 4, 0#64, x⟩] }
      let t := s.qHost q
      if t.queue q = s.queue q then t else t.qChanged q
    | 4, none => s.hostData (BitVec.allOnes 64)
    | 5, _ => s.hostData (s.winRead vf win w.toNat)
    | _, _ => s

/-- A VF's buffer holds 1,024 writes: the link withholds the credits for another (R344). -/
def State.hostFull (s : State) (vf : Nat) : Bool := (s.links.hostq.filter fun e => e.vf == vf && e.kind < 4).length ≥ 1024

/-- A host access to a window comes to its context: it is kept while that is frozen. -/
def State.hostAct (s : State) (vf win kind : Nat) (w : W) : State :=
  match s.window vf win with
  | some (x, _) => if (s.ctx x).frz < 2 then s.hostAccess vf win kind w else s.modLinks fun l => { l with hostq := l.hostq ++ [⟨vf, win, kind, w, x⟩] }
  | none => s.hostAccess vf win kind w

/-- A host access to a window arrives (R344; log 78). A write for which the link grants no credit does not: it is still the host's to
send. -/
def State.hostArrives (s : State) (vf win kind : Nat) (w : W) : Out :=
  .next (match s.window vf win with
  | some (x, _) => if (s.ctx x).frz ≥ 2 ∧ kind < 4 ∧ s.hostFull vf then s else s.hostAct vf win kind w
  | none => s.hostAct vf win kind w)

/-- After THAW the host accesses kept for context x take effect in order; one whose window names another context since then comes to
that one. -/
def State.hostResume (s : State) (x : Nat) : State :=
  let es := s.links.hostq.filter (·.ctx == x)
  es.foldl (fun s e => s.hostAct e.vf e.win e.kind e.w) (s.modLinks fun l => { l with hostq := l.hostq.filter (·.ctx ≠ x) })

/-- PUSH: a host write to a window's PUSH register. -/
def execPush (vf win : Nat) (w : W) (s : State) : Out := s.hostArrives vf win 0 w
/-- PUSHT: a host write to a window's PUSHT register. -/
def execPusht (vf win : Nat) (w : W) (s : State) : Out := s.hostArrives vf win 1 w
/-- ACK: a host write to a window's ACK register. -/
def execAck (vf win : Nat) (w : W) (s : State) : Out := s.hostArrives vf win 2 w
/-- POP: a host read of a window's POP register (R343). -/
def execPop (vf win : Nat) (s : State) : Out := s.hostArrives vf win 4 0#64

/-- A host access of n bytes at offset off of a VF's BAR0, a write of some value or a read (R342 to R344): one that is not an aligned
8-byte access, or that names an unmapped window, has no effect, and such a read returns all ones. -/
def State.barAccess (s : State) (vf off n : Nat) (w : Option W) : Out :=
  let win := off / 4096
  match if n = 8 ∧ off % 8 = 0 then s.window vf win else none, w with
  | none, some _ => .next s
  | none, none => .next (s.hostData (BitVec.allOnes 64))
  | some _, none => if off % 4096 = 0x10 then execPop vf win s else s.hostArrives vf win 5 (nat (off % 4096))
  | some _, some v =>
    match off % 4096 with
    | 0x00 => execPush vf win v s
    | 0x08 => execPusht vf win v s
    | 0x28 => s.hostArrives vf win 3 v
    | 0x30 => execAck vf win v s
    | _ => .next s

/-- A read of the line at a place of the second tier or of the host returns poison or an error: every word of the line is poisoned (R323,
R340). -/
def State.readError (s : State) (a : Nat) : State :=
  if tier2Base ≤ a ∧ a < spdBase 0 then (wordsOf (a / 64 * 64) 64).foldl (fun s w => s.setPoison w true) s else s

/-- The host stores bytes in its own memory (R341). -/
def State.hostStore (s : State) (a : Nat) (b : List Byte) : Out :=
  if a + b.length > 2 ^ 52 then .next s
  else .next (((wordsOf (hostBase + a) b.length).foldl (fun s p => s.setPoison p false) s).putBytes (hostBase + a) b)

/-! Checkpoint (R346) -/

/-- The place of the safe tier. -/
def State.safeAt (s : State) : Nat := tier2Base + fld s.links.stsafe 30 14 * 2 ^ 30

/-- Bytes of HBM, and of each of its two bitmaps. -/
def hbmSize : Nat := 2 ^ 40
def bitmapSize : Nat := 2 ^ 34

/-- A bitmap of the HBM words that a table marks true. -/
def putBitmap (m : List Host.Cell) (a : Nat) (t : Tbl Bool) : List Host.Cell :=
  (t.filter fun (w, b) => b && w * 8 < hbmSize).foldl (fun m (w, _) =>
    Tbl.set 0#8 m (a + w / 8) (Tbl.get 0#8 m (a + w / 8) ||| BitVec.ofNat 8 (2 ^ (w % 8)))) (m.filter fun (i, _) => !(a ≤ i && i < a + bitmapSize))

/-- The words that a bitmap marks. -/
def readBitmap (m : List Host.Cell) (a : Nat) : List Nat :=
  (m.filter fun (i, _) => a ≤ i && i < a + bitmapSize).flatMap fun (i, b) => ((List.range 8).filter fun j => b.getLsbD j).map fun j => (i - a) * 8 + j

/-- Copies n bytes of memory from a to b, neither in GLB. -/
def copyMem (m : List Host.Cell) (a b n : Nat) : List Host.Cell :=
  (m.filter fun (i, _) => a ≤ i && i < a + n).foldl (fun t (i, v) => Tbl.set unlisted t (i - a + b) v) (m.filter fun (i, _) => !(b ≤ i && i < b + n))

/-- Writing 1 to CKCTL: refused unless every activated context is frozen. -/
def State.checkpoint (s : State) : State :=
  if s.links.ckst = 1 ∨ s.ctxs.any fun (_, c) => c.active && c.frz ≠ 3 then s.modLinks fun l => { l with ckerr := true }
  else s.modLinks fun l => { l with ckst := 1, ckerr := false, ckres := false, ckbytes := 0 }

/-- Writing 2 to CKCTL: refused when a context is activated. -/
def State.ckRestore (s : State) : State :=
  if s.links.ckst = 1 ∨ s.ctxs.any fun (_, c) => c.active then s.modLinks fun l => { l with ckerr := true }
  else s.modLinks fun l => { l with ckst := 1, ckerr := false, ckres := true, ckbytes := 0 }

/-- CKCTL: a write of 1. -/
def execCkctlCheckpoint (s : State) : Out := s.command State.checkpoint
/-- CKCTL: a write of 2. -/
def execCkctlRestore (s : State) : Out := s.command State.ckRestore

/-- CHECKPOINT_DONE: HBM, its FE bitmap and its poison bitmap stand in the safe tier behind a 4 KiB header, and are flushed. -/
def execCheckpointDone (s : State) : Out :=
  if s.links.ckst ≠ 1 ∨ s.links.ckres then .next s
  else
    let a := s.safeAt + 4096
    let m := copyMem s.mem 0 a hbmSize
    let m := putBitmap (putBitmap m (a + hbmSize) s.empty) (a + hbmSize + bitmapSize) s.poison
    .next (({ s with mem := m }).modLinks fun l => { l with ckst := 2, ckbytes := 4096 + hbmSize + 2 * bitmapSize })

/-- CHECKPOINT_RESTORE_DONE: HBM and its words' bits are as the image in the safe tier holds them. -/
def execCheckpointRestoreDone (s : State) : Out :=
  if s.links.ckst ≠ 1 ∨ !s.links.ckres then .next s
  else
    let a := s.safeAt + 4096
    let put (t : Tbl Bool) (ws : List Nat) : Tbl Bool := ws.foldl (fun t w => t.put w true) (t.filter fun (w, _) => w * 8 ≥ hbmSize)
    .next ({ s with
      mem := copyMem s.mem a 0 hbmSize
      empty := put s.empty (readBitmap s.mem (a + hbmSize))
      poison := put s.poison (readBitmap s.mem (a + hbmSize + bitmapSize))
      links := { s.links with ckst := 2, ckbytes := 4096 + hbmSize + 2 * bitmapSize } })

/-! Scale-up ports (R347 to R350) -/

/-- A command to a scale-up port: refused with cause 48 + p while one is in progress; each of the sixteen ports is present. -/
def State.portCommand (s : State) (cmd port : Nat) : State :=
  if s.links.xpcmd.isSome then s.raiseOpen (48 + port) else s.modLinks fun l => { l with xpcmd := some (port, cmd) }

/-- XPCMD with CMD 1. -/
def execXpcmdEnable (port : BitVec 4) (s : State) : Out := s.command fun s => s.portCommand 1 port.toNat
/-- XPCMD with CMD 2. -/
def execXpcmdDisable (port : BitVec 4) (s : State) : Out := s.command fun s => s.portCommand 2 port.toNat
/-- XPCMD with CMD 3. -/
def execXpcmdRetrain (port : BitVec 4) (s : State) : Out := s.command fun s => s.portCommand 3 port.toNat

/-- SCALE_UP_PORT_COMMAND_DONE: the command of a port ends with the port up or down; a disabled port is down. -/
def execScaleUpPortCommandDone (port : BitVec 4) (up : Bool) (s : State) : Out :=
  match s.links.xpcmd with
  | some (p, c) =>
    if p ≠ port.toNat ∨ (c = 2 ∧ up) then .next s
    else
      let b := BitVec.ofNat 16 (2 ^ p)
      .next (s.modLinks fun l => { l with xpcmd := none, xpup := if up then l.xpup ||| b else l.xpup &&& ~~~ b })
  | none => .next s

/-- XQ_FORWARD: forwarder j of context x pops an item of its local queue, of package scope, and pushes it to its remote queue; it holds
until the remote package has taken the item before (R348). -/
def execXqForward (x j : Nat) (s : State) : Out :=
  let cx := s.ctx x
  let m := Tbl.get 0#64 cx.xqmap j
  match s.granted x (fld m 50 12), s.findQueue x (low m 35) with
  | some g, some q =>
    if !m.getLsbD 63 ∨ cx.frz ≥ 2 ∨ (s.queue q).avail = 0 ∨ (s.queue q).scope ≠ 3 ∨ Tbl.get false cx.xqbusy j then .next s
    else
      let (_, i, s) := s.ringTake q
      let s := s.modCtx x fun cx => { cx with xqbusy := cx.xqbusy.put j true }
      .next ((s.qChanged q).toPackage (fld m 50 12) (.push (fld m 50 12) (x * 64 + j) (fld g 0 24) (Tbl.get 0#64 cx.xqrem j) i.w i.tok))
  | _, _ => .next s

/-- The cause that a remote package reports for a cause met here (R336). -/
def remoteCause (c : Nat) : Nat := if 96 ≤ c ∧ c ≤ 104 then c + 9 else c

/-- The unit that serves accesses from other packages, as a requester. -/
def portAgent : Who := .agent 2048

/-- An access from another package to n bytes at va of context x: the state with its lines held, a walk that it asks for, or a
cause. -/
def State.remoteReach (s : State) (x va n : Nat) (wr : Bool) : Except (Option Nat) State × State :=
  match s.links.xrej.find? fun e => e.1 == x && va / 4096 ≤ e.2.1 && e.2.1 ≤ (va + n - 1) / 4096 with
  | some e => (.error (some (remoteCause e.2.2)), { s with links := { s.links with xrej := s.links.xrej.filter (· ≠ e) } })
  | none => match s.reachAll x ((List.range n).map fun i => glbAt x (va + i)) (!wr) wr with
    | .ok t => (.ok t, s)
    | .error (.stop c _) => (.error (some (remoteCause c)), s)
    | .error (.walk a) => (.error none, s.askWalk portAgent x a wr)

/-- A record of a remote package's request that names no valid target (R319, SRC 7). -/
def State.remoteRecord (s : State) (x cause : Nat) (t : W) : State := s.unitRecord 0 7 cause t 0 0 0 0 x

/-- The runs of a put block: each has bytes, and all of them lie in 64-byte block blk of the address space. -/
def inBlock (blk : Nat) (runs : List (Nat × List Byte)) : Bool :=
  !runs.isEmpty && 64 * blk < 2 ^ 52 && runs.all fun (va, d) => !d.isEmpty && va / 64 == blk && (va + d.length - 1) / 64 == blk

/-- The parts of the first block that an operation still awaits, the next of which is answered with these bytes, and the rest (R225). -/
def EngOp.answered (o : EngOp) (data : List Byte) : List Remote × List Remote :=
  let blk := (o.remote.head?.map (·.place / 64)).getD 0
  let mine := o.remote.takeWhile (·.place / 64 == blk)
  let i := (mine.findIdx? (·.data.isNone)).getD 0
  (mine.modify i fun m => { m with data := some data }, o.remote.drop mine.length)

/-- CROSS_PACKAGE_ARRIVAL: message m from another package is applied; traffic for a frozen context, to a full queue or to a full mailbox is
refused and sent again (R228, R236, R333, R348, R349). -/
def execCrossPackageArrival (m : XMsg) (s : State) : Out :=
  let no : Out := .next s
  match m with
  | .put pkg eng op x runs =>
    let blk := ((runs.head?).map (·.1 / 64)).getD 0
    if (s.ctx x).frz ≥ 2 ∨ !inBlock blk runs then no
    else match s.remoteReach x (64 * blk) 64 true with
    | (.ok t, _) =>
      if t.mustWait none (glbAt x (64 * blk)) 64 then no
      else .next ((t.engWrites false (runs.map fun (va, d) => (glbAt x va, d))).toPackage pkg (.answer eng op [] 0))
    | (.error (some c), s) => .next (s.toPackage pkg (.answer eng op [] c))
    | (.error none, s) => .next s
  | .get pkg eng op x va n =>
    if (s.ctx x).frz ≥ 2 ∨ n = 0 ∨ va + n > 2 ^ 52 then no
    else match s.remoteReach x va n false with
    | (.ok t, _) =>
      if t.anyPoison (glbAt x va) n then .next (t.toPackage pkg (.answer eng op [] 128))
      else .next (t.toPackage pkg (.answer eng op (t.bytes (glbAt x va) n) 0))
    | (.error (some c), s) => .next (s.toPackage pkg (.answer eng op [] c))
    | (.error none, s) => .next s
  | .sendm x t d =>
    if (s.ctx x).frz ≥ 2 then no
    else match s.coreAt x (fld t 4 10) with
    | none => .next (s.remoteRecord x 297 t)
    | some c => if (s.core c).mail.length ≥ 64 then no else .next (s.mailAccept c (mailOf t d))
  | .push pkg fwd x h w tok =>
    let taken (s : State) : Out := .next (s.toPackage pkg (.taken fwd))
    if (s.ctx x).frz ≥ 2 then no
    else match s.findQueue x h with
    | none => taken (s.remoteRecord x 197 h)
    | some q =>
      let r := s.queue q
      if r.closed then taken (s.remoteRecord x 198 h)
      else if !r.takesNow then no
      else taken (s.qPush q 40000 ⟨w, tok⟩).2
  | .taken fwd => .next (s.modCtx (fwd / 64) fun cx => { cx with xqbusy := cx.xqbusy.del (fwd % 64) })
  | .answer eng op data cause =>
    match s.engOp eng op with
    | none => .next s
    | some o => match o.remote.find? (·.data.isNone) with
      | none => .next s
      | some m =>
        if cause ≠ 0 then .next (s.engStop eng op cause)
        else if o.req.xd then .next ((s.modEng eng op fun o => { o with remote := o.remote.drop 1 }).engLast eng op)
        else if data.length ≠ m.n then no
        else
          let (mine, rest) := o.answered data
          if mine.any (·.data.isNone) then .next (s.modEng eng op fun o => { o with remote := mine ++ rest })
          else match s.reachAll o.req.view (mine.flatMap fun m => placesFrom m.place m.n) false true with
          | .error ob => .next (s.engObst eng op o.req.ctx true ob)
          | .ok s =>
            if s.mustWait none (m.place / 64 * 64) 64 then no
            else
              let bs : Tbl Byte := mine.foldl (fun t m => (m.data.getD []).zipIdx.foldl (fun t (b, i) => t.put (m.place + i) b) t) []
              .next ((((s.engWrites false (runsOf bs)).modEng eng op fun o => { o with remote := rest }).sendCredit eng op (mine.foldl (fun n m => n + m.n) 0)).engEnd eng op)

end Sys2Proof.Machine
end

