-- ==== Sys2Proof/Machine/Rename.lean ====
section
/-! DEFINITION. Physical and virtual numbers (R49, R50): the records of a context renamed when it is frozen and when it is thawed on
other clusters. -/

namespace Sys2Proof.Machine

/-- A renaming of slots (streams of cluster p from 16,384 + 4p on), of interfaces, of clusters and of places. -/
structure Ren where
  slot : Nat → Nat
  face : Nat → Nat
  clu : Nat → Nat
  place : Nat → Nat

/-- Renames slots and interfaces by a renaming of clusters and dies; the host's numbers stand. -/
def renSlot (cl : Nat → Nat) (k : Nat) : Nat := if k ≥ 32768 then k else if k ≥ 16384 then 16384 + cl ((k - 16384) / 4) * 4 + k % 4 else cl (k / 128) * 128 + k % 128
def renFace (cl die : Nat → Nat) (i : Nat) : Nat :=
  if i < 1024 then cl (i / 8) * 8 + i % 8
  else if i < 1152 then 1024 + cl (i - 1024)
  else if i < 1156 then 1152 + die (i - 1152)
  else if 2304 ≤ i ∧ i < 2432 then 2304 + cl (i - 2304)
  else i

/-- The virtual die whose window of context x holds a place of die SRAM, with the offset in the window. -/
def State.windowOf (s : State) (x a : Nat) : Option (Nat × Nat) :=
  (List.range 4).findSome? fun d =>
    let b := dsrBase ((s.homeDie x d).getD 0) + fld (Tbl.get 0#64 (s.ctx x).dsrwin d) 16 9 * 65536
    if b ≤ a ∧ a < b + s.winSize x d then some (d, a - b) else none

/-- From physical to virtual numbers of context x. -/
def State.toVirtual (s : State) (x : Nat) : Ren :=
  let cl (p : Nat) : Nat := match s.owner p with | some (y, v) => if y = x then v else p | none => p
  let die (d : Nat) : Nat := ((List.range 4).find? fun v => s.homeDie x v == some d).getD d
  { slot := renSlot cl, clu := cl, face := renFace cl die
    place := fun a =>
      if a ≥ glb0 then a
      else if a ≥ 2 ^ 62 then (match s.windowOf x a with | some (d, o) => dsrBase d + o | none => a)
      else if a ≥ 2 ^ 61 then let c := (a - 2 ^ 61) / 2 ^ 18; tcmBase (cl (c / 8) * 8 + c % 8) + a % 2 ^ 18
      else if a ≥ 2 ^ 60 then spdBase (cl ((a - 2 ^ 60) / 2 ^ 21)) + a % 2 ^ 21
      else a }

/-- From virtual numbers of context x to physical ones. -/
def State.toPhysical (s : State) (x : Nat) : Ren :=
  let cl (v : Nat) : Nat := (s.place x v).getD v
  let die (d : Nat) : Nat := (s.homeDie x d).getD d
  { slot := renSlot cl, clu := cl, face := renFace cl die
    place := fun a =>
      if a ≥ glb0 then a
      else if a ≥ 2 ^ 62 then s.windowAt x ((a - 2 ^ 62) / 2 ^ 25) + a % 2 ^ 25
      else if a ≥ 2 ^ 61 then let c := (a - 2 ^ 61) / 2 ^ 18; tcmBase (cl (c / 8) * 8 + c % 8) + a % 2 ^ 18
      else if a ≥ 2 ^ 60 then spdBase (cl ((a - 2 ^ 60) / 2 ^ 21)) + a % 2 ^ 21
      else a }

def TaskRec.ren (f : Ren) (r : TaskRec) : TaskRec := { r with reply := r.reply.map f.slot }
def EngReq.ren (f : Ren) (r : EngReq) : EngReq := { r with k := f.slot r.k }
def MatReq.ren (f : Ren) (r : MatReq) : MatReq := { r with k := f.slot r.k }
def EngOp.ren (f : Ren) (o : EngOp) : EngOp :=
  { o with req := o.req.ren f, plan := o.plan.map fun bs => bs.map fun b => { b with place := f.place b.place } }
def MatOp.ren (f : Ren) (o : MatOp) : MatOp := { o with req := o.req.ren f }
def Parked.ren (f : Ren) (q : Parked) : Parked := { q with k := f.slot q.k, cl := f.clu q.cl, late := false }
def Stream.ren (f : Ren) (st : Stream) : Stream := { st with c := f.slot (16 * st.c) / 16 }
def Counter.ren (f : Ren) (c : Counter) : Counter := { c with task := c.task.ren f }

/-- A monitor goes with the place whose block it watches (R137). -/
def Monitor.ren (f : Ren) (m : Monitor) : Monitor := { m with block := f.place (64 * m.block) / 64 }

def Undo.ren (f : Ren) : Undo → Undo
  | .bytes a b => .bytes (f.place a) b
  | .record q g => .record (f.clu (q / 64) * 64 + q % 64) g
  | .group x n => .group x n
  | .mons on off => .mons (on.map fun (i, m) => (i, m.ren f)) off

/-- A slot's monitors and what its pending instruction would undo. -/
def Slot.ren (f : Ren) (sl : Slot) : Slot :=
  { sl with mons := sl.mons.map fun (i, m) => (i, m.ren f), latch := { sl.latch with undo := sl.latch.undo.map (Undo.ren f) } }

def Queue.ren (f : Ren) (q : Queue) : Queue :=
  { q with
    inbox := q.inbox.map fun (k, i) => (f.slot k, i)
    held := q.held.map fun o => { o with k := f.slot o.k }
    rsv := q.rsv.map fun o => { o with k := f.slot o.k }
    places := q.places.map fun (k, b) => (f.slot k, b)
    cons := q.cons.map fun (k, b) => (f.slot k, b)
    prod := q.prod.map fun (k, i) => (f.slot k, i)
    stuckAt := none }

def Group.ren (f : Ren) (g : Group) : Group :=
  { g with members := g.members.map f.slot, pending := g.pending.map f.slot, arrived := g.arrived.map f.slot
           parked := g.parked.map f.slot, leavers := g.leavers.map f.slot, early := g.early.map f.slot }

/-- A core's state without its counters (R27, Table 13-4): the writes of shared registers have landed, and a sweep for work begins
again. -/
def Core.ren (f : Ren) (c : Core) : Core :=
  { c.landAll with cyc := 0, beat := 0, stealing := false, sweep := 0, tried := 0, rest := none, deque := c.deque.map (TaskRec.ren f), arrived := c.arrived.map (TaskRec.ren f), pinned := c.pinned.map f.slot, normQ := [] }

/-- The part of a cluster that belongs to its context: queues, counter bank, engines, B-store (Table 13-4). -/
def Cluster.ren (f : Ren) (c : Cluster) : Cluster :=
  { queues := c.queues.map fun (i, q) => (i, q.ren f)
    bank := c.bank.map fun (i, k) => (i, k.ren f)
    matq := c.matq.map (MatOp.ren f)
    matPort := c.matPort.map (MatReq.ren f)
    handles := c.handles
    bpoison := c.bpoison
    staged := c.staged
    kept := c.kept.map fun b => { b with k := f.slot b.k }
    keepRsv := c.keepRsv.map f.slot
    copyOps := c.copyOps.map (EngOp.ren f)
    indOps := c.indOps.map (EngOp.ren f)
    streams := c.streams.map fun (i, st) => (i, st.ren f) }

/-- Parade counters under other numbers (R264): counter i becomes f i, and those that become one add up. -/
def renCounts (f : Nat → Nat) (t : Tbl Int) : Tbl Int := t.foldl (fun t (i, n) => t.put (f i) (Tbl.get 0 t (f i) + n)) []
def renBlacks (f : Nat → Nat) (t : Tbl Bool) : Tbl Bool := t.foldl (fun t (i, b) => t.put (f i) (b || Tbl.get false t (f i))) []

/-- A parade counter at the interface that a renaming gives; `out`: for an image, in which the counter of an edge interface for a die's
instance stands at that virtual die. -/
def Ren.count (f : Ren) (out : Bool) (i : Nat) : Nat :=
  (if out && decide (i / 512 ≥ 1152) && i / 128 % 4 == 2 then 1152 + i % 128 else f.face (i / 512)) * 512 + i % 512

/-- A request that waits for resend, which may be sent at once. -/
def Msg.ren (f : Ren) (m : Msg) : Msg :=
  { m with
    src := f.face m.src
    dst := f.face m.dst
    back := some 0
    body := match m.body with
      | .task r => .task (r.ren f)
      | .engine r => .engine (r.ren f)
      | .mail k d x => .mail (f.slot k) d x
      | b => b }

end Sys2Proof.Machine
end

