-- ==== Sys2Proof/Machine/Freeze.lean ====
section
/-! DEFINITION. Pre-emption (R330 to R332, Tables 13-4 and 13-5): FREEZE, its completion, THAW and its completion. A context's state
stands in the safety net, in the model's own layout where Table 13-5 gives none. -/

namespace Sys2Proof.Machine

/-! What belongs to a context -/

/-- The virtual clusters of context x that are placed, with their physical clusters. -/
def State.placed (s : State) (x : Nat) : List (Nat × Nat) := (List.range 128).filterMap fun v => (s.place x v).map fun p => (v, p)

/-- Slot k is one of context x: no ringmaster's slot is. -/
def State.slotIn (s : State) (x k : Nat) : Bool := !isRing (coreOf k) && (s.owner (cluOf k)).any (·.1 == x)

/-- The slots of context x that are listed. -/
def State.slotsOf (s : State) (x : Nat) : List Nat := (s.slots.filter fun (k, _) => s.slotIn x k).map (·.1)

/-- The cores of context x: a ringmaster's core is none of them. -/
def State.coresOf (s : State) (x : Nat) : List Nat := (s.placed x).flatMap fun (_, p) => ((List.range 8).map (8 * p + ·)).filter fun c => !isRing c

/-- The engines that may hold operations of context x. -/
def State.enginesOf (s : State) (x : Nat) : List Nat :=
  (s.placed x).flatMap (fun (_, p) => [p, 128 + p]) ++ (List.range 64).map (256 + ·)

/-! Pinned slots (R22, R280) -/

/-- Firmware writes the state that record r gives slot k, a FREE slot of a context, and leaves the slot out of the rotation. -/
def State.pin (s : State) (k : Nat) (r : TaskRec) : State :=
  let c := coreOf k
  if k < 16384 ∧ !isRing c ∧ (s.slot k).st = .free ∧ k ∉ (s.core c).reserved then
    (s.modSlot k fun sl => { sl.landed r with st := .frozen }).modCore c fun co => { co with pinned := co.pinned ++ [k] }
  else s

/-- Sends core c the start message for the slots that it holds for it. -/
def State.sendStart (s : State) (c : Nat) : State := s.send 0 (portSlice 0) c (.start (s.core c).pinned)

/-- Firmware starts context x: one message to each core that holds a pinned slot. -/
def State.launchCtx (s : State) (x : Nat) : State := ((s.coresOf x).filter fun c => !(s.core c).pinned.isEmpty).foldl State.sendStart s

/-! Step 1 to 4 of FREEZE (R330) -/

/-- Withdraws what slot k has asked for and not got; its instruction is pending reissue (R330 step 3). Places in lists are kept, as is an
operation of an engine; what has taken effect is answered first. A slot that waits for the solo grant asks for it again after THAW
(R254). -/
def State.stopRequest (s : State) (k : Nat) : State :=
  match (s.slot k).wait with
  | .solo => { s with soloQ := s.soloQ.filter (· ≠ k) }
  | .fe => s
  | .bbar => s
  | .group => s
  | .queue => s
  | .engine => s
  | .monitor _ => s
  | .message _ _ _ => s
  | _ => s.recall k

/-- Slot k stops: a chunk without its grant is squashed, requests are withdrawn. A solo grantee gives the grant back and is to ask for it
again, whatever its chunk waits for (R254). -/
def State.stopSlot (s : State) (k : Nat) : State :=
  let sl := s.slot k
  if sl.st = .free ∨ sl.st = .faulted ∨ sl.st = .frozen ∨ sl.st = .parkNorm then s
  else
    let s := if sl.chunk.count > 0 ∨ sl.chunk.global then s.squash k else s
    let s := (s.endSolo k).stopRequest k
    if sl.solo then s.modSlot k fun sl => { sl with st := .parkMem, wait := .solo, pend := none, latch := {} } else s

/-- What an operation of the indirect engine abandons (Table 13-4): ISECT all, RSORT the pass in progress. -/
def EngOp.stopped (x : Nat) (o : EngOp) : EngOp :=
  if o.req.ctx = x ∧ o.req.kind ≥ 3 ∧ !o.done then { o with plan := none, wrote := 0, got := if o.plane = 0 then [] else o.got } else o

/-- FREEZE begins (R330 steps 1 to 5): slots stop, requests are withdrawn, the context's parades are abandoned and the drain starts. -/
def State.freezeStart (s : State) (x : Nat) : State :=
  let s := (s.slotsOf x).foldl State.stopSlot s
  let s : State := { s with
    walks := s.walks.filter fun w => w.x ≠ x || match w.who with | .red _ => true | _ => false
    resv := s.resv.filter fun r => r.ctx ≠ x || r.red }
  let s : State := { s with misses := s.misses.filter fun m => m.x ≠ x || !(s.waiters m).isEmpty }
  let s := (s.enginesOf x).foldl (fun s e => if (s.engOps e).isEmpty then s else s.setEngOps e ((s.engOps e).map (EngOp.stopped x))) s
  let s := (s.placed x).foldl (fun s (_, p) => s.modClu p fun c => { c with mirrors := [] }) s
  let r := s.interfaces x 3 0
  s.modCtx x fun cx => { cx with frz := 2, frzSlot := some s.cur, parades := [{ scope := 3, inst := 0, route := r, todo := r, kind := 2 }] }

/-- FREEZE and THAW take {GEN, ASID}; the cause of a refusal goes to rd. -/
def State.freezeRefusal (s : State) (a : W) : Option Nat :=
  let cx := s.ctx (fld a 0 24)
  if fld a 24 40 ≠ 0 ∨ !cx.active ∨ cx.frz = 3 then some 39
  else if !cx.snbase.getLsbD 0 then some 43
  else if cx.frz ≠ 0 then some 45
  else none

/-- FREEZE (R330). -/
def execFreeze (d a : R6) (s : State) : Out :=
  .next (s.modeOnlyF fun s => s.withOps 4 [a] (some d) true none fun vs s =>
    s.onReply (fun v s => s.finish true 4 d (asW v)) fun s =>
      match s.freezeRefusal (vs.getD 0 0#64) with
      | some c => s.finish true 4 d (nat c)
      | none => (s.freezeStart (fld (vs.getD 0 0#64) 0 24)).park .parkMem .system)

/-! The safety net (Table 13-5) -/

/-- The place of a context's safety net. -/
def State.netAt (s : State) (x : Nat) : Nat := fld (s.ctx x).snbase 21 31 * 2 ^ 21

def netClu (b v : Nat) : Nat := b + 0x100000 + v * 0x1000000
def netTcm (b v c : Nat) : Nat := netClu b v + c * 0x60000
def netSlot (b v c i : Nat) : Nat := netTcm b v c + 0x40000 + i * 0x1000
def netSpd (b v : Nat) : Nat := netClu b v + 0x300000
def netDsr (b d : Nat) : Nat := b + 0x80100000 + d * 0x2000000

/-- The memories of virtual clusters vs of context x, and its windows with so many bytes, as {place, place in the net, bytes}. -/
def State.netRegionsOf (s : State) (x b : Nat) (vs : List (Nat × Nat)) (win : Nat → Nat) : List (Nat × Nat × Nat) :=
  vs.flatMap (fun (v, p) =>
    (spdBase p, netSpd b v, 2 ^ 21) :: ((List.range 8).filter fun c => !isRing (8 * p + c)).map fun c => (tcmBase (8 * p + c), netTcm b v c, 2 ^ 18))
    ++ ((List.range 4).filter fun d => win d > 0).map fun d => (s.windowAt x d, netDsr b d, win d)

/-- The memories of context x. -/
def State.netRegions (s : State) (x b : Nat) : List (Nat × Nat × Nat) := s.netRegionsOf x b (s.placed x) (s.winSize x)

/-- A range of words is not poisoned and not empty any more. -/
def State.clearMarks (s : State) (a n : Nat) : State :=
  { s with empty := s.empty.filter fun (w, _) => !(a ≤ w * 8 && w * 8 < a + n), poison := s.poison.filter fun (w, _) => !(a ≤ w * 8 && w * 8 < a + n) }

/-- A wait as it is saved. -/
def Slot.saved (sl : Slot) : Slot :=
  let again : Slot := if sl.pend.isSome then { sl with wait := .reissue } else { sl with st := .run, wait := .none }
  let sl' : Slot := match sl.st with
    | .free => sl
    | .run => sl
    | .faulted => sl
    | .frozen => sl
    | _ => match sl.wait with
      | .fe => sl
      | .bbar => sl
      | .group => sl
      | .queue => sl
      | .message _ _ _ => sl
      | .engine => sl
      | .monitor _ => sl
      | .solo => sl
      | _ => again
  { sl' with fbuf := [], chunk := {}, commitReq := false, solo := false, nudged := false, mons := sl.mons.map fun (i, m) => (i, { m with hit := true }) }

/-- {STATE, REISSUE} of a saved slot (R331): an instruction pending reissue, or a chunk that restarts once it has the solo grant. -/
def Slot.stateBits (sl : Slot) : Nat := sl.st.code + if sl.wait = .reissue ∨ sl.wait = .solo then 16 else 0

/-- The registers of a slot area: offset and value (R331). -/
def State.slotArea (s : State) (k : Nat) : List (Nat × W) :=
  let sl := s.slot k
  let it := match sl.iter with | some i => [1, i.p, i.g, i.total, i.e0, i.e1, i.e2, i.e3] | none => [0, 0, 0, 0, 0, 0, 0, 0]
  (List.range 32).map (fun i => (8 * i, s.xget k i)) ++ (List.range 8).map (fun i => (0x100 + 8 * i, s.eget k i))
    ++ (List.range 8).map (fun i => (0x140 + 8 * i, s.mget k i)) ++ (List.range 15).map (fun i => (0x180 + 8 * i, s.slotReg k i))
    ++ it.zipIdx.map (fun (v, i) => (0x200 + 8 * i, nat v))
    ++ [(0x240, sl.pc), (0x248, nat sl.saved.stateBits)]
    ++ (List.range 32).flatMap fun i => (List.range 8).map fun j => (0x400 + 64 * i + 8 * j, nat (lane (s.vget k i) 64 j))

/-- Writes words of 8 bytes. -/
def State.putWords (s : State) (a : Nat) (ws : List (Nat × W)) : State := ws.foldl (fun s (o, w) => s.putBytes (a + o) (leBytes w.toNat 8)) s

/-- The header of context x's safety net: words 0 to 7. -/
def State.netHeader (s : State) (x : Nat) : List (Nat × W) :=
  let mask (h : Nat) : Nat := (s.placed x).foldl (fun n (v, _) => if v / 64 = h then n + 2 ^ (v % 64) else n) 0
  [nat (2 ^ 63 + x), nat (s.ctx x).frzCount, nat (mask 0), nat (mask 1)].zipIdx.map (fun (w, i) => (8 * i, w))
    ++ (List.range 4).map fun d => (32 + 8 * d, nat (s.winSize x d / 65536))

/-- A bitmap of n bytes at a place. -/
def State.putBits (s : State) (a n : Nat) (f : Nat → Bool) : State :=
  s.putBytes a ((List.range n).map fun i => BitVec.ofNat 8 ((List.range 8).foldl (fun t j => if f (8 * i + j) then t + 2 ^ j else t) 0))

/-- A section of the net whose contents the spec names without a layout: the bytes that its records do not take are not known (log 63). -/
def State.netOpaque (s : State) (a n : Nat) : State :=
  { s.putBytes a ((List.range n).map fun i => Config.freeByte (s.tick * 2 ^ 32 + i)) with tick := s.tick + 1 }.clearMarks a n

/-- The sections without a layout (Table 13-5): place and bytes. -/
def State.netBlanks (s : State) (x b : Nat) : List (Nat × Nat) :=
  (List.range 4).map (fun d => (b + 0x10000 + d * 0x10000, 0x10000)) ++ [(b + 0x50000, 0x40000)]
    ++ (s.placed x).flatMap fun (v, _) => (List.range 8).map (fun c => (netTcm b v c + 0x50000, 0x10000))
      ++ [(0x510000, 0xF0000), (0x600000, 0x800000), (0xE00000, 0x100000), (0xF00000, 0x100000)].map fun (o, n) => (netClu b v + o, n)

/-- The core state of core c as its section of the net holds it (Table 13-5; log 63): g0 to g15, then the bindings of q0 to q11. -/
def State.coreWords (s : State) (c : Nat) : List (Nat × W) :=
  (List.range 16).map (fun i => (8 * i, Tbl.get 0#64 (s.core c).g i)) ++ (List.range 12).map fun i => (0x80 + 8 * i,
    match (s.core c).q.find i with
    | some e => nat (2 ^ 63 + (if e.stream then 2 ^ 62 else 0) + e.dir * 2 ^ 40 + fld e.h 0 35)
    | none => 0#64)

/-- The core state that a section holds. -/
def State.readCore (s : State) (a : Nat) (co : Core) : Core :=
  let g (i : Nat) : W := nat (s.num (a + 8 * i) 8)
  { co with
    g := (List.range 16).foldl (fun t i => t.put i (g i)) []
    q := (List.range 12).foldl (fun t i => let w := g (16 + i); if w.getLsbD 63 then t.put i { h := nat (fld w 0 35), dir := fld w 40 2, stream := w.getLsbD 62 } else t) [] }

/-- A word of a core's state in the net is poisoned: every slot of the core that is in use takes cause 135 (R332; log 63). -/
def State.corePoison (s : State) (a : Nat) : Bool := s.anyPoison a 0xE0

/-- The B-store's section holds the poison of word w at 8 · w (R332). -/
def bstoreAt (b v : Nat) : Nat := netClu b v + 0x600000

/-! The records of the other sections (log 63) -/

/-- A section of the net: its place and size, the bytes of a context's records that stand there, and the context with the records that bytes
are. -/
structure Section where
  at_ : Nat
  size : Nat
  put : Ctx → List Byte
  get : List Byte → Ctx → Ctx

/-- The section that holds the part f of a context's records. -/
def sectionOf {α : Type} (a n : Nat) (c : Codec α) (f : Ctx → α) (g : α → Ctx → Ctx) : Section := ⟨a, n, fun cx => c.put (f cx), fun bs => g (c.get bs).1⟩

/-- The image of a context changed. -/
def Ctx.imaged (cx : Ctx) (f : Image → Image) : Ctx := { cx with image := f cx.image }

/-- The elements of a list that satisfy f become l. -/
def swapOut {α : Type} (f : α → Bool) (t l : List α) : List α := t.filter (fun a => !f a) ++ l

/-- FE instructions by number; a waiter of a byte barrier has 7. -/
def feOps : List FeOp := [.ldf, .ldff, .ste, .stf, .feset, .feclr, .festat]

/-- The waiters of an image at places that satisfy f: place, slot and FE instruction. -/
def Image.waiters (im : Image) (f : Nat → Bool) : List (List Nat) :=
  ((im.feWait.filter fun w => f w.place).map fun w => [w.place, w.k, feOps.idxOf w.op]) ++ (im.bbWait.filter fun w => f w.1).map fun (a, k) => [a, k, 7]

/-- Those waiters become ws; the value that an FE instruction stores stands among its slot's latched operands. -/
def Image.setWaiters (im : Image) (f : Nat → Bool) (ws : List (List Nat)) : Image :=
  { im with
    feWait := swapOut (fun w => f w.place) im.feWait (ws.filterMap fun w =>
      (feOps[numAt w 2]?).map fun o => ⟨numAt w 1, numAt w 0, o, (((Tbl.get {} im.slots (numAt w 1)).latch.vals).getD []).getD 1 0#64, 0⟩)
    bbWait := swapOut (fun w => f w.1) im.bbWait ((ws.filter fun w => numAt w 2 == 7).map fun w => (numAt w 0, numAt w 1)) }

/-- A slot's record, above the registers of its area. -/
def slotSection (b tid : Nat) : Section :=
  sectionOf (netSlot b (tid / 128) (tid / 16 % 8) (tid % 16) + 0xC00) 0x400 slotCodec.opt (fun cx => cx.image.slots.find tid) fun r cx =>
    cx.imaged fun im => { im with slots := match r with
      | some sl => im.slots.put tid { sl with pend := (Tbl.get {} im.slots tid).pend }
      | none => match im.slots.find tid with
        | some old => im.slots.put tid { pend := old.pend }
        | none => im.slots }

/-- A core's record after its shared registers, with the marks of its TCM and the messages that it is to resend. -/
def coreSection (b n : Nat) : Section :=
  let tcm (a : Nat) : Bool := tcmBase n ≤ a && a < tcmBase n + 2 ^ 18
  sectionOf (netTcm b (n / 8) (n % 8) + 0x50100) 0xFF00 (coreCodec.pair (Codec.nat.list.pair (Codec.nat.list.pair msgCodec.list)))
    (fun cx => (Tbl.get {} cx.image.cores n, cx.image.empties.filter tcm, cx.image.poisons.filter tcm, cx.image.msgs.filter (·.src == n)))
    fun (c, es, ps, ms) cx => cx.imaged fun im =>
      { im with cores := im.cores.put n c, empties := swapOut tcm im.empties es, poisons := swapOut tcm im.poisons ps, msgs := swapOut (·.src == n) im.msgs ms }

/-- The sections of virtual cluster v: matrix engine, B-store, counters with queue records and waiter lists, and copy and indirect
operations. -/
def clusterSections (b v : Nat) : List Section :=
  let here (a : Nat) : Bool := (spdBase v ≤ a && a < spdBase (v + 1)) || (tcmBase (8 * v) ≤ a && a < tcmBase (8 * v + 8))
  let old (cx : Ctx) : Cluster := Tbl.get {} cx.image.clusters v
  let set (cx : Ctx) (c : Cluster) : Ctx := cx.imaged fun im => { im with clusters := im.clusters.put v c }
  let resent (m : Msg) : Bool := m.src == engIf v
  [ sectionOf (netClu b v + 0x510000) 0xF0000
      (matOpCodec.list.pair (matReqCodec.list.pair (handleCodec.tbl.pair (bankCodec.opt.pair (Codec.nat.opt.pair kBlockCodec.list)))))
      (fun cx => let c := old cx; (c.matq, c.matPort, c.handles, c.kept, c.keepRsv, c.staged))
      fun (q, p, h, k, r, g) cx =>
        let c := old cx
        let tiles : Tbl Handle := (c.handles.filter fun (_, e) => !e.cols.isEmpty).map fun (i, e) => (i, { cols := e.cols })
        set cx { c with matq := q, matPort := p, kept := k, keepRsv := r, staged := g
                        handles := h.foldl (fun t (i, e) => t.put i { e with cols := (Tbl.get {} tiles i).cols }) tiles },
    sectionOf (bstoreAt b v) 0x800000 kBlockCodec.list.list.tbl
      (fun cx => (old cx).handles.map fun (i, e) => (i, e.cols))
      fun t cx =>
        let c := old cx
        set cx { c with handles := c.handles.map fun (i, e) => (i, { e with cols := Tbl.get [] t i }) },
    sectionOf (netClu b v + 0xE00000) 0x100000 (queueCodec.tbl.pair (counterCodec.tbl.pair (Codec.nums 3).list))
      (fun cx => let c := old cx; (c.queues, c.bank, cx.image.waiters here))
      fun (q, k, ws) cx => (set cx { old cx with queues := q, bank := k }).imaged fun im => im.setWaiters here ws,
    sectionOf (netClu b v + 0xF00000) 0x100000 (engOpCodec.list.pair (engOpCodec.list.pair (streamCodec.tbl.pair msgCodec.list)))
      (fun cx => let c := old cx; (c.copyOps, c.indOps, c.streams, cx.image.msgs.filter resent))
      fun (o, i, t, ms) cx => (set cx { old cx with copyOps := o, indOps := i, streams := t }).imaged fun im => { im with msgs := swapOut resent im.msgs ms } ]

/-- The section of virtual die d: groups, edge operations, turnstile entries and the marks of its window; that of die 0 has the parade
counters and what an edge interface is to resend too. -/
def dieSection (b d : Nat) : Section :=
  let win (a : Nat) : Bool := dsrBase d ≤ a && a < dsrBase d + 2 ^ 25
  let resent (m : Msg) : Bool := d == 0 && m.src ≥ 1152
  sectionOf (b + 0x10000 + d * 0x10000) 0x10000
    (groupCodec.tbl.pair (engOpCodec.tbl.pair (parkedCodec.tbl.pair (Codec.nat.list.pair (Codec.nat.list.pair (Codec.int.tbl.pair (Codec.bool.tbl.pair msgCodec.list)))))))
    (fun cx =>
      let im := cx.image
      (cx.groups.filter (·.1 / 256 == d), im.edges.filter (·.1 == d), im.parked.filter (·.1 == d), im.empties.filter win, im.poisons.filter win, if d = 0 then cx.counts else [],
        if d = 0 then cx.blacks else [], im.msgs.filter resent))
    fun (g, e, p, es, ps, n, k, ms) cx =>
      { cx with groups := g.foldl (fun t (i, e) => t.put i e) (cx.groups.filter (·.1 / 256 ≠ d)), counts := if d = 0 then n else cx.counts, blacks := if d = 0 then k else cx.blacks }.imaged fun im =>
        { im with edges := swapOut (·.1 == d) im.edges e, parked := swapOut (·.1 == d) im.parked p, empties := swapOut win im.empties es, poisons := swapOut win im.poisons ps
                  msgs := swapOut resent im.msgs ms }

/-- The section of the waiters at GLB and DSR homes of context x, 16 bytes each: a GLB place by its address. -/
def waiterSection (x b : Nat) : Section :=
  sectionOf (b + 0x50000) 0x40000 waiterCodec.list
    (fun cx => (cx.image.waiters isGlobal).map fun w => (if numAt w 0 ≥ glb0 then glbVa (numAt w 0) else numAt w 0, numAt w 1 + numAt w 2 * 65536))
    fun ws cx => cx.imaged fun im => im.setWaiters isGlobal (ws.map fun (a, n) => [if a < 2 ^ 52 then glbAt x a else a, n % 65536, n / 65536 % 8])

/-- The sections for the virtual clusters vs of context x, the slots before the waiter lists. -/
def netSections (x b : Nat) (vs : List Nat) : List Section :=
  vs.flatMap (fun v => (List.range 128).map fun i => slotSection b (v * 128 + i)) ++ vs.flatMap (fun v => (List.range 8).map fun c => coreSection b (v * 8 + c))
    ++ vs.flatMap (clusterSections b) ++ (List.range 4).map (dieSection b) ++ [waiterSection x b]

/-- Writes the records of a section, as context cx has them, after their number of bytes plus 1, and takes them out of context x; records that
do not fit stay there, and the number is 0. -/
def State.putSection (x : Nat) (cx : Ctx) (s : State) (e : Section) : State :=
  let bs := e.put cx
  if bs.length + 8 ≤ e.size then (s.putBytes e.at_ (leBytes (bs.length + 1) 8 ++ bs)).modCtx x (e.get []) else s.putBytes e.at_ (leBytes 0 8)

/-- Reads the records of a section. -/
def State.getSection (x : Nat) (s : State) (e : Section) : State :=
  match s.num e.at_ 8 with
  | 0 => s
  | n + 1 => s.modCtx x (e.get ((List.range (Nat.min n e.size)).map fun i => s.byteAt (e.at_ + 8 + i)))

/-- Step 6: the memories, the scratchpads' FE and poison bitmaps, the slot areas, the other sections and last the header are written. -/
def State.writeNet (s : State) (x : Nat) : State :=
  let b := s.netAt x
  let s0 := s
  let s := (s.netRegions x b).foldl (fun s (a, n, len) => ({ s with mem := copyMem s.mem a n len }).clearMarks n len) s
  let s := (s.placed x).foldl (fun s (v, p) =>
    let a := netClu b v + 0x500000
    ((s.putBits a 0x8000 fun i => s0.fullAt (spdBase p + 8 * i)).putBits (a + 0x8000) 0x8000 fun i => s0.poisonAt (spdBase p + 8 * i)).clearMarks a 0x10000) s
  let s := (s.placed x).foldl (fun s (v, p) => (List.range 128).foldl (fun s i =>
    let k := p * 128 + i
    let a := netSlot b v (i / 16) (i % 16)
    if isRing (coreOf k) then s else (s.putWords a (s.slotArea k)).clearMarks a 0x1000) s) s
  let s := (s.netBlanks x b).foldl (fun s (a, n) => s.netOpaque a n) s
  let s := (s.placed x).foldl (fun s (v, p) =>
    let s := (List.range 8).foldl (fun s c => if isRing (8 * p + c) then s else s.putWords (netTcm b v c + 0x50000) (s.coreWords (8 * p + c))) s
    ((s.clu p).bpoison.filter (·.2)).foldl (fun s (w, _) => s.setPoison (bstoreAt b v + 8 * w) true) s) s
  let s := (netSections x b ((s.placed x).map (·.1))).foldl (State.putSection x (s.ctx x)) s
  (s.putWords b (s.netHeader x)).clearMarks b 64

/-- The safety net lies in HBM whole. -/
def State.netFits (s : State) (x : Nat) : Bool :=
  let b := s.netAt x
  b + 0x60000 ≤ 2 ^ 40 && (s.netRegions x b).all fun (_, n, len) => n + len ≤ 2 ^ 40

/-! Saving (Table 13-4) -/

/-- The e5 that a walk gives its tiles. -/
def State.walkFlags (s : State) (r : MatReq) : W :=
  (((s.clu (cluOf r.k)).matq.find? (·.id == r.walk)).map (·.req.g 5)).getD (r.g 5)

/-- The grouped tiles of context x that have not started, queued or at their engine's port, with their virtual dies: their references are
dropped. -/
def State.dropTiles (s : State) (x : Nat) : List (Nat × Parked) × State :=
  (s.placed x).foldl (fun (ps, s) (v, p) =>
    let port := (s.clu p).matPort.filter (·.expert.isSome)
    let rs := (((s.clu p).matq.filter fun o => o.st == 0 && o.req.expert.isSome).map (·.req)) ++ port
    let s := s.modClu p fun c => { c with matq := c.matq.filter fun o => !(o.st == 0 && o.req.expert.isSome), matPort := c.matPort.filter (·.expert.isNone) }
    let s := s.matAdmit p 33
    rs.foldl (fun (ps, s) r =>
      let key := r.expert.getD 0#64
      let q : Parked := ⟨key, r.tile.getD 0#64, x, r.k, p, s.walkFlags r, r.rm, r.walk, true, false⟩
      let s := match s.expertOf key.toNat with | some e => s.exSetRefs e key.toNat (· - 1) | none => s
      let s := s.modMat (cluOf r.k) r.walk fun w => { w with open_ := w.open_ - 1 }
      (ps ++ [(v / 32, q)], s)) (ps, s)) ([], s)

/-- Makes the overflow lists of context x readable; an obstacle's state where one is not yet (R308, R327). -/
def State.ovReady (s : State) (x : Nat) : Except State State :=
  (List.range 4).foldl (fun r d => r.bind fun s =>
    match s.ovAll x d with
    | .ok (_, s) => .ok s
    | .error (.walk va) => .error (if s.walking (dieAgent d) then s else s.askWalk (dieAgent d) x va)
    | .error (.stop c a) => .error (s.ovFails d x c (addrOf a))) (.ok s)

/-- The entries of die d's overflow list of context x, oldest first. -/
def State.ovEntries (s : State) (x d : Nat) : List Parked :=
  match s.ovAll x d with
  | .ok (l, _) => l.map (·.2)
  | .error _ => []

/-- The turnstile and overflow entries of context x: TURN is reduced. -/
def State.dropParked (s : State) (x : Nat) : List (Nat × Parked) × State :=
  (List.range 4).foldl (fun (ps, s) d =>
    let mine (late : Bool) : List Parked := (s.die d).turnstile.filter fun q => q.ctx == x && q.late == late
    let qs := mine false ++ s.ovEntries x d ++ mine true
    let v := ((List.range 4).find? fun v => s.homeDie x v == some d).getD d
    let s := qs.foldl (fun s q => match s.expertOf q.key.toNat with | some e => s.exSetTurn e.at_ (· - 1) | none => s) s
    let s := (s.modDie d fun di => { di with turnstile := di.turnstile.filter (·.ctx != x) }).modCtx x fun cx => { cx with overflow := cx.overflow.del d }
    (ps ++ qs.map (fun q => (v, q)), s)) ([], s)

/-- B-store copies of experts in the clusters of context x: the handle is released and BV cleared in the entry. -/
def State.dropCopies (s : State) (x : Nat) : State :=
  (List.range 256).foldl (fun s m =>
    match s.modelMem m with
    | none => s
    | some r =>
      let a := hbmAt (fld (r.getD 1 0#64) 0 52)
      let n := 32 * (fld (r.getD 2 0#64) 32 13 * fld (r.getD 2 0#64) 0 17)
      if !(r.getD 0 0#64).getLsbD 63 then s
      else (s.mem.filter fun (i, b) => a ≤ i && i < a + n && (i - a) % 32 == 31 && b.getLsbD 7).foldl (fun s (i, _) =>
        let e := i - 31
        let w3 := s.exW3 e
        let p := fld w3 16 7
        if (s.owner p).any (·.1 == x) then
          let s := s.exWord (e + 24) (setFld w3 63 1 0)
          match s.handleOf p (nat (fld w3 0 16)) with
          | some h => (s.modHandle p h fun h => { h with live := false, freed := true, gen := nextGen h.gen }).handleDone p h
          | none => s
        else s) s) s

/-- The marked words of the TCM and windows of context x, under virtual numbers. -/
def State.markedWords (s : State) (x : Nat) (t : Tbl Bool) : List Nat :=
  let f := s.toVirtual x
  let rs := (s.netRegions x 0).filter fun (a, _, _) => !(spdBase 0 ≤ a && a < tcmBase 0)
  (t.filter fun (w, b) => b && rs.any fun (a, _, n) => a ≤ w * 8 && w * 8 < a + n).map fun (w, _) => f.place (w * 8)

/-- The image of context x, taken from a state that has stopped. -/
def State.imageOf (s : State) (x : Nat) (parked : List (Nat × Parked)) : Image :=
  let f := s.toVirtual x
  let mineAt (a : Nat) : Bool := a ≥ glb0 && glbCtx a == x || (s.netRegions x 0).any fun (b, _, n) => b ≤ a && a < b + n
  { slots := (s.slotsOf x).foldl (fun t k => if (s.slot k).st = .free then t else t.put (s.tid k) ((s.slot k).saved.ren f)) []
    cores := (s.coresOf x).foldl (fun t c => t.put (s.vcl c * 8 + c % 8) ((s.core c).ren f)) []
    clusters := (s.placed x).foldl (fun t (v, p) => t.put v ((s.clu p).ren f)) []
    empties := s.markedWords x s.empty
    poisons := s.markedWords x s.poison
    feWait := (s.feWait.filter fun w => mineAt w.place).map fun w => { w with k := f.slot w.k, place := f.place w.place, beat := 0 }
    bbWait := (s.bbWait.filter fun w => mineAt w.1).map fun (a, k) => (f.place a, f.slot k)
    edges := (List.range 64).flatMap fun i => ((s.engOps (256 + i)).filter (·.req.ctx == x)).map fun o => (f.face (edgeIf (i / 16)) - 1152, o.ren f)
    parked := parked.map fun (d, q) => (d, q.ren f)
    msgs := (s.net.filter fun m => m.ctx == x && m.back.isSome).map (Msg.ren f) }

/-- What a saved context leaves on its clusters: slots FROZEN, no records, no operations. -/
def State.vacate (s : State) (x : Nat) : State :=
  let s := (s.placed x).foldl (fun s (_, p) =>
    let s := s.modClu p fun c => { queues := c.queues.map (fun (i, q) => (i, { gen := q.gen })), rings := c.rings, mstat := c.mstat, tlb := c.tlb, dlog := c.dlog, models := c.models, merge := c.merge }
    (List.range 128).foldl (fun s i =>
      if isRing (coreOf (p * 128 + i)) then s
      else s.modSlot (p * 128 + i) fun sl => { sl with st := .frozen, wait := .none, pend := none, latch := {}, chunk := {} }) s) s
  let s := (s.coresOf x).foldl (fun s c => s.modCore c fun co => { cyc := co.cyc, beat := co.beat, deqspill := co.deqspill }) s
  let s := (List.range 64).foldl (fun s i => if (s.engOps (256 + i)).isEmpty then s else s.setEngOps (256 + i) ((s.engOps (256 + i)).filter (·.req.ctx != x))) s
  let rs := s.netRegions x 0
  let mineAt (a : Nat) : Bool := a ≥ glb0 && glbCtx a == x || rs.any fun (b, _, n) => b ≤ a && a < b + n
  { s with
    net := s.net.filter fun m => !(m.ctx == x && m.back.isSome)
    feWait := s.feWait.filter fun w => !mineAt w.place
    bbWait := s.bbWait.filter fun w => !mineAt w.1
    l1d := s.l1d.filter fun (c, _) => isRing c || !(s.owner (c / 8)).any (·.1 == x) }

/-! Restoring -/

/-- Word i of the header of the net at b, the virtual clusters that it names, with their clusters now, and the bytes of its windows. -/
def State.netWord (s : State) (b i : Nat) : W := nat (s.num (b + 8 * i) 8)
def State.netPlaced (s : State) (x b : Nat) : List (Nat × Nat) := (s.placed x).filter fun (v, _) => (s.netWord b (2 + v / 64)).getLsbD (v % 64)
def State.netWindow (s : State) (b d : Nat) : Nat := (s.netWord b (4 + d)).toNat * 65536

/-- Step 1 of THAW: the memories come back, and the marks of their words: those of a scratchpad from its bitmaps (R331, R332). -/
def State.restoreMem (s : State) (x b : Nat) : State :=
  let f := s.toPhysical x
  let im := (s.ctx x).image
  let vs := s.netPlaced x b
  let s := (s.netRegionsOf x b vs (s.netWindow b)).foldl (fun s (a, n, len) =>
    let bad := (s.poison.filter fun (w, p) => p && n ≤ w * 8 && w * 8 < n + len).map fun (w, _) => w * 8 - n + a
    let here (l : List Nat) : List Nat := (l.map f.place).filter fun w => a ≤ w && w < a + len
    let s := ({ s with mem := copyMem s.mem n a len }).clearMarks a len
    let s := (here im.empties).foldl (fun s w => s.setFull w false) s
    (here im.poisons ++ bad).foldl (fun s w => s.setPoison w true) s) s
  vs.foldl (fun s (v, p) => (List.range (2 ^ 18)).foldl (fun s i =>
    let a := netClu b v + 0x500000 + i / 8
    let s := if (s.byteAt a).getLsbD (i % 8) then s else s.setFull (spdBase p + 8 * i) false
    if (s.byteAt (a + 0x8000)).getLsbD (i % 8) then s.setPoison (spdBase p + 8 * i) true else s) s) s

/-- A saved slot whose slot area holds {STATE, REISSUE} w: as it was saved, or in the state that firmware has written since (log 63). -/
def Slot.inState (sl : Slot) (w : Nat) : Slot :=
  let fresh : Slot := { sl with wait := .none, pend := none, latch := {} }
  if w % 32 = sl.stateBits then sl
  else match w % 16 with
  | 0 => {}
  | 11 => { fresh with st := .faulted }
  | 1 => { fresh with st := .run }
  | _ => if sl.pend.isSome then { sl with st := .parkMem, wait := .reissue } else { fresh with st := .run }

/-- A saved slot as its area in the net holds it. -/
def State.readArea (s : State) (a : Nat) (sl : Slot) : Slot :=
  let g (o : Nat) : W := nat (s.num (a + o) 8)
  let tbl (n o : Nat) : Tbl W := (List.range n).foldl (fun t i => t.put i (g (o + 8 * i))) []
  let sl := sl.inState (g 0x248).toNat
  let sl := (List.range 15).foldl (fun sl i => if i = 9 then { sl with chunklim := low (g 0x1C8) 10 } else sl.sysSet i (g (0x180 + 8 * i))) sl
  { sl with
    x := (List.range 30).foldl (fun t i => t.put (i + 1) (g (8 * (i + 1)))) []
    e := tbl 8 0x100
    m := tbl 8 0x140
    v := (List.range 32).foldl (fun t i => t.put i (BitVec.ofNat 512 (s.num (a + 0x400 + 64 * i) 64))) []
    iter := if g 0x200 = 0#64 then none else some ⟨(g 0x208).toNat, (g 0x210).toNat, (g 0x218).toNat, (g 0x220).toNat, (g 0x228).toNat, (g 0x230).toNat, (g 0x238).toNat⟩
    pc := g 0x240 }

/-- A word of a slot area that holds a register is poisoned (R332). -/
def State.areaPoison (s : State) (a : Nat) : Bool := s.anyPoison a 0x1F8 || s.anyPoison (a + 0x200) 0x50 || s.anyPoison (a + 0x400) 0x800

/-- Restores the slot of a virtual thread from its saved state; one in RUN waits for its core's start message (R332 step 3). -/
def State.restoreSlot (s : State) (x : Nat) (net : Option Nat) (tid : Nat) (sl : Slot) : State :=
  match s.slotOfTid x tid with
  | none => s
  | some k =>
    let c := coreOf k
    let a := net.map fun b => netSlot b (tid / 128) (tid / 16 % 8) (tid % 16)
    let r := (match a with | some a => s.readArea a sl | none => sl).ren (s.toPhysical x)
    let bad := match a, net with | some a, some b => s.areaPoison a || s.corePoison (netTcm b (tid / 128) (tid / 16 % 8) + 0x50000) | _, _ => false
    let s := if bad || r.stateBits != sl.stateBits then s.abandon k else s
    if r.st = .free then s
    else if bad then
      let (v, s) := s.free
      (s.modSlot k fun _ => { r with wait := .none, st := .run, pend := none, latch := {} }).raiseAt k 135 v
    else
      let s := s.modSlot k fun _ => match r.wait with | .message _ o rd => { r with wait := .message (s.core c).cyc o rd } | _ => r
      match r.st, r.wait with
      | .run, _ => (s.modSlot k fun sl => { sl with st := .frozen }).modCore c fun co => { co with pinned := co.pinned ++ [k] }
      | _, .reissue => s.wakeReissue k
      | _, .solo => s.askSolo k
      | _, .monitor _ => s.complete k 0#512
      | _, _ => s

/-- A saved record is looked up again (R309, Table 13-4): it enters the turnstile of die d, and leaves it at once where its expert is in HBM.
A tile that FREEZE took back counts as parked where it parks. -/
def State.lookAgain (s : State) (x d : Nat) (q : Parked) : State :=
  match (s.expertOf q.key.toNat).filter fun e => ownerOf e.rcd == x with
  | none => s.tsStop q 268 q.rcd
  | some e =>
    let go (s : State) (b : Body) : State := s.send x (portSlice e.sl) (portSlice (32 * d)) b
    let park (s : State) : State := go (s.exSetTurn e.at_ (· + 1)) (.tsPark d { q with tile := false })
    if s.exHere e then go (park (s.exSetRefs e q.key.toNat (· + 1))) (.tsRelease d q.key false)
    else (park (s.exPageIn e q.key.toNat)).modMat (cluOf q.k) q.walk fun o => { o with parked := o.parked + if q.tile then 1 else 0 }

/-- Restores context x onto its placement (R332 steps 1 to 3): from the safety net at `net`, or in place after a failed save. -/
def State.restore (s : State) (x : Nat) (net : Option Nat) : State :=
  let f := s.toPhysical x
  let s : State := match net with | some b => (netSections x b ((s.netPlaced x b).map (·.1))).foldl (State.getSection x) s | none => s
  let im := (s.ctx x).image
  let s := match net with | some b => s.restoreMem x b | none => s
  let s := im.clusters.foldl (fun s (v, c) => match s.place x v with
    | some p =>
      let r := c.ren f
      let r := match net with
        | some b => { r with bpoison := (s.poison.filter fun (e : Nat × Bool) => e.2 && bstoreAt b v ≤ 8 * e.1 && 8 * e.1 < bstoreAt b v + 0x800000).map fun (e : Nat × Bool) => (e.1 - bstoreAt b v / 8, true) }
        | none => r
      s.modClu p fun old => { r with tlb := old.tlb, dlog := old.dlog, models := old.models, merge := old.merge }
    | none => s) s
  let s := im.cores.foldl (fun s (n, c) => match s.coreAt x n with
    | some q =>
      let c := match net with | some b => s.readCore (netTcm b (n / 8) (n % 8) + 0x50000) (c.ren f) | none => c.ren f
      s.modCore q fun old => { c with cyc := old.cyc, beat := old.beat }
    | none => s) s
  let s := im.edges.foldl (fun s (d, o) =>
    let e := 256 + 16 * (f.face (1152 + d) - 1152) + o.req.ticket % 16
    s.setEngOps e (s.engOps e ++ [o.ren f])) s
  let s : State := { s with
    feWait := s.feWait ++ im.feWait.map fun w => { w with k := f.slot w.k, place := f.place w.place }
    bbWait := s.bbWait ++ im.bbWait.map fun (a, k) => (f.place a, f.slot k)
    net := s.net ++ im.msgs.map (Msg.ren f) }
  let s := (s.placed x).foldl (fun s (_, p) => (List.range 128).foldl (fun s i =>
    if isRing (coreOf (p * 128 + i)) then s else s.modSlot (p * 128 + i) fun _ => {}) s) s
  let s := s.modCtx x fun cx => { cx with
    frz := 0, frzSlot := none, parades := [], image := {}
    groups := cx.groups.map fun (n, g) => (n, g.ren f)
    counts := renCounts (f.count false) cx.counts
    blacks := renBlacks (f.count false) cx.blacks }
  let tids : List Nat := match net with | some b => (s.netPlaced x b).flatMap fun (v, _) => (List.range 128).map (v * 128 + ·) | none => im.slots.map (·.1)
  let s := tids.foldl (fun s tid => s.restoreSlot x net tid (Tbl.get ({} : Slot) im.slots tid)) s
  let s := im.parked.foldl (fun s (d, q) => s.lookAgain x (f.face (1152 + d) - 1152) (q.ren f)) s
  let s := (s.placed x).foldl (fun s (_, p) => ((s.clu p).queues.map (·.1)).foldl (fun s i => s.qNote (p * 64 + i)) s) s
  (s.coresOf x).foldl State.sendStart s

/-! Completion -/

/-- Everything of context x has stopped (R330 steps 1, 4 and 5). -/
def State.drained (s : State) (x : Nat) : Bool :=
  (s.ctx x).parades.any (fun p => p.kind == 2 && p.route.isEmpty)
    && s.net.all (fun m => m.ctx != x || m.back.isSome)
    && s.resv.all (fun r => r.ctx != x)
    && (s.slotsOf x).all (fun k => let sl := s.slot k; sl.st ≠ .parkNorm && sl.wait ≠ .reply && sl.wait ≠ .system && sl.acks.isEmpty && sl.reds == 0)
    && (s.enginesOf x).all (fun e => (s.engOps e).all fun o => o.req.ctx != x || (o.credits == 0 && o.remote.isEmpty && (o.done || !s.engMayRun o)))
    && (s.placed x).all (fun (_, p) => (s.clu p).streams.all fun (_, st) => st.idx.isNone && st.out.isNone)

/-- What a stopped context still has in flight is dropped: the records that were parked or not started are kept for its image. -/
def State.freezeLast (s : State) (x : Nat) : List (Nat × Parked) × State :=
  let s := (s.slotsOf x).foldl State.stopSlot s
  let (ts, s) := s.dropTiles x
  let (ps, s) := s.dropParked x
  (ts ++ ps, s.dropCopies x)

/-- The image of a context stands in place of its parades, and its records name virtual numbers. -/
def State.keepImage (s : State) (x : Nat) (ps : List (Nat × Parked)) : State :=
  let f := s.toVirtual x
  let im := s.imageOf x ps
  s.modCtx x fun cx => { cx with
    image := im, parades := [], frzCount := cx.frzCount + 1
    groups := cx.groups.map fun (n, g) => (n, g.ren f)
    counts := renCounts (f.count true) cx.counts
    blacks := renBlacks (f.count true) cx.blacks }

/-- The safety-net writer of context x cannot write (R327): which of the conditions of causes 96 to 104 it reports is not stated (log 63). -/
def State.netFails (s : State) (x : Nat) : State :=
  let (v, s) := s.free
  let k := ((s.ctx x).frzSlot).getD 0
  s.unitRecord (dieOf k) 5 (agentCause (96 + v.toNat % 9)).1 (nat (s.netAt x)) (agentCause (96 + v.toNat % 9)).2 0 (cluOf k * 128) 0 x

/-- FREEZE_COMPLETION: the context has stopped and is written to its safety net; its slots become FROZEN and rd gets 0. A net that
does not lie in HBM fails: the context resumes and rd gets 46 (R330 steps 6 and 7). -/
def execFreezeCompletion (x : Nat) (s : State) : Out :=
  let cx := s.ctx x
  if cx.frz ≠ 2 ∨ !s.drained x then .next s
  else match s.ovReady x with
  | .error s => .next s
  | .ok s =>
    let (ps, s) := s.freezeLast x
    let s := s.keepImage x ps
    let done (s : State) (v : Nat) : State := match cx.frzSlot with | some k => s.completeW k (nat v) | none => s
    if s.netFits x then .next (done (((s.writeNet x).vacate x).modCtx x fun cx => { cx with frz := 3, frzSlot := none }) 0)
    else .next (done ((((s.netFails x).vacate x).restore x none).hostResume x) 46)

/-- The causes that refuse a THAW (R332). -/
def State.thawRefusal (s : State) (a : W) : Option Nat :=
  let x := fld a 0 24
  let cx := s.ctx x
  let b := s.netAt x
  let g (i : Nat) : W := s.netWord b i
  let was (v : Nat) : Bool := (g (2 + v / 64)).getLsbD (v % 64)
  if cx.frz = 2 ∨ cx.frz = 4 then some 45
  else if fld a 24 40 ≠ 0 ∨ cx.frz ≠ 3 then some 40
  else if !cx.snbase.getLsbD 0 then some 43
  else if !(g 0).getLsbD 63 ∨ fld (g 0) 0 24 ≠ x ∨ fld (g 0) 24 39 ≠ 0 then some 41
  else if (List.range 128).any (fun v => was v && (s.place x v).isNone) ∨ (List.range 4).any (fun d => decide (s.winSize x d / 65536 < (g (4 + d)).toNat)) then some 42
  else none

/-- THAW (R332). -/
def execThaw (d a : R6) (s : State) : Out :=
  .next (s.modeOnlyF fun s => s.withOps 4 [a] (some d) true none fun vs s =>
    s.onReply (fun v s => s.finish true 4 d (asW v)) fun s =>
      match s.thawRefusal (vs.getD 0 0#64) with
      | some c => s.finish true 4 d (nat c)
      | none => (s.modCtx (fld (vs.getD 0 0#64) 0 24) fun cx => { cx with frz := 4, frzSlot := some s.cur }).park .parkMem .system)

/-- THAW_COMPLETION: the images are restored, start messages go out, VALID is cleared and rd gets 0 (R332). -/
def execThawCompletion (x : Nat) (s : State) : Out :=
  let cx := s.ctx x
  if cx.frz ≠ 4 then .next s
  else
    let b := s.netAt x
    let s := s.restore x (some b)
    let s := s.hostResume x
    let s := s.putBytes (b + 7) [BitVec.ofNat 8 (s.num (b + 7) 1 % 128)]
    .next (match cx.frzSlot with | some k => s.completeW k 0#64 | none => s)

end Sys2Proof.Machine
end

