-- ==== Sys2Proof/Machine/Mem.lean ====
section
/-! DEFINITION. Loads, stores, full-empty operations, atomics, vector memory access and operand-extension transfers (R114 to
R134), with C.LD and C.SD. -/

namespace Sys2Proof.Machine

/-- The pointer of an FI load or FS store (R114 step 1); cause 71 has the base register as TVAL (DESIGN CHOICE: log 32). -/
def ptrImm (a : W) (i : Int) : Except (Nat × W) W :=
  if spc a = 7 then .error (64, a) else match ptrAdd a i with | some p => .ok p | none => .error (71, a)

/-- One piece at a pointer plus an immediate. -/
def State.pieceImm (s : State) (a : W) (i : Int) (n : Nat) (data : List Byte := []) : Except (Nat × W) (List Piece) :=
  match ptrImm a i with
  | .error e => .error e
  | .ok p => match s.piece 0 p n n data with | .error e => .error e | .ok q => .ok [q]

/-- The instruction in progress belongs to no chunk: it names a shared register as destination, or has popped. -/
def State.apart (s : State) (d : R6) : Bool := isG d || s.me.latch.stage ≠ 0

/-- A scalar load of n bytes (Table 05-2). -/
def State.loadOp (s : State) (len : Nat) (d a : R6) (i : Int) (n : Nat) (f : Nat → W) : State :=
  s.withOps len [a] (some d) false none fun vs s =>
    s.onPieces (s.pieceImm (arg vs 0) i n) fun ps s => s.loadAll (s.apart d) ps fun bs s => s.pure.finish false len d (f (leNat (bs.headD [])))

/-- A scalar store of the n low-order bytes of b (Table 05-2). -/
def State.storeOp (s : State) (len : Nat) (a b : R6) (i : Int) (n : Nat) : State :=
  s.withOps len [a, b] none false none fun vs s =>
    s.onPieces (s.pieceImm (arg vs 0) i n (leBytes (arg vs 1).toNat n)) fun ps s => s.store len ps

/-- A loaded value sign-extended from n bits. -/
def sx (n v : Nat) : W := BitVec.ofInt 64 (sInt v n)

/-! FEM (R121, R122) -/

/-- An FE instruction on the word at a: `rel` for those of store type. -/
def State.feOp (s : State) (srcs : List R6) (d : Option R6) (rel : Bool) (op : FeOp) : State :=
  s.withOps 4 srcs d true (if rel then some 3 else none) fun vs s =>
    match s.access s.myCore (arg vs 0) 8 8 with
    | .error c => s.raise c (arg vs 0)
    | .ok t => s.atHome t (.fe op (arg vs 1)) (arg vs 0) fun v s => match d with | some d => s.finish true 4 d (asW v) | none => s.retireIrr 4

/-! AMO (R124 to R129) -/

/-- FADD, FMIN and FMAX. -/
def AmoOp.fp : AmoOp → Bool | .fadd | .fmin | .fmax => true | _ => false

/-- Width of an AMO by FMT (Table 05-5). -/
def amoWidth (f : Nat) (fp : Bool) : Option Nat :=
  match f with | 0 => some 64 | 5 => some 64 | 9 => some 64 | 8 => some 32 | 4 => if fp then none else some 32 | _ => none

/-- The checks of an AMO's pointer: target, width. -/
def State.amoCheck (s : State) (p : W) (fp : Bool) : Except Nat (Tgt × Nat) :=
  match s.resolve s.myCore p with
  | .error c => .error c
  | .ok _ => match fmtCheck p with
    | .error c => .error c
    | .ok _ => match amoWidth (fmtOf p) fp with
      | none => .error 81
      | some w => match s.access s.myCore p 8 (w / 8) with | .error c => .error c | .ok t => .ok (t, w)

/-- An AMO: `d` is none in the no-return form, which in global space waits for nothing (R129). -/
def State.amo (s : State) (d : Option R6) (a b : R6) (o : BitVec 2) (op : AmoOp) : State :=
  s.withOps 4 [a, b] d true (if o.getLsbD 1 then some 3 else none) fun vs s =>
    let p := arg vs 0
    match s.amoCheck p op.fp with
    | .error c => s.raise c p
    | .ok (t, w) =>
      let h := HomeOp.amo op w (arg vs 1) (s.eget s.cur 0) (armMode s.me.rm) (fmtOf p == 4 || (fmtOf p == 8 && !op.fp))
      match d with
      | some d => s.atHome t h p fun v s => s.finish true 4 d (asW v)
      | none =>
        if isGlobal t.at_ then ((s.reserve true t.at_ h p).upd fun sl => { sl with reds := sl.reds + 1 }).retireIrr 4
        else s.atHome t h p fun _ s => s.retireIrr 4

/-! VMEM (R130 to R133) -/

/-- Lane width in bytes by FMT (Table 05-6). -/
def laneBytes (f : Nat) : Option Nat :=
  if f ≤ 2 ∨ f = 10 ∨ f = 11 then some 1 else if f = 3 ∨ f = 6 ∨ f = 7 then some 2
  else if f = 4 ∨ f = 8 ∨ f = 21 then some 4 else if f = 5 ∨ f = 9 then some 8 else none

/-- The pointer of a lane at byte offset i from b (R99, R131); SPC 7 has no low field. -/
def lanePtr (b : W) (i : Int) : Except (Nat × W) W :=
  if spc b = 7 then .error (64, b) else match ptrAdd b i with | some p => .ok p | none => .error (71, b)

/-- The checks of R40 and R42 on a pointer, in the order of R114. -/
def State.fmtPtr (s : State) (p : W) : Option (Nat × W) :=
  match s.resolve s.myCore p with
  | .error c => some (c, p)
  | .ok _ => match fmtCheck p with | .error c => some (c, p) | .ok _ => none

/-- What fails first when 64 bytes at b are checked whole: an enabled lane's address, then the span itself (R131). -/
def State.spanErr (s : State) (b : W) (L : Nat) (offs : List Int) : Option (Nat × W) :=
  match offs.findSome? fun i => match lanePtr b i with | .error e => some e | .ok _ => none with
  | some e => some e
  | none => match s.fmtPtr b with
    | some e => some e
    | none => match s.access s.myCore b L 64 with | .error c => some (c, b) | .ok _ => none

/-- The pieces of the enabled lanes: `off` gives lane i's byte offset from b for lane width L; `span` checks 64 bytes whole. A format without a
lane width is refused whatever the mask (R130); the other checks concern enabled lanes alone (R131). The answer is the lane width, the
pieces before the first lane that R114 refuses, and that lane's fault (R132). -/
def State.lanePieces (s : State) (b : W) (m : BitVec 3) (span : Bool) (src : V512) (off : Nat → Nat → Int) : Except (Nat × W) (Nat × List Piece × Option (Nat × W)) :=
  match laneBytes (fmtOf b) with
  | none => .error ((s.fmtPtr b).getD (83, b))
  | some L =>
    let on := (List.range (64 / L)).filter fun i => (s.mask s.cur m.toNat).getLsbD i
    match if span ∧ on ≠ [] then s.spanErr b L (on.map (off L)) else none with
    | some e => .error e
    | none => .ok (L, formed (on.map fun i => match lanePtr b (off L i) with
        | .error e => .error e
        | .ok p => match s.fmtPtr p with
          | some e => .error e
          | none => s.piece i p L L (leBytes (lane src (8 * L) i) L)))

/-- A vector load (Table 05-7). -/
def State.vload (s : State) (srcs : List R6) (v : BitVec 5) (m : BitVec 3) (span : Bool) (off : List W → Nat → Nat → Int) : State :=
  s.withOps 4 srcs none false none fun vs s =>
    match s.lanePieces (arg vs 0) m span 0#512 (off vs) with
    | .error (c, t) => s.raise c t
    | .ok (L, ps, err) => s.loadAll (s.me.latch.stage ≠ 0) ps (err := err) fun bs s =>
      let old := (List.range (64 / L)).map (lane (s.vget s.cur v.toNat) (8 * L))
      let new := (ps.zip bs).foldl (fun l (p, b) => l.set p.part (leNat b)) old
      let s := s.vset s.cur v.toNat (vecOf (8 * L) new)
      if s.me.latch.stage ≠ 0 then s.retireIrr 4 else s.retire 4

/-- A vector store (Table 05-7). -/
def State.vstore (s : State) (srcs : List R6) (v : BitVec 5) (m : BitVec 3) (span : Bool) (off : List W → Nat → Nat → Int) : State :=
  s.withOps 4 srcs none false none fun vs s =>
    match s.lanePieces (arg vs 0) m span (s.vget s.cur v.toNat) (off vs) with
    | .error (c, t) => s.raise c t
    | .ok (_, [], none) => if s.me.latch.stage ≠ 0 then s.retireIrr 4 else s.retire 4
    | .ok (_, ps, err) => s.store 4 ps err

/-- A byte range of an array: in the auxiliary array or the data array, byte offset, bytes. -/
abbrev Range := Bool × Nat × Nat

/-- The pieces of ranges, at most 64 bytes each, numbered in order. R133 does not say how the addresses of a range are formed: one whose start
leaves the low field raises 71 with the array's pointer as TVAL, as the PtrAdd of R99 that forms it, and one that runs over its end raises
80 with its own pointer, as an access does (R114) (DESIGN CHOICE, log 102). -/
def State.rangePieces (s : State) (b aux : W) : Nat → List Range → List (Except (Nat × W) Piece)
  | _, [] => []
  | i, (x, off, n) :: r =>
    let base := if x then aux else b
    let k := ceilDiv n 64
    ((List.range k).map fun j => match ptrAdd base (off + 64 * j : Nat) with
      | none => .error (71, base)
      | some p => s.piece (i + j) p 1 (Nat.min 64 (n - 64 * j))) ++ s.rangePieces b aux (i + k) r

/-- Bytes read, by offset; those of the auxiliary array from 2^60 on. -/
def putRange (t : Tbl Byte) (at_ : Nat) (bs : List Byte) : Tbl Byte := bs.zipIdx.foldl (fun t (b, i) => t.put (at_ + i) b) t

/-- A reader over bytes read. -/
def reader (t : Tbl Byte) (aux : Bool) (off n : Nat) : Nat :=
  leNat ((List.range n).map fun i => Tbl.get 0#8 t ((if aux then 2 ^ 60 else 0) + off + i))

/-- Reads ranges, or parks, or faults; the body gets a reader over them. -/
def State.readRanges (s : State) (b aux : W) (rs : List Range) (body : (Bool → Nat → Nat → Nat) → State → State) : State :=
  s.onPieces (allPieces (s.rangePieces b aux 0 rs)) fun ps s => s.loadAll (s.me.latch.stage ≠ 0) ps fun bs s =>
    let keys := rs.flatMap fun (x, off, n) => (List.range (ceilDiv n 64)).map fun j => (if x then 2 ^ 60 else 0) + off + 64 * j
    body (reader ((keys.zip bs).foldl (fun t (k, b) => putRange t k b) [])) s

/-- The end of VLDB: sixteen FP32 lanes. -/
def State.vldbDone (s : State) (v : BitVec 5) (m : BitVec 3) (f : Nat → FV) : State :=
  let old := (List.range 16).map (lane (s.vget s.cur v.toNat) 32)
  let s := s.vset s.cur v.toNat (vecOf 32 ((List.range 16).map fun j => if (s.mask s.cur m.toNat).getLsbD j then (fp32.round 0 (f j)).bits else old.getD j 0))
  if s.me.latch.stage ≠ 0 then s.retireIrr 4 else s.retire 4

/-- Walks BMP8 units from byte offset u until n more are passed (R62): the body gets the unit's offset and the ranges read. -/
def State.bmpWalk (b : W) : Nat → Nat → List Range → State → (Nat → List Range → State → State) → State
  | 0, u, rs, s, body => body u rs s
  | n + 1, u, rs, s, body => s.readRanges b b (rs ++ [(false, u, 8)]) fun rd s => State.bmpWalk b n (u + bmpSize (rd false u 8)) (rs ++ [(false, u, 8)]) s body

/-- The address of the strip at byte offset o of a KEF array, as TVAL of cause 74 names it (R60). -/
def stripAt (b : W) (o : Nat) : W := (ptrAdd b o).getD b

/-- VLDB (R133) on data pointer b, first element n0 and auxiliary pointer x. The bytes of all sixteen elements are read and checked whatever
the mask (DESIGN CHOICE: log 33). -/
def State.vldb (s : State) (v : BitVec 5) (m : BitVec 3) (b x : W) (n0 : Nat) : State :=
  let f := fmtOf b
  if 12 ≤ f ∧ f ≤ 16 then
    let qs := [n0 / 8, n0 / 8 + 1]
    s.readRanges b x (qs.flatMap fun q => [(false, mxScale f q, 1), (false, mxData f q, (mxFmt f).bits)]) fun rd s =>
      s.vldbDone v m fun j => let (sc, cs) := mxBlock f (rd false) (n0 / 8 + j / 8); blockValue (mxFmt f) sc (cs.getD (j % 8) 0)
  else if f = 17 then
    let ts := if n0 % 256 = 248 then [n0 / 256, n0 / 256 + 1] else [n0 / 256]
    let r1 : List Range := ts.map fun t => (true, 4 * t, 4)
    s.readRanges b x r1 fun rd s =>
      let offs := ts.map fun t => rd true (4 * t) 4
      match offs.find? (· % 4 ≠ 0) with
      | some _ => s.raiseOpen 76
      | none =>
        let r2 : List Range := r1 ++ offs.map fun o => (false, o, 4)
        s.readRanges b x r2 fun rd s =>
          match offs.find? fun o => (kefLength (rd false o 4)).isNone with
          | some o => s.raise 74 (stripAt b o)
          | none =>
            let len (o : Nat) : Nat := (kefLength (rd false o 4)).getD 12 - 4
            s.readRanges b x (r2 ++ offs.map fun o => (false, o + 4, len o)) fun rd s =>
              let strip (o : Nat) := kefStrip (rd false o 4) ((List.range (len o)).map fun i => rd false (o + 4 + i) 1)
              match offs.find? fun o => (strip o).isNone with
              | some o => s.raise 74 (stripAt b o)
              | none => s.vldbDone v m fun j =>
                let n := n0 + j
                let (sc, cs) := ((strip (offs.getD (n / 256 - n0 / 256) 0)).getD []).getD (n % 256 / 8) (0, [])
                blockValue e4m3 sc (cs.getD (n % 8) 0)
  else if f = 18 ∨ f = 19 then
    let w := if f = 18 then 1 else 2
    let g := n0 / 4
    let ms := if g % 16 = 14 then [g / 16, g / 16 + 1] else [g / 16]
    s.readRanges b x ((ms.map fun i => (true, 8 * i, 8)) ++ [(false, 2 * g * w, 8 * w)]) fun rd s =>
      if (List.range 4).any fun i => spBad (spNibble (rd true) (g + i)) then s.raiseOpen 75
      else s.vldbDone v m fun j => spValue f (rd false) (rd true) (n0 + j)
  else if f = 20 then
    State.bmpWalk b (n0 / 64) 0 [] s fun u rs s =>
      s.readRanges b x (rs ++ [(false, u, 8)]) fun rd s =>
        let z := bmpSize (rd false u 8)
        let two := n0 % 64 = 56
        let r2 : List Range := rs ++ [(false, u, 8), (false, u + 8, z - 8)] ++ if two then [(false, u + z, 8)] else []
        s.readRanges b x r2 fun rd s =>
          let z2 := if two then bmpSize (rd false (u + z) 8) else 8
          s.readRanges b x (r2 ++ if z2 = 8 then [] else [(false, u + z + 8, z2 - 8)]) fun rd s =>
            s.vldbDone v m fun j => let e := n0 % 64 + j; if e < 64 then bmpValue (rd false) u e else bmpValue (rd false) (u + z) (e - 64)
  else
    let r : Range := if f = 22 then (false, n0 / 2, 8) else (false, n0 * plainBytes f, 16 * plainBytes f)
    s.readRanges b x [r] fun rd s => s.vldbDone v m fun j => plainValue f (plainCode f (rd false) (n0 + j))

/-- The checks of VLDB before any access (R114, R133); of the auxiliary pointer those of R40 and its alignment, none of its FMT or BLG
(DESIGN CHOICE: log 33). -/
def State.vldbCheck (s : State) (b x : W) (n0 : Nat) : Option (Nat × W) :=
  let f := fmtOf b
  match s.resolve s.myCore b with
  | .error c => some (c, b)
  | .ok t => match fmtCheck b with
    | .error c => some (c, b)
    | .ok _ =>
      if f < 6 ∨ f = 21 then some (83, b)
      else if n0 % 8 ≠ 0 then some (84, b)
      else if t.off % fmtAlign f ≠ 0 then some (76, b)
      else
        let auxBad : Option (Nat × W) := if 17 ≤ f ∧ f ≤ 19 then (match s.resolve s.myCore x with
            | .error c => some (c, x)
            | .ok u => if u.off % (if f = 17 then 4 else 8) ≠ 0 then some (76, x) else none) else none
        match auxBad with
        | some e => some e
        | none => if t.off % 8 ≠ 0 then some (79, b) else none

/-- The eight word pieces of ELD and EST, checked whole (R134). -/
def State.extPieces (s : State) (p : W) (data : Nat → List Byte) : Except (Nat × W) (List Piece) :=
  match s.access s.myCore p 8 64 with
  | .error c => .error (c, p)
  | .ok _ => allPieces ((List.range 8).map fun j => match ptrAdd p (8 * j : Nat) with
    | none => .error (80, p)
    | some q => s.piece j q 8 8 (data j))


/-- LB (Table 05-2). -/
def execLb (d a : R6) (i : BitVec 13) (s : State) : Out := .next (s.loadOp 4 d a i.toInt 1 (sx 8))

/-- LBU (Table 05-2). -/
def execLbu (d a : R6) (i : BitVec 13) (s : State) : Out := .next (s.loadOp 4 d a i.toInt 1 (nat))

/-- LH (Table 05-2). -/
def execLh (d a : R6) (i : BitVec 13) (s : State) : Out := .next (s.loadOp 4 d a i.toInt 2 (sx 16))

/-- LHU (Table 05-2). -/
def execLhu (d a : R6) (i : BitVec 13) (s : State) : Out := .next (s.loadOp 4 d a i.toInt 2 (nat))

/-- LW (Table 05-2). -/
def execLw (d a : R6) (i : BitVec 13) (s : State) : Out := .next (s.loadOp 4 d a i.toInt 4 (sx 32))

/-- LWU (Table 05-2). -/
def execLwu (d a : R6) (i : BitVec 13) (s : State) : Out := .next (s.loadOp 4 d a i.toInt 4 (nat))

/-- LD (Table 05-2). -/
def execLd (d a : R6) (i : BitVec 13) (s : State) : Out := .next (s.loadOp 4 d a i.toInt 8 (nat))

/-- SB (Table 05-2). -/
def execSb (a b : R6) (i : BitVec 13) (s : State) : Out := .next (s.storeOp 4 a b i.toInt 1)

/-- SH (Table 05-2). -/
def execSh (a b : R6) (i : BitVec 13) (s : State) : Out := .next (s.storeOp 4 a b i.toInt 2)

/-- SW (Table 05-2). -/
def execSw (a b : R6) (i : BitVec 13) (s : State) : Out := .next (s.storeOp 4 a b i.toInt 4)

/-- SD (Table 05-2). -/
def execSd (a b : R6) (i : BitVec 13) (s : State) : Out := .next (s.storeOp 4 a b i.toInt 8)

/-- C.LD: LD rd, [base + 8 × uimm5]. -/
def execCLd (d b : BitVec 3) (i : BitVec 5) (s : State) : Out := .next (s.loadOp 2 (r3 d) (r3 b) (8 * i.toNat : Nat) 8 nat)

/-- C.SD: SD [base + 8 × uimm5], data. -/
def execCSd (d b : BitVec 3) (i : BitVec 5) (s : State) : Out := .next (s.storeOp 2 (r3 b) (r3 d) (8 * i.toNat : Nat) 8)

/-- LDF (Table 05-3). -/
def execLdf (d a : R6) (s : State) : Out := .next (s.feOp [a] (some d) false .ldf)

/-- LDFF (Table 05-3). -/
def execLdff (d a : R6) (s : State) : Out := .next (s.feOp [a] (some d) false .ldff)

/-- STE (Table 05-3). -/
def execSte (a b : R6) (s : State) : Out := .next (s.feOp [a, b] none true .ste)

/-- STF (Table 05-3). -/
def execStf (a b : R6) (s : State) : Out := .next (s.feOp [a, b] none true .stf)

/-- FESET (Table 05-3). -/
def execFeset (a : R6) (s : State) : Out := .next (s.feOp [a] none true .feset)

/-- FECLR (Table 05-3). -/
def execFeclr (a : R6) (s : State) : Out := .next (s.feOp [a] none true .feclr)

/-- FESTAT (Table 05-3). -/
def execFestat (d a : R6) (s : State) : Out := .next (s.feOp [a] (some d) false .festat)

/-- AMOADD (R126). -/
def execAmoadd (d a b : R6) (o : BitVec 2) (s : State) : Out := .next (s.amo (some d) a b o .add)

/-- AMOAND (R126). -/
def execAmoand (d a b : R6) (o : BitVec 2) (s : State) : Out := .next (s.amo (some d) a b o .and)

/-- AMOOR (R126). -/
def execAmoor (d a b : R6) (o : BitVec 2) (s : State) : Out := .next (s.amo (some d) a b o .or)

/-- AMOXOR (R126). -/
def execAmoxor (d a b : R6) (o : BitVec 2) (s : State) : Out := .next (s.amo (some d) a b o .xor)

/-- AMOMIN (R126). -/
def execAmomin (d a b : R6) (o : BitVec 2) (s : State) : Out := .next (s.amo (some d) a b o .min)

/-- AMOMAX (R126). -/
def execAmomax (d a b : R6) (o : BitVec 2) (s : State) : Out := .next (s.amo (some d) a b o .max)

/-- AMOMINU (R126). -/
def execAmominu (d a b : R6) (o : BitVec 2) (s : State) : Out := .next (s.amo (some d) a b o .minu)

/-- AMOMAXU (R126). -/
def execAmomaxu (d a b : R6) (o : BitVec 2) (s : State) : Out := .next (s.amo (some d) a b o .maxu)

/-- AMOSWAP (R126). -/
def execAmoswap (d a b : R6) (o : BitVec 2) (s : State) : Out := .next (s.amo (some d) a b o .swap)

/-- AMOCAS (R126). -/
def execAmocas (d a b : R6) (o : BitVec 2) (s : State) : Out := .next (s.amo (some d) a b o .cas)

/-- AMOFADD (R126). -/
def execAmofadd (d a b : R6) (o : BitVec 2) (s : State) : Out := .next (s.amo (some d) a b o .fadd)

/-- AMOFMIN (R126). -/
def execAmofmin (d a b : R6) (o : BitVec 2) (s : State) : Out := .next (s.amo (some d) a b o .fmin)

/-- AMOFMAX (R126). -/
def execAmofmax (d a b : R6) (o : BitVec 2) (s : State) : Out := .next (s.amo (some d) a b o .fmax)

/-- REDADD (R126, R129). -/
def execRedadd (a b : R6) (o : BitVec 2) (s : State) : Out := .next (s.amo none a b o .add)

/-- REDAND (R126, R129). -/
def execRedand (a b : R6) (o : BitVec 2) (s : State) : Out := .next (s.amo none a b o .and)

/-- REDOR (R126, R129). -/
def execRedor (a b : R6) (o : BitVec 2) (s : State) : Out := .next (s.amo none a b o .or)

/-- REDXOR (R126, R129). -/
def execRedxor (a b : R6) (o : BitVec 2) (s : State) : Out := .next (s.amo none a b o .xor)

/-- REDMIN (R126, R129). -/
def execRedmin (a b : R6) (o : BitVec 2) (s : State) : Out := .next (s.amo none a b o .min)

/-- REDMAX (R126, R129). -/
def execRedmax (a b : R6) (o : BitVec 2) (s : State) : Out := .next (s.amo none a b o .max)

/-- REDMINU (R126, R129). -/
def execRedminu (a b : R6) (o : BitVec 2) (s : State) : Out := .next (s.amo none a b o .minu)

/-- REDMAXU (R126, R129). -/
def execRedmaxu (a b : R6) (o : BitVec 2) (s : State) : Out := .next (s.amo none a b o .maxu)

/-- REDFADD (R126, R129). -/
def execRedfadd (a b : R6) (o : BitVec 2) (s : State) : Out := .next (s.amo none a b o .fadd)

/-- REDFMIN (R126, R129). -/
def execRedfmin (a b : R6) (o : BitVec 2) (s : State) : Out := .next (s.amo none a b o .fmin)

/-- REDFMAX (R126, R129). -/
def execRedfmax (a b : R6) (o : BitVec 2) (s : State) : Out := .next (s.amo none a b o .fmax)

/-- VLD (Table 05-7). -/
def execVld (v : BitVec 5) (x : R6) (m : BitVec 3) (s : State) : Out := .next (s.vload [x] v m true fun _ L i => (L * i : Nat))

/-- VST (Table 05-7). -/
def execVst (v : BitVec 5) (x : R6) (m : BitVec 3) (s : State) : Out := .next (s.vstore [x] v m true fun _ L i => (L * i : Nat))

/-- VLDS (Table 05-7). -/
def execVlds (v : BitVec 5) (x y : R6) (m : BitVec 3) (s : State) : Out := .next (s.vload [x, y] v m false fun vs _ i => (arg vs 1).toInt * i)

/-- VSTS (Table 05-7). -/
def execVsts (v : BitVec 5) (x y : R6) (m : BitVec 3) (s : State) : Out := .next (s.vstore [x, y] v m false fun vs _ i => (arg vs 1).toInt * i)

/-- VLDX (Table 05-7). -/
def execVldx (v : BitVec 5) (x : R6) (y : BitVec 5) (m : BitVec 3) (s : State) : Out := .next (let ix := s.vget s.cur y.toNat; s.vload [x] v m false fun _ L i => (L * lane ix (8 * L) i : Nat))

/-- VSTX (Table 05-7). -/
def execVstx (v : BitVec 5) (x : R6) (y : BitVec 5) (m : BitVec 3) (s : State) : Out := .next (let ix := s.vget s.cur y.toNat; s.vstore [x] v m false fun _ L i => (L * lane ix (8 * L) i : Nat))

/-- VLDB (R133). -/
def execVldb (v : BitVec 5) (x : R6) (y : BitVec 5) (m : BitVec 3) (s : State) : Out := .next (s.withOps 4 [x] none false none fun vs s =>
  let vi := s.vget s.cur y.toNat
  match s.vldbCheck (arg vs 0) (nat (lane vi 64 1)) (lane vi 64 0) with
  | some (c, t) => s.raise c t
  | none => s.vldb v m (arg vs 0) (nat (lane vi 64 1)) (lane vi 64 0))

/-- ELD (R134). -/
def execEld (a : R6) (s : State) : Out := .next (s.withOps 4 [a] none false none fun vs s =>
  s.onPieces (s.extPieces (arg vs 0) fun _ => []) fun ps s => s.loadAll (s.me.latch.stage ≠ 0) ps fun bs s =>
    let s := bs.zipIdx.foldl (fun s (b, j) => s.eset s.cur j (nat (leNat b))) s
    if s.me.latch.stage ≠ 0 then s.retireIrr 4 else s.retire 4)

/-- EST (R134). -/
def execEst (a : R6) (s : State) : Out := .next (s.withOps 4 [a] none false none fun vs s => s.onPieces (s.extPieces (arg vs 0) fun j => leBytes (s.eget s.cur j).toNat 8) fun ps s => s.store 4 ps)

/-- EMOV (Table 05-8); rb may name a queue end or mb (log 96). -/
def execEmov (d : BitVec 3) (b : R6) (s : State) : Out := .next (s.withOps 4 [b] none false none fun vs s =>
  let s := s.eset s.cur d.toNat (arg vs 0)
  if s.me.latch.stage ≠ 0 then s.retireIrr 4 else s.retire 4)

/-- EGET (Table 05-8). -/
def execEget (d : R6) (a : BitVec 3) (s : State) : Out := .next (s.regOp 4 [] (some d) fun s _ => .ok { val := s.eget s.cur a.toNat })

end Sys2Proof.Machine
end

