-- ==== Sys2Proof/Machine/Sha.lean ====
section
/-! DEFINITION. SHA-256 and the RSASSA-PSS check with SHA-256, MGF1 and a 32-byte salt that the security controller uses (R352, R354,
R357; the algorithms are those of FIPS 180-4 and RFC 8017, log 6). -/

namespace Sys2Proof.Machine

/-- 32-bit words. -/
abbrev W32 := BitVec 32

/-- The initial hash value. -/
def shaInit : List W32 := [0x6a09e667, 0xbb67ae85, 0x3c6ef372, 0xa54ff53a, 0x510e527f, 0x9b05688c, 0x1f83d9ab, 0x5be0cd19]

/-- The round constants. -/
def shaK : List W32 :=
  [0x428a2f98, 0x71374491, 0xb5c0fbcf, 0xe9b5dba5, 0x3956c25b, 0x59f111f1, 0x923f82a4, 0xab1c5ed5] ++
  [0xd807aa98, 0x12835b01, 0x243185be, 0x550c7dc3, 0x72be5d74, 0x80deb1fe, 0x9bdc06a7, 0xc19bf174] ++
  [0xe49b69c1, 0xefbe4786, 0x0fc19dc6, 0x240ca1cc, 0x2de92c6f, 0x4a7484aa, 0x5cb0a9dc, 0x76f988da] ++
  [0x983e5152, 0xa831c66d, 0xb00327c8, 0xbf597fc7, 0xc6e00bf3, 0xd5a79147, 0x06ca6351, 0x14292967] ++
  [0x27b70a85, 0x2e1b2138, 0x4d2c6dfc, 0x53380d13, 0x650a7354, 0x766a0abb, 0x81c2c92e, 0x92722c85] ++
  [0xa2bfe8a1, 0xa81a664b, 0xc24b8b70, 0xc76c51a3, 0xd192e819, 0xd6990624, 0xf40e3585, 0x106aa070] ++
  [0x19a4c116, 0x1e376c08, 0x2748774c, 0x34b0bcb5, 0x391c0cb3, 0x4ed8aa4a, 0x5b9cca4f, 0x682e6ff3] ++
  [0x748f82ee, 0x78a5636f, 0x84c87814, 0x8cc70208, 0x90befffa, 0xa4506ceb, 0xbef9a3f7, 0xc67178f2]

def sig0 (x : W32) : W32 := x.rotateRight 7 ^^^ x.rotateRight 18 ^^^ (x >>> 3)
def sig1 (x : W32) : W32 := x.rotateRight 17 ^^^ x.rotateRight 19 ^^^ (x >>> 10)
def bsig0 (x : W32) : W32 := x.rotateRight 2 ^^^ x.rotateRight 13 ^^^ x.rotateRight 22
def bsig1 (x : W32) : W32 := x.rotateRight 6 ^^^ x.rotateRight 11 ^^^ x.rotateRight 25

/-- The message schedule, newest word first: n more words. -/
def shaSched : Nat → List W32 → List W32
  | 0, l => l
  | n + 1, l => shaSched n ((sig1 (l.getD 1 0) + l.getD 6 0 + sig0 (l.getD 14 0) + l.getD 15 0) :: l)

/-- One round on the working variables a to h. -/
def shaRound (v : List W32) (k w : W32) : List W32 :=
  let g (i : Nat) : W32 := v.getD i 0
  let t1 := g 7 + bsig1 (g 4) + ((g 4 &&& g 5) ^^^ (~~~ g 4 &&& g 6)) + k + w
  let t2 := bsig0 (g 0) + ((g 0 &&& g 1) ^^^ (g 0 &&& g 2) ^^^ (g 1 &&& g 2))
  [t1 + t2, g 0, g 1, g 2, g 3 + t1, g 4, g 5, g 6]

/-- The compression of one 64-byte block. -/
def shaBlock (h : List W32) (block : List Byte) : List W32 :=
  let ws := (List.range 16).map fun i => BitVec.ofNat 32 (beNat ((block.drop (4 * i)).take 4))
  let sched := (shaSched 48 ws.reverse).reverse
  let v := (shaK.zip sched).foldl (fun v (k, w) => shaRound v k w) h
  (h.zip v).map fun (a, b) => a + b

/-- The padded message. -/
def shaPad (m : List Byte) : List Byte :=
  m ++ 0x80#8 :: List.replicate ((119 - m.length % 64) % 64) 0#8 ++ (leBytes (8 * m.length) 8).reverse

/-- SHA-256 of n blocks. -/
def shaBlocks : Nat → List W32 → List Byte → List W32
  | 0, h, _ => h
  | n + 1, h, m => shaBlocks n (shaBlock h (m.take 64)) (m.drop 64)

/-- SHA-256: the 32 bytes of the digest. -/
def sha256 (m : List Byte) : List Byte :=
  let p := shaPad m
  (shaBlocks (p.length / 64) shaInit p).flatMap fun w => (leBytes w.toNat 4).reverse

/-- b^e mod n, for an exponent of at most f bits. -/
def powMod (n : Nat) : Nat → Nat → Nat → Nat
  | 0, _, _ => 1 % n
  | f + 1, b, e => let r := powMod n f (b * b % n) (e / 2); if e % 2 = 1 then r * b % n else r

/-- MGF1 with SHA-256: n bytes. -/
def mgf1 (seed : List Byte) (n : Nat) : List Byte :=
  ((List.range (ceilDiv n 32)).flatMap fun i => sha256 (seed ++ (leBytes i 4).reverse)).take n

/-- The PSS check of a digest against signature number sg under modulus n and exponent 65,537, for a 384-byte encoded message. -/
def pssVerify (n sg : Nat) (digest : List Byte) : Bool :=
  let em := (leBytes (powMod n 17 sg 65537) 384).reverse
  let h := (em.drop 351).take 32
  let unused := 8 * 384 - Nat.log2 n
  let db := ((em.take 351).zip (mgf1 h 351)).map fun (a, b) => a ^^^ b
  let db0 := (db.headD 0#8).toNat % 2 ^ (8 - unused)
  sg < n && Nat.log2 n == 3071 && em.getLast? == some 0xBC#8 && (em.headD 0#8).toNat / 2 ^ (8 - unused) == 0
    && db0 == 0 && ((db.drop 1).take 317).all (· == 0#8) && (db.drop 318).take 1 == [1#8]
    && sha256 (List.replicate 8 0#8 ++ digest ++ db.drop 319) == h

end Sys2Proof.Machine
end

