-- ==== Sys2Proof/Machine/Security.lean ====
section
/-! DEFINITION. The security controller (R351 to R360): power-on, staging, boot and reload, measurement, attestation, watchdogs,
alarms; and the loss of every context by a join (R338). -/

namespace Sys2Proof.Machine

def State.modSec (s : State) (f : Sec → Sec) : State := { s with sec := f s.sec }

/-- The compute dies are held in reset: every slot, engine, context and register of theirs is lost; memory outside the clusters
and the dies stays, so does what has left the package or the host has set, and the cycles go on (R27). -/
def State.loseAll (s : State) : State :=
  { agenda := s.agenda, tick := s.tick, serial := s.serial, mem := s.mem, empty := s.empty, poison := s.poison, sec := s.sec
    cores := s.cores.map fun (c, co) => (c, { cyc := co.cyc, beat := co.beat })
    links := { msix := s.links.msix, aer := s.links.aer, xout := s.links.xout, readData := s.links.readData, priAlloc := s.links.priAlloc
               pfAts := s.links.pfAts, pfMap := s.links.pfMap } }

/-- POWER_ON: the device resets and the controller enters WAIT (R354 step 1); the attached devices of the second tier and the host keep
their memory, and an erased key stays erased. -/
def execPowerOn (s : State) : Out :=
  .next { State.reset with agenda := s.agenda, tick := s.tick, sec := { erased := s.sec.erased }, mem := s.mem.filter fun (a, _) => tier2Base ≤ a && a < 2 ^ 60 }

/-- JOIN_FAILURE: every context is lost, and the host function reports an uncorrectable internal error (R338); the device runs no
more until it is reloaded. -/
def execJoinFailure (s : State) : Out :=
  .next ((s.loseAll.modSec fun c => { c with st := 4 }).modLinks fun l => { l with aer := l.aer + 1 })

/-! Staging and boot (R352 to R355) -/

/-- The first byte of STAGE. -/
def stage0 : Nat := 0x100000

/-- The n bytes of the staged image from offset o. -/
def Sec.image (c : Sec) (o n : Nat) : List Byte := (List.range n).map fun i => Tbl.get 0#8 c.stage (o + i)

/-- A header field of n bytes. -/
def Sec.field (c : Sec) (o n : Nat) : Nat := leNat (c.image o n)

/-- The image header's lengths. -/
def Sec.codeLen (c : Sec) : Nat := c.field 16 4
def Sec.dataLen (c : Sec) : Nat := c.field 20 4
def Sec.blobLen (c : Sec) : Nat := c.field 24 4

/-- Check 1: the header is as Table 15-2 gives. -/
def Sec.headerOk (c : Sec) : Bool :=
  c.field 0 4 == 0x4C4D4B57 && c.field 4 4 == 1 && c.field 8 4 < 65536 && c.field 12 4 == 0
    && (2 ≤ c.codeLen && c.codeLen ≤ 65536 && c.codeLen % 2 == 0) && c.dataLen ≤ 196608
    && c.codeLen + c.dataLen + c.blobLen ≤ 66056192 && c.field 28 4 % 2 == 0 && c.field 28 4 < c.codeLen && c.field 32 4 == 65537
    && (c.image 36 28).all (· == 0#8) && (c.image 448 3264).all (· == 0#8)
    && c.imglen.toNat == 4096 + c.codeLen + c.dataLen + c.blobLen

/-- The digest that check 4 verifies. -/
def Sec.imageDigest (c : Sec) : List Byte := sha256 (c.image 0 3712 ++ c.image 4096 (c.codeLen + c.dataLen + c.blobLen))

/-- The number of the first failed check of R354 step 2; 0 when all pass. -/
def Sec.failedCheck (c : Sec) : Nat :=
  if !c.headerOk then 1
  else if leNat (sha256 (c.image 64 384 ++ c.image 32 4)) ≠ Config.rootKeyHash then 2
  else if c.field 8 2 < fld Config.fusePolicy 0 16 then 3
  else if !pssVerify (beNat (c.image 64 384)) (beNat (c.image 3712 384)) c.imageDigest then 4
  else 0

/-- An extend of Mi (R357). -/
def Sec.extend (c : Sec) (i : Nat) (d : List Byte) : Sec :=
  { c with m := c.m.put i (leNat (sha256 (leBytes (Tbl.get 0 c.m i) 32 ++ d))) }

/-- The ringmaster core of die d. -/
def ringOf (d : Nat) : Nat := 256 * d + 7

/-- Slot 0 of each ringmaster starts at ENTRY with x1 = FWDIE (R354 step 5). Its watchdog counts from here until the first KICK (R356; log
101). -/
def State.startRings (s : State) (entry : Nat) : State :=
  (List.range 4).foldl (fun s d =>
    (s.modSlot (16 * ringOf d) fun _ => { st := .run, pc := nat entry, x := if d = 0 then [] else [(1, nat d)] }).modDie d fun di =>
      { di with wdtAt := (s.core (ringOf d)).cyc }) s

/-- Steps 3 to 5 of R354: measurement, initialisation of the memories, copies of code, data and blob, and the release of the dies. -/
def State.boot (s : State) : State :=
  let c := s.sec
  let near (a : Nat) : Bool := 2 ^ 60 ≤ a && a < glb0
  let code := c.image 4096 c.codeLen
  let data := c.image (4096 + c.codeLen) c.dataLen
  let blob := c.image (4096 + c.codeLen + c.dataLen) c.blobLen
  let c := (((c.extend 0 (leBytes Config.bootRomDigest 32)).extend 1 c.imageDigest).extend 2 (sha256 (leBytes Config.fusePolicy.toNat 8)))
  let s : State := { s with
    sec := { c with mlock := true, st := 3, svn := c.field 8 2, fwblob := nat c.blobLen }
    mem := s.mem.filter fun (a, _) => !near a
    empty := s.empty.filter fun (w, _) => !near (w * 8)
    poison := s.poison.filter fun (w, _) => !near (w * 8)
    clusters := s.clusters.map fun (p, c) => (p, { c with handles := [] }) }
  let s := (List.range 4).foldl (fun s d => (s.putBytes (tcmBase (ringOf d)) code).putBytes (tcmBase (ringOf d) + 65536) data) s
  let ws := wordsOf 0 blob.length
  let s := ws.foldl (fun s w => (s.setFull w true).setPoison w false) (s.putBytes 0 blob)
  let s := s.startRings (c.field 28 4)
  if c.reloads = 0 then s
  else s.modDie 0 fun di => { di with frq := ⟨recWord0 5 false false 383 0 0, nat c.reloads, 0#64, 0#64⟩ :: di.frq }

/-- DOORBELL_LOAD: a write of 1 to DOORBELL (R354); outside WAIT it is discarded. -/
def execDoorbellLoad (s : State) : Out :=
  if s.sec.st ≠ 1 then .next s
  else match s.sec.failedCheck with
  | 0 => .next s.boot
  | n => .next (s.modSec fun c => { c with step_ := n, cause := 369 })

/-- DOORBELL_RELOAD: a write of 2 to DOORBELL (R355): every context is lost and the controller waits for an image again; in HALTED it is
discarded. -/
def execDoorbellReload (s : State) : Out :=
  if s.sec.st = 5 then .next s
  else .next (s.loseAll.modSec fun c => { c with st := 1, step_ := 0, reloads := c.reloads + 1, m := [], mlock := false, queue := c.queue.filter (·.1 == 256) })

/-- BSTATE (Table 15-3). -/
def Sec.bstate (c : Sec) : W := nat (c.reloads % 2 ^ 32 * 2 ^ 32 + c.cause * 65536 + c.step_ * 256 + c.st)

/-- ACMD as it reads. -/
def Sec.acmdReg (c : Sec) : W := nat ((if c.abusy then 2 ^ 63 else 0) + fld c.acmd 0 8)

/-- A host read of 8 bytes at offset off of PF BAR0 (Tables 15-3 and 15-7). -/
def Sec.hostRead (c : Sec) (off : Nat) : W :=
  if off ≥ stage0 then (if c.st = 1 then nat (c.field (off - stage0) 8) else BitVec.allOnes 64)
  else match off with
  | 0x0 => c.bstate
  | 0x10 => c.imglen
  | 0x18 => nat (c.alarm + if c.alarmErased then 512 else 0)
  | 0x100 => c.acmdReg
  | 0x108 => c.astat
  | 0x110 => c.aaddr
  | 0x118 => c.alen
  | _ => if 0x120 ≤ off ∧ off < 0x140 then Tbl.get 0#64 c.anonce ((off - 0x120) / 8) else 0#64

/-- A host write of 8 bytes at offset off of PF BAR0 to a register other than DOORBELL and ACMD. -/
def Sec.hostStore (c : Sec) (off : Nat) (w : W) : Sec :=
  if off ≥ stage0 then
    if c.st = 1 then { c with stage := (leBytes w.toNat 8).zipIdx.foldl (fun t (b, i) => Tbl.set 0#8 t (off - stage0 + i) b) c.stage }
    else { c with cause := 380 }
  else match off with
  | 0x10 => { c with imglen := w }
  | 0x110 => { c with aaddr := w }
  | _ => if 0x120 ≤ off ∧ off < 0x140 then { c with anonce := c.anonce.put ((off - 0x120) / 8) w } else c

/-! Measurement (R357) -/

/-- A write of MCMD: Mi is extended with MEXT0 to MEXT3 of the die; i below 4 or above 7 is refused with cause 370. -/
def State.measure (s : State) (w : W) : State :=
  let di := s.die (dieOf s.cur)
  if w.toNat < 4 ∨ w.toNat > 7 then s.raiseOpen 370
  else s.modSec fun c => c.extend w.toNat ((List.range 4).flatMap fun i => leBytes (Tbl.get 0#64 di.mext i).toNat 8)

/-- MCMD: a write of the register. -/
def execMeasurementExtend (w : W) (s : State) : Out := s.command fun s => s.measure w

/-! Attestation (R358, R359) -/

/-- A write of ATTCMD: 1 requests a report for the die; a write while a request is busy is discarded. A reserved bit set in the command
or in ATTBUF makes the request malformed. -/
def State.attRequest (s : State) (w : W) : State :=
  let d := dieOf s.cur
  let di := s.die d
  if !w.getLsbD 0 ∨ di.attBusy then s
  else
    let ok := w = 1#64 ∧ fld di.attBuf 0 6 = 0
    (s.modDie d fun di => { di with attBusy := true, attStatus := 0 }).modSec fun c =>
      { c with queue := c.queue ++ [(d, if ok then 1 else 0, (List.range 4).map (Tbl.get 0#64 di.attNonce), di.attBuf)] }

/-- ATTCMD: a write of the register. -/
def execAttcmd (w : W) (s : State) : Out := s.command fun s => s.attRequest w

/-- A host write of ACMD: GO queues a request with the nonce and the address as they stand, and clears DONE; it is discarded while a request
is busy. A write without GO stores FUNC. -/
def Sec.hostRequest (c : Sec) (w : W) : Sec :=
  if !w.getLsbD 63 then { c with acmd := low w 8 }
  else if c.abusy then c
  else
    let f := fld w 0 8
    let ok := fld w 8 55 = 0 ∧ (f = 1 ∨ f = 2) ∧ fld c.aaddr 0 6 = 0
    { c with acmd := low w 8, abusy := true, astat := 0#64
             queue := c.queue ++ [(256, if ok then f else 0, (List.range 4).map (Tbl.get 0#64 c.anonce), c.aaddr)] }

/-- STAGE_ACCESS: a host access of 8 bytes to PF BAR0 (R353): outside WAIT a write to STAGE is discarded and records cause 380, and a read of
it gives all ones; DOORBELL discards values other than 1 and 2. -/
def execStageAccess (wr : Bool) (off : Nat) (w : W) (s : State) : Out :=
  if off % 8 ≠ 0 ∨ off ≥ 2 ^ 26 then .next s
  else if !wr then .next (s.hostData (s.sec.hostRead off))
  else if off = 8 then (match w.toNat with | 1 => execDoorbellLoad s | 2 => execDoorbellReload s | _ => .next s)
  else if off = 0x100 then .next (s.modSec fun c => c.hostRequest w)
  else .next (s.modSec fun c => c.hostStore off w)

/-- ACMD_REPORT: a host write of ACMD whose FUNC is not 2. -/
def execAcmdReport (w : W) (s : State) : Out :=
  if fld w 0 8 = 2 then .next s else .next (s.modSec fun c => c.hostRequest w)
/-- ACMD_CERTIFICATE: a host write of ACMD with FUNC 2. -/
def execAcmdCertificate (w : W) (s : State) : Out :=
  if fld w 0 8 ≠ 2 then .next s else .next (s.modSec fun c => c.hostRequest w)

/-- Bytes 0 to 383 of a report (Table 15-4). -/
def Sec.report (c : Sec) (tag : Nat) (nonce : List W) : List Byte :=
  leBytes 0x0000000154524B57 8 ++ leBytes tag 8 ++ leBytes Config.serial.toNat 8 ++ leBytes (c.svn % 65536 + c.reloads % 2 ^ 32 * 2 ^ 32) 8
    ++ nonce.flatMap (fun w => leBytes w.toNat 8) ++ (List.range 8).flatMap (fun i => leBytes (Tbl.get 0 c.m i) 32) ++ List.replicate 64 0#8

/-- Exactly n bytes of a list. -/
def fitBytes (l : List Byte) (n : Nat) : List Byte := (List.range n).map fun i => l.getD i 0#8

/-- The response of a request: its status cause and its bytes. -/
def State.response (s : State) (tag f : Nat) (nonce : List W) : Nat × List Byte :=
  if f = 0 then (371, [])
  else if s.sec.erased then (382, [])
  else if f = 1 then
    let r := s.sec.report tag nonce
    (0, r ++ fitBytes (Config.identitySign r s.tick) 384)
  else (0, Config.certificate.take 4096)

/-- The place of an address of the PF: as it stands, or as the host translates its page once it has enabled ATS for the PF; none while
it has given no translation. -/
def Links.pfPlace (l : Links) (a : Nat) : Option Nat :=
  if l.pfAts then (l.pfMap.find (a / 4096)).map fun p => hostBase + p * 4096 + a % 4096 else some (hostBase + a)

/-- The setting of ATS for the PF by the host, with its translation of a page. -/
def State.hostAts (s : State) (on : Bool) (page : Nat) (dest : Option Nat) : State :=
  s.modLinks fun l => { l with pfAts := on, pfMap := match dest with | some p => l.pfMap.put page p | none => l.pfMap.del page }

/-- The controller's write of bytes at addresses of the PF (R359); bytes beyond the host addresses that the device can reach leave no trace
in it. None while a page has no translation. -/
def State.pfWrite (s : State) (a : Nat) (bytes : List Byte) : Option State :=
  let ps := (List.range bytes.length).map fun i => s.links.pfPlace (a + i)
  if ps.contains none then none
  else some ((ps.zip bytes).zipIdx.foldl (fun s ((p, b), i) => match p with
    | some p => if p < hostBase + 2 ^ 52 then (if p % 8 = 0 ∧ i + 8 ≤ bytes.length then s.setPoison p false else s).putByte p b else s
    | none => s) s)

/-- ATTESTATION_SERVICE: the controller serves the oldest request (R358, R359). -/
def execAttestationService (s : State) : Out :=
  match s.sec.queue with
  | [] => .next s
  | (tag, f, nonce, addr) :: rest =>
    let (st, bytes) := s.response tag f nonce
    let served (s : State) : State := { s with tick := s.tick + 1, sec := { s.sec with queue := rest } }
    if tag = 256 then
      match s.pfWrite addr.toNat bytes with
      | none => .next s
      | some s =>
        let s := served s
        .next { s with
          sec := { s.sec with abusy := false, alen := nat bytes.length, astat := nat (2 ^ 63 + st) }
          links := { s.links with msix := s.links.msix ++ [(64, 1)] } }
    else
      let s := served s
      let s := if st = 0 then s.write none true (hbmAt addr.toNat) bytes else s
      .next (s.modDie tag fun di => { di with attBusy := false, attStatus := st })

/-! Watchdogs and alarms (R356, R360) -/

/-- A write of WDT: KICK restarts the count; a LOG outside 20 to 36 is discarded. -/
def State.writeWdt (s : State) (w : W) : State :=
  let d := dieOf s.cur
  s.modDie d fun di => { di with
    wdtLog := if 20 ≤ fld w 0 6 ∧ fld w 0 6 ≤ 36 then fld w 0 6 else di.wdtLog
    wdtAt := if w.getLsbD 63 then (s.core (ringOf d)).cyc else di.wdtAt }

/-- WDT: a write of the register. -/
def execWdtKick (w : W) (s : State) : Out := s.command fun s => s.writeWdt w

/-- WATCHDOG_EXPIRED: 2^LOG cycles have passed since the last kick of die die_'s ringmaster; the device fails with cause 379. -/
def execWatchdogExpired (die_ : Nat) (s : State) : Out :=
  let di := s.die die_
  if die_ < 4 ∧ s.sec.st = 3 ∧ (s.core (ringOf die_)).cyc ≥ di.wdtAt + 2 ^ di.wdtLog then .next (s.failDevice 379)
  else .next s

/-- SECURITY_ALARM: causes 372 to 376 halt the device, and erase its keys where the fused policy says so. -/
def execSecurityAlarm (cause : Nat) (s : State) : Out :=
  if cause < 372 ∨ cause > 376 then .next s
  else
    let erase := Config.fusePolicy.getLsbD (16 + (cause - 372))
    .next (s.modSec fun c => { c with st := 5, alarm := cause, erased := c.erased || erase, alarmErased := c.alarmErased || erase, noted := if erase then c.noted ++ [381] else c.noted })

/-- DEBUG_ACCESS_REFUSED: a debug access that the fused policy refuses records cause 377; nothing else happens. -/
def execDebugAccessRefused (s : State) : Out :=
  if Config.fusePolicy.getLsbD 24 then .next s else .next (s.modSec fun c => { c with noted := c.noted ++ [377] })

end Sys2Proof.Machine
end

