-- ==== Sys2Proof/Machine/SysRegs.lean ====
section
/-! DEFINITION. The mode-F system registers (R36, R37, R311, R334, R350, R360): placement, windows, and the whole register map. -/

namespace Sys2Proof.Machine

/-! Placement (R27, R37, R48, R49, R154, R187, R221, R259) -/

/-- The memories of a range of places are zero, full and not poisoned. -/
def State.zeroRange (s : State) (a n : Nat) : State := { s.clearMarks a n with mem := s.mem.filter fun (i, _) => !(a ≤ i && i < a + n) }

/-- Physical cluster p is assigned to a context; a ringmaster's core is not touched, and DEQSPILL stays as firmware set it. R48 zeroes the
whole scratchpad and R154 says that ring areas are not cleared: the model zeroes them with the rest (DESIGN CHOICE, log 49). -/
def State.assign (s : State) (p : Nat) : State :=
  let cores := ((List.range 8).map (8 * p + ·)).filter fun c => !isRing c
  let old := s.clu p
  let s := s.modClu p fun c =>
    { queues := (List.range 64).map fun i => (i, { gen := ((Tbl.get {} old.queues i).gen + 1) % 65536 })
      tlb := c.tlb, dlog := c.dlog, models := c.models, merge := c.merge }
  let s := cores.foldl (fun s c => (s.zeroRange (tcmBase c) (2 ^ 18)).modCore c fun co => { beat := co.beat, cyc := co.cyc, deqspill := co.deqspill }) (s.zeroRange (spdBase p) (2 ^ 21))
  { s with
    slots := s.slots.filter fun (k, _) => !(cores.contains (coreOf k))
    l1d := s.l1d.filter fun (c, _) => !(cores.contains c) }

/-- The words of virtual die d's window are full (R48). -/
def State.fillWindow (s : State) (x d : Nat) : State :=
  let a := s.windowAt x d
  { s with empty := s.empty.filter fun (i, _) => !(a ≤ i * 8 && i * 8 < a + s.winSize x d) }

/-- The windows of context x that exist only since `old`, or lie elsewhere, are full (R48, R50). -/
def State.fillMoved (s old : State) (x : Nat) : State :=
  (List.range 4).foldl (fun s d =>
    if s.homeDie x d = old.homeDie x d then s else s.fillWindow x d) s

/-- A write of PMAPn of the selected context: refused with cause 36 while the context runs or when the PCL is valid in another entry
of any context's map. A cluster that the entry held and no longer holds is released: its queue records are discarded (R154). -/
def State.writePmap (s : State) (n : Nat) (w : W) : State :=
  let x := s.selCtx
  let v := w.getLsbD 15
  let p := fld w 0 7
  let taken := s.ctxs.any fun (y, cx) => cx.pmap.any fun (m, e) => e.getLsbD 15 && fld e 0 7 == p && !(y == x && m == n)
  if s.busy x ∨ (v ∧ taken) then s.raiseOpen 36
  else
    let t := match s.place x n with
      | some o => if v ∧ o = p then s else s.dropQueues o
      | none => s
    let t := t.modCtx x fun cx => { cx with pmap := Tbl.set 0#64 cx.pmap n (nat ((if v then 32768 else 0) + p)) }
    let t := t.fillMoved s x
    if v ∧ s.place x n ≠ some p then t.assign p else t

/-- A write of DSRWINd of the selected context: refused with cause 36 while the context runs or when BASE + SIZE exceeds 512; the words
of a granted window are full (R48). -/
def State.writeDsrwin (s : State) (d : Nat) (w : W) : State :=
  let x := s.selCtx
  let size := fld w 32 10
  let base := fld w 16 9
  if s.busy x ∨ base + size > 512 then s.raiseOpen 36
  else
    (s.modCtx x fun cx => { cx with dsrwin := Tbl.set 0#64 cx.dsrwin d (nat (size * 2 ^ 32 + base * 65536)) }).fillWindow x d

/-- PMAPn: a write of the register. -/
def execPmapWrite (j : BitVec 7) (w : W) (s : State) : Out := s.command fun s => s.writePmap j.toNat w
/-- DSRWINd: a write of the register. -/
def execDsrwinWrite (j : BitVec 2) (w : W) (s : State) : Out := s.command fun s => s.writeDsrwin j.toNat w

/-! The map -/

/-- Indices 0x800 and up that Table 01-13 and the tables of chapters 12 to 15 assign. -/
def highIndex (n : Nat) : Bool :=
  (0x800 ≤ n && n ≤ 0x802) || (0x900 ≤ n && n ≤ 0x983) || (0xA00 ≤ n && n < 0xC00 && lowIndex (n - 0xA00))
    || (0xC00 ≤ n && n ≤ 0xC05) || n == 0xC10 || n == 0xC11 || (0xC20 ≤ n && n ≤ 0xC23) || (0xC28 ≤ n && n ≤ 0xC2B)
    || (0xD00 ≤ n && n ≤ 0xD0A) || (0xD10 ≤ n && n ≤ 0xD12) || n == 0xD18
    || (0xE00 ≤ n && n ≤ 0xE02) || (0xE08 ≤ n && n ≤ 0xE0C) || (0xE10 ≤ n && n ≤ 0xE14) || (0xE20 ≤ n && n ≤ 0xE23)
    || (0xF00 ≤ n && n ≤ 0xF02) || (0xF08 ≤ n && n ≤ 0xF11) || (0xF18 ≤ n && n ≤ 0xF1D) || n == 0xF20

/-- Fields [lo + n − 1 : lo] of a written value, in place. -/
def keep (w : W) (fs : List (Nat × Nat)) : W := nat (fs.foldl (fun a (lo, n) => a + fld w lo n * 2 ^ lo) 0)

/-- The trace-ring entry that TRSEL selects: entry 0 is the oldest (Table 13-8). -/
def State.traceEntry (s : State) : W × W :=
  let t := (s.die (dieOf s.cur)).trsel
  if fld t 10 4 ≤ 8 then (Tbl.get [] (s.clu (fld t 14 7)).rings (fld t 10 4)).getD (fld t 0 10) (0#64, 0#64) else (0#64, 0#64)

/-- A read of register n of the mode-F map: some reads pop. -/
def State.readHigh (s : State) (n : Nat) : W × State :=
  let d := dieOf s.cur
  let di := s.die d
  let cx := s.ctx s.selCtx
  let l := s.links
  let c := s.sec
  if 0x900 ≤ n ∧ n ≤ 0x97F then (Tbl.get 0#64 cx.pmap (n - 0x900), s)
  else if 0x980 ≤ n ∧ n ≤ 0x983 then (if (s.homeDie s.selCtx (n - 0x980)).isNone then keep (Tbl.get 0#64 cx.dsrwin (n - 0x980)) [(16, 9)] else Tbl.get 0#64 cx.dsrwin (n - 0x980), s)
  else if 0xA00 ≤ n ∧ n < 0xC00 then (s.lowReg s.tgtSlot (n - 0xA00), s)
  else if 0xF09 ≤ n ∧ n ≤ 0xF0C then (nat (bitsOf (Tbl.get 0 c.m (fld di.msel 0 3)) (64 * (n - 0xF09)) 64), s)
  else if 0xF0D ≤ n ∧ n ≤ 0xF10 then (Tbl.get 0#64 di.mext (n - 0xF0D), s)
  else if 0xF18 ≤ n ∧ n ≤ 0xF1B then (Tbl.get 0#64 di.attNonce (n - 0xF18), s)
  else if 0xD02 ≤ n ∧ n ≤ 0xD04 then (di.frw.getD (n - 0xD02) 0#64, s)
  else match n with
  | 0x800 => (nat d, s)
  | 0x801 => (di.tgt, s)
  | 0x802 => (di.ctxsel, s)
  | 0xC00 => (cx.ptroot, s)
  | 0xC01 => (cx.watchtab, s)
  | 0xC02 => (Tbl.get 0#64 cx.tsovf d, s)
  | 0xC03 => (Tbl.get 0#64 cx.tsctl d, s)
  | 0xC04 => (cx.droplog, s)
  | 0xC05 => (cx.dropcnt, s)
  | 0xC10 => (l.asidtab, s)
  | 0xC11 => (l.extab, s)
  | 0xC20 => s.fltPop
  | 0xC21 => (di.fltva, s)
  | 0xC23 => (bit (!di.harvest.isEmpty), s)
  | 0xC28 => s.exReq
  | 0xC29 => (di.exloc, s)
  | 0xD00 => (nat (di.frq.length + di.frlost % 2 ^ 32 * 2 ^ 32), s)
  | 0xD01 => s.frPop
  | 0xD06 => (di.finjval, s)
  | 0xD07 => (low (s.slot s.tgtSlot).pc 16, s)
  | 0xD09 => (cx.snbase, s)
  | 0xD0A => (nat cx.frzStat, s)
  | 0xD10 => (di.trsel, s)
  | 0xD11 => (s.traceEntry.1, s)
  | 0xD12 => (s.traceEntry.2, s)
  | 0xD18 => (di.eccthr, s)
  | 0xE00 => (l.hqsel, s)
  | 0xE01 => (Tbl.get 0#64 l.hqmap s.selWin, s)
  | 0xE02 => (Tbl.get 0#64 l.vfctx (fld l.hqsel 8 6), s)
  | 0xE08 => (cx.xgsel, s)
  | 0xE09 => (Tbl.get 0#64 cx.xgrant (fld cx.xgsel 0 4), s)
  | 0xE0A => (cx.xqsel, s)
  | 0xE0B => (Tbl.get 0#64 cx.xqmap (fld cx.xqsel 0 6), s)
  | 0xE0C => (Tbl.get 0#64 cx.xqrem (fld cx.xqsel 0 6), s)
  | 0xE10 => (l.xroute, s)
  | 0xE11 => (Tbl.get 0#64 l.xrport (fld l.xroute 0 12), s)
  | 0xE13 => (nat (l.xpup.toNat + fld l.pkgid 0 12 * 2 ^ 32), s)
  | 0xE14 => (l.pkgid, s)
  | 0xE20 => (l.stcfg, s)
  | 0xE21 => (l.stsafe, s)
  | 0xE23 => (nat (l.ckst * 2 ^ 62 + (if l.ckerr then 2 ^ 61 else 0) + l.ckbytes % 2 ^ 44), s)
  | 0xF00 => (nat (c.svn % 65536 * 2 ^ 32 + fld c.bstate 0 25), s)
  | 0xF01 => (keep Config.fusePolicy [(0, 16), (16, 5), (24, 1)], s)
  | 0xF02 => (c.fwblob, s)
  | 0xF08 => (di.msel, s)
  | 0xF1C => (di.attBuf, s)
  | 0xF1D => (nat ((if di.attBusy then 2 ^ 63 else 0) + di.attStatus), s)
  | 0xF20 => (nat di.wdtLog, s)
  | _ => (0#64, s)

/-- A write of XQMAP: the forwarder ceases to be an end of its old queue and becomes one of the new (R348). -/
def State.writeXqmap (s : State) (w : W) : State :=
  let x := s.selCtx
  let i := fld (s.ctx x).xqsel 0 6
  let old := Tbl.get 0#64 (s.ctx x).xqmap i
  let s := if old.getLsbD 63 then s.hostEnd x (low old 35) false else s
  let s := s.modCtx x fun cx => { cx with xqmap := cx.xqmap.put i (keep w [(63, 1), (50, 12), (0, 35)]) }
  if w.getLsbD 63 then s.hostEnd x (low w 35) true else s

/-- A write of register n of the mode-F map: writable fields, and the commands. -/
def State.writeHigh (s : State) (n : Nat) (w : W) : State :=
  let d := dieOf s.cur
  let x := s.selCtx
  let die (f : Die → Die) : State := s.modDie d f
  let ctx (f : Ctx → Ctx) : State := s.modCtx x f
  let lnk (f : Links → Links) : State := s.modLinks f
  if 0x900 ≤ n ∧ n ≤ 0x97F then s.writePmap (n - 0x900) w
  else if 0x980 ≤ n ∧ n ≤ 0x983 then s.writeDsrwin (n - 0x980) w
  else if 0xA00 ≤ n ∧ n < 0xC00 then s.setLow s.tgtSlot (n - 0xA00) w
  else if 0xF0D ≤ n ∧ n ≤ 0xF10 then die fun di => { di with mext := di.mext.put (n - 0xF0D) w }
  else if 0xF18 ≤ n ∧ n ≤ 0xF1B then die fun di => { di with attNonce := di.attNonce.put (n - 0xF18) w }
  else match n with
  | 0x801 => die fun di => { di with tgt := low w 14 }
  | 0x802 => die fun di => { di with ctxsel := low w 24 }
  | 0xC00 => s.writePtroot w
  | 0xC01 => ctx fun cx => { cx with watchtab := keep w [(9, 43), (0, 1)] }
  | 0xC02 => ctx fun cx => { cx with tsovf := cx.tsovf.put d (keep w [(5, 47)]) }
  | 0xC03 => ctx fun cx => { cx with tsctl := cx.tsctl.put d (keep w [(16, 11), (0, 16)]) }
  | 0xC04 => ctx fun cx => { cx with droplog := keep w [(52, 12), (12, 40)] }
  | 0xC05 => ctx fun cx => { cx with dropcnt := w }
  | 0xC10 => lnk fun l => { l with asidtab := keep w [(21, 31), (0, 1)] }
  | 0xC11 => lnk fun l => { l with extab := keep w [(14, 38), (0, 1)] }
  | 0xC22 => s.fltDone (fld w 62 2) (fld w 0 6)
  | 0xC23 => s.harvest w
  | 0xC29 => die fun di => { di with exloc := w }
  | 0xC2A => s.exDone (fld w 62 2) (fld w 0 36)
  | 0xC2B => s.exEvict w
  | 0xD05 => s.finject w
  | 0xD06 => die fun di => { di with finjval := w }
  | 0xD07 => s.slotPc w
  | 0xD08 => s.slotKill w
  | 0xD09 => ctx fun cx => { cx with snbase := keep w [(21, 31), (0, 1)] }
  | 0xD10 => die fun di => { di with trsel := low w 21 }
  | 0xD18 => die fun di => { di with eccthr := w }
  | 0xE00 => lnk fun l => { l with hqsel := keep w [(8, 6), (0, 6)] }
  | 0xE01 => s.writeHqmap w
  | 0xE02 => lnk fun l => { l with vfctx := l.vfctx.put (fld l.hqsel 8 6) (keep w [(63, 1), (0, 24)]) }
  | 0xE08 => ctx fun cx => { cx with xgsel := low w 4 }
  | 0xE09 => ctx fun cx => { cx with xgrant := cx.xgrant.put (fld cx.xgsel 0 4) (keep w [(63, 1), (50, 12), (0, 24)]) }
  | 0xE0A => ctx fun cx => { cx with xqsel := low w 6 }
  | 0xE0B => s.writeXqmap w
  | 0xE0C => ctx fun cx => { cx with xqrem := cx.xqrem.put (fld cx.xqsel 0 6) (low w 35) }
  | 0xE10 => lnk fun l => { l with xroute := low w 12 }
  | 0xE11 => lnk fun l => { l with xrport := l.xrport.put (fld l.xroute 0 12) (keep w [(63, 1), (0, 4)]) }
  | 0xE12 => if fld w 62 2 = 0 then s else s.portCommand (fld w 62 2) (fld w 0 4)
  | 0xE14 => lnk fun l => { l with pkgid := low w 12 }
  | 0xE20 => lnk fun l => { l with stcfg := keep w [(0, 2), (8, 8)] }
  | 0xE21 => lnk fun l => { l with stsafe := keep w [(30, 14), (48, 12)] }
  | 0xE22 => if w = 1#64 then s.checkpoint else if w = 2#64 then s.ckRestore else s
  | 0xF08 => die fun di => { di with msel := low w 3 }
  | 0xF11 => s.measure w
  | 0xF1C => die fun di => { di with attBuf := w }
  | 0xF1D => s.attRequest w
  | 0xF20 => s.writeWdt w
  | _ => s

/-- The check of an access to register n from a slot of mode F or not (R32): the cause. -/
def sysCheck (f : Bool) (n : Nat) (wr : Bool) : Option Nat :=
  if n ≥ 0x800 ∧ !f then some 33
  else if !(lowIndex n || highIndex n) then some 34
  else if wr ∧ n = 0x107 ∧ !f then some 35
  else none

/-- A read of register n by the issuing slot. -/
def State.sysRead (s : State) (n : Nat) : W × State := if n < 0x200 then (s.lowReg s.cur n, s) else s.readHigh n

/-- A write of register n by the issuing slot. -/
def State.sysWrite (s : State) (n : Nat) (w : W) : State := if n < 0x200 then s.setLow s.cur n w else s.writeHigh n w

end Sys2Proof.Machine
end

