-- ==== Sys2Proof/Machine/Sys.lean ====
section
/-! DEFINITION. The SYS group (R162 to R166): traps, the system registers, CFLUSH, IFLUSH and ERET. -/

namespace Sys2Proof.Machine

/-- TRAP (R162): a number above 15 is refused by the encoding check. -/
def execTrap (a b : R6) (s : State) : Out :=
  .next (s.withOps 4 [a] none true none fun vs s => s.raise (352 + b.toNat % 16) (vs.getD 0 0#64))

/-- BREAK (R162). -/
def execBrk (s : State) : Out := .next (s.afterCommit fun s => s.raise 368 0#64)

/-- The index of SYSRD and SYSWR. -/
def sysIndex (hi lo : R6) : Nat := hi.toNat * 64 + lo.toNat

/-- The slot of another core at which an access to register n takes effect: those of the target's own registers, and the commands on it
(R141). -/
def State.farSlot (s : State) (n : Nat) : Option Nat :=
  if ((0xA00 ≤ n && n < 0xC00) || n == 0xD05 || n == 0xD07 || n == 0xD08) && coreOf s.tgtSlot != s.myCore then some s.tgtSlot else none

/-- Sends an access to register n of slot t to its core. -/
def State.farReg (s : State) (t n : Nat) (w : Option W) : State := s.askSlot (coreOf t) (.slotReg s.cur t n w (s.die (dieOf s.cur)).finjval)

/-- SYSRD (R32, R164). -/
def execSysrd (d hi lo : R6) (s : State) : Out :=
  let n := sysIndex hi lo
  .next (match sysCheck (modeF s.cur) n false with
  | some c => s.afterCommit fun s => s.raiseOpen c
  | none => s.withOps 4 [] (some d) true none fun _ s =>
    s.onReply (fun v s => s.pure.finish true 4 d (asW v)) fun s =>
      match s.farSlot n with
      | some t => s.farReg t n none
      | none =>
        let (v, s) := s.sysRead n
        (if n < 0x800 then s.pure else s).finish true 4 d v)

/-- SYSWR (R32, R164): its data stand in the register that rd names. A command that fails has
raised its fault, which leaves no pending instruction; the mark set here (any instruction would do) shows it. -/
def execSyswr (d hi lo : R6) (s : State) : Out :=
  let n := sysIndex hi lo
  .next (match sysCheck (modeF s.cur) n true with
  | some c => s.afterCommit fun s => s.raiseOpen c
  | none => s.withOps 4 [d] none true none fun vs s =>
    s.onReply (fun _ s => s.retireIrr 4) fun s =>
      match s.farSlot n with
      | some t => s.farReg t n (some (vs.getD 0 0#64))
      | none =>
        let s := (s.upd fun sl => { sl with pend := some (.and d d d) }).sysWrite n (vs.getD 0 0#64)
        if s.me.pend.isNone then s else s.retireIrr 4)

/-- REMOTE_ACCESS_ARRIVAL: message n, an access of another core or cluster, takes effect at its port (R122, R127, R257 to R259); so does a
ringmaster's access to a slot of another core (R141; log 108). -/
def execRemoteAccessArrival (n : Nat) (s : State) : Out :=
  match s.deliverable n with
  | some m =>
    let back (k : Nat) (s : State) (b : Body) : State := s.send m.ctx m.dst (coreOf k) b
    match m.body with
    | .access k part a op ret vc ptr =>
      let (r, s) := (s.accept n m).homeStep k true a op
      match r with
      | .val v => .next ((if ret then back k s (.reply k part (.val v)) else back k s (.ack k vc)).homeAfter a op)
      | .wait => .next (s.parkAt k op.parked.1 op.parked.2)
      | .fault c t => .next (if ret then back k s (.reply k part (.fault c (t.getD ptr))) else back k (s.lateFault (dieOfPlace a) k m.ctx c (t.getD ptr)) (.ack k vc))
    | .slotReg k t r w v =>
      let s := s.accept n m
      match s.slotAccess t r w v with
      | some (g, s) => .next (back k s (.reply k 0 (.val (g.setWidth 512))))
      | none => let (g, s) := s.free; .next (back k s (.reply k 0 (.fault 44 g)))
    | .nudge k t =>
      let s := s.accept n m
      .next (back k (s.nudge t) (.reply k 0 (.val ((nat (s.slot t).st.code).setWidth 512))))
    | _ => .next s
  | none => .next s

/-- What CFLUSH drops: with b = 0 the issuing core's L1D; else the lines of the range, written to their homes first, from every cache
(R165, R249). -/
def State.cflush (s : State) (a n : Nat) : State :=
  if n = 0 then { s with l1d := s.l1d.filter fun (c, _) => c ≠ s.myCore }
  else
    let hi := a + n
    let hit (l : Nat) : Bool := l * 64 < hi && a < l * 64 + 64
    let s := ((s.lines.map (·.1)).filter hit).foldl (fun s l => (s.writeBack l).dropLine l) s
    { s with l1d := s.l1d.filter fun (_, l) => !hit l }

/-- CFLUSH (R165, R249, R341). -/
def execCflush (a b : R6) (s : State) : Out :=
  .next (s.withOps 4 [a, b] none true none fun vs s =>
    let p := vs.getD 0 0#64
    let n := (vs.getD 1 0#64).toNat
    s.onReply (fun _ s => s.retireIrr 4) fun s =>
      match s.resolve s.myCore p with
      | .error c => s.raise c p
      | .ok t =>
        if spc p ≠ 0 ∧ spc p ≠ 6 then s.raise 85 p
        else match (if n = 0 then .ok t else t.extent n) with
        | .error c => s.raise c p
        | .ok t => ((s.cflush t.at_ n).send (s.ctxOf s.myCore) (portSlice 0) s.myCore (.reply s.cur 0 (.val 0#512))).park .parkMem .system)

/-- IFLUSH (R166). -/
def execIflush (s : State) : Out := .next (s.afterCommit fun s => (s.upd fun sl => { sl with fbuf := [] }).retireIrr 4)

/-- ERET (R163). -/
def execEret (s : State) : Out := .next (s.afterCommit fun s => (s.upd Slot.eret).retireIrrTo s.me.txpc)

end Sys2Proof.Machine
end

