-- ==== Sys2Proof/Machine/Vector.lean ====
section
/-! DEFINITION. Vector and mask instructions (chapter 7, R168 to R186). -/

namespace Sys2Proof.Machine

/-! Lanes -/

/-- Lane width that ty selects (R77). -/
def tyW (t : BitVec 2) : Nat := match t.toNat with | 0 => 32 | 1 => 16 | 2 => 8 | _ => 64

/-- FP lane format that ty selects (R77). -/
def tyF (t : BitVec 2) : Fmt := match t.toNat with | 0 => fp32 | 1 => bf16 | _ => fp16

/-- The lanes of width w of a vector. -/
def lanesOf (v : V512) (w : Nat) : List Nat := (List.range (512 / w)).map (lane v w)

/-- The lanes of the issuing slot's register r. -/
def State.lanes (s : State) (r : BitVec 5) (w : Nat) : List Nat := lanesOf (s.vget s.cur r.toNat) w

/-- Lane i is enabled by governing mask m (R170). -/
def State.on (s : State) (m : BitVec 3) (i : Nat) : Bool := (s.mask s.cur m.toNat).getLsbD i

/-- Lane i of a list. -/
def ln (l : List Nat) (i : Nat) : Nat := l.getD i 0

/-- Writes v and goes on: a vector instruction ends no chunk (R168). -/
def State.vdone (s : State) (r : BitVec 5) (w : Nat) (l : List Nat) : State := (s.vset s.cur r.toNat (vecOf w l)).retire 4

/-- Enabled lanes get f of the lane number; the others keep their value (R170). -/
def State.vlanes (s : State) (v : BitVec 5) (m : BitVec 3) (w : Nat) (f : Nat → Nat) : State :=
  let d := s.lanes v w
  s.vdone v w ((List.range (512 / w)).map fun i => if s.on m i then f i else ln d i)

/-- An integer lane instruction on a, b and the old d (R173). -/
def State.vint (s : State) (v a b : BitVec 5) (m : BitVec 3) (w : Nat) (f : Nat → Nat → Nat → Nat) : State :=
  let la := s.lanes a w
  let lb := s.lanes b w
  let ld := s.lanes v w
  s.vlanes v m w fun i => f (ln la i) (ln lb i) (ln ld i) % 2 ^ w

/-- The number of a signed value modulo 2^w. -/
def wrapI (w : Nat) (i : Int) : Nat := (i % (2 ^ w : Nat)).toNat

/-- The lowest lane of those that raised the flag that cause c reports (R172). -/
def trapLane (fl : List (Nat × Nat)) (c : Nat) : Nat :=
  ((fl.filter fun (_, f) => f.testBit (164 - c)).map (·.1)).foldl Nat.min 63

/-- The end of an instruction with FP lanes: flags by lane, whether a subnormal was met, and the write (R171, R172). -/
def State.vfp (s : State) (fl : List (Nat × Nat)) (sub : Bool) (write : State → State) : State :=
  let f := orAll (fl.map (·.2))
  if sub && !s.me.ftz && s.me.latch.res.isNone then
    s.parkNorm
  else match s.me.fpTrap f with
  | some c => s.raise c (nat (f + 256 * trapLane fl c))
  | none => (write (if f = 0 then s else s.upd fun sl => sl.orFlags f)).retire 4

/-- Results by lane: none for a lane that is not computed. -/
def flagsOf (rs : List (Option FRes)) : List (Nat × Nat) := rs.zipIdx.filterMap fun (r, i) => r.map fun r => (i, r.flags)
def anySub (rs : List (Option FRes)) : Bool := rs.any fun r => match r with | some r => r.sub | none => false

/-- An FP lane instruction on a, b and the old d (R174): rounding mode, FTZ and the lane encodings give the result. -/
def State.vflanes (s : State) (v a b : BitVec 5) (m : BitVec 3) (w : Nat) (f : Nat → Bool → Nat → Nat → Nat → FRes) : State :=
  let la := s.lanes a w
  let lb := s.lanes b w
  let ld := s.lanes v w
  let rs := (List.range (512 / w)).map fun i => if s.on m i then some (f s.me.rm s.me.ftz (ln la i) (ln lb i) (ln ld i)) else none
  s.vfp (flagsOf rs) (anySub rs) fun s => s.vset s.cur v.toNat (vecOf w (rs.zipIdx.map fun (r, i) => match r with | some r => r.bits | none => ln ld i))

/-! The transcendentals (R175): exact, rounded once to BF16 precision -/

/-- An exact magnitude rounded to BF16, nearest even. -/
def toBf (ftz neg : Bool) (x : Mag) : FRes := let r := bf16.flush ftz neg (bf16.roundMag 0 neg x 0); ⟨r.bits, r.flags, r.tiny⟩

/-- The first n square roots of 2 taken in turn, in units of 2^−120. -/
def rootsOf2 : Nat → Nat → List Nat
  | 0, _ => []
  | n + 1, c => let r := isqrt (c * 2 ^ 120); r :: rootsOf2 n r

/-- 2^f for a fraction f of 34 bits, in units of 2^−120. -/
def exp2Frac (f : Nat) : Nat :=
  ((rootsOf2 34 (2 ^ 121)).zipIdx).foldl (fun acc (c, i) => if f.testBit (33 - i) then acc * c / 2 ^ 120 else acc) (2 ^ 120)

/-- 2^a for a finite a ≠ 0 (log 19): the rounding sees at least 100 bits. -/
def exp2Mag (neg : Bool) (m : Nat) (e : Int) : Mag :=
  let lead := (Nat.log2 m : Int) + e
  if lead ≥ 8 then (if neg then ⟨1, -200, true⟩ else ⟨1, 200, false⟩)
  else if lead < -10 then (if neg then ⟨2 ^ 20 - 1, -20, true⟩ else ⟨2 ^ 20, -20, true⟩)
  else
    let x : Nat := if e ≥ -34 then m * 2 ^ (e + 34).toNat else m / 2 ^ (-34 - e).toNat
    let i : Int := if neg then -(x : Int) else x
    let n := i / (2 ^ 34 : Nat)
    let f := (i % (2 ^ 34 : Nat)).toNat
    if f = 0 then ⟨1, n, false⟩ else ⟨exp2Frac f, n - 120, true⟩

/-- 1 / √(m · 2^e). -/
def rsqrtMag (m : Nat) (e : Int) : Mag :=
  let m' := if e % 2 = 0 then m else 2 * m
  let e' := if e % 2 = 0 then e else e - 1
  let r := isqrt (2 ^ 240 / m')
  ⟨r, -120 - e' / 2, r * r * m' ≠ 2 ^ 240⟩

/-- VEXP2B, VRCPB and VRSQB (op 0, 1, 2) of a lane of format f (Table 07-4). -/
def trans (op : Nat) (f : Fmt) (ftz : Bool) (a : Nat) : FRes :=
  let r : FRes := match f.valueFtz ftz a, op with
    | .nan sg, _ => ⟨bf16.canon, if sg then fNV else 0, false⟩
    | .inf n, 0 => ⟨if n then 0 else bf16.infCode false, 0, false⟩
    | .inf n, 1 => ⟨signed bf16 n 0, 0, false⟩
    | .inf n, _ => if n then ⟨bf16.canon, fNV, false⟩ else ⟨0, 0, false⟩
    | .fin n m e, 0 => if m = 0 then ⟨0x3F80, 0, false⟩ else toBf ftz false (exp2Mag n m e)
    | .fin n m e, 1 => if m = 0 then ⟨bf16.infCode n, fDZ, false⟩ else toBf ftz n (magDiv 1 0 m e)
    | .fin n m e, _ => if m = 0 then ⟨bf16.infCode n, fDZ, false⟩ else if n then ⟨bf16.canon, fNV, false⟩ else toBf ftz false (rsqrtMag m e)
  ⟨if f = fp32 then r.bits * 65536 else r.bits, r.flags, r.sub || f.subnormal a⟩

/-! Mask results, reductions and scans -/

/-- A mask from its bits, bit 0 first. -/
def maskOf : List Bool → Nat
  | [] => 0
  | b :: r => (if b then 1 else 0) + 2 * maskOf r

/-- A compare (R176): bits of disabled lanes and above the lanes are 0. -/
def State.vcmp (s : State) (d : BitVec 3) (a b : BitVec 5) (m : BitVec 3) (w : Nat) (f : Nat → Nat → Bool) : State :=
  let la := s.lanes a w
  let lb := s.lanes b w
  (s.mset s.cur d.toNat (nat (maskOf ((List.range (512 / w)).map fun i => s.on m i && f (ln la i) (ln lb i))))).retire 4

/-- An FP compare (R176): op 0 FEQ, 1 FLT, 2 FLE. -/
def State.vfcmp (s : State) (d : BitVec 3) (a b : BitVec 5) (m : BitVec 3) (t : BitVec 2) (op : Nat) : State :=
  let f := tyF t
  let la := s.lanes a f.bits
  let lb := s.lanes b f.bits
  let rs := (List.range (512 / f.bits)).map fun i => if s.on m i then some (f.fcmp op s.me.ftz (ln la i) (ln lb i)) else none
  s.vfp (flagsOf rs) (anySub rs) fun s =>
    s.mset s.cur d.toNat (nat (maskOf (rs.map fun r => match r with | some r => r.bits == 1 | none => false)))

/-- A value and the lowest enabled lane that entered its node (R180). -/
abbrev Node := Option (Nat × Nat)

/-- One level of the tree of FpReduce: the nodes above, the flags by lane, whether a subnormal was met. -/
def redLevel (op : Nat → Nat → FRes) : List Node → List Node × List (Nat × Nat) × Bool
  | p :: q :: r =>
    let (ns, fl, sub) := redLevel op r
    match p, q with
    | none, q => (q :: ns, fl, sub)
    | p, none => (p :: ns, fl, sub)
    | some (x, i), some (y, _) => let z := op x y; (some (z.bits, i) :: ns, (i, z.flags) :: fl, z.sub || sub)
  | l => (l, [], false)

/-- The tree of FpReduce, k levels. -/
def redTree (op : Nat → Nat → FRes) : Nat → List Node → List (Nat × Nat) → Bool → List Node × List (Nat × Nat) × Bool
  | 0, l, fl, sub => (l, fl, sub)
  | k + 1, l, fl, sub => let (l', f', s') := redLevel op l; redTree op k l' (f' ++ fl) (s' || sub)

/-- A subnormal operand under FTZ reads as zero of its sign (R67). -/
def Fmt.ftzCode (f : Fmt) (ftz : Bool) (a : Nat) : Nat :=
  if ftz && f.wide && f.subnormal a then signed f (bitsOf a (f.eb + f.mb) 1 == 1) 0 else a

/-- VFREDADD and VFREDMAX (R180): `none_` is the result when no lane is enabled. -/
def State.vfred (s : State) (v a : BitVec 5) (m : BitVec 3) (t : BitVec 2) (none_ : Nat) (op : Nat → Nat → FRes) : State :=
  let f := tyF t
  let la := s.lanes a f.bits
  let n := 512 / f.bits
  let leaves : List Node := (List.range n).map fun i => if s.on m i then some (f.ftzCode s.me.ftz (ln la i), i) else none
  let sub0 := (List.range n).any fun i => s.on m i && f.subnormal (ln la i)
  let (ns, fl, sub) := redTree op (Nat.log2 n) leaves [] sub0
  match ns.headD none with
  | none => s.vfp fl sub fun s => s.vset s.cur v.toNat (vecOf f.bits [none_])
  | some (x, i) =>
    let nv := if (f.value x).isSnan then [(i, fNV)] else []
    let x := if (f.value x).isNan then f.canon else x
    s.vfp (nv ++ fl) sub fun s => s.vset s.cur v.toNat (vecOf f.bits [x])

/-- An integer scan (R181): `seg` reads the mask as head flags. -/
def scanInt (seg : Bool) (w : Nat) (on : Nat → Bool) : Nat → Nat → List Nat → List Nat → List Nat
  | i, c, a :: as, d :: ds =>
    if seg && on i then a :: scanInt seg w on (i + 1) a as ds
    else if seg || on i then let c' := (c + a) % 2 ^ w; c' :: scanInt seg w on (i + 1) c' as ds
    else d :: scanInt seg w on (i + 1) c as ds
  | _, _, _, ds => ds

/-- An FP scan (R181): results by lane with their flags; none where the old value stays. A head takes its operand unrounded, a NaN
there canonical, with NV when it is signalling (R54). -/
def scanFp (f : Fmt) (ftz seg : Bool) (op : Nat → Nat → FRes) (on : Nat → Bool) : Nat → Nat → List Nat → List (Option FRes)
  | _, _, [] => []
  | i, c, a :: as =>
    if seg && on i then
      let h : FRes := if (f.value a).isNan then ⟨f.canon, if (f.value a).isSnan then fNV else 0, false⟩
                      else ⟨f.ftzCode ftz a, 0, f.wide && f.subnormal a⟩
      some h :: scanFp f ftz seg op on (i + 1) h.bits as
    else if seg || on i then let r := op c a; some r :: scanFp f ftz seg op on (i + 1) r.bits as
    else none :: scanFp f ftz seg op on (i + 1) c as

/-- VSCAN and VSEGSCAN. -/
def State.vscan (s : State) (v a b : BitVec 5) (m : BitVec 3) (t : BitVec 2) (seg : Bool) : State :=
  s.vdone v (tyW t) (scanInt seg (tyW t) (s.on m) 0 (ln (s.lanes b (tyW t)) 0) (s.lanes a (tyW t)) (s.lanes v (tyW t)))

/-- VFSCAN and VFSEGSCAN. -/
def State.vfscan (s : State) (v a b : BitVec 5) (m : BitVec 3) (t : BitVec 2) (seg : Bool) : State :=
  let f := tyF t
  let rs := scanFp f s.me.ftz seg (f.fadd s.me.rm s.me.ftz) (s.on m) 0 (ln (s.lanes b f.bits) 0) (s.lanes a f.bits)
  let ld := s.lanes v f.bits
  s.vfp (flagsOf rs) (anySub rs) fun s =>
    s.vset s.cur v.toNat (vecOf f.bits (rs.zipIdx.map fun (r, i) => match r with | some r => r.bits | none => ln ld i))

/-! Conversions (R182 to R186) -/

/-- The rounding mode of field [9:7]: 7 is FRM.RM (R77). -/
def State.vmode (s : State) (r : BitVec 3) : Nat := if r = 7#3 then s.me.rm else r.toNat

/-- Elements x converted to format t, in groups of 8 (R64, R65), with FTZ; `src` marks a subnormal operand. -/
def convGroup (t : Fmt) (mode : Nat) (ftz : Bool) (xs : List (FV × Bool)) : List FRes :=
  let ds := xs.map fun (v, _) => t.d v
  xs.zipIdx.map fun ((v, sub), i) =>
    let r := t.result mode ftz v 0 (hash16 ((List.range 8).map fun j => ln ds (i / 8 * 8 + j)) (i % 8))
    { r with sub := r.sub || sub }

/-- The end of a conversion into lanes of width w: lane j gets element j, the rest of vd is 0. The lane that a trap reports in TVAL[13:8] is
the element's number, which is its lane in the destination (R172 does not say which; DESIGN CHOICE, log 105). -/
def State.vconv (s : State) (v : BitVec 5) (w : Nat) (rs : List FRes) : State :=
  s.vfp (rs.zipIdx.map fun (r, i) => (i, r.flags)) (rs.any (·.sub)) fun s => s.vset s.cur v.toNat (vecOf w (rs.map (·.bits)))

/-- A source element of format q under FTZ, and whether it is a subnormal of a format that parks. -/
def Fmt.elem (q : Fmt) (ftz : Bool) (b : Nat) : FV × Bool := (q.valueFtz ftz b, q.wide && q.subnormal b)

/-- Source and destination of the VCVT codes (Table 07-9). -/
def vcvtFmts (c : Nat) : Fmt × Fmt :=
  match c with
  | 0 => (fp32, bf16) | 1 => (fp32, fp16) | 2 => (bf16, fp32) | 3 => (fp16, fp32) | 4 => (fp32, e4m3) | 5 => (fp32, e5m2)
  | 6 => (e4m3, fp32) | 7 => (e5m2, fp32) | 8 => (bf16, e4m3) | 9 => (bf16, e5m2) | 10 => (e4m3, bf16) | 11 => (e5m2, bf16)
  | 12 => (fp16, bf16) | _ => (bf16, fp16)

/-- The first n elements of a register as format q. -/
def State.elems (s : State) (a : BitVec 5) (q : Fmt) (from_ n : Nat) : List (FV × Bool) :=
  (((s.lanes a q.bits).drop from_).take n).map (q.elem s.me.ftz)

/-- Source format, signedness and width of the VCVTI codes (Table 07-10). -/
def vcvtiFmts (c : Nat) : Fmt × Bool × Nat :=
  match c with
  | 0 => (fp32, true, 32) | 1 => (fp32, true, 16) | 2 => (fp32, true, 8) | 3 => (fp32, false, 8) | 4 => (bf16, true, 16)
  | 5 => (bf16, true, 8) | 6 => (fp16, true, 16) | _ => (bf16, false, 8)

/-- Source signedness and width and destination of the VCVTF codes (Table 07-10). -/
def vcvtfFmts (c : Nat) : Bool × Nat × Fmt :=
  match c with
  | 0 => (true, 32, fp32) | 1 => (true, 16, fp32) | 2 => (true, 8, fp32) | 3 => (false, 8, fp32) | 4 => (true, 32, bf16)
  | 5 => (true, 16, bf16) | 6 => (true, 8, bf16) | _ => (false, 8, bf16)

/-- Element format of the VQUANT and VDEQ codes (R184). -/
def quantFmt (c : Nat) : Fmt := match c with | 0 => e4m3 | 1 => e5m2 | 2 => e3m2 | 3 => e2m3 | _ => e2m1


/-- VADD (Table 07-2). -/
def execVadd (v a b : BitVec 5) (m : BitVec 3) (t : BitVec 2) (s : State) : Out := .next (s.vint v a b m (tyW t) fun a b _ => a + b)

/-- VSUB (Table 07-2). -/
def execVsub (v a b : BitVec 5) (m : BitVec 3) (t : BitVec 2) (s : State) : Out := .next (s.vint v a b m (tyW t) fun a b _ => a + 2 ^ tyW t - b)

/-- VMUL (Table 07-2). -/
def execVmul (v a b : BitVec 5) (m : BitVec 3) (t : BitVec 2) (s : State) : Out := .next (s.vint v a b m (tyW t) fun a b _ => a * b)

/-- VMIN (Table 07-2). -/
def execVmin (v a b : BitVec 5) (m : BitVec 3) (t : BitVec 2) (s : State) : Out := .next (s.vint v a b m (tyW t) fun a b _ => if sInt a (tyW t) ≤ sInt b (tyW t) then a else b)

/-- VMAX (Table 07-2). -/
def execVmax (v a b : BitVec 5) (m : BitVec 3) (t : BitVec 2) (s : State) : Out := .next (s.vint v a b m (tyW t) fun a b _ => if sInt a (tyW t) ≥ sInt b (tyW t) then a else b)

/-- VMINU (Table 07-2). -/
def execVminu (v a b : BitVec 5) (m : BitVec 3) (t : BitVec 2) (s : State) : Out := .next (s.vint v a b m (tyW t) fun a b _ => Nat.min a b)

/-- VMAXU (Table 07-2). -/
def execVmaxu (v a b : BitVec 5) (m : BitVec 3) (t : BitVec 2) (s : State) : Out := .next (s.vint v a b m (tyW t) fun a b _ => Nat.max a b)

/-- VABS (Table 07-2). -/
def execVabs (v a : BitVec 5) (m : BitVec 3) (t : BitVec 2) (s : State) : Out := .next (s.vint v a a m (tyW t) fun a _ _ => if sInt a (tyW t) < 0 then 2 ^ tyW t - a else a)

/-- VNEG (Table 07-2). -/
def execVneg (v a : BitVec 5) (m : BitVec 3) (t : BitVec 2) (s : State) : Out := .next (s.vint v a a m (tyW t) fun a _ _ => 2 ^ tyW t - a)

/-- VMAD (Table 07-2). -/
def execVmad (v a b : BitVec 5) (m : BitVec 3) (t : BitVec 2) (s : State) : Out := .next (s.vint v a b m (tyW t) fun a b d => a * b + d)

/-- VAND (Table 07-2). -/
def execVand (v a b : BitVec 5) (m : BitVec 3) (t : BitVec 2) (s : State) : Out := .next (s.vint v a b m (tyW t) fun a b _ => a &&& b)

/-- VOR (Table 07-2). -/
def execVor (v a b : BitVec 5) (m : BitVec 3) (t : BitVec 2) (s : State) : Out := .next (s.vint v a b m (tyW t) fun a b _ => a ||| b)

/-- VXOR (Table 07-2). -/
def execVxor (v a b : BitVec 5) (m : BitVec 3) (t : BitVec 2) (s : State) : Out := .next (s.vint v a b m (tyW t) fun a b _ => a ^^^ b)

/-- VANDN (Table 07-2). -/
def execVandn (v a b : BitVec 5) (m : BitVec 3) (t : BitVec 2) (s : State) : Out := .next (s.vint v a b m (tyW t) fun a b _ => a &&& (2 ^ tyW t - 1 - b))

/-- VNOT (Table 07-2). -/
def execVnot (v a : BitVec 5) (m : BitVec 3) (t : BitVec 2) (s : State) : Out := .next (s.vint v a a m (tyW t) fun a _ _ => 2 ^ tyW t - 1 - a)

/-- VSHL (Table 07-2). -/
def execVshl (v a b : BitVec 5) (m : BitVec 3) (t : BitVec 2) (s : State) : Out := .next (s.vint v a b m (tyW t) fun a b _ => a * 2 ^ (b % tyW t))

/-- VSHR (Table 07-2). -/
def execVshr (v a b : BitVec 5) (m : BitVec 3) (t : BitVec 2) (s : State) : Out := .next (s.vint v a b m (tyW t) fun a b _ => a / 2 ^ (b % tyW t))

/-- VSRA (Table 07-2). -/
def execVsra (v a b : BitVec 5) (m : BitVec 3) (t : BitVec 2) (s : State) : Out := .next (s.vint v a b m (tyW t) fun a b _ => wrapI (tyW t) (sInt a (tyW t) / (2 ^ (b % tyW t) : Nat)))

/-- VFADD (Table 07-3). -/
def execVfadd (v a b : BitVec 5) (m : BitVec 3) (t : BitVec 2) (s : State) : Out := .next (s.vflanes v a b m (tyF t).bits fun rm z a b _ => (tyF t).fadd rm z a b)

/-- VFSUB (Table 07-3). -/
def execVfsub (v a b : BitVec 5) (m : BitVec 3) (t : BitVec 2) (s : State) : Out := .next (s.vflanes v a b m (tyF t).bits fun rm z a b _ => (tyF t).fsub rm z a b)

/-- VFMUL (Table 07-3). -/
def execVfmul (v a b : BitVec 5) (m : BitVec 3) (t : BitVec 2) (s : State) : Out := .next (s.vflanes v a b m (tyF t).bits fun rm z a b _ => (tyF t).fmul rm z a b)

/-- VFMA (Table 07-3): a × b + d with one rounding. -/
def execVfma (v a b : BitVec 5) (m : BitVec 3) (t : BitVec 2) (s : State) : Out := .next (s.vflanes v a b m (tyF t).bits fun rm z a b d => (tyF t).fma rm z a b d)

/-- VFMIN (Table 07-3). -/
def execVfmin (v a b : BitVec 5) (m : BitVec 3) (t : BitVec 2) (s : State) : Out := .next (s.vflanes v a b m (tyF t).bits fun _ z a b _ => (tyF t).fminmax false z a b)

/-- VFMAX (Table 07-3). -/
def execVfmax (v a b : BitVec 5) (m : BitVec 3) (t : BitVec 2) (s : State) : Out := .next (s.vflanes v a b m (tyF t).bits fun _ z a b _ => (tyF t).fminmax true z a b)

/-- VFABS (R174): every lane, encodings only. -/
def execVfabs (v a : BitVec 5) (t : BitVec 2) (s : State) : Out := .next (s.vdone v (tyF t).bits ((s.lanes a (tyF t).bits).map (tyF t).fabs))

/-- VFNEG (R174): every lane, encodings only. -/
def execVfneg (v a : BitVec 5) (t : BitVec 2) (s : State) : Out := .next (s.vdone v (tyF t).bits ((s.lanes a (tyF t).bits).map (tyF t).fneg))

/-- VEXP2B (R175). -/
def execVexp2b (v a : BitVec 5) (m : BitVec 3) (t : BitVec 2) (s : State) : Out := .next (s.vflanes v a a m (tyF t).bits fun _ z a _ _ => trans 0 (tyF t) z a)

/-- VRCPB (R175). -/
def execVrcpb (v a : BitVec 5) (m : BitVec 3) (t : BitVec 2) (s : State) : Out := .next (s.vflanes v a a m (tyF t).bits fun _ z a _ _ => trans 1 (tyF t) z a)

/-- VRSQB (R175). -/
def execVrsqb (v a : BitVec 5) (m : BitVec 3) (t : BitVec 2) (s : State) : Out := .next (s.vflanes v a a m (tyF t).bits fun _ z a _ _ => trans 2 (tyF t) z a)

/-- VCEQ (Table 07-5). -/
def execVceq (d : BitVec 3) (a b : BitVec 5) (m : BitVec 3) (t : BitVec 2) (s : State) : Out := .next (s.vcmp d a b m (tyW t) fun a b => a == b)

/-- VCNE (Table 07-5). -/
def execVcne (d : BitVec 3) (a b : BitVec 5) (m : BitVec 3) (t : BitVec 2) (s : State) : Out := .next (s.vcmp d a b m (tyW t) fun a b => a != b)

/-- VCLT (Table 07-5). -/
def execVclt (d : BitVec 3) (a b : BitVec 5) (m : BitVec 3) (t : BitVec 2) (s : State) : Out := .next (s.vcmp d a b m (tyW t) fun a b => sInt a (tyW t) < sInt b (tyW t))

/-- VCLE (Table 07-5). -/
def execVcle (d : BitVec 3) (a b : BitVec 5) (m : BitVec 3) (t : BitVec 2) (s : State) : Out := .next (s.vcmp d a b m (tyW t) fun a b => sInt a (tyW t) ≤ sInt b (tyW t))

/-- VCLTU (Table 07-5). -/
def execVcltu (d : BitVec 3) (a b : BitVec 5) (m : BitVec 3) (t : BitVec 2) (s : State) : Out := .next (s.vcmp d a b m (tyW t) fun a b => a < b)

/-- VFCEQ (Table 07-5). -/
def execVfceq (d : BitVec 3) (a b : BitVec 5) (m : BitVec 3) (t : BitVec 2) (s : State) : Out := .next (s.vfcmp d a b m t 0)

/-- VFCLT (Table 07-5). -/
def execVfclt (d : BitVec 3) (a b : BitVec 5) (m : BitVec 3) (t : BitVec 2) (s : State) : Out := .next (s.vfcmp d a b m t 1)

/-- VFCLE (Table 07-5). -/
def execVfcle (d : BitVec 3) (a b : BitVec 5) (m : BitVec 3) (t : BitVec 2) (s : State) : Out := .next (s.vfcmp d a b m t 2)

/-- VSEL (R177). -/
def execVsel (v a b : BitVec 5) (m : BitVec 3) (t : BitVec 2) (s : State) : Out := .next (let la := s.lanes a (tyW t); let lb := s.lanes b (tyW t); s.vdone v (tyW t) ((List.range (512 / tyW t)).map fun i => if s.on m i then ln la i else ln lb i))

/-- MAND (R177): the mask fields are ordinary operands. -/
def execMand (d a b : BitVec 3) (s : State) : Out := .next ((s.mset s.cur d.toNat (s.mget s.cur a.toNat &&& s.mget s.cur b.toNat)).retire 4)

/-- MOR (R177). -/
def execMor (d a b : BitVec 3) (s : State) : Out := .next ((s.mset s.cur d.toNat (s.mget s.cur a.toNat ||| s.mget s.cur b.toNat)).retire 4)

/-- MNOT (R177). -/
def execMnot (d a : BitVec 3) (s : State) : Out := .next ((s.mset s.cur d.toNat (~~~ s.mget s.cur a.toNat)).retire 4)

/-- MPOPC (R177). -/
def execMpopc (d : BitVec 5) (a m : BitVec 3) (t : BitVec 2) (s : State) : Out := .next ((s.xset s.cur d.toNat (nat ((List.range (512 / tyW t)).filter fun i => (s.mget s.cur a.toNat).getLsbD i && s.on m i).length)).retire 4)

/-- VBCAST (Table 07-7). -/
def execVbcast (v x : BitVec 5) (m : BitVec 3) (t : BitVec 2) (s : State) : Out := .next (s.vlanes v m (tyW t) fun _ => fld (s.xget s.cur x.toNat) 0 (tyW t))

/-- VEXT (Table 07-7). -/
def execVext (d a y : BitVec 5) (t : BitVec 2) (s : State) : Out := .next ((s.xset s.cur d.toNat (nat (ln (s.lanes a (tyW t)) ((s.xget s.cur y.toNat).toNat % (512 / tyW t))))).retire 4)

/-- VINS (Table 07-7). -/
def execVins (v x y : BitVec 5) (t : BitVec 2) (s : State) : Out := .next (s.vdone v (tyW t) ((s.lanes v (tyW t)).set ((s.xget s.cur y.toNat).toNat % (512 / tyW t)) (fld (s.xget s.cur x.toNat) 0 (tyW t))))

/-- VPERM (Table 07-7). -/
def execVperm (v a b : BitVec 5) (m : BitVec 3) (t : BitVec 2) (s : State) : Out := .next (let la := s.lanes a (tyW t); let lb := s.lanes b (tyW t); s.vlanes v m (tyW t) fun i => ln la (ln lb i % (512 / tyW t)))

/-- VSLIDE (Table 07-7). -/
def execVslide (v a y : BitVec 5) (m : BitVec 3) (t : BitVec 2) (s : State) : Out := .next (let la := s.lanes a (tyW t); let k := (s.xget s.cur y.toNat).toInt; s.vlanes v m (tyW t) fun i => if (i : Int) + k < 0 then 0 else ln la ((i : Int) + k).toNat)

/-- VIOTA (Table 07-7). -/
def execViota (v : BitVec 5) (m : BitVec 3) (t : BitVec 2) (s : State) : Out := .next (s.vdone v (tyW t) ((List.range (512 / tyW t)).map fun i => ((List.range i).filter (s.on m)).length))

/-- VCOMPRESS (Table 07-7). -/
def execVcompress (v a : BitVec 5) (m : BitVec 3) (t : BitVec 2) (s : State) : Out := .next (let la := s.lanes a (tyW t); s.vdone v (tyW t) (((List.range (512 / tyW t)).filter (s.on m)).map (ln la)))

/-- VREDADD (R179). -/
def execVredadd (v a : BitVec 5) (m : BitVec 3) (t : BitVec 2) (s : State) : Out := .next (let la := s.lanes a (tyW t); s.vdone v (tyW t) [((List.range (512 / tyW t)).filter (s.on m)).foldl (fun c i => (c + ln la i) % 2 ^ tyW t) 0])

/-- VREDMAX (R179). -/
def execVredmax (v a : BitVec 5) (m : BitVec 3) (t : BitVec 2) (s : State) : Out := .next (let la := s.lanes a (tyW t); s.vdone v (tyW t) [wrapI (tyW t) (((List.range (512 / tyW t)).filter (s.on m)).foldl (fun c i => max c (sInt (ln la i) (tyW t))) (-(2 ^ (tyW t - 1) : Nat)))])

/-- VFREDADD (R180). -/
def execVfredadd (v a : BitVec 5) (m : BitVec 3) (t : BitVec 2) (s : State) : Out := .next (s.vfred v a m t 0 ((tyF t).fadd s.me.rm s.me.ftz))

/-- VFREDMAX (R180). -/
def execVfredmax (v a : BitVec 5) (m : BitVec 3) (t : BitVec 2) (s : State) : Out := .next (s.vfred v a m t ((tyF t).infCode true) ((tyF t).fminmax true s.me.ftz))

/-- VSCAN (R181). -/
def execVscan (v a b : BitVec 5) (m : BitVec 3) (t : BitVec 2) (s : State) : Out := .next (s.vscan v a b m t false)

/-- VFSCAN (R181). -/
def execVfscan (v a b : BitVec 5) (m : BitVec 3) (t : BitVec 2) (s : State) : Out := .next (s.vfscan v a b m t false)

/-- VSEGSCAN (R181). -/
def execVsegscan (v a b : BitVec 5) (m : BitVec 3) (t : BitVec 2) (s : State) : Out := .next (s.vscan v a b m t true)

/-- VFSEGSCAN (R181). -/
def execVfsegscan (v a b : BitVec 5) (m : BitVec 3) (t : BitVec 2) (s : State) : Out := .next (s.vfscan v a b m t true)

/-- VCVT (Table 07-9): ty is the source width, which the code gives too. -/
def execVcvt (v a c : BitVec 5) (r : BitVec 3) (_t : BitVec 2) (s : State) : Out := .next (let (q, t) := vcvtFmts c.toNat; s.vconv v t.bits (convGroup t (s.vmode r) s.me.ftz (s.elems a q 0 (512 / Nat.max q.bits t.bits))))

/-- VCVTI (R183). -/
def execVcvti (v a c : BitVec 5) (r : BitVec 3) (_t : BitVec 2) (s : State) : Out := .next (let (q, sg, w) := vcvtiFmts c.toNat; s.vconv v w ((s.elems a q 0 (512 / Nat.max q.bits w)).map fun (x, sub) =>
    let (i, fl) := x.toInt (s.vmode r) (if sg then -(2 ^ (w - 1) : Nat) else 0) (if sg then (2 ^ (w - 1) : Nat) - 1 else (2 ^ w : Nat) - 1)
    ⟨wrapI w i, fl, sub⟩))

/-- VCVTF (R183). -/
def execVcvtf (v a c : BitVec 5) (r : BitVec 3) (_t : BitVec 2) (s : State) : Out := .next (let (sg, w, t) := vcvtfFmts c.toNat; s.vconv v t.bits (convGroup t (s.vmode r) s.me.ftz
    (((s.lanes a w).take (512 / Nat.max w t.bits)).map fun x => (FV.ofInt (if sg then sInt x w else x), false))))

/-- VQUANT (R184): the image of Table 07-11. -/
def execVquant (v a c : BitVec 5) (r : BitVec 3) (s : State) : Out := .next (let f := quantFmt c.toNat; let xs := s.elems a fp32 0 16; let qs := [xs.take 8, xs.drop 8].map fun l => quantise f (s.vmode r) (FV.zero false) (l.map (·.1))
    let fl := (qs.zipIdx.flatMap fun (q, b) => q.flags.zipIdx.map fun (x, i) => (8 * b + i, x))
    let img := (qs.zipIdx.foldl (fun n (q, b) => n + q.scale * 2 ^ (8 * b) + ofLanes f.bits q.codes * 2 ^ (64 + 8 * f.bits * b)) 0)
    s.vfp fl (xs.any (·.2)) fun s => s.vset s.cur v.toNat (BitVec.ofNat 512 img))

/-- VDEQ (R185): mode 4 rounds RNE (R64). -/
def execVdeq (v a c : BitVec 5) (r : BitVec 3) (s : State) : Out := .next (let f := quantFmt c.toNat; let n := (s.vget s.cur a.toNat).toNat
    s.vconv v 32 ((List.range 16).map fun j => fp32.result (armMode (s.vmode r)) s.me.ftz (blockValue f (bitsOf n (8 * (j / 8)) 8) (bitsOf n (64 + f.bits * j) f.bits)) 0))

/-- VPACK (R186). -/
def execVpack (v a b : BitVec 5) (r : BitVec 3) (t : BitVec 2) (s : State) : Out := .next (let q := if t = 0#2 then fp32 else bf16; let d := if t = 0#2 then bf16 else e4m3; let n := 512 / q.bits
    s.vconv v d.bits (convGroup d (s.vmode r) s.me.ftz (s.elems a q 0 n ++ s.elems b q 0 n)))

/-- VUNPK (R186): exact, the rounding field is ignored. -/
def execVunpk (v a h : BitVec 5) (_r : BitVec 3) (t : BitVec 2) (s : State) : Out := .next (let q := if t = 1#2 then bf16 else e4m3; let d := if t = 1#2 then fp32 else bf16; let n := 512 / d.bits
    s.vconv v d.bits (convGroup d 0 s.me.ftz (s.elems a q (n * h.toNat) n)))

end Sys2Proof.Machine
end

