-- ==== Sys2Proof/Machine/Dispatch.lean ====
section
/-! DEFINITION. One arm per instruction: the meaning that it has. -/

namespace Sys2Proof.Machine

def exec (i : Instr) (s : State) : Host.Outcome State Fault Refusal :=
  match i with
  | .add d a b => Sys2Proof.Machine.execAdd d a b s
  | .sub d a b => Sys2Proof.Machine.execSub d a b s
  | .mul d a b => Sys2Proof.Machine.execMul d a b s
  | .mulh d a b => Sys2Proof.Machine.execMulh d a b s
  | .mulhu d a b => Sys2Proof.Machine.execMulhu d a b s
  | .div d a b => Sys2Proof.Machine.execDiv d a b s
  | .divu d a b => Sys2Proof.Machine.execDivu d a b s
  | .rem d a b => Sys2Proof.Machine.execRem d a b s
  | .remu d a b => Sys2Proof.Machine.execRemu d a b s
  | .and d a b => Sys2Proof.Machine.execAnd d a b s
  | .or d a b => Sys2Proof.Machine.execOr d a b s
  | .xor d a b => Sys2Proof.Machine.execXor d a b s
  | .andn d a b => Sys2Proof.Machine.execAndn d a b s
  | .sll d a b => Sys2Proof.Machine.execSll d a b s
  | .srl d a b => Sys2Proof.Machine.execSrl d a b s
  | .sra d a b => Sys2Proof.Machine.execSra d a b s
  | .ror d a b => Sys2Proof.Machine.execRor d a b s
  | .min d a b => Sys2Proof.Machine.execMin d a b s
  | .max d a b => Sys2Proof.Machine.execMax d a b s
  | .minu d a b => Sys2Proof.Machine.execMinu d a b s
  | .maxu d a b => Sys2Proof.Machine.execMaxu d a b s
  | .slt d a b => Sys2Proof.Machine.execSlt d a b s
  | .sltu d a b => Sys2Proof.Machine.execSltu d a b s
  | .seq d a b => Sys2Proof.Machine.execSeq d a b s
  | .clz d a => Sys2Proof.Machine.execClz d a s
  | .ctz d a => Sys2Proof.Machine.execCtz d a s
  | .popc d a => Sys2Proof.Machine.execPopc d a s
  | .brev d a => Sys2Proof.Machine.execBrev d a s
  | .sextb d a => Sys2Proof.Machine.execSextb d a s
  | .sexth d a => Sys2Proof.Machine.execSexth d a s
  | .sextw d a => Sys2Proof.Machine.execSextw d a s
  | .bext d a b => Sys2Proof.Machine.execBext d a b s
  | .bins d a b => Sys2Proof.Machine.execBins d a b s
  | .addi d a im => Sys2Proof.Machine.execAddi d a im s
  | .andi d a im => Sys2Proof.Machine.execAndi d a im s
  | .ori d a im => Sys2Proof.Machine.execOri d a im s
  | .xori d a im => Sys2Proof.Machine.execXori d a im s
  | .slli d a sh => Sys2Proof.Machine.execSlli d a sh s
  | .srli d a sh => Sys2Proof.Machine.execSrli d a sh s
  | .srai d a sh => Sys2Proof.Machine.execSrai d a sh s
  | .rori d a sh => Sys2Proof.Machine.execRori d a sh s
  | .slti d a im => Sys2Proof.Machine.execSlti d a im s
  | .sltiu d a im => Sys2Proof.Machine.execSltiu d a im s
  | .lih d im => Sys2Proof.Machine.execLih d im s
  | .lis d im => Sys2Proof.Machine.execLis d im s
  | .padd d a b => Sys2Proof.Machine.execPadd d a b s
  | .padde d a b => Sys2Proof.Machine.execPadde d a b s
  | .pdiff d a b => Sys2Proof.Machine.execPdiff d a b s
  | .pmake d a b => Sys2Proof.Machine.execPmake d a b s
  | .pget d a => Sys2Proof.Machine.execPget d a s
  | .pset d a b => Sys2Proof.Machine.execPset d a b s
  | .pchk d a b => Sys2Proof.Machine.execPchk d a b s
  | .pabs d a => Sys2Proof.Machine.execPabs d a s
  | .prel d a => Sys2Proof.Machine.execPrel d a s
  | .paddi d a im => Sys2Proof.Machine.execPaddi d a im s
  | .lb d a im => Sys2Proof.Machine.execLb d a im s
  | .lbu d a im => Sys2Proof.Machine.execLbu d a im s
  | .lh d a im => Sys2Proof.Machine.execLh d a im s
  | .lhu d a im => Sys2Proof.Machine.execLhu d a im s
  | .lw d a im => Sys2Proof.Machine.execLw d a im s
  | .lwu d a im => Sys2Proof.Machine.execLwu d a im s
  | .ld d a im => Sys2Proof.Machine.execLd d a im s
  | .sb a b im => Sys2Proof.Machine.execSb a b im s
  | .sh a b im => Sys2Proof.Machine.execSh a b im s
  | .sw a b im => Sys2Proof.Machine.execSw a b im s
  | .sd a b im => Sys2Proof.Machine.execSd a b im s
  | .ldf d a => Sys2Proof.Machine.execLdf d a s
  | .ldff d a => Sys2Proof.Machine.execLdff d a s
  | .ste a b => Sys2Proof.Machine.execSte a b s
  | .stf a b => Sys2Proof.Machine.execStf a b s
  | .feset a => Sys2Proof.Machine.execFeset a s
  | .feclr a => Sys2Proof.Machine.execFeclr a s
  | .festat d a => Sys2Proof.Machine.execFestat d a s
  | .amoadd d a b o => Sys2Proof.Machine.execAmoadd d a b o s
  | .amoand d a b o => Sys2Proof.Machine.execAmoand d a b o s
  | .amoor d a b o => Sys2Proof.Machine.execAmoor d a b o s
  | .amoxor d a b o => Sys2Proof.Machine.execAmoxor d a b o s
  | .amomin d a b o => Sys2Proof.Machine.execAmomin d a b o s
  | .amomax d a b o => Sys2Proof.Machine.execAmomax d a b o s
  | .amominu d a b o => Sys2Proof.Machine.execAmominu d a b o s
  | .amomaxu d a b o => Sys2Proof.Machine.execAmomaxu d a b o s
  | .amoswap d a b o => Sys2Proof.Machine.execAmoswap d a b o s
  | .amocas d a b o => Sys2Proof.Machine.execAmocas d a b o s
  | .amofadd d a b o => Sys2Proof.Machine.execAmofadd d a b o s
  | .amofmin d a b o => Sys2Proof.Machine.execAmofmin d a b o s
  | .amofmax d a b o => Sys2Proof.Machine.execAmofmax d a b o s
  | .redadd a b o => Sys2Proof.Machine.execRedadd a b o s
  | .redand a b o => Sys2Proof.Machine.execRedand a b o s
  | .redor a b o => Sys2Proof.Machine.execRedor a b o s
  | .redxor a b o => Sys2Proof.Machine.execRedxor a b o s
  | .redmin a b o => Sys2Proof.Machine.execRedmin a b o s
  | .redmax a b o => Sys2Proof.Machine.execRedmax a b o s
  | .redminu a b o => Sys2Proof.Machine.execRedminu a b o s
  | .redmaxu a b o => Sys2Proof.Machine.execRedmaxu a b o s
  | .redfadd a b o => Sys2Proof.Machine.execRedfadd a b o s
  | .redfmin a b o => Sys2Proof.Machine.execRedfmin a b o s
  | .redfmax a b o => Sys2Proof.Machine.execRedfmax a b o s
  | .fence b => Sys2Proof.Machine.execFence b s
  | .monarm d a => Sys2Proof.Machine.execMonarm d a s
  | .monwait d => Sys2Proof.Machine.execMonwait d s
  | .monclr a => Sys2Proof.Machine.execMonclr a s
  | .waitmsg d => Sys2Proof.Machine.execWaitmsg d s
  | .ccut => Sys2Proof.Machine.execCcut s
  | .quiesce b => Sys2Proof.Machine.execQuiesce b s
  | .yield => Sys2Proof.Machine.execYield s
  | .vld v x m => Sys2Proof.Machine.execVld v x m s
  | .vst v x m => Sys2Proof.Machine.execVst v x m s
  | .vlds v x y m => Sys2Proof.Machine.execVlds v x y m s
  | .vsts v x y m => Sys2Proof.Machine.execVsts v x y m s
  | .vldx v x y m => Sys2Proof.Machine.execVldx v x y m s
  | .vstx v x y m => Sys2Proof.Machine.execVstx v x y m s
  | .vldb v x y m => Sys2Proof.Machine.execVldb v x y m s
  | .eld a => Sys2Proof.Machine.execEld a s
  | .est a => Sys2Proof.Machine.execEst a s
  | .emov d b => Sys2Proof.Machine.execEmov d b s
  | .eget d a => Sys2Proof.Machine.execEget d a s
  | .beq a b im => Sys2Proof.Machine.execBeq a b im s
  | .bne a b im => Sys2Proof.Machine.execBne a b im s
  | .blt a b im => Sys2Proof.Machine.execBlt a b im s
  | .bge a b im => Sys2Proof.Machine.execBge a b im s
  | .bltu a b im => Sys2Proof.Machine.execBltu a b im s
  | .bgeu a b im => Sys2Proof.Machine.execBgeu a b im s
  | .btok a im => Sys2Proof.Machine.execBtok a im s
  | .next im => Sys2Proof.Machine.execNext im s
  | .jal im => Sys2Proof.Machine.execJal im s
  | .jmp im => Sys2Proof.Machine.execJmp im s
  | .jalr d a im => Sys2Proof.Machine.execJalr d a im s
  | .spawn a b => Sys2Proof.Machine.execSpawn a b s
  | .spawnl d a b => Sys2Proof.Machine.execSpawnl d a b s
  | .quit => Sys2Proof.Machine.execQuit s
  | .dinit a b => Sys2Proof.Machine.execDinit a b s
  | .darm d a b => Sys2Proof.Machine.execDarm d a b s
  | .dbind d a b => Sys2Proof.Machine.execDbind d a b s
  | .ddec a => Sys2Proof.Machine.execDdec a s
  | .dstat d a => Sys2Proof.Machine.execDstat d a s
  | .gnew d => Sys2Proof.Machine.execGnew d s
  | .gjoin a => Sys2Proof.Machine.execGjoin a s
  | .gleave a => Sys2Proof.Machine.execGleave a s
  | .gbar d a => Sys2Proof.Machine.execGbar d a s
  | .gfree a => Sys2Proof.Machine.execGfree a s
  | .iteri a => Sys2Proof.Machine.execIteri a s
  | .qnew d => Sys2Proof.Machine.execQnew d s
  | .qbind d a b => Sys2Proof.Machine.execQbind d a b s
  | .qunbind d => Sys2Proof.Machine.execQunbind d s
  | .qctl d b => Sys2Proof.Machine.execQctl d b s
  | .qctlDrain d => Sys2Proof.Machine.execQctlDrain d s
  | .qctlClose d => Sys2Proof.Machine.execQctlClose d s
  | .qctlOpen d => Sys2Proof.Machine.execQctlOpen d s
  | .qtok d b => Sys2Proof.Machine.execQtok d b s
  | .qstat d a => Sys2Proof.Machine.execQstat d a s
  | .qfree a => Sys2Proof.Machine.execQfree a s
  | .qref d a b => Sys2Proof.Machine.execQref d a b s
  | .fadd d a b p => Sys2Proof.Machine.execFadd d a b p s
  | .fsub d a b p => Sys2Proof.Machine.execFsub d a b p s
  | .fmul d a b p => Sys2Proof.Machine.execFmul d a b p s
  | .fdiv d a b p => Sys2Proof.Machine.execFdiv d a b p s
  | .fsqrt d a p => Sys2Proof.Machine.execFsqrt d a p s
  | .fma d a b p => Sys2Proof.Machine.execFma d a b p s
  | .fmin d a b p => Sys2Proof.Machine.execFmin d a b p s
  | .fmax d a b p => Sys2Proof.Machine.execFmax d a b p s
  | .feq d a b p => Sys2Proof.Machine.execFeq d a b p s
  | .flt d a b p => Sys2Proof.Machine.execFlt d a b p s
  | .fle d a b p => Sys2Proof.Machine.execFle d a b p s
  | .fclass d a p => Sys2Proof.Machine.execFclass d a p s
  | .fneg d a p => Sys2Proof.Machine.execFneg d a p s
  | .fabs d a p => Sys2Proof.Machine.execFabs d a p s
  | .fcvti d a p => Sys2Proof.Machine.execFcvti d a p s
  | .fcvtu d a p => Sys2Proof.Machine.execFcvtu d a p s
  | .icvtf d a p => Sys2Proof.Machine.execIcvtf d a p s
  | .fcvtf d a t p => Sys2Proof.Machine.execFcvtf d a t p s
  | .hsift d a b => Sys2Proof.Machine.execHsift d a b s
  | .hinit a b => Sys2Proof.Machine.execHinit a b s
  | .vadd v a b m t => Sys2Proof.Machine.execVadd v a b m t s
  | .vsub v a b m t => Sys2Proof.Machine.execVsub v a b m t s
  | .vmul v a b m t => Sys2Proof.Machine.execVmul v a b m t s
  | .vmin v a b m t => Sys2Proof.Machine.execVmin v a b m t s
  | .vmax v a b m t => Sys2Proof.Machine.execVmax v a b m t s
  | .vminu v a b m t => Sys2Proof.Machine.execVminu v a b m t s
  | .vmaxu v a b m t => Sys2Proof.Machine.execVmaxu v a b m t s
  | .vabs v a m t => Sys2Proof.Machine.execVabs v a m t s
  | .vneg v a m t => Sys2Proof.Machine.execVneg v a m t s
  | .vmad v a b m t => Sys2Proof.Machine.execVmad v a b m t s
  | .vand v a b m t => Sys2Proof.Machine.execVand v a b m t s
  | .vor v a b m t => Sys2Proof.Machine.execVor v a b m t s
  | .vxor v a b m t => Sys2Proof.Machine.execVxor v a b m t s
  | .vandn v a b m t => Sys2Proof.Machine.execVandn v a b m t s
  | .vnot v a m t => Sys2Proof.Machine.execVnot v a m t s
  | .vshl v a b m t => Sys2Proof.Machine.execVshl v a b m t s
  | .vshr v a b m t => Sys2Proof.Machine.execVshr v a b m t s
  | .vsra v a b m t => Sys2Proof.Machine.execVsra v a b m t s
  | .vfadd v a b m t => Sys2Proof.Machine.execVfadd v a b m t s
  | .vfsub v a b m t => Sys2Proof.Machine.execVfsub v a b m t s
  | .vfmul v a b m t => Sys2Proof.Machine.execVfmul v a b m t s
  | .vfma v a b m t => Sys2Proof.Machine.execVfma v a b m t s
  | .vfmin v a b m t => Sys2Proof.Machine.execVfmin v a b m t s
  | .vfmax v a b m t => Sys2Proof.Machine.execVfmax v a b m t s
  | .vfabs v a t => Sys2Proof.Machine.execVfabs v a t s
  | .vfneg v a t => Sys2Proof.Machine.execVfneg v a t s
  | .vexp2b v a m t => Sys2Proof.Machine.execVexp2b v a m t s
  | .vrcpb v a m t => Sys2Proof.Machine.execVrcpb v a m t s
  | .vrsqb v a m t => Sys2Proof.Machine.execVrsqb v a m t s
  | .vceq d a b m t => Sys2Proof.Machine.execVceq d a b m t s
  | .vcne d a b m t => Sys2Proof.Machine.execVcne d a b m t s
  | .vclt d a b m t => Sys2Proof.Machine.execVclt d a b m t s
  | .vcle d a b m t => Sys2Proof.Machine.execVcle d a b m t s
  | .vcltu d a b m t => Sys2Proof.Machine.execVcltu d a b m t s
  | .vfceq d a b m t => Sys2Proof.Machine.execVfceq d a b m t s
  | .vfclt d a b m t => Sys2Proof.Machine.execVfclt d a b m t s
  | .vfcle d a b m t => Sys2Proof.Machine.execVfcle d a b m t s
  | .vsel v a b m t => Sys2Proof.Machine.execVsel v a b m t s
  | .mand d a b => Sys2Proof.Machine.execMand d a b s
  | .mor d a b => Sys2Proof.Machine.execMor d a b s
  | .mnot d a => Sys2Proof.Machine.execMnot d a s
  | .mpopc d a m t => Sys2Proof.Machine.execMpopc d a m t s
  | .vbcast v x m t => Sys2Proof.Machine.execVbcast v x m t s
  | .vext d a y t => Sys2Proof.Machine.execVext d a y t s
  | .vins v x y t => Sys2Proof.Machine.execVins v x y t s
  | .vperm v a b m t => Sys2Proof.Machine.execVperm v a b m t s
  | .vslide v a y m t => Sys2Proof.Machine.execVslide v a y m t s
  | .viota v m t => Sys2Proof.Machine.execViota v m t s
  | .vcompress v a m t => Sys2Proof.Machine.execVcompress v a m t s
  | .vredadd v a m t => Sys2Proof.Machine.execVredadd v a m t s
  | .vredmax v a m t => Sys2Proof.Machine.execVredmax v a m t s
  | .vfredadd v a m t => Sys2Proof.Machine.execVfredadd v a m t s
  | .vfredmax v a m t => Sys2Proof.Machine.execVfredmax v a m t s
  | .vscan v a b m t => Sys2Proof.Machine.execVscan v a b m t s
  | .vfscan v a b m t => Sys2Proof.Machine.execVfscan v a b m t s
  | .vsegscan v a b m t => Sys2Proof.Machine.execVsegscan v a b m t s
  | .vfsegscan v a b m t => Sys2Proof.Machine.execVfsegscan v a b m t s
  | .vcvt v a c r t => Sys2Proof.Machine.execVcvt v a c r t s
  | .vcvti v a c r t => Sys2Proof.Machine.execVcvti v a c r t s
  | .vcvtf v a c r t => Sys2Proof.Machine.execVcvtf v a c r t s
  | .vquant v a c r => Sys2Proof.Machine.execVquant v a c r s
  | .vdeq v a c r => Sys2Proof.Machine.execVdeq v a c r s
  | .vpack v a b r t => Sys2Proof.Machine.execVpack v a b r t s
  | .vunpk v a h r t => Sys2Proof.Machine.execVunpk v a h r t s
  | .mma d => Sys2Proof.Machine.execMma d s
  | .mmas d => Sys2Proof.Machine.execMmas d s
  | .mmax d => Sys2Proof.Machine.execMmax d s
  | .mdelta d => Sys2Proof.Machine.execMdelta d s
  | .mrefresh d => Sys2Proof.Machine.execMrefresh d s
  | .minv d a => Sys2Proof.Machine.execMinv d a s
  | .mloadb d => Sys2Proof.Machine.execMloadb d s
  | .mfreeb a => Sys2Proof.Machine.execMfreeb a s
  | .mstc d => Sys2Proof.Machine.execMstc d s
  | .mgroup d => Sys2Proof.Machine.execMgroup d s
  | .mpri d a b => Sys2Proof.Machine.execMpri d a b s
  | .mstat d a => Sys2Proof.Machine.execMstat d a s
  | .copy d => Sys2Proof.Machine.execCopy d s
  | .gather d => Sys2Proof.Machine.execGather d s
  | .scatter d => Sys2Proof.Machine.execScatter d s
  | .isect d => Sys2Proof.Machine.execIsect d s
  | .rsort d => Sys2Proof.Machine.execRsort d s
  | .bbinit a b => Sys2Proof.Machine.execBbinit a b s
  | .bbexpect a b => Sys2Proof.Machine.execBbexpect a b s
  | .bbwait d a b => Sys2Proof.Machine.execBbwait d a b s
  | .sendm a b => Sys2Proof.Machine.execSendm a b s
  | .elook d a => Sys2Proof.Machine.execElook d a s
  | .ereq d a b => Sys2Proof.Machine.execEreq d a b s
  | .epin d a => Sys2Proof.Machine.execEpin d a s
  | .eunpin d a => Sys2Proof.Machine.execEunpin d a s
  | .ehint a b => Sys2Proof.Machine.execEhint a b s
  | .route d a b => Sys2Proof.Machine.execRoute d a b s
  | .trap a b => Sys2Proof.Machine.execTrap a b s
  | .brk => Sys2Proof.Machine.execBrk s
  | .sysrd d hi lo => Sys2Proof.Machine.execSysrd d hi lo s
  | .syswr d hi lo => Sys2Proof.Machine.execSyswr d hi lo s
  | .cflush a b => Sys2Proof.Machine.execCflush a b s
  | .iflush => Sys2Proof.Machine.execIflush s
  | .eret => Sys2Proof.Machine.execEret s
  | .tinv a b => Sys2Proof.Machine.execTinv a b s
  | .freeze d a => Sys2Proof.Machine.execFreeze d a s
  | .thaw d a => Sys2Proof.Machine.execThaw d a s
  | .nudge d a => Sys2Proof.Machine.execNudge d a s
  | .cNop => Sys2Proof.Machine.execCNop s
  | .cRet => Sys2Proof.Machine.execCRet s
  | .cYield => Sys2Proof.Machine.execCYield s
  | .cLi d im => Sys2Proof.Machine.execCLi d im s
  | .cAddi d im => Sys2Proof.Machine.execCAddi d im s
  | .cMov d a => Sys2Proof.Machine.execCMov d a s
  | .cAdd d a => Sys2Proof.Machine.execCAdd d a s
  | .cSub d a => Sys2Proof.Machine.execCSub d a s
  | .cLd d b im => Sys2Proof.Machine.execCLd d b im s
  | .cSd d b im => Sys2Proof.Machine.execCSd d b im s
  | .cBeqz a im => Sys2Proof.Machine.execCBeqz a im s
  | .cBnez a im => Sys2Proof.Machine.execCBnez a im s
  | .cJ im => Sys2Proof.Machine.execCJ im s
  | .cSlli d sh => Sys2Proof.Machine.execCSlli d sh s
  | .cSrli d sh => Sys2Proof.Machine.execCSrli d sh s
  | .cAnd d a => Sys2Proof.Machine.execCAnd d a s
  | .monitorTimeout k => Sys2Proof.Machine.execMonitorTimeout k s
  | .waitmsgTimeout k => Sys2Proof.Machine.execWaitmsgTimeout k s
  | .counterBankStep n => Sys2Proof.Machine.execCounterBankStep n s
  | .groupRequestArrival n => Sys2Proof.Machine.execGroupRequestArrival n s
  | .streamItem cl j => Sys2Proof.Machine.execStreamItem cl j s
  | .queuePushArrival n => Sys2Proof.Machine.execQueuePushArrival n s
  | .queuePopArrival n => Sys2Proof.Machine.execQueuePopArrival n s
  | .queueControlArrival n => Sys2Proof.Machine.execQueueControlArrival n s
  | .reservationRound n => Sys2Proof.Machine.execReservationRound n s
  | .commitRound n => Sys2Proof.Machine.execCommitRound n s
  | .normaliserDone c => Sys2Proof.Machine.execNormaliserDone c s
  | .matrixLaunchArrival n => Sys2Proof.Machine.execMatrixLaunchArrival n s
  | .arrayIdleStart cl => Sys2Proof.Machine.execArrayIdleStart cl s
  | .kStepBoundary cl => Sys2Proof.Machine.execKStepBoundary cl s
  | .priorityAgeing cl j => Sys2Proof.Machine.execPriorityAgeing cl j s
  | .mirrorReservationGrant cl => Sys2Proof.Machine.execMirrorReservationGrant cl s
  | .matrixOperationCompletion cl => Sys2Proof.Machine.execMatrixOperationCompletion cl s
  | .groupRecordWalk cl => Sys2Proof.Machine.execGroupRecordWalk cl s
  | .tileMove cl => Sys2Proof.Machine.execTileMove cl s
  | .turnstileRelease n => Sys2Proof.Machine.execTurnstileRelease n s
  | .turnstilePark n => Sys2Proof.Machine.execTurnstilePark n s
  | .engineRequestArrival n h => Sys2Proof.Machine.execEngineRequestArrival n h s
  | .refusalResend n => Sys2Proof.Machine.execRefusalResend n s
  | .engineBlockWrite e j => Sys2Proof.Machine.execEngineBlockWrite e j s
  | .credit n => Sys2Proof.Machine.execCredit n s
  | .mailboxMessageArrival n h => Sys2Proof.Machine.execMailboxMessageArrival n h s
  | .residencyStep n => Sys2Proof.Machine.execResidencyStep n s
  | .freezeCompletion x => Sys2Proof.Machine.execFreezeCompletion x s
  | .thawCompletion x => Sys2Proof.Machine.execThawCompletion x s
  | .landRecord c => Sys2Proof.Machine.execLandRecord c s
  | .sequencerReissue k => Sys2Proof.Machine.execSequencerReissue k s
  | .queueSpillRefill cl q => Sys2Proof.Machine.execQueueSpillRefill cl q s
  | .dequeSpillMove c => Sys2Proof.Machine.execDequeSpillMove c s
  | .stealRequest c => Sys2Proof.Machine.execStealRequest c s
  | .stealAnswer n => Sys2Proof.Machine.execStealAnswer n s
  | .stealSweepDelay c => Sys2Proof.Machine.execStealSweepDelay c s
  | .taskRecordArrival n h => Sys2Proof.Machine.execTaskRecordArrival n h s
  | .pinnedStart n => Sys2Proof.Machine.execPinnedStart n s
  | .reply n => Sys2Proof.Machine.execReply n s
  | .acknowledgement n => Sys2Proof.Machine.execAcknowledgement n s
  | .remoteAccessArrival n => Sys2Proof.Machine.execRemoteAccessArrival n s
  | .sliceReservationGrant n => Sys2Proof.Machine.execSliceReservationGrant n s
  | .commitRequest k => Sys2Proof.Machine.execCommitRequest k s
  | .commitGrant k => Sys2Proof.Machine.execCommitGrant k s
  | .soloGrant => Sys2Proof.Machine.execSoloGrant s
  | .lineWriteback l drop => Sys2Proof.Machine.execLineWriteback l drop s
  | .paradeVisit x j => Sys2Proof.Machine.execParadeVisit x j s
  | .queueStuckTimeout cl q => Sys2Proof.Machine.execQueueStuckTimeout cl q s
  | .translationWalk n => Sys2Proof.Machine.execTranslationWalk n s
  | .faultMessage n => Sys2Proof.Machine.execFaultMessage n s
  | .wake n => Sys2Proof.Machine.execWake n s
  | .pageRequestSuccess n => Sys2Proof.Machine.execPageRequestSuccess n s
  | .pageRequestInvalidRequest n => Sys2Proof.Machine.execPageRequestInvalidRequest n s
  | .pageRequestResponseFailure n => Sys2Proof.Machine.execPageRequestResponseFailure n s
  | .dirtyLogMerge cl => Sys2Proof.Machine.execDirtyLogMerge cl s
  | .pmapWrite j w => Sys2Proof.Machine.execPmapWrite j w s
  | .dsrwinWrite j w => Sys2Proof.Machine.execDsrwinWrite j w s
  | .ptrootWrite w => Sys2Proof.Machine.execPtrootWrite w s
  | .fltinfo d => Sys2Proof.Machine.execFltinfo d s
  | .fltdoneRetry id => Sys2Proof.Machine.execFltdoneRetry id s
  | .fltdoneReject id => Sys2Proof.Machine.execFltdoneReject id s
  | .dharv w => Sys2Proof.Machine.execDharv w s
  | .exreq d => Sys2Proof.Machine.execExreq d s
  | .exdonePageInDone key => Sys2Proof.Machine.execExdonePageInDone key s
  | .exdonePageInFailed key => Sys2Proof.Machine.execExdonePageInFailed key s
  | .exdoneEvictionDone key => Sys2Proof.Machine.execExdoneEvictionDone key s
  | .exdoneRefused key => Sys2Proof.Machine.execExdoneRefused key s
  | .exevict w => Sys2Proof.Machine.execExevict w s
  | .frpop d => Sys2Proof.Machine.execFrpop d s
  | .faultRecordArrival n => Sys2Proof.Machine.execFaultRecordArrival n s
  | .finject w => Sys2Proof.Machine.execFinject w s
  | .slotpc w => Sys2Proof.Machine.execSlotpc w s
  | .slotkill w => Sys2Proof.Machine.execSlotkill w s
  | .registerSoftError k bank ix => Sys2Proof.Machine.execRegisterSoftError k bank ix s
  | .scrub lv kd ad => Sys2Proof.Machine.execScrub lv kd ad s
  | .hqmapWrite w => Sys2Proof.Machine.execHqmapWrite w s
  | .push vf win w => Sys2Proof.Machine.execPush vf win w s
  | .pusht vf win w => Sys2Proof.Machine.execPusht vf win w s
  | .pop vf win => Sys2Proof.Machine.execPop vf win s
  | .ack vf win w => Sys2Proof.Machine.execAck vf win w s
  | .ckctlCheckpoint => Sys2Proof.Machine.execCkctlCheckpoint s
  | .ckctlRestore => Sys2Proof.Machine.execCkctlRestore s
  | .checkpointDone => Sys2Proof.Machine.execCheckpointDone s
  | .xpcmdEnable port => Sys2Proof.Machine.execXpcmdEnable port s
  | .xpcmdDisable port => Sys2Proof.Machine.execXpcmdDisable port s
  | .xpcmdRetrain port => Sys2Proof.Machine.execXpcmdRetrain port s
  | .xqForward x j => Sys2Proof.Machine.execXqForward x j s
  | .crossPackageArrival m => Sys2Proof.Machine.execCrossPackageArrival m s
  | .joinFailure => Sys2Proof.Machine.execJoinFailure s
  | .powerOn => Sys2Proof.Machine.execPowerOn s
  | .doorbellLoad => Sys2Proof.Machine.execDoorbellLoad s
  | .doorbellReload => Sys2Proof.Machine.execDoorbellReload s
  | .stageAccess wr off w => Sys2Proof.Machine.execStageAccess wr off w s
  | .measurementExtend w => Sys2Proof.Machine.execMeasurementExtend w s
  | .attcmd w => Sys2Proof.Machine.execAttcmd w s
  | .acmdReport w => Sys2Proof.Machine.execAcmdReport w s
  | .acmdCertificate w => Sys2Proof.Machine.execAcmdCertificate w s
  | .attestationService => Sys2Proof.Machine.execAttestationService s
  | .wdtKick w => Sys2Proof.Machine.execWdtKick w s
  | .watchdogExpired die => Sys2Proof.Machine.execWatchdogExpired die s
  | .securityAlarm cause => Sys2Proof.Machine.execSecurityAlarm cause s
  | .debugAccessRefused => Sys2Proof.Machine.execDebugAccessRefused s
  | .injectedFaultTaken k => Sys2Proof.Machine.execInjectedFaultTaken k s
  | .atsCompletion n st pa => Sys2Proof.Machine.execAtsCompletion n st pa s
  | .pageRequestReenable vf => Sys2Proof.Machine.execPageRequestReenable vf s
  | .checkpointRestoreDone => Sys2Proof.Machine.execCheckpointRestoreDone s
  | .scaleUpPortCommandDone port up => Sys2Proof.Machine.execScaleUpPortCommandDone port up s

end Sys2Proof.Machine
end

