-- ==== Sys2Proof/Machine/Turn.lean ====
section
/-! DEFINITION. One turn of a core (R18, R19, R44, R71, R72): fetch, decode, issue, and the instructions that a step completes in
place (R270). -/

namespace Sys2Proof.Machine

/-- A byte of the code window as slot k fetches it: its fetch buffer first (R166). -/
def State.codeByte (s : State) (k a : Nat) : Byte :=
  match (s.slot k).fbuf.find a with
  | some b => b
  | none => s.byteAt (tcmBase (coreOf k) + a)

/-- The halfword at a, least significant byte first. -/
def State.codeHalf (s : State) (k a : Nat) : BitVec 16 := s.codeByte k (a + 1) ++ s.codeByte k a

/-- The fetch faults of the halfword at a (R44, R324). -/
def State.fetchFault (s : State) (k a : Nat) : Option (Nat × Option W) :=
  if a % 2 = 1 ∨ a ≥ 65536 then some (73, none)
  else if s.poisonAt (tcmBase (coreOf k) + a) then some (131, none)
  else none

/-- The instruction that slot k fetches at its PC, or the fault of the fetch or of the encoding check (R71, R72, R82). -/
noncomputable def State.fetch (s : State) (k : Nat) : Except (Nat × Option W) Instr :=
  let pc := (s.slot k).pc.toNat
  match s.fetchFault k pc with
  | some f => .error f
  | none =>
    let h0 := s.codeHalf k pc
    if h0.getLsbD 15 then
      match s.fetchFault k (pc + 2) with
      | some f => .error f
      | none =>
        let h1 := s.codeHalf k (pc + 2)
        match decodeHalves h0 h1 with
        | .ok i => .ok i
        | .error j => .error (j, some (nat (h0.toNat * 65536 + h1.toNat)))
    else
      match decodeHalves h0 0#16 with
      | .ok i => .ok i
      | .error j => .error (j, some (h0.setWidth 64))

/-- Slot k issues instruction i: it becomes the pending instruction and acts. -/
def State.issue (s : State) (k : Nat) (i : Instr) : Out :=
  let s := ({ s with cur := k }).openChunk k
  exec i (s.upd fun sl => { sl with pend := some i, latch := {}, nudged := false })

/-- Slot k fetches at its PC and issues. -/
noncomputable def State.fetchIssue (s : State) (k : Nat) : Out :=
  match s.fetch k with
  | .error f => .next (({ s with cur := k }).raiseWith f)
  | .ok i => s.issue k i

/-- The home turn of slot k, which is in RUN: an injected fault first (R322), else fetch and issue. -/
noncomputable def State.homeTurn (s : State) (k : Nat) : Out :=
  match (s.slot k).inj with
  | some f => .next (s.takeInjected k f)
  | none => s.fetchIssue k

/-- The turn that this step has begun ends (R18, R23). -/
def State.endStep (s : State) (cur0 : Nat) : State :=
  match s.ending with
  | some c => { ({ s with ending := none } : State).endTurn c with cur := cur0 }
  | none => { s with cur := cur0 }

/-- Completes the instructions whose wait this step has ended (R270): each acts again with what came, within the step. A slot that the solo
grant restarts issues the first instruction of its chunk, as if in this turn. -/
noncomputable def State.settle (cur0 : Nat) : Nat → State → Out
  | 0, s => .next (s.endStep cur0)
  | f + 1, s =>
    match s.replay with
    | [] => .next (s.endStep cur0)
    | k :: ks =>
      let s : State := { s with replay := ks, cur := k }
      let sl := s.slot k
      if sl.st ≠ .run then State.settle cur0 f s
      else
        match (match sl.pend with
          | some i => exec i s
          | none => if sl.wait = Wait.reissue then (s.modSlot k fun sl => { sl with wait := .none }).fetchIssue k else .next s) with
        | .next s => State.settle cur0 f s
        | o => o

/-- Settles what a step has completed. -/
noncomputable def State.settled (s : State) : Out := State.settle s.cur (2 * s.slots.length + 2) s

/-- What is done after a meaning. -/
def andThen (o : Out) (f : State → Out) : Out :=
  match o with
  | .next s => f s
  | o => o

/-- A cycle that core c only counts: the device, or the core's context, does not run (R27, R353). A halted device counts none
(R360). -/
def State.idleCycle (s : State) (c : Nat) : State :=
  if s.sec.st = 5 then s else (s.beginCycle c).modCore c fun co => { co with cyc := (co.cyc + 1) % 2 ^ 64 }

/-- A cycle of core c: its owner's home turn, or a vacant turn (R18, R19, R268). A cycle that the other cores of the cluster have not
come to yet is none (log 14). -/
noncomputable def State.cycle (s : State) (c : Nat) : Out :=
  if c ≥ 1024 then .fault .noSuchCore
  else if !s.inStep c then .next s
  else if !s.runs c then .next (s.idleCycle c)
  else if let some t := (s.slot (s.turnOwner c)).err then ({ (s.beginCycle c).takeError (s.turnOwner c) t with ending := some c } : State).settled
  else if s.issues c then
    andThen (({ s.beginCycle c with ending := some c } : State).homeTurn (s.turnOwner c)) State.settled
  else (s.vacantTurn c).settled

/-- The events of a device that does not run (R354, R356): power, the host's registers and the security manager. -/
def outside : Instr → Bool
  | .powerOn .. | .doorbellLoad .. | .doorbellReload .. | .stageAccess .. | .attestationService .. | .acmdReport .. | .acmdCertificate ..
  | .securityAlarm .. | .debugAccessRefused .. => true
  | _ => false

/-- An event of the agenda: a step of a unit, of firmware, of the host or of the environment. An encoded instruction is no event: it is
issued by a slot in its home turn, so nothing happens; nor does anything in a device that does not run, but for what reaches it from
outside. -/
noncomputable def State.event (s : State) (i : Instr) : Out :=
  if (encode i).isSome then .next s
  else if s.sec.st = 3 then andThen (exec i s) State.settled
  else if outside i then exec i s
  else .next s

/-- An entry of the agenda. Beside cycles and events, what comes from outside and has no row in the opcode table: the host's accesses to a VF's BAR0, its stores in its own memory and what it
grants; a read that returns poison or an error; firmware's pinned slots. What reaches a device that does not run changes nothing, but
for what is the host's own. -/
noncomputable def State.turn (s : State) : Turn → Out
  | .cycle c => s.cycle c
  | .event i => s.event i
  | .hostStore a b => s.hostStore a b
  | .hostAts on p d => .next (s.hostAts on p d)
  | .hostAlloc vf n => .next (s.hostAlloc vf n)
  | .hostBar vf off n w => if s.sec.st = 3 then andThen (s.barAccess vf off n w) State.settled else .next s
  | .readError a => .next (if s.sec.st = 3 then s.readError a else s)
  | .pin k w0 w1 w2 w3 => .next (if s.sec.st = 3 then s.pin k { w0 := w0, w1 := w1, w2 := w2, w3 := w3 } else s)
  | .launch x => .next (if s.sec.st = 3 then s.launchCtx x else s)

end Sys2Proof.Machine
end

