-- ==== Sys2Proof/Machine/Step.lean ====
section
/-! DEFINITION. The step of the machine. The agenda says which unit acts next (log 4); with an empty agenda it is the core in
the cluster of `cur` whose cycle comes next. -/

namespace Sys2Proof.Machine

/-- The core of core c's cluster whose cycle comes next (log 14). -/
def State.nextCore (s : State) (c : Nat) : Nat := (((List.range 8).map (c / 8 * 8 + ·)).find? s.inStep).getD c

/-- One step: the first entry of the agenda, or the next cycle in the cluster of `cur`. -/
noncomputable def step (s : State) : Host.Outcome State Fault Refusal :=
  match s.agenda with
  | [] => s.cycle (s.nextCore (coreOf s.cur))
  | e :: r => { s with agenda := r }.turn e

/-- The cores of core c's cluster stand where core c begins the next cycle (log 14). -/
def State.inStepAt (s : State) (c : Nat) : State :=
  let b := (s.core c).beat
  (List.range 8).foldl (fun s i =>
    let d := c / 8 * 8 + i
    if d = c then s else s.modCore d fun co => { co with beat := Nat.max co.beat (if d < c then b + 1 else b) }) s

/-- The state in which the next step fetches and runs the instruction with the table's bits w: the device runs (R354), the owner of
the current turn of the core of `cur` (of ringmaster 0 before the device runs) is in RUN, its core's cycle comes next, and the bytes stand
at its PC. -/
def State.withFetchWord (s : State) (nbits w : Nat) : State :=
  let c := if s.sec.st = 3 ∧ s.runs (coreOf s.cur) then coreOf s.cur else 7
  let k := s.turnOwner c
  let pc := if (s.slot k).pc.toNat % 2 = 0 ∧ (s.slot k).pc.toNat < 65533 then (s.slot k).pc else 0#64
  let a := tcmBase c + pc.toNat
  let h := tableHalves nbits w
  let bytes := leBytes h.1.toNat 2 ++ (if nbits ≤ 16 then [] else leBytes h.2.toNat 2)
  let s : State := { s.inStepAt c with sec := { s.sec with st := 3 }, agenda := [], cur := k }
  let s := s.modSlot k fun sl => { sl with st := .run, hold := 0, inj := none, fbuf := [], pc := pc }
  ((wordsOf a bytes.length).foldl (fun s p => s.setPoison p false) s).putBytes a bytes

end Sys2Proof.Machine
end

