-- ==== Sys2Proof/Safety.lean ====
section
/-! DEFINITION. What counts as a safe run, and the terms in which the statements speak: the canonical form of memory, the operand
forms of a register field, and what an instruction leaves as it was. -/

namespace Sys2Proof.Machine

/-- Memory, FE bits and poison in their one canonical form: keys strictly rising, no entry that equals what an unlisted key reads
as. -/
def State.memWf (s : State) : Bool := Tbl.wf unlisted s.mem && Tbl.wf false s.empty && Tbl.wf false s.poison

/-- A safe step: it ends in neither a fault nor a refusal. -/
def Runs (o : Out) : Prop := ∃ t, o = .next t

/-- The field names neither a queue end nor mb. -/
def plainR (r : R6) : Bool := !(isQ r || isMb r)

/-- The release that an instruction is, or that its push is, has nothing to wait for (R140, R263). -/
def State.relDone (s : State) (scope : Option Nat) : Prop :=
  match scope with
  | none => True
  | some n => released s.me (s.vcl s.myCore) n = true

/-- The operand values stand in the slot's latch, with what was popped for them (R13). -/
def State.popped (s : State) (vs : List W) (took : List Took := []) (mails : List Mail := []) : State :=
  s.upd fun sl => { sl with latch := { vals := some vs, stage := 1, took := took, mails := mails } }

/-- The scope of the acknowledgements that an instruction waits for before it acts (R140, R263). -/
def State.relScope (s : State) (dst : Option R6) (rel : Option Nat) : Option Nat := rel.orElse fun _ => (dst.filter isQ).map s.endScope

/-- No end that the instruction names is unbound, bound for the other direction or held by a stream (R26, R156, R161). -/
def State.endsOk (s : State) (srcs : List R6) (dst : Option R6) : Prop :=
  (∀ r ∈ srcs, isQ r = true → s.endCheck 1 r = none) ∧ ∀ d, dst = some d → isQ d = true → s.endCheck 2 d = none

/-- Every end is homed at the core, and the queues and the mailbox can serve all of the instruction now (R91). -/
def State.serves (s : State) (srcs : List R6) (dst : Option R6) : Prop :=
  let pops := srcs.filter fun r => isQ r || isMb r
  let same (q : Nat) : List Nat := (pops.filter fun o => isQ o && s.endQueue o == some q).map qIx
  (∀ r ∈ pops, isQ r = true → s.endLocal r = true ∧ ∀ q, s.endQueue r = some q → s.canPop q (same q).length (same q) = true) ∧
  (∀ d, dst = some d → isQ d = true → s.endLocal d = true ∧ ∀ q, s.endQueue d = some q → s.canPush q (same q).length = true ∧ (s.queue q).closed = false) ∧
  (pops.filter isMb).length ≤ s.mailCount s.cur

/-- The operand values of an instruction under R91 are complete: a place for its push stays reserved. -/
def State.poppedAll (s : State) (vs : List W) (took : List Took) (mails : List Mail) (dst : Option R6) : State :=
  match dst.filter isQ with
  | none => s.popped vs took mails
  | some d => s.upd fun sl => { sl with latch := { vals := some vs, stage := 3, took := took, mails := mails, ends := s.roundEnds [] (some d) } }

/-- A place is reserved in the queue of the destination, which is homed at the core. -/
def State.reserveNear (s : State) (target : Option Nat) : State :=
  match target with
  | none => s
  | some q => s.placeFor q s.cur

/-- The operand fields of an instruction deliver the values vs in state s and leave state t (R26, R91): every form that a source or
destination field has. `irr`: the instruction ends the chunk in any case; `rel`: the scope of the release that it is. -/
inductive Operands (s : State) (srcs : List R6) (dst : Option R6) (irr : Bool) (rel : Option Nat) : List W → State → Prop
  /-- read before the instruction parked -/
  | held (vs : List W) : s.me.latch.stage ≠ 2 → s.me.latch.stage ≠ 6 → s.me.latch.vals = some vs → Operands s srcs dst irr rel vs s
  /-- registers only, inside the chunk -/
  | inChunk : s.me.latch = {} → srcs.all plainR → dst.all plainR → irr = false → dst.any isG = false →
      Operands s srcs dst irr rel (srcs.map s.rd) (s.hold (srcs.map s.rd))
  /-- registers only, the instruction ends the chunk or writes a shared register -/
  | apart (s' : State) : s.me.latch = {} → srcs.all plainR → dst.all plainR → (irr || dst.any isG) = true → s.me.chunk.global = false →
      s' = s.chunkDone s.cur → s'.relDone rel → Operands s srcs dst irr rel (srcs.map s'.rd) (s'.hold (srcs.map s'.rd))
  /-- the destination is a queue end, bound for pushes -/
  | toQueue (s' : State) (d : R6) : s.me.latch = {} → srcs.all plainR → dst = some d → isQ d = true → s.endCheck 2 d = none →
      s.me.chunk.global = false → s' = s.chunkDone s.cur → s'.relDone (some (rel.getD (s'.endScope d))) →
      Operands s srcs dst irr rel (srcs.map s'.rd) (s'.hold (srcs.map s'.rd))
  /-- one source is an end of a queue homed at the core, which has an item for the slot -/
  | fromQueue (s' s2 : State) (r : R6) (q : Nat) (v : V512) : s.me.latch = {} → srcs.filter (fun r => isQ r || isMb r) = [r] → isQ r = true →
      dst.all plainR → s.endCheck 1 r = none → s.me.chunk.global = false → s' = s.chunkDone s.cur → s'.relDone rel →
      s'.endLocal r = true → s'.endQueue r = some q → s'.stampMe.qPop q s'.cur (qIx r) false = (.item v, s2) →
      Operands s srcs dst irr rel (fillIn (s'.peek srcs) [asW v]) (s2.popped (fillIn (s'.peek srcs) [asW v]) (tookOf (s2.handle q) v))
  /-- every such source is mb, in n fields, and n messages are there for the slot -/
  | fromMail (s' s2 : State) (n : Nat) (ms : List Mail) : s.me.latch = {} → srcs.filter (fun r => isQ r || isMb r) ≠ [] → srcs.all (!isQ ·) = true →
      n = (srcs.filter isMb).length → dst.all plainR → s.me.chunk.global = false → s' = s.chunkDone s.cur → s'.relDone rel →
      s'.mailTake s'.cur n = (ms, s2) → ms.length = n →
      Operands s srcs dst irr rel (fillIn (s'.peek srcs) (ms.map (·.data))) (s2.popped (fillIn (s'.peek srcs) (ms.map (·.data))) [] ms)
  /-- the messages that the instruction parked for have come -/
  | mailed (v : V512) : s.me.latch.stage ≠ 2 → s.me.latch.stage ≠ 6 → s.me.latch.vals = none → s.me.latch.partials ≠ [] → s.me.latch.res = some v →
      srcs.all (!isQ ·) = true → dst.all plainR →
      Operands s srcs dst irr rel (fillIn s.me.latch.partials (s.me.latch.mails.map (·.data)))
        (s.popped (fillIn s.me.latch.partials (s.me.latch.mails.map (·.data))) [] s.me.latch.mails)
  /-- the item that the instruction parked for has come -/
  | delivered (r : R6) (v : V512) : s.me.latch.stage ≠ 2 → s.me.latch.stage ≠ 6 → s.me.latch.vals = none → s.me.latch.partials ≠ [] → s.me.latch.res = some v →
      srcs.filter (fun r => isQ r || isMb r) = [r] → isQ r = true → dst.all plainR →
      Operands s srcs dst irr rel (fillIn s.me.latch.partials [asW v])
        (s.popped (fillIn s.me.latch.partials [asW v]) ((s.me.latch.at_.map fun e => tookOf e.2 v).getD []) s.me.latch.mails)
  /-- an instruction under R91 whose ends are homed at the core, and every one can be served: all of it in one turn -/
  | near (s' s2 : State) (p : Popped) : s.me.latch = {} → twoEnds srcs dst = true → s.endsOk srcs dst → s.me.chunk.global = false →
      s' = s.chunkDone s.cur → s'.relDone (s'.relScope dst rel) → s'.serves srcs dst →
      s'.stampMe.popAll (srcs.filter fun r => isQ r || isMb r) = (p, s2) →
      Operands s srcs dst irr rel (fillIn (s'.peek srcs) p.vals) ((s2.reserveNear ((dst.filter isQ).bind s'.endQueue)).poppedAll (fillIn (s'.peek srcs) p.vals) p.took p.mails dst)
  /-- an instruction under R91 with an end homed elsewhere: its reservations were all granted; one that pushes acts under them, another
  when its pops are confirmed -/
  | far (v : V512) (vs : List W) : s.me.latch.vals = none → s.me.latch.partials ≠ [] → s.me.latch.res = some v → twoEnds srcs dst = true → s.me.latch.fault = none →
      (∃ r ∈ srcs ++ dst.toList, isQ r = true ∧ s.endLocal r = false) →
      s.me.latch.stage = 5 ∨ (s.me.latch.stage = 0 ∧ s.me.latch.refused = false ∧ s.me.latch.nomail = false ∧ (dst.filter isQ).isSome = true ∧
        ∀ r ∈ srcs ++ dst.toList, isQ r = true → (s.qend r).isSome = true) →
      vs = fillIn s.me.latch.partials (((srcs.filter fun r => isQ r || isMb r).zipIdx).map fun (_, i) => asW (Tbl.get 0#512 s.me.latch.parts i)) →
      Operands s srcs dst irr rel vs (s.upd fun sl => { sl with latch :=
        if s.me.latch.stage = 5 then { vals := some vs, stage := 1, took := s.me.latch.took, mails := s.me.latch.mails }
        else { vals := some vs, stage := 3, mails := s.me.latch.mails, ends := s.me.latch.ends } })

/-- What only the ordering of accesses, the interconnect and other units hold: nothing of it has changed. -/
structure SameUnits (s t : State) : Prop where
  clusters : t.clusters = s.clusters
  dies : t.dies = s.dies
  ctxs : t.ctxs = s.ctxs
  links : t.links = s.links
  sec : t.sec = s.sec
  net : t.net = s.net
  lines : t.lines = s.lines
  l1d : t.l1d = s.l1d

/-- Every byte of memory, every FE bit and every poison bit reads as before. -/
structure SameMemory (s t : State) : Prop where
  bytes : ∀ a, t.byteAt a = s.byteAt a
  full : ∀ a, t.fullAt a = s.fullAt a
  poison : ∀ a, t.poisonAt a = s.poisonAt a

/-- The system registers and the other register files of a slot, all but its scalar registers, PC, FFLAGS and chunk. -/
structure SameSlot (a b : Slot) : Prop where
  v : b.v = a.v
  m : b.m = a.m
  e : b.e = a.e
  tvec : b.tvec = a.tvec
  tstat : b.tstat = a.tstat
  tcause : b.tcause = a.tcause
  txpc : b.txpc = a.txpc
  tval : b.tval = a.tval
  frm : b.frm = a.frm
  ftrap : b.ftrap = a.ftrap
  monto : b.monto = a.monto
  chunklim : b.chunklim = a.chunklim
  nestp : b.nestp = a.nestp
  nestc : b.nestc = a.nestc
  tscr : b.tscr = a.tscr
  iter : b.iter = a.iter
  mons : b.mons = a.mons

/-- The core-shared registers and units of a core: mailbox, queue ends, deque, cycle and squash counters. -/
structure SameCore (a b : Core) : Prop where
  g : b.g = a.g
  q : b.q = a.q
  mail : b.mail = a.mail
  deque : b.deque = a.deque
  cyc : b.cyc = a.cyc
  sqcnt : b.sqcnt = a.sqcnt
  normcnt : b.normcnt = a.normcnt

end Sys2Proof.Machine
end

