-- ==== Sys2Proof/WellFormed.lean ====
section
/-! DEFINITION. Which terms of Instr are instructions of the machine: the encoded ones that pass every check of Table 03-5 on
their own fields (R82), and the event rows, which have no encoding. -/

namespace Sys2Proof

/-- The instruction has a word or halfword of its own (R71). -/
def Instr.encoded (i : Instr) : Bool := (encode i).isSome

/-- No field check of Table 03-5 refuses the instruction (R82). -/
def Instr.wf (i : Instr) : Bool := (fieldErr i).isNone

end Sys2Proof
end

