-- ==== Sys2Proof/Certificates/Slice0/Obligations.lean ====
section
/-! DEFINITION. The statements for the provers, and the few terms they share beyond those of Safety. -/

namespace Sys2Proof.Machine

/-- Instruction i on s, whose operand fields leave s1, answers the next state t; where the result is to be pushed and the queue at the own core
refuses it, the fault of that refusal in its place (R13, R157). -/
abbrev Ends (i : Instr) (s s1 : State) (dst : Option R6) (t : State) : Prop := exec i s = .next (s1.kept dst t)

/-- The queue records of cluster p and the bound ends of its cores are gone; a record keeps its GEN (R154). -/
abbrev Unqueued (s t : State) (p : Nat) : Prop :=
  (∀ q < 64, t.queue (64 * p + q) = { gen := (s.queue (64 * p + q)).gen }) ∧ ∀ c, c / 8 = p → (t.core c).q = []

/-- A binary register instruction completes with the value f a b for rd. -/
abbrev Gives2 (i : Instr) (d a b : R6) (f : W → W → W) : Prop :=
  ∀ (s s1 : State) (x y : W), Operands s [a, b] (some d) false none [x, y] s1 → Ends i s s1 (some d) (s1.effect 4 (some d) (.ok { val := f x y }))

/-- A unary register instruction of `len` bytes completes with the value f a for rd. -/
abbrev Gives1 (i : Instr) (len : Nat) (d a : R6) (f : W → W) : Prop :=
  ∀ (s s1 : State) (x : W), Operands s [a] (some d) false none [x] s1 → Ends i s s1 (some d) (s1.effect len (some d) (.ok { val := f x }))

/-- A branch of `len` bytes on two registers goes to the address n halfwords from its own, or to the next instruction. -/
abbrev Branches (i : Instr) (len : Nat) (a b : R6) (n : Int) (c : W → W → Prop) [∀ x y, Decidable (c x y)] : Prop :=
  ∀ (s s1 : State) (x y : W), Operands s [a, b] none false none [x, y] s1 →
    exec i s = .next (s1.effect len none (.ok { pc := some (if c x y then s.me.pc + BitVec.ofInt 64 (2 * n) else s1.me.pc + nat len) }))

/-- A core's state apart from its counters and the shared writes that land. -/
def Core.uncounted (c : Core) : Core := { c with cyc := 0, beat := 0, g := [], gpend := [] }

/-- The pending instruction has popped, reserved and written nothing. -/
abbrev Latch.empty (l : Latch) : Prop := l.took = [] ∧ l.mails = [] ∧ l.ends = [] ∧ l.undo = []

/-- Leading bits: the n most significant bits of x are 0 and the next one, if there is one, is 1. -/
def Leads (x : W) (n : Nat) : Prop := n ≤ 64 ∧ (∀ i < n, x.getMsbD i = false) ∧ (n < 64 → x.getMsbD n = true)
/-- The same for the least significant bits. -/
def Trails (x : W) (n : Nat) : Prop := n ≤ 64 ∧ (∀ i < n, x.getLsbD i = false) ∧ (n < 64 → x.getLsbD n = true)

end Sys2Proof.Machine

open Sys2Proof Sys2Proof.Machine

/-! Encoding -/

/-- Decoding the words of a well-formed instruction gives it back, with every operand at every value the encoding admits. -/
def Obligations.DecodeEncode : Prop := ∀ (i : Instr) (e : Enc), encode i = some e → i.wf = true → decodeEnc e = .ok i

/-- A halfword or word that decodes is the one encoding of a well-formed instruction: no bit of it is dropped. -/
def Obligations.EncodeDecode : Prop := ∀ (h0 h1 : BitVec 16) (i : Instr), decodeHalves h0 h1 = .ok i →
  i.wf = true ∧ encode i = some (if h0.getLsbD 15 then .word (h0 ++ h1) else .half h0)

/-- Words written out bit by bit from Tables 03-1, 03-2 and 03-4, and those of Table 03-6. -/
def Obligations.DecodeWords : Prop :=
  decodeEnc (.word 0b1_000001_000011_000100_000101_0000000#32) = .ok (.add 3#6 4#6 5#6) ∧
  decodeEnc (.word 0x8228D180#32) = .ok (.add 5#6 6#6 35#6) ∧
  decodeEnc (.word 0x8438FFFD#32) = .ok (.addi 7#6 7#6 (-3)) ∧
  decodeEnc (.word 0xC2081FF4#32) = .ok (.bne 1#6 0#6 (-12)) ∧
  decodeEnc (.word 0xE4308901#32) = .ok (.vfadd 3#5 1#5 2#5 2#3 1#2) ∧
  decodeEnc (.half 0x127F#16) = .ok (.cAddi 9#5 (-1)) ∧
  decodeEnc (.word 0b1_000010_000011_000100_1111111111111#32) = .ok (.addi 3#6 4#6 0x1FFF#13) ∧
  decodeEnc (.word 0b1_000110_000011_000100_10_00000_000111#32) = .ok (.srai 3#6 4#6 7#6) ∧
  decodeEnc (.word 0b1_011010_000110_000101_0000000001000#32) = .ok (.sd 6#6 5#6 8#13) ∧
  decodeEnc (.word 0b1_011100_000000_000110_000101_1_10_0000#32) = .ok (.redadd 6#6 5#6 2#2) ∧
  decodeEnc (.word 0b1_101101_000001_000010_000011_01_00101#32) = .ok (.fma 1#6 2#6 3#6 1#2) ∧
  decodeEnc (.word 0b1_110000_00001_00010_00011_100_00011_01#32) = .ok (.vmin 1#5 2#5 3#5 4#3 1#2) ∧
  decodeEnc (.word 0b1_011110_00001_000010_000011_100_00010#32) = .ok (.vlds 1#5 2#6 3#6 4#3) ∧
  decodeEnc (.word 0b1_101000_0000000000000000000000101#32) = .ok (.jal 5#25) ∧
  decodeEnc (.half 0b0_0110_001_010_00011#16) = .ok (.cLd 1#3 2#3 3#5) ∧
  decodeEnc (.half 0x0000#16) = .error 0 ∧
  decodeEnc (.word 0b1_000000_0000000000000000000000000#32) = .error 4 ∧
  decodeEnc (.word 0b1_000001_000001_000010_000001_0011000#32) = .error 20 ∧
  decodeEnc (.word 0b1_010110_000001_100000_0000000000000#32) = .error 23

/-! The device, reset and the step -/

/-- The device right after reset (R353, R354, R48, R16, R27). Of the model: logs 1, 2 and 3. -/
def Obligations.ResetState : Prop :=
  State.reset.sec.st = 1 ∧ State.reset.memWf = true ∧ State.reset.net = [] ∧
  (∀ k, (State.reset.slot k).st = .free ∧ (State.reset.slot k).chunklim = 512#64) ∧
  (∀ a, State.reset.byteAt a = 0#8 ∧ State.reset.poisonAt a = false) ∧
  (∀ c, (State.reset.core c).mail = [] ∧ (State.reset.core c).deque = []) ∧
  (∀ d, (State.reset.die d).wdtLog = 36) ∧ (∀ k, modeF k = true ↔ k / 16 % 256 = 7)

/-- A cycle of a core that does not run only counts (R27, R353; log 67): its shared writes land, its counter goes on. One of a halted device
(R360), or one for which the cluster is not in step (log 14), is none. -/
def Sys2Proof.Rules.StoppedDevice : Prop := ∀ (s : State) (c : Nat) (r : List Turn), c < 1024 → s.agenda = .cycle c :: r →
  (s.sec.st = 5 ∨ s.inStep c = false → s.runs c = false → step s = .next { s with agenda := r }) ∧
  (s.sec.st ≠ 5 → s.inStep c = true → s.runs c = false →
    step s = .next ((({ s with agenda := r } : State).beginCycle c).modCore c fun co => { co with cyc := (co.cyc + 1) % 2 ^ 64 }))

/-- FAILED lasts: from every state in which the controller has failed, each step leaves it failed, unless it is the power-on, the
reload that the host asks for, or an alarm, which halts it (R355, R356, R360). -/
def Sys2Proof.Rules.FailedStays : Prop := ∀ (s t : State), s.sec.st = 4 →
  s.agenda.head? ≠ some (.event .powerOn) → s.agenda.head? ≠ some (.event .doorbellReload) → s.agenda.head? ≠ some (.event (.stageAccess true 8 2#64)) →
  (∀ c, s.agenda.head? ≠ some (.event (.securityAlarm c))) → step s = .next t → t.sec.st = 4

/-- HALTED lasts until power-on: a reload is discarded too (R355, R356, R360). -/
def Sys2Proof.Rules.HaltedStays : Prop := ∀ (s t : State), s.sec.st = 5 → s.agenda.head? ≠ some (.event .powerOn) → step s = .next t → t.sec.st = 5

/-- What the failure of the device and its halt end in: each lasts until the events that end it. Of the model: logs 60, 67 and 68. -/
def Obligations.SecurityLasts : Prop := Rules.FailedStays ∧ Rules.HaltedStays

/-- While the device does not run, no step gives a slot, a register or a message to it: from every state in WAIT, FAILED or HALTED
each step that is not a load, a reload, the power-on or the controller's service leaves slots, contexts and messages as they were, and of
the cores all but their counters and the shared writes that land (R353, R356). -/
def Sys2Proof.Rules.StoppedKeepsSlots : Prop := ∀ (s t : State), s.sec.st = 1 ∨ s.sec.st = 4 ∨ s.sec.st = 5 → 
  s.agenda.head? ≠ some (.event .powerOn) → s.agenda.head? ≠ some (.event .doorbellLoad) → s.agenda.head? ≠ some (.event .attestationService) → s.agenda.head? ≠ some (.event .doorbellReload) →
  (∀ w, s.agenda.head? ≠ some (.event (.stageAccess true 8 w))) →
  step s = .next t → t.slots = s.slots ∧ (∀ c, (t.core c).uncounted = (s.core c).uncounted) ∧ t.ctxs = s.ctxs ∧ t.net = s.net

/-- A device that does not run: its cycles and its other steps. Of the model: logs 4, 14, 67, 68 and 76. -/
def Obligations.StoppedDevice : Prop := Rules.StoppedDevice ∧ Rules.StoppedKeepsSlots

/-- The bytes at the PC of the slot that owns the turn decode to i: the step is exec of i on that slot, with the instruction pending and
the chunk opened, then the completions that it brought (log 15), and the end of the turn, which counts the cycle (R18, R71, R72, R270). The
agenda, and that the cluster is in step, are of this model (logs 4 and 14). Of the model: logs 4, 14 and 15. -/
def Obligations.StepRunsDecoded : Prop :=
  (∀ (s : State) (c : Nat) (r : List Turn) (i : Instr), s.agenda = .cycle c :: r → c < 1024 → s.runs c = true → s.inStep c = true →
    (s.slot (s.turnOwner c)).err = none → s.issues c = true → (s.slot (s.turnOwner c)).inj = none → s.fetch (s.turnOwner c) = .ok i →
    step s = andThen (exec i (((({ ({ s with agenda := r } : State).beginCycle c with ending := some c, cur := s.turnOwner c } : State).openChunk (s.turnOwner c)).upd
      fun sl => { sl with pend := some i, latch := {} }))) State.settled) ∧
  (∀ (t : State) (c : Nat), t.replay = [] → t.ending = some c → t.settled = .next (({ t with ending := none } : State).endTurn c)) ∧
  (∀ (t : State) (c : Nat), ((t.endTurn c).core c).cyc = ((t.core c).cyc + 1) % 2 ^ 64)

/-- What a slot fetches: the halfword at its PC, and for a set top bit the next one too, both inside the code window (R44, R71, R72). A poisoned
halfword is cause 131, whichever of the two it is (R324); a fetch outside the window cause 73; an encoding that no table holds its subcode of
family 0 (R82). -/
def Sys2Proof.Rules.FetchForms : Prop := ∀ (s : State) (k : Nat) (h0 h1 : BitVec 16), (s.slot k).pc.toNat < 65536 → (s.slot k).pc.toNat % 2 = 0 →
  h0 = s.codeHalf k (s.slot k).pc.toNat → h1 = s.codeHalf k ((s.slot k).pc.toNat + 2) → let at_ := tcmBase (coreOf k) + (s.slot k).pc.toNat
  (s.poisonAt at_ = true → s.fetch k = .error (131, none)) ∧
  (s.poisonAt at_ = false → h0.getLsbD 15 = false →
    (∀ i, decodeHalf h0 = .ok i → s.fetch k = .ok i) ∧ (∀ j, decodeHalf h0 = .error j → s.fetch k = .error (j, some (h0.setWidth 64)))) ∧
  (s.poisonAt at_ = false → h0.getLsbD 15 = true →
    ((s.slot k).pc.toNat = 65534 → s.fetch k = .error (73, none)) ∧
    ((s.slot k).pc.toNat < 65534 → s.poisonAt (at_ + 2) = true → s.fetch k = .error (131, none)) ∧
    ((s.slot k).pc.toNat < 65534 → s.poisonAt (at_ + 2) = false →
      (∀ i, decodeWord (h0 ++ h1) = .ok i → s.fetch k = .ok i) ∧ (∀ j, decodeWord (h0 ++ h1) = .error j → s.fetch k = .error (j, some ((h0 ++ h1).setWidth 64)))))

/-- A PC that is odd, or outside the code window, raises cause 73 at the fetch (R44). -/
def Sys2Proof.Rules.FetchOutside : Prop := ∀ (s : State) (k : Nat), (s.slot k).pc.toNat % 2 = 1 ∨ (s.slot k).pc.toNat ≥ 65536 →
  s.fetch k = .error (73, none)

/-- What a slot fetches, and the faults of the fetch. Of the model: logs 5 and 30. -/
def Obligations.FetchedInstruction : Prop := Rules.FetchForms ∧ Rules.FetchOutside

/-! Operands and results of register instructions -/

/-- Every operand form delivers: registers inside the chunk, registers with the end of the chunk, a queue end as destination or as source,
mb as source, values read before a park, the item that a park waited for, and the instructions under R91, whose ends are all homed at the
core, or whose rounds of reservation and commit are done (log 13). Where the instruction's result is to be pushed and the queue at the own core
refuses it, the instruction has done nothing but fault (R13, R157). -/
def Sys2Proof.Rules.OperandsReach : Prop := ∀ (s s1 : State) (len : Nat) (srcs : List R6) (dst : Option R6) (irr : Bool) (rel : Option Nat) (vs : List W)
  (body : List W → State → State), Operands s srcs dst irr rel vs s1 → s.withOps len srcs dst irr rel body = s1.kept dst (body vs s1)

/-- Where no form delivers: the first named end that is unbound, bound for the other direction or held by a stream raises its cause before
anything is popped or pushed (R91, R156, R161), sources first; a chunk with global state that must end first parks for its commit grant
(R26, R117). -/
def Sys2Proof.Rules.OperandsStop : Prop := ∀ (s : State) (len : Nat) (srcs : List R6) (dst : Option R6) (irr : Bool) (rel : Option Nat)
  (body : List W → State → State), s.me.latch = {} →
  (∀ c, (srcs.filter isQ).findSome? (s.endCheck 1) = some c → s.withOps len srcs dst irr rel body = s.raiseWith c) ∧
  (∀ d c, dst = some d → isQ d = true → (srcs.filter isQ).findSome? (s.endCheck 1) = none → s.endCheck 2 d = some c →
    s.withOps len srcs dst irr rel body = s.raiseWith c) ∧
  (srcs.all plainR = true → dst.all plainR = true → (irr || dst.any isG) = true → s.me.chunk.global = true →
    s.withOps len srcs dst irr rel body = s.parkRe .parkMem .commit)

/-- Where the instruction parks before it acts (R26, R91, R140, R157, R263): a release that waits for acknowledgements, a queue end whose
queue has no item for the slot or is homed elsewhere, mb with fewer messages than the fields that name it (logs 13 and 97). -/
def Sys2Proof.Rules.OperandsPark : Prop := ∀ (s s' : State) (len : Nat) (srcs : List R6) (dst : Option R6) (irr : Bool) (rel : Option Nat)
  (body : List W → State → State), s.me.latch = {} → s.me.chunk.global = false → s' = s.chunkDone s.cur →
  (∀ n, rel = some n → srcs.all plainR = true → dst.all plainR = true → (irr || dst.any isG) = true → ¬ s'.relDone rel →
    s.withOps len srcs dst irr rel body = s'.parkRe .parkMem (.acks n)) ∧
  (∀ d, dst = some d → isQ d = true → srcs.all plainR = true → s.endCheck 2 d = none → ¬ s'.relDone (s'.relScope dst rel) →
    s.withOps len srcs dst irr rel body = s'.parkRe .parkMem (.acks (rel.getD (s'.endScope d)))) ∧
  (∀ r, srcs.filter (fun r => isQ r || isMb r) = [r] → dst.all plainR = true → s'.relDone rel →
    (∀ q s2, isQ r = true → s.endCheck 1 r = none → s'.endLocal r = true → s'.endQueue r = some q → s'.stampMe.qPop q s'.cur (qIx r) false = (.wait, s2) →
      s.withOps len srcs dst irr rel body = s2.waitEnd r fun _ => { partials := s'.peek srcs }) ∧
    (isQ r = true → s.endCheck 1 r = none → s'.endLocal r = false →
      s.withOps len srcs dst irr rel body = (s'.toHome r fun h => .qpop s'.cur (qIx r) h false).waitEnd r fun _ => { partials := s'.peek srcs })) ∧
  (∀ n ms s2, srcs.any isMb = true → srcs.all (!isQ ·) = true → dst.all plainR = true → s'.relDone rel → n = (srcs.filter isMb).length → s'.mailTake s'.cur n = (ms, s2) →
    ms.length < n → s.withOps len srcs dst irr rel body =
      { s2.upd fun sl => { sl with st := .parkMsg, wait := .message 0 s2.serial true, latch := { partials := s'.peek srcs, mails := ms, left := n - ms.length } } with serial := s2.serial + 1 })

/-- The rounds of an instruction under R91 (log 13). With every end at home it acts when all of them can be served, and else parks
having changed nothing; a closed destination is cause 198. With an end elsewhere it takes its messages, where there are enough, and asks each
end's home for a reservation; a fault among the answers is raised; a refusal, or else a missing message, gives all back and waits for a change
of the queues (for none where one of them has changed since it answered), and with all granted an instruction that pushes nothing
confirms its pops. One that pushes acts first, and commits them with its push (`ResultQueue`). -/
def Sys2Proof.Rules.OperandsRounds : Prop := ∀ (s s' : State) (len : Nat) (srcs pops : List R6) (dst : Option R6) (irr : Bool) (rel : Option Nat)
  (body : List W → State → State) (ids : List Nat) (mbs : Nat), twoEnds srcs dst = true → pops = (srcs.filter fun r => isQ r || isMb r) → mbs = (pops.filter isMb).length →
  (s.me.latch = {} → s.me.chunk.global = false → s.endsOk srcs dst → s' = s.chunkDone s.cur → s'.relDone (s'.relScope dst rel) →
    ids = ((pops ++ (dst.filter isQ).toList).filter isQ).filterMap s'.endQueue → let at_ (q : Nat) : List Nat := (pops.filter fun o => isQ o && s'.endQueue o == some q).map qIx
    ((∀ r ∈ srcs ++ dst.toList, isQ r = true → s'.endLocal r = true) →
      (((∃ r ∈ pops, isQ r = true ∧ ∃ q, s'.endQueue r = some q ∧ s'.canPop q (at_ q).length (at_ q) = false) ∨
          (∃ d q, dst = some d ∧ isQ d = true ∧ s'.endQueue d = some q ∧ s'.canPush q (at_ q).length = false)) →
        s.withOps len srcs dst irr rel body = s'.parkRe .parkQ (.multi ids (mbs > 0))) ∧
      (∀ d q, dst = some d → isQ d = true → s'.endQueue d = some q → (s'.queue q).closed = true → mbs ≤ s'.mailCount s'.cur →
        (∀ r ∈ pops, isQ r = true → ∀ q, s'.endQueue r = some q → s'.canPop q (at_ q).length (at_ q) = true) →
        s.withOps len srcs dst irr rel body = s'.raise 198 (s'.handle q)) ∧
      (s'.mailCount s'.cur < mbs → (∀ r ∈ pops, isQ r = true → ∀ q, s'.endQueue r = some q → s'.canPop q (at_ q).length (at_ q) = true) →
        (∀ d q, dst = some d → isQ d = true → s'.endQueue d = some q → s'.canPush q (at_ q).length = true) →
        s.withOps len srcs dst irr rel body = s'.parkRe .parkMsg (.multi ids true))) ∧
    (∀ s2 t, (∃ r ∈ srcs ++ dst.toList, isQ r = true ∧ s'.endLocal r = false) → t = s.withOps len srcs dst irr rel body →
      s2 = (s'.popAll (if s'.mailCount s'.cur < mbs then [] else pops.filter isMb)).2 →
      t.net = (((s2.roundEnds pops (dst.filter isQ)).foldl (fun s e =>
        s.send (s.ctxOf s.myCore) s.myCore ((s.homeCore (s.ctxOf s.myCore) e.h).getD s.myCore) (.qrsv s.cur e.ix e.q e.h e.push)) s2).net) ∧
      t.me.wait = .reply ∧ t.me.st = .parkQ ∧ t.me.latch.ends = s2.roundEnds pops (dst.filter isQ) ∧ t.me.latch.nomail = decide (s'.mailCount s'.cur < mbs))) ∧
  (∀ v, s.me.latch.stage = 0 → s.me.latch.vals = none → s.me.latch.partials ≠ [] → s.me.latch.res = some v →
    (∃ r ∈ srcs ++ dst.toList, isQ r = true ∧ s.endLocal r = false) →
    ids = ((pops ++ (dst.filter isQ).toList).filter isQ).filterMap s.endQueue →
    (∀ c t, s.me.latch.fault = some (c, t) → s.withOps len srcs dst irr rel body = s.raise c t) ∧
    (s.me.latch.fault = none → (∀ r ∈ srcs ++ dst.toList, isQ r = true → (s.qend r).isSome = true) →
      (s.me.latch.refused = true ∨ s.me.latch.nomail = true →
        s' = (s.unpop s.cur).parkRe (if s.me.latch.refused then .parkQ else .parkMsg) (.multi ids (mbs > 0)) →
        (s.me.latch.moved = false → s.withOps len srcs dst irr rel body = s') ∧ (s.me.latch.moved = true → s.withOps len srcs dst irr rel body = s'.wakeReissue s.cur)) ∧
      (∀ t, s.me.latch.refused = false → s.me.latch.nomail = false → dst.all (!isQ ·) = true → t = s.withOps len srcs dst irr rel body →
        t.net = (((s.me.latch.ends.filter (!·.push)).foldl (fun s e =>
          s.send (s.ctxOf s.myCore) s.myCore ((s.homeCore (s.ctxOf s.myCore) e.h).getD s.myCore) (.qfin s.cur e.ix e.h true none)) s).net) ∧
        t.me.wait = .reply ∧ t.me.st = .parkQ ∧ t.me.latch.stage = 5 ∧ t.me.latch.mails = s.me.latch.mails ∧
        t.me.latch.took = (s.me.latch.ends.filter (!·.push)).flatMap fun e => tookOf e.h (Tbl.get 0#512 s.me.latch.parts e.ix))))

/-- Every form of an operand field: where it delivers its values, and where the instruction parks or faults before it acts.
Of the model: logs 13, 14, 65, 72 and 97. -/
def Obligations.OperandForms : Prop := Rules.OperandsReach ∧ Rules.OperandsStop ∧ Rules.OperandsPark ∧ Rules.OperandsRounds

/-- x0 and x31 (R21, R91): x0 reads 0, x31 reads the virtual thread id, in bits 13 to 0 while no placement map names more than 128 virtual
clusters, and a write to either is discarded. -/
def Sys2Proof.Rules.HardWired : Prop := ∀ (s : State) (k : Nat) (v : W),
  s.xget k 0 = 0#64 ∧ s.xget k 31 = nat (s.tid k) ∧ s.xset k 0 v = s ∧ s.xset k 31 v = s ∧
  (∀ r, r ≠ 0 → r ≠ 31 → (s.xset k r v).xget k r = v) ∧ (∀ r r', r ≠ r' → (s.xset k r v).xget k r' = s.xget k r') ∧
  (∀ k' r r', k' ≠ k → (s.xset k r v).xget k' r' = s.xget k' r') ∧
  ((s.ctxs.map (·.1)).Pairwise (· < ·) → (∀ x, ((s.ctx x).pmap.map (·.1)).Pairwise (· < ·)) → (∀ x p w, (s.ctx x).pmap.find p = some w → p < 128) → (s.xget k 31).toNat < 2 ^ 14)

/-- The shared bank (R23, R25, R26): a write of g0 to g15 waits to land, and no read sees it before; with a cycle at most two writes land,
those of the slot that comes next first (log 76), and of two to one register that of the higher-numbered slot remains; every write lands
before its slot's next home turn. Writes of the others are discarded; cyc and here read as stated. -/
def Sys2Proof.Rules.SharedBank : Prop :=
  (∀ (s : State) (k r : Nat) (v : W), (16 ≤ r → s.gset k r v = s) ∧ (∀ c r', (s.gset k r v).gget c r' = s.gget c r') ∧
    (r < 16 → ((s.gset k r v).core (coreOf k)).gpend = (s.core (coreOf k)).gpend ++ [⟨k, r, v⟩]) ∧
    (r < 16 → (s.core (coreOf k)).gpend = [] → ((s.gset k r v).landWrites (coreOf k)).gget (coreOf k) r = v ∧
      (∀ r', r' < 31 → r' ≠ r → ((s.gset k r v).landWrites (coreOf k)).gget (coreOf k) r' = s.gget (coreOf k) r'))) ∧
  (∀ (s : State) (c k k' r : Nat) (v v' : W), r < 16 → k < k' → (s.core c).gpend = [⟨k, r, v⟩, ⟨k', r, v'⟩] ∨ (s.core c).gpend = [⟨k', r, v'⟩, ⟨k, r, v⟩] →
    (s.landWrites c).gget c r = v') ∧
  (∀ (s : State) (c : Nat), ((s.landWrites c).core c).gpend.length = (s.core c).gpend.length - 2 ∧
    (((s.core c).gpend.filter (·.k == s.turnOwner c)).length ≤ 2 → ∀ w ∈ ((s.landWrites c).core c).gpend, w.k ≠ s.turnOwner c) ∧
    s.gget c 29 = nat (s.core c).cyc ∧ s.gget c 30 = nat (s.vcl c * 8 + c % 8))

/-- The hard-wired registers and the core-shared bank. Of the model: log 76. -/
def Obligations.RegisterBanks : Prop := Rules.HardWired ∧ Rules.SharedBank

/-- What a completed register instruction leaves, with a private destination or none: the destination holds the value (unless it is x0 or
x31), the PC is the one given, FFLAGS collects the flags, the further home turns are noted (R20, R92), and everything else is as it was: other
registers, system registers, other slots, memory, units. One that popped nothing belongs to the chunk, which counts it and may end with it (R250);
then the core's CMCNT and the solo grant move on. One that popped an item or a message belongs to none (R26, R256). -/
def Sys2Proof.Rules.ResultPrivate : Prop := ∀ (s t : State) (len : Nat) (dst : Option R6) (e : Eff), (∀ d, dst = some d → isG d = false) →
  (e.norm = false ∨ s.me.latch.res.isSome = true) → s.me.fpTrap e.flags = none → t = s.effect len dst (.ok e) →
  s.kept dst t = t ∧ t.cur = s.cur ∧ t.me.pc = e.pc.getD (s.me.pc + nat len) ∧
  (∀ d, dst = some d → t.xget s.cur d.toNat = (if d = 0#6 then 0#64 else if d = 31#6 then nat (s.tid s.cur) else e.val)) ∧
  (∀ r, dst.map BitVec.toNat ≠ some r → t.xget s.cur r = s.xget s.cur r) ∧ t.me.fflags = s.me.fflags ||| nat (e.flags % 32) ∧
  t.me.hold = (if e.norm = true ∨ e.hold = 0 then s.me.hold else e.hold) ∧
  SameSlot s.me t.me ∧ (∀ k, k ≠ s.cur → (t.slot k).x = (s.slot k).x ∧ (t.slot k).pc = (s.slot k).pc ∧ SameSlot (s.slot k) (t.slot k)) ∧
  (∀ c, SameCore (s.core c) (t.core c)) ∧ SameMemory s t ∧ SameUnits s t ∧
  (s.me.latch.stage = 0 → s.me.chunk.global = true → t.me.st = .run ∨ t.me.wait = .commit) ∧ (s.me.latch.stage = 0 → s.me.chunk.global = false → t.me.st = .run) ∧
  (s.me.latch.stage ≠ 0 → t.me.st = .run ∧ t.me.chunk = s.me.chunk ∧ ∀ k, k ≠ s.cur → t.slot k = s.slot k)

/-- A long operation (R20, R92): while further home turns are to pass, the turns of the slot issue nothing and serve the vacant-turn jobs; each one
passes one of them. -/
def Sys2Proof.Rules.HeldTurns : Prop := ∀ (s : State) (c : Nat) (r : List Turn), s.agenda = .cycle c :: r → c < 1024 → s.runs c = true → s.inStep c = true →
  (s.slot (s.turnOwner c)).err = none → (s.slot (s.turnOwner c)).hold ≠ 0 →
  step s = (({ s with agenda := r } : State).vacantTurn c).settled ∧
  ∀ (u : State) (k : Nat), (u.passTurn k).slot k = { u.slot k with hold := (u.slot k).hold - 1 } ∧ ∀ j, j ≠ k → (u.passTurn k).slot j = u.slot j

/-- The same with a destination in the shared bank (R25, R26): the value of g0 to g15 waits to land, the others discard it; FFLAGS collects
the flags; no register that can be read changes. -/
def Sys2Proof.Rules.ResultShared : Prop := ∀ (s t : State) (len : Nat) (d : R6) (e : Eff), isG d = true → isQ d = false →
  (e.norm = false ∨ s.me.latch.res.isSome = true) → s.me.fpTrap e.flags = none → t = s.effect len (some d) (.ok e) →
  s.kept (some d) t = t ∧ t.cur = s.cur ∧ t.me.pc = e.pc.getD (s.me.pc + nat len) ∧ t.me.st = .run ∧ t.me.fflags = s.me.fflags ||| nat (e.flags % 32) ∧
  t.me.hold = (if e.norm = true ∨ e.hold = 0 then s.me.hold else e.hold) ∧
  (t.core s.myCore).gpend = (s.core s.myCore).gpend ++ (if d.toNat < 48 then [⟨s.cur, d.toNat - 32, e.val⟩] else []) ∧
  (∀ k r, t.xget k r = s.xget k r) ∧ (∀ c r, r < 31 → t.gget c r = s.gget c r) ∧ (∀ c, c ≠ s.myCore → t.core c = s.core c) ∧
  SameSlot s.me t.me ∧ (∀ k, k ≠ s.cur → t.slot k = s.slot k) ∧ SameMemory s t ∧ SameUnits s t

/-- Where the result of an instruction goes, a private register, a shared register or nowhere, and the turns of a long operation.
Of the model: logs 76 and 84. -/
def Obligations.ResultFields : Prop := Rules.ResultPrivate ∧ Rules.ResultShared ∧ Rules.HeldTurns

/-- A destination that is a queue end (R91, R157). Into an open queue homed at the core in which nothing waits and whose ring has a free place the
value goes behind the queue's items, and the instruction is complete: its flags are collected, its further turns noted. Where the home lets it
wait, and where the queue is homed elsewhere, the slot waits in PARK-Q, and its flags come with the end of the push; a closed queue is cause 198,
and then nothing else has happened. Under R91 the ends that were reserved are committed together, the item into its reserved place; where
one of them is another core's the slot waits for the confirmations, and the last one ends the instruction in place, with no further turns
(log 84). Of the model: log 14. -/
def Obligations.ResultQueue : Prop := ∀ (s s' : State) (len : Nat) (d : R6) (e : Eff) (q : Nat) (next : W) (f : Nat × Nat) (wait : Latch → Latch), isQ d = true →
  (e.norm = false ∨ s.me.latch.res.isSome = true) → s.me.fpTrap e.flags = none → next = e.pc.getD (s.me.pc + nat len) → f = (e.flags, if e.norm then 0 else e.hold) →
  s' = s.upd (fun sl => { sl with latch := { sl.latch with goto := some next, fin := some f } }) →
  wait = (fun l => { l with stage := 2, res := none, out := some ⟨e.val, false⟩ }) →
  (s.me.latch.stage ≠ 3 → s.endQueue d = some q →
    (s.qcore q = s.myCore → (s.queue q).closed = false → (s.queue q).cons = [] → (s.queue q).prod = [] → (s.queue q).ringRoom = true →
      s.effect len (some d) (.ok e) = ((s'.stampMe.ringPut q ⟨e.val, false⟩).qChanged q).endPush next) ∧
    (s.qcore q = s.myCore → ∀ u, s'.stampMe.qPush q s.cur ⟨e.val, false⟩ = (.wait, u) → s.effect len (some d) (.ok e) = u.waitEnd d wait) ∧
    (s.qcore q ≠ s.myCore → s.effect len (some d) (.ok e) = (s'.toHome d fun h => .qpush s.cur h ⟨e.val, false⟩).waitEnd d wait) ∧
    (s.qcore q = s.myCore → (s.queue q).closed = true → s.kept (some d) (s.effect len (some d) (.ok e)) = s.raise 198 (s.handle q))) ∧
  (∀ t, s.me.latch.stage = 3 → t = s'.me.latch.ends.foldl (fun t o => t.finEnd t.cur o true (if o.push then some ⟨e.val, false⟩ else none)) s' →
    ((∀ o ∈ s.me.latch.ends, s.homeCore (s.ctxOf s.myCore) o.h = some s.myCore) → s.effect len (some d) (.ok e) = t.endPush next) ∧
    ((∃ o ∈ s.me.latch.ends, ∃ c, s.homeCore (s.ctxOf s.myCore) o.h = some c ∧ c ≠ s.myCore) → ∀ u, u = s.effect len (some d) (.ok e) →
      u.net = t.net ∧ u.me.st = .parkQ ∧ u.me.wait = .reply ∧ u.me.latch.stage = 2 ∧ u.me.latch.out = t.me.latch.out ∧ u.me.latch.goto = t.me.latch.goto)) ∧
  (∀ (u : State) (late : Bool), (u.me.latch.fin = none → u.endPush next late = u.retireIrrTo next) ∧ (u.me.latch.fin = some f → u.endPush next late =
    (u.upd fun sl => { sl with fflags := sl.fflags ||| nat (f.1 % 32), hold := if late then 0 else f.2 }).retireIrrTo next))

/-- An FP trap enabled in FTRAP is taken in place of the write when UE = 1: the cause is that of the first of NV, DZ, OF, UF and NX that is
both raised and enabled, no flag is accumulated and rd is not written (R66, R111). -/
def Obligations.FpTrapTaken : Prop := ∀ (s : State) (len : Nat) (d : R6) (e : Eff) (c : Nat), (e.norm = false ∨ s.me.latch.res.isSome = true) → s.me.fpTrap e.flags = some c →
  s.effect len (some d) (.ok e) = s.raise c (nat e.flags) ∧
  s.me.ue = true ∧ 160 ≤ c ∧ c ≤ 164 ∧ e.flags.testBit (164 - c) = true ∧ s.me.ftrap.getLsbD (164 - c) = true ∧
  (∀ j, 164 - c < j → j ≤ 4 → (e.flags.testBit j && s.me.ftrap.getLsbD j) = false)

/-! Faults (R313 to R317) -/

/-- A fault delivered in-slot: TCAUSE, TXPC and TVAL take the cause, the PC and the value, NEST takes UE, UE becomes 0, and the PC is TVEC
with bit 0 clear (R316). Mode U takes families 5, 6, 7, 9 and 10 and causes 352 to 368 so, mode F every cause but 132. Of the model: log 2. -/
def Obligations.TrapEntry : Prop := ∀ (s t : State) (c : Nat) (v : W), s.me.latch.empty → c < 2 ^ 64 → s.me.chunk.global = false → s.me.tstat.getLsbD 0 = true →
  (modeF s.cur = true ∧ c ≠ 132 ∨ modeF s.cur = false ∧ (c / 32 ∈ [5, 6, 7, 9, 10] ∨ 352 ≤ c ∧ c ≤ 368)) → t = s.raise c v →
  t.me.tcause.toNat = c ∧ t.me.txpc = s.me.pc ∧ t.me.tval = v ∧ t.me.tstat.getLsbD 1 = true ∧ t.me.tstat.getLsbD 0 = false ∧
  t.me.pc = (s.me.tvec.extractLsb' 1 15 ++ 0#1).setWidth 64 ∧ t.me.st = .run ∧ t.me.x = s.me.x ∧ t.me.v = s.me.v ∧ t.me.m = s.me.m ∧ t.me.e = s.me.e ∧
  t.me.fflags = s.me.fflags ∧ t.me.tvec = s.me.tvec ∧ t.me.frm = s.me.frm ∧ t.me.ftrap = s.me.ftrap ∧
  (∀ k, k ≠ s.cur → (t.slot k).x = (s.slot k).x ∧ (t.slot k).pc = (s.slot k).pc) ∧ SameMemory s t ∧ SameUnits s t ∧ t.frFlight = s.frFlight

/-- A fault that mode U does not take in-slot: the slot is FAULTED at its PC with every register kept, and one record goes to the queue of the
ringmaster of its die (R317, R319). -/
def Sys2Proof.Rules.FaultedRecord : Prop := ∀ (s t : State) (c : Nat) (v : W), s.me.latch.empty → s.me.chunk.global = false → modeF s.cur = false →
  (s.me.tstat.getLsbD 0 = false ∨ inSlotCause c = false) → t = s.raise c v →
  t.me.st = .faulted ∧ t.me.pc = s.me.pc ∧ t.me.tcause = s.me.tcause ∧ t.me.txpc = s.me.txpc ∧ t.me.tval = s.me.tval ∧ t.me.x = s.me.x ∧
  t.me.v = s.me.v ∧ t.me.m = s.me.m ∧ t.me.e = s.me.e ∧ t.me.tstat = s.me.tstat ∧ SameMemory s t ∧
  t.frFlight = s.frFlight ++ [(dieOf s.cur, ⟨recWord0 0 (s.me.tstat.getLsbD 1) true c (s.tid s.cur) (s.ctxOf s.myCore), v, nat (s.me.pc.toNat % 65536), nat s.cur⟩)]

/-- A ringmaster's fault with UE = 0, or of cause 132, fails the device: the controller's state is FAILED and ALARM holds 378; no record is
queued (R317, R356). -/
def Sys2Proof.Rules.DoubleFault : Prop := ∀ (s t : State) (c : Nat) (v : W), s.me.latch.empty → s.me.chunk.global = false → modeF s.cur = true →
  (s.me.tstat.getLsbD 0 = false ∨ c = 132) → t = s.raise c v →
  t.sec.st = 4 ∧ t.sec.alarm = 378 ∧ t.me.st = .faulted ∧ t.me.pc = s.me.pc ∧ t.frFlight = s.frFlight ∧ t.links.msix = s.links.msix ++ [(64, 0)] ∧ SameMemory s t

/-- A fault while the chunk holds global state: the slot parks in PARK-MEM for the grant of the instructions before it, and the fault is
delivered after the commit (R315). -/
def Sys2Proof.Rules.FaultAfterCommit : Prop := ∀ (s t : State) (c : Nat) (v : W), s.me.latch.empty → s.me.chunk.global = true → t = s.raise c v →
  t.me.st = .parkMem ∧ t.me.wait = .commitFault c v 0 ∧ t.me.pc = s.me.pc ∧ t.me.x = s.me.x ∧ (∀ k, k ≠ s.cur → t.slot k = s.slot k) ∧
  SameMemory s t ∧ SameUnits s t

/-- What a faulting instruction has popped goes back (R13, R313; log 13): an item of a queue homed at the core stands again among its items,
or is held again by the BTOK that held it before (R106); a message stands again in the mailbox. -/
def Sys2Proof.Rules.FaultGivesBack : Prop := ∀ (s : State) (c : Nat) (v : W), s.me.chunk.global = false → s.me.latch.ends = [] → s.me.latch.undo = [] → s.links.hostq = [] →
  (∀ h j i q w, s.me.latch.took = [⟨h, j, i, w⟩] → s.me.latch.mails = [] → s.homeCore (s.ctxOf s.myCore) h = some s.myCore → s.findQueue (s.ctxOf s.myCore) h = some q →
    (s.queue q).cons = [] → (s.queue q).prod = [] → (w = none → (j, i) ∈ ((s.raise c v).queue q).back) ∧
    (∀ e, w = some e → ({ k := s.cur, e := e, seq := j, it := i } : QHold) ∈ ((s.raise c v).queue q).held)) ∧
  (∀ m, s.me.latch.took = [] → s.me.latch.mails = [m] → (s.slots.map (·.1)).Pairwise (· < ·) → (∀ k, (s.slot k).wait = .none) → m ∈ ((s.raise c v).core s.myCore).mail)

/-- A fault outside the slot: the record of a FAULTED slot, the double fault, and the fault that waits for a commit.
Of the model: logs 2, 7 and 13. -/
def Obligations.FaultDelivery : Prop := Rules.FaultedRecord ∧ Rules.DoubleFault ∧ Rules.FaultAfterCommit ∧ Rules.FaultGivesBack

/-! Integer and pointer instructions -/

/-- Table 04-1 and R94: the results of the INT group. -/
def Sys2Proof.Rules.AluResults : Prop := ∀ d a b : R6,
  Gives2 (.add d a b) d a b (fun x y => x + y) ∧ Gives2 (.sub d a b) d a b (fun x y => x - y) ∧ Gives2 (.mul d a b) d a b (fun x y => x * y) ∧
  Gives2 (.mulh d a b) d a b (fun x y => (x.signExtend 128 * y.signExtend 128).extractLsb' 64 64) ∧
  Gives2 (.mulhu d a b) d a b (fun x y => (x.setWidth 128 * y.setWidth 128).extractLsb' 64 64) ∧
  Gives2 (.and d a b) d a b (fun x y => x &&& y) ∧ Gives2 (.or d a b) d a b (fun x y => x ||| y) ∧ Gives2 (.xor d a b) d a b (fun x y => x ^^^ y) ∧
  Gives2 (.andn d a b) d a b (fun x y => x &&& ~~~y) ∧ Gives2 (.sll d a b) d a b (fun x y => x <<< (y.toNat % 64)) ∧
  Gives2 (.srl d a b) d a b (fun x y => x >>> (y.toNat % 64)) ∧ Gives2 (.sra d a b) d a b (fun x y => x.sshiftRight (y.toNat % 64)) ∧
  Gives2 (.ror d a b) d a b (fun x y => x.rotateRight (y.toNat % 64)) ∧
  Gives2 (.min d a b) d a b (fun x y => if x.toInt ≤ y.toInt then x else y) ∧ Gives2 (.max d a b) d a b (fun x y => if x.toInt ≤ y.toInt then y else x) ∧
  Gives2 (.minu d a b) d a b (fun x y => if x.toNat ≤ y.toNat then x else y) ∧ Gives2 (.maxu d a b) d a b (fun x y => if x.toNat ≤ y.toNat then y else x) ∧
  Gives2 (.slt d a b) d a b (fun x y => if x.toInt < y.toInt then 1#64 else 0#64) ∧ Gives2 (.sltu d a b) d a b (fun x y => if x.toNat < y.toNat then 1#64 else 0#64) ∧
  Gives2 (.seq d a b) d a b (fun x y => if x = y then 1#64 else 0#64) ∧
  Gives1 (.sextb d a) 4 d a (fun x => (x.extractLsb' 0 8).signExtend 64) ∧ Gives1 (.sexth d a) 4 d a (fun x => (x.extractLsb' 0 16).signExtend 64) ∧
  Gives1 (.sextw d a) 4 d a (fun x => (x.extractLsb' 0 32).signExtend 64)

/-- R94 and Table 04-2: division truncates toward zero and never faults; each takes three further home turns. -/
def Sys2Proof.Rules.DivisionResults : Prop := ∀ (d a b : R6) (s s1 : State) (x y : W), Operands s [a, b] (some d) false none [x, y] s1 →
  Ends (.div d a b) s s1 (some d) (s1.effect 4 (some d) (.ok { val := if y = 0#64 then BitVec.allOnes 64 else x.sdiv y, hold := 3 })) ∧
  Ends (.divu d a b) s s1 (some d) (s1.effect 4 (some d) (.ok { val := if y = 0#64 then BitVec.allOnes 64 else x / y, hold := 3 })) ∧
  Ends (.rem d a b) s s1 (some d) (s1.effect 4 (some d) (.ok { val := if y = 0#64 then x else x.srem y, hold := 3 })) ∧
  Ends (.remu d a b) s s1 (some d) (s1.effect 4 (some d) (.ok { val := if y = 0#64 then x else x % y, hold := 3 }))

/-- CLZ, CTZ, POPC and BREV of Table 04-1, each by the bits of its result. -/
def Sys2Proof.Rules.CountResults : Prop := ∀ (d a : R6) (s s1 : State) (x : W), Operands s [a] (some d) false none [x] s1 →
  (∃ n, Leads x n ∧ Ends (.clz d a) s s1 (some d) (s1.effect 4 (some d) (.ok { val := nat n }))) ∧
  (∃ n, Trails x n ∧ Ends (.ctz d a) s s1 (some d) (s1.effect 4 (some d) (.ok { val := nat n }))) ∧
  Ends (.popc d a) s s1 (some d) (s1.effect 4 (some d) (.ok { val := nat ((List.range 64).countP fun i => x.getLsbD i) })) ∧
  (∃ v : W, (∀ i < 64, v.getLsbD i = x.getLsbD (63 - i)) ∧ Ends (.brev d a) s s1 (some d) (s1.effect 4 (some d) (.ok { val := v })))

/-- BEXT and BINS (R95), bit by bit: pos is b[5:0], the length b[13:8] + 1. -/
def Sys2Proof.Rules.FieldResults : Prop := ∀ (d a b : R6) (s s1 : State) (x y : W),
  (Operands s [a, b] (some d) false none [x, y] s1 → ∃ v : W,
    (∀ i < 64, v.getLsbD i = (decide (i ≤ y.toNat / 256 % 64) && x.getLsbD (y.toNat % 64 + i))) ∧
    Ends (.bext d a b) s s1 (some d) (s1.effect 4 (some d) (.ok { val := v }))) ∧
  (∀ z : W, Operands s [a, b, d] (some d) false none [x, y, z] s1 → ∃ v : W,
    (∀ i < 64, v.getLsbD i = if y.toNat % 64 ≤ i ∧ i ≤ y.toNat % 64 + y.toNat / 256 % 64 then x.getLsbD (i - y.toNat % 64) else z.getLsbD i) ∧
    Ends (.bins d a b) s s1 (some d) (s1.effect 4 (some d) (.ok { val := v })))

/-- Counts of bits and bit fields. -/
def Obligations.BitFieldResults : Prop := Rules.CountResults ∧ Rules.FieldResults

/-- R96 and R97: immediates, and the two constants that build a 64-bit one. -/
def Sys2Proof.Rules.ImmediateResults : Prop := ∀ (d a : R6) (i : BitVec 13) (n : BitVec 6) (j : BitVec 19),
  Gives1 (.addi d a i) 4 d a (fun x => x + i.signExtend 64) ∧ Gives1 (.andi d a i) 4 d a (fun x => x &&& i.signExtend 64) ∧
  Gives1 (.ori d a i) 4 d a (fun x => x ||| i.signExtend 64) ∧ Gives1 (.xori d a i) 4 d a (fun x => x ^^^ i.signExtend 64) ∧
  Gives1 (.slti d a i) 4 d a (fun x => if x.toInt < i.toInt then 1#64 else 0#64) ∧
  Gives1 (.sltiu d a i) 4 d a (fun x => if x.toNat < (i.signExtend 64).toNat then 1#64 else 0#64) ∧
  Gives1 (.slli d a n) 4 d a (fun x => x <<< n.toNat) ∧ Gives1 (.srli d a n) 4 d a (fun x => x >>> n.toNat) ∧
  Gives1 (.srai d a n) 4 d a (fun x => x.sshiftRight n.toNat) ∧ Gives1 (.rori d a n) 4 d a (fun x => x.rotateRight n.toNat) ∧
  Gives1 (.lis d j) 4 d d (fun x => (x <<< 19) ||| j.setWidth 64) ∧
  (∀ s s1 : State, Operands s [] (some d) false none [] s1 → Ends (.lih d j) s s1 (some d) (s1.effect 4 (some d) (.ok { val := BitVec.ofInt 64 (j.toInt * 2 ^ 13) })))

/-- The integer instructions on registers and on immediates. -/
def Obligations.IntegerResults : Prop := Rules.AluResults ∧ Rules.DivisionResults ∧ Rules.ImmediateResults

/-- The compact forms have the effect of their 32-bit equivalents, with a length of two bytes (R80, R81). -/
def Obligations.CompactResults : Prop := ∀ (d a : BitVec 5) (n : BitVec 6) (p : BitVec 3) (i8 : BitVec 8) (i11 : BitVec 11),
  let x5 (r : BitVec 5) : R6 := r.setWidth 6
  let x8 : R6 := BitVec.ofNat 6 (8 + p.toNat)
  Gives1 .cNop 2 0#6 0#6 (fun x => x) ∧ Gives1 (.cLi d n) 2 (x5 d) 0#6 (fun x => x + n.signExtend 64) ∧
  Gives1 (.cAddi d n) 2 (x5 d) (x5 d) (fun x => x + n.signExtend 64) ∧ Gives1 (.cMov d a) 2 (x5 d) (x5 a) (fun x => x) ∧
  Gives1 (.cSlli d n) 2 (x5 d) (x5 d) (fun x => x <<< n.toNat) ∧ Gives1 (.cSrli d n) 2 (x5 d) (x5 d) (fun x => x >>> n.toNat) ∧
  (∀ (s s1 : State) (x y : W), Operands s [x5 d, x5 a] (some (x5 d)) false none [x, y] s1 →
    Ends (.cAdd d a) s s1 (some (x5 d)) (s1.effect 2 (some (x5 d)) (.ok { val := x + y })) ∧
    Ends (.cSub d a) s s1 (some (x5 d)) (s1.effect 2 (some (x5 d)) (.ok { val := x - y })) ∧
    Ends (.cAnd d a) s s1 (some (x5 d)) (s1.effect 2 (some (x5 d)) (.ok { val := x &&& y }))) ∧
  Branches (.cBeqz p i8) 2 x8 0#6 i8.toInt (fun x y => x = y) ∧ Branches (.cBnez p i8) 2 x8 0#6 i8.toInt (fun x y => x ≠ y) ∧
  (∀ (s s1 : State) (x : W), Operands s [28#6] (some 0#6) false none [x] s1 →
    exec .cRet s = .next (s1.effect 2 (some 0#6) (.ok { val := s1.me.pc + 2#64, pc := some x }))) ∧
  (∀ s s1 : State, Operands s [] none false none [] s1 →
    exec (.cJ i11) s = .next (s1.effect 2 none (.ok { pc := some (s.me.pc + BitVec.ofInt 64 (2 * i11.toInt)) })))

/-- Branches and jumps (R104, R105): the target lies a signed count of halfwords from the instruction's own address; JAL and JALR link PC + 4,
and JALR reads ra before rd is written. -/
def Obligations.BranchResults : Prop := ∀ (d a b : R6) (i : BitVec 13) (j : BitVec 25),
  Branches (.beq a b i) 4 a b i.toInt (fun x y => x = y) ∧ Branches (.bne a b i) 4 a b i.toInt (fun x y => x ≠ y) ∧
  Branches (.blt a b i) 4 a b i.toInt (fun x y => x.toInt < y.toInt) ∧ Branches (.bge a b i) 4 a b i.toInt (fun x y => y.toInt ≤ x.toInt) ∧
  Branches (.bltu a b i) 4 a b i.toInt (fun x y => x.toNat < y.toNat) ∧ Branches (.bgeu a b i) 4 a b i.toInt (fun x y => y.toNat ≤ x.toNat) ∧
  (∀ s s1 : State, Operands s [] (some 28#6) false none [] s1 →
    Ends (.jal j) s s1 (some 28#6) (s1.effect 4 (some 28#6) (.ok { val := s1.me.pc + 4#64, pc := some (s.me.pc + BitVec.ofInt 64 (2 * j.toInt)) }))) ∧
  (∀ s s1 : State, Operands s [] none false none [] s1 →
    exec (.jmp j) s = .next (s1.effect 4 none (.ok { pc := some (s.me.pc + BitVec.ofInt 64 (2 * j.toInt)) }))) ∧
  (∀ (s s1 : State) (x : W), Operands s [a] (some d) false none [x] s1 →
    Ends (.jalr d a i) s s1 (some d) (s1.effect 4 (some d) (.ok { val := s1.me.pc + 4#64, pc := some (x + i.signExtend 64) })))

/-- Pointer arithmetic (R98 to R103): the low field moves by a count of bytes or of elements; SPC 7 is cause 64, a carry or borrow out of the low
field cause 71, and two pointers into different places cause 77. PCHK gives the cause of the first check that fails: those of R40 (where
PointerChecks says which), FMT and BLG, the alignment of the format, the length. PABS and PREL rewrite the space as Table 04-4 says.
Of the model: log 85. -/
def Obligations.PointerResults : Prop := ∀ (d a b : R6) (i : BitVec 13) (s s1 : State) (x y : W),
  (Operands s [a, b] (some d) false none [x, y] s1 →
    (∀ v, spc x ≠ 7 → ptrAdd x y.toInt = some v → Ends (.padd d a b) s s1 (some d) (s1.effect 4 (some d) (.ok { val := v }))) ∧
    (spc x ≠ 7 → ptrAdd x y.toInt = none → Ends (.padd d a b) s s1 (some d) (s1.effect 4 (some d) (.error 71))) ∧
    (spc x = 7 ∨ spc y = 7 → Ends (.pdiff d a b) s s1 (some d) (s1.effect 4 (some d) (.error 64))) ∧
    (spc x = 7 → Ends (.padd d a b) s s1 (some d) (s1.effect 4 (some d) (.error 64)) ∧ Ends (.padde d a b) s s1 (some d) (s1.effect 4 (some d) (.error 64))) ∧
    (∀ v, spc x ≠ 7 → fmtOf x ≤ 22 → ¬(12 ≤ fmtOf x ∧ fmtOf x ≤ 20) → (fmtOf x = 22 → y.toInt % 2 = 0) →
      ptrAdd x (if fmtOf x = 22 then y.toInt / 2 else y.toInt * elemStep (fmtOf x)) = some v →
      Ends (.padde d a b) s s1 (some d) (s1.effect 4 (some d) (.ok { val := v }))) ∧
    (spc x ≠ 7 → fmtOf x ≤ 22 → ¬(12 ≤ fmtOf x ∧ fmtOf x ≤ 20) → (fmtOf x = 22 → y.toInt % 2 = 0) →
      ptrAdd x (if fmtOf x = 22 then y.toInt / 2 else y.toInt * elemStep (fmtOf x)) = none → Ends (.padde d a b) s s1 (some d) (s1.effect 4 (some d) (.error 71))) ∧
    (spc x ≠ 7 → fmtOf x > 22 → Ends (.padde d a b) s s1 (some d) (s1.effect 4 (some d) (.error 69))) ∧
    (spc x ≠ 7 → (12 ≤ fmtOf x ∧ fmtOf x ≤ 20) ∨ (fmtOf x = 22 ∧ y.toInt % 2 ≠ 0) → Ends (.padde d a b) s s1 (some d) (s1.effect 4 (some d) (.error 72))) ∧
    (spc x ≠ 7 → spc y = spc x → upper x = upper y → Ends (.pdiff d a b) s s1 (some d) (s1.effect 4 (some d)
      (.ok { val := BitVec.ofInt 64 ((fld x 0 (offWidth (spc x)) : Int) - fld y 0 (offWidth (spc x))) }))) ∧
    (spc x ≠ 7 → spc y ≠ 7 → spc y ≠ spc x ∨ upper x ≠ upper y → Ends (.pdiff d a b) s s1 (some d) (s1.effect 4 (some d) (.error 77))) ∧
    Ends (.pmake d a b) s s1 (some d) (s1.effect 4 (some d) (.ok { val := y.extractLsb' 0 12 ++ x.extractLsb' 0 52 })) ∧
    Ends (.pset d a b) s s1 (some d) (s1.effect 4 (some d) (.ok { val := y.extractLsb' 3 9 ++ x.extractLsb' 0 55 })) ∧
    (∀ f v, f = fmtOf x → v = (match s1.resolve s1.myCore x with
        | .error c => nat c
        | .ok t =>
          if 22 < f then 69#64 else if blgOf x ≠ 0 ∧ ¬(12 ≤ f ∧ f ≤ 17 ∧ blgOf x = 3) then 70#64
          else if t.off % (if (12 ≤ f ∧ f ≤ 16) ∨ f = 20 then 8 else if f = 17 then 4 else if f = 19 then 2 else 1) ≠ 0 then 76#64
          else if y = 0#64 then 0#64 else if 2 ^ offWidth (spc x) < t.off + y.toNat then 71#64
          else if spc x = 6 ∧ s1.winSize (s1.ctxOf s1.myCore) (s1.vcl s1.myCore / 32) < t.off + y.toNat then 68#64 else 0#64) →
      s1.myCore < 1024 → Ends (.pchk d a b) s s1 (some d) (s1.effect 4 (some d) (.ok { val := v })))) ∧
  (Operands s [a] (some d) false none [x] s1 →
    Ends (.pget d a) s s1 (some d) (s1.effect 4 (some d) (.ok { val := (x.extractLsb' 52 12).setWidth 64 })) ∧
    (spc x = 7 → Ends (.paddi d a i) s s1 (some d) (s1.effect 4 (some d) (.error 64)) ∧ Ends (.pabs d a) s s1 (some d) (s1.effect 4 (some d) (.error 64)) ∧
      Ends (.prel d a) s s1 (some d) (s1.effect 4 (some d) (.error 64))) ∧
    (∀ v, spc x ≠ 7 → ptrAdd x i.toInt = some v → Ends (.paddi d a i) s s1 (some d) (s1.effect 4 (some d) (.ok { val := v }))) ∧
    (spc x ≠ 7 → ptrAdd x i.toInt = none → Ends (.paddi d a i) s s1 (some d) (s1.effect 4 (some d) (.error 71))) ∧
    (∀ v c vf : Nat, v = s1.vcl s1.myCore → c = s1.myCore % 8 → v < 128 → vf = fld x 21 7 →
      let put (sp : Nat) (loc : BitVec 31) : W := x.extractLsb' 55 9 ++ BitVec.ofNat 3 sp ++ loc ++ x.extractLsb' 0 21
      let core (sp u n : Nat) : W := x.extractLsb' 55 9 ++ BitVec.ofNat 3 sp ++ BitVec.ofNat 31 u ++ BitVec.ofNat 3 n ++ x.extractLsb' 0 18
      let absTo (r : W) := Ends (.pabs d a) s s1 (some d) (s1.effect 4 (some d) (.ok { val := r }))
      let relTo (r : W) := Ends (.prel d a) s s1 (some d) (s1.effect 4 (some d) (.ok { val := r }))
      let t : Int := (v : Int) + sInt vf 7
      let back : Int := (vf : Int) - v
      (spc x = 1 → absTo (put 2 (BitVec.ofNat 31 v)) ∧ relTo x) ∧ (spc x = 2 → absTo x ∧ relTo (if vf = v then put 1 0#31 else x)) ∧
      (spc x = 3 → absTo (core 4 v c) ∧ relTo (core 5 0 c)) ∧
      (spc x = 4 → absTo x ∧ (-64 ≤ back ∧ back ≤ 63 → relTo (core 5 (back % 128).toNat (fld x 18 3))) ∧
        (back < -64 ∨ 63 < back → Ends (.prel d a) s s1 (some d) (s1.effect 4 (some d) (.error 67)))) ∧
      (spc x = 5 → relTo x ∧ (0 ≤ t ∧ t ≤ 127 → absTo (core 4 t.toNat (fld x 18 3))) ∧
        (t < 0 ∨ 127 < t → Ends (.pabs d a) s s1 (some d) (s1.effect 4 (some d) (.error 67)))) ∧
      (spc x = 0 ∨ spc x = 6 → absTo x ∧ relTo x)))

/-- PABS and PREL are inverse where both succeed on a pointer into the own cluster (Table 04-4), and PABS gives SPX, TCX, GLB or DSR pointers
only. -/
def Sys2Proof.Rules.PointerRoundTrip : Prop := ∀ (v c : Nat) (p q : W) (e f : Eff), v < 128 → c < 8 → pabs v c p = .ok e → prel v c e.val = .ok f →
  spc p = 1 ∨ spc p = 5 → fld p 21 31 = fld p 21 7 → (spc p = 1 → fld p 21 31 = 0) → q = f.val →
  (spc e.val = 2 ∨ spc e.val = 4) ∧ q = p

/-- PtrAdd of R99: the low field takes the sum, every other bit is kept. -/
def Sys2Proof.Rules.PointerAdd : Prop := ∀ (p q : W) (n : Int), ptrAdd p n = some q →
  (fld q 0 (offWidth (spc p)) : Int) = fld p 0 (offWidth (spc p)) + n ∧ (∀ j, offWidth (spc p) ≤ j → q.getLsbD j = p.getLsbD j)

/-- Packing and unpacking a pointer, and adding to one. -/
def Obligations.PointerForms : Prop := Rules.PointerRoundTrip ∧ Rules.PointerAdd

/-! Scalar floating point and the heap -/

namespace Sys2Proof.Machine

/-- An FP instruction of precision p completes with the result `r rm ftz` of its operand encodings: the value zero-extended, its flags, the
normaliser's turns when FTZ = 0 and a subnormal is met, and `hold` further turns (R67, R108, R111). -/
abbrev GivesF (i : Instr) (d : R6) (srcs : List R6) (p : BitVec 2) (hold : Nat) (r : Nat → Bool → List Nat → FRes) : Prop :=
  ∀ (s s1 : State) (vs : List W), Operands s srcs (some d) false none vs s1 →
    let q := r (s1.me.frm.toNat % 8) (s1.me.frm.getLsbD 3) (vs.map fun v => v.toNat % 2 ^ (precFmt p).bits)
    Ends i s s1 (some d) (s1.effect 4 (some d) (.ok { val := nat q.bits, flags := q.flags, norm := !s1.me.frm.getLsbD 3 && q.sub, hold := hold }))

end Sys2Proof.Machine

/-- Table 04-5: which function each FP instruction computes of which operands (FpRounding and FpClasses say what the functions give); FDIV and FSQRT in FP64 take three further turns (R20).
Of the model: logs 17, 81 and 84. -/
def Obligations.FpResults : Prop := ∀ (d a b : R6) (p t : BitVec 2),
  let f := precFmt p
  let x (l : List Nat) (i : Nat) : Nat := l.getD i 0
  GivesF (.fadd d a b p) d [a, b] p 0 (fun rm z l => f.fadd rm z (x l 0) (x l 1)) ∧ GivesF (.fsub d a b p) d [a, b] p 0 (fun rm z l => f.fsub rm z (x l 0) (x l 1)) ∧
  GivesF (.fmul d a b p) d [a, b] p 0 (fun rm z l => f.fmul rm z (x l 0) (x l 1)) ∧
  GivesF (.fdiv d a b p) d [a, b] p (if p = 1#2 then 3 else 0) (fun rm z l => f.fdiv rm z (x l 0) (x l 1)) ∧
  GivesF (.fsqrt d a p) d [a] p (if p = 1#2 then 3 else 0) (fun rm z l => f.fsqrt rm z (x l 0)) ∧
  GivesF (.fma d a b p) d [a, b, d] p 0 (fun rm z l => f.fma rm z (x l 0) (x l 1) (x l 2)) ∧
  GivesF (.fmin d a b p) d [a, b] p 0 (fun _ z l => f.fminmax false z (x l 0) (x l 1)) ∧ GivesF (.fmax d a b p) d [a, b] p 0 (fun _ z l => f.fminmax true z (x l 0) (x l 1)) ∧
  GivesF (.feq d a b p) d [a, b] p 0 (fun _ z l => f.fcmp 0 z (x l 0) (x l 1)) ∧ GivesF (.flt d a b p) d [a, b] p 0 (fun _ z l => f.fcmp 1 z (x l 0) (x l 1)) ∧
  GivesF (.fle d a b p) d [a, b] p 0 (fun _ z l => f.fcmp 2 z (x l 0) (x l 1)) ∧
  GivesF (.fclass d a p) d [a] p 0 (fun _ _ l => ⟨f.fclass (x l 0), 0, false⟩) ∧ GivesF (.fneg d a p) d [a] p 0 (fun _ _ l => ⟨f.fneg (x l 0), 0, false⟩) ∧
  GivesF (.fabs d a p) d [a] p 0 (fun _ _ l => ⟨f.fabs (x l 0), 0, false⟩) ∧
  GivesF (.fcvti d a p) d [a] p 0 (fun rm z l => f.toIntRes (-(2 ^ 63)) (2 ^ 63 - 1) rm z (x l 0)) ∧
  GivesF (.fcvtu d a p) d [a] p 0 (fun rm z l => f.toIntRes 0 (2 ^ 64 - 1) rm z (x l 0)) ∧
  GivesF (.fcvtf d a t p) d [a] p 0 (fun rm z l => if p = t then sameFormat f z (x l 0) else convert f (precFmt t) rm z (x l 0)) ∧
  (∀ (s s1 : State) (v : W), Operands s [a] (some d) false none [v] s1 → Ends (.icvtf d a p) s s1 (some d) (s1.effect 4 (some d)
    (.ok { val := nat (f.round s1.me.rm (FV.ofInt v.toInt) (scalarHash (f.d (FV.ofInt v.toInt)))).bits,
           flags := (f.round s1.me.rm (FV.ofInt v.toInt) (scalarHash (f.d (FV.ofInt v.toInt)))).flags })))

/-- R109 on FP32 and FP64: with one NaN operand FMIN and FMAX return the other, with two the canonical NaN, and only a signalling NaN sets NV;
the compares give 1 or 0, and 0 for a NaN; FNEG and FABS of a NaN give the canonical NaN and raise nothing. -/
def Sys2Proof.Rules.FpNans : Prop := ∀ (f : Fmt) (a b : Nat) (mx : Bool) (op : Nat), f = fp32 ∨ f = fp64 → a < 2 ^ f.bits → b < 2 ^ f.bits →
  ((f.value a).isNan = true → (f.value b).isNan = true → (f.fminmax mx false a b).bits = f.canon) ∧
  ((f.value a).isNan = true → (f.value b).isNan = false → (f.fminmax mx false a b).bits = b) ∧
  ((f.value a).isNan = false → (f.value b).isNan = true → (f.fminmax mx false a b).bits = a) ∧
  ((f.fminmax mx false a b).flags = if (f.value a).isSnan || (f.value b).isSnan then 16 else 0) ∧
  ((f.fcmp op false a b).bits ≤ 1) ∧
  ((f.value a).isNan = true ∨ (f.value b).isNan = true → (f.fcmp op false a b).bits = 0) ∧
  ((f.value a).isNan = true → f.fneg a = f.canon ∧ f.fabs a = f.canon)

namespace Sys2Proof.Machine

/-- The place of a number's encoding in the order of numbers: sign and magnitude. Both zeros have place 0. -/
def fpPlace (f : Fmt) (b : Nat) : Int := if b < 2 ^ (f.bits - 1) then (b : Int) else -((b : Int) - 2 ^ (f.bits - 1))

/-- An encoding as FTZ = 1 reads it: a subnormal number is a zero of its sign. -/
def flushed (f : Fmt) (b : Nat) : Nat := if f.subnormal b then b / 2 ^ (f.bits - 1) * 2 ^ (f.bits - 1) else b

end Sys2Proof.Machine

/-- R109 on the numbers of FP32 and FP64, by their encodings: FMIN and FMAX give the operand that comes first or last in the order of numbers,
with −0 below +0; FEQ, FLT and FLE compare, −0 equal to +0; a NaN sets NV in FLT and FLE, in FEQ a signalling one alone, and no number does.
With FTZ = 1 subnormal operands are read as zeros of their sign (R67). -/
def Sys2Proof.Rules.FpOrder : Prop := ∀ (f : Fmt) (a b : Nat), f = fp32 ∨ f = fp64 → a < 2 ^ f.bits → b < 2 ^ f.bits →
  ((f.value a).isNan = false → (f.value b).isNan = false →
    (f.fminmax false false a b).bits = (if fpPlace f a < fpPlace f b ∨ (fpPlace f a = fpPlace f b ∧ b ≤ a) then a else b) ∧
    (f.fminmax true false a b).bits = (if fpPlace f a < fpPlace f b ∨ (fpPlace f a = fpPlace f b ∧ b ≤ a) then b else a) ∧
    (f.fcmp 0 false a b).bits = (if fpPlace f a = fpPlace f b then 1 else 0) ∧ (f.fcmp 1 false a b).bits = (if fpPlace f a < fpPlace f b then 1 else 0) ∧
    (f.fcmp 2 false a b).bits = (if fpPlace f a ≤ fpPlace f b then 1 else 0) ∧ ∀ op, (f.fcmp op false a b).flags = 0) ∧
  ((f.value a).isNan = true ∨ (f.value b).isNan = true →
    (f.fcmp 0 false a b).flags = (if (f.value a).isSnan || (f.value b).isSnan then 16 else 0) ∧
    (f.fcmp 1 false a b).flags = 16 ∧ (f.fcmp 2 false a b).flags = 16) ∧
  (∀ op mx, (f.fcmp op true a b).bits = (f.fcmp op false (flushed f a) (flushed f b)).bits ∧
    (f.fminmax mx true a b).bits = (f.fminmax mx false (flushed f a) (flushed f b)).bits)

/-- FCLASS by the fields of the encoding (Table 04-6): sign, exponent and fraction; exactly one of its ten bits is set. -/
def Sys2Proof.Rules.FclassBits : Prop := ∀ (f : Fmt) (b : Nat), f = fp32 ∨ f = fp64 → b < 2 ^ f.bits →
  let neg : Bool := b / 2 ^ (f.bits - 1) = 1
  let ex := b / 2 ^ f.mb % 2 ^ f.eb
  let fr := b % 2 ^ f.mb
  f.fclass b = 2 ^ (
    if ex = 2 ^ f.eb - 1 then (if fr = 0 then (if neg then 0 else 7) else if fr / 2 ^ (f.mb - 1) = 0 then 8 else 9)
    else if ex = 0 then (if fr = 0 then (if neg then 3 else 4) else if neg then 2 else 5)
    else if neg then 1 else 6)

/-- NaN results, the order of numbers, and the classes of floating-point values. -/
def Obligations.FpClasses : Prop := Rules.FpNans ∧ Rules.FpOrder ∧ Rules.FclassBits

namespace Sys2Proof.Machine

/-- Before the heap at h is changed: where the pair that leaves is to be pushed, the bytes that stood are kept, for a push that comes to nothing (R13). -/
def State.keeps (s : State) (d : R6) (h : Nat) : State :=
  s.undoable d (.bytes h (s.bytes h 136))

end Sys2Proof.Machine

/-- HINIT and HSIFT on a heap in the issuing core's TCM, clear of poison, with a good header: the whole heap is written back, and the pair that leaves
or all ones goes to rd; a pair whose score is a NaN goes to rd with nothing written (R112, R113). A header out of its limits is cause 168; a
pointer that R40 refuses gives its cause, and one that names no heap of the core's own TCM cause 78. Of the model: logs 13 and 18. -/
def Obligations.HeapResults : Prop := ∀ (d a b : R6) (s s1 : State) (p v : W),
  ((∀ c, s1.heapAt p = .error c → (Operands s [a, b] none true none [p, v] s1 → exec (.hinit a b) s = .next (s1.raiseOpen c)) ∧
    (Operands s [a, b] (some d) true none [p, v] s1 → Ends (.hsift d a b) s s1 (some d) (s1.raiseOpen c))) ∧
  (∀ c, s1.resolve s1.myCore p = .error c → s1.heapAt p = .error c) ∧
  (∀ t, s1.resolve s1.myCore p = .ok t → spc p < 3 ∨ 5 < spc p ∨ t.remote = true ∨ t.off % 8 ≠ 0 ∨ t.off + 136 > 0x40000 → s1.heapAt p = .error 78)) ∧
  ∀ h, s1.heapAt p = .ok h →
  (Operands s [a, b] (some d) true none [p, v] s1 → s1.anyPoison h 136 = false →
    s1.num h 8 ≥ 2 ^ 13 ∨ bitsOf (s1.num h 8) 5 3 ≠ 0 ∨ bitsOf (s1.num h 8) 8 5 < 1 ∨ bitsOf (s1.num h 8) 8 5 > 16 ∨ bitsOf (s1.num h 8) 0 5 > bitsOf (s1.num h 8) 8 5 →
    Ends (.hsift d a b) s s1 (some d) (s1.raiseOpen 168)) ∧
  (Operands s [a, b] none true none [p, v] s1 → 1 ≤ v.toNat → v.toNat ≤ 16 →
    exec (.hinit a b) s = .next ((s1.write (some s1.cur) false h (leBytes (v.toNat * 256) 8 ++ List.replicate 128 0#8)).retireIrr 4)) ∧
  (Operands s [a, b] none true none [p, v] s1 → v.toNat = 0 ∨ 16 < v.toNat → exec (.hinit a b) s = .next (s1.raiseOpen 168)) ∧
  (Operands s [a, b] (some d) true none [p, v] s1 → s1.anyPoison h 136 = false → s1.num h 8 < 2 ^ 13 → bitsOf (s1.num h 8) 5 3 = 0 →
    ∀ cap n, cap = bitsOf (s1.num h 8) 8 5 → n = bitsOf (s1.num h 8) 0 5 → 1 ≤ cap → cap ≤ 16 → n ≤ cap →
    let l := (List.range 16).map fun j => s1.num (h + 8 + 8 * j) 8
    ((score v.toNat).isNan = true → Ends (.hsift d a b) s s1 (some d) (s1.pure.finish true 4 d v)) ∧
    ((score v.toNat).isNan = false → n = cap → (score (l.getD 0 0)).lt (score v.toNat) = false → Ends (.hsift d a b) s s1 (some d) (((s1.keeps d h).write (some s1.cur) false h (heapBytes cap n l)).finish true 4 d v)) ∧
    ((score v.toNat).isNan = false → n < cap → Ends (.hsift d a b) s s1 (some d) (((s1.keeps d h).write (some s1.cur) false h (heapBytes cap (n + 1) (siftUp 5 n (l.set n v.toNat)))).finish true 4 d (BitVec.allOnes 64))) ∧
    ((score v.toNat).isNan = false → n = cap → (score (l.getD 0 0)).lt (score v.toNat) = true → Ends (.hsift d a b) s s1 (some d) (((s1.keeps d h).write (some s1.cur) false h (heapBytes cap n (siftDown 5 n 0 (l.set 0 v.toNat)))).finish true 4 d (nat (l.getD 0 0)))))

/-- What the end of an instruction that ends its chunk leaves (HSIFT, FE instructions, AMOs, the queue, task and system instructions): a private
destination holds the value, one of the shared bank's registers takes it when it lands (R25), the PC has moved past the instruction, and memory, units and other slots are as they were.
Of the model: log 76. -/
def Obligations.FinishFrame : Prop := ∀ (s t : State) (len : Nat) (d : R6) (v : W), isQ d = false → t = s.finish true len d v →
  t.cur = s.cur ∧ t.me.pc = s.me.pc + nat len ∧ t.me.st = .run ∧ t.me.pend = none ∧
  (isG d = false → d ≠ 0#6 → d ≠ 31#6 → t.xget s.cur d.toNat = v) ∧
  (t.core s.myCore).gpend = (s.core s.myCore).gpend ++ (if isG d = true ∧ d.toNat < 48 then [⟨s.cur, d.toNat - 32, v⟩] else []) ∧
  (∀ r, isG d = true ∨ r ≠ d.toNat → t.xget s.cur r = s.xget s.cur r) ∧ (∀ c r, r < 31 → t.gget c r = s.gget c r) ∧ (∀ c, c ≠ s.myCore → t.core c = s.core c) ∧
  SameSlot s.me t.me ∧ t.me.fflags = s.me.fflags ∧ (∀ k, k ≠ s.cur → t.slot k = s.slot k) ∧ SameMemory s t ∧ SameUnits s t

/-! Memory access -/

namespace Sys2Proof.Machine

/-- A piece can be accessed now: its lines are held and permit it, no poison stops it (R116, R119). -/
def State.fine (s : State) (wr : Bool) (ps : List Piece) (p : Piece) : Prop := s.holds p = true ∧ s.pieceErr wr ps p = none

/-- Every piece can be accessed now. -/
def State.allows (s : State) (wr : Bool) (ps : List Piece) : Prop := ∀ p ∈ ps, s.fine wr ps p

/-- What stops an access of pieces is met in ascending order (R132): `ok` are the pieces before the first that cannot be accessed. That one's fault
where its lines are held, else its lines are asked for; `err` is the fault after them all. -/
structure StopsAt (s : State) (wr : Bool) (ps : List Piece) (err : Option (Nat × W)) (ok : List Piece) (bring : List Nat) (bad : Option (Nat × W)) : Prop where
  ahead : ok <+: ps
  fine : ∀ p ∈ ok, s.fine wr ps p
  all : ok = ps → bring = [] ∧ bad = err
  fault : ∀ p, ps[ok.length]? = some p → s.holds p = true → ∃ c, s.pieceErr wr ps p = some c ∧ bring = [] ∧ bad = some c
  lines : ∀ p, ps[ok.length]? = some p → s.holds p = false → bring = (ok ++ [p]).flatMap (·.places) ∧ bad = none

/-- Where a load of several pieces parks or faults, E being what the instruction comes to: the remote pieces before the first that cannot be accessed
are asked for, then its lines are brought, or it gives the fault (R116, R132). Outside a chunk (`irr`) a global load waits for the slot's
no-return AMOs first (R255). -/
def LoadParks (E : State → Prop) (s : State) (irr : Bool) (ps : List Piece) (err : Option (Nat × W)) : Prop :=
  (s.behind irr ps = true → E (s.parkRe .parkMem (.acks 0))) ∧
  (s.behind irr ps = false → ∀ ok bring bad, StopsAt s false ps err ok bring bad →
    let far := ok.filter fun p => p.tgt.remote && (s.me.latch.parts.find p.part).isNone
    (far ≠ [] → E (((far.foldl (fun s p =>
        s.send (s.ctxOf s.myCore) s.myCore (portOf p.tgt.at_) (.access s.cur p.part p.tgt.at_ (.load p.n) true p.tgt.vc p.ptr)) s).upd fun sl =>
      { sl with latch := { sl.latch with left := far.length } }).park .parkMem .reply)) ∧
    (far = [] → bring ≠ [] → E (s.fill bring (ps.flatMap (·.lines)) false)) ∧
    (∀ c t, far = [] → bad = some (c, t) → E (s.raise c t)))

/-- The fill of an access (R116, R251): where the L1D has no room but that of lines that a chunk has marked, and the chunk holds global state, the
chunk ends first; else the slot parks in PARK-MEM, and a walk is asked for where a slice holds neither the line nor a translation (R246). -/
def Fills (s : State) (as all : List Nat) (wr : Bool) : Prop :=
  (s.me.chunk.global = true → s.l1dRoom s.myCore (as.map lineOf ++ all) = false → s.fill as all wr = s.parkRe .parkMem .commit) ∧
  (s.me.chunk.global = false ∨ s.l1dRoom s.myCore (as.map lineOf ++ all) = true → (s.fill as all wr).me.st = .parkMem ∧ (s.fill as all wr).me.wait = .fill as wr ∧
    (s.fill as all wr).me.pc = s.me.pc ∧ SameMemory s (s.fill as all wr) ∧
    ∀ a ∈ as, glb0 ≤ a → s.trans (glbCtx a) (glbVa a) = none →
      ({ who := .slot s.cur, sl := sliceAt a, x := glbCtx a, va := glbVa a, wr := wr, fea := false, st := 0, leaf := none } : Walk) ∈ (s.fill as all wr).walks)

/-- The stores of pieces that are all reached without a message: poison of words written whole is cleared, the bytes are written, and the pages are
noted (R119, R301, R304). -/
def State.written (s : State) (ps : List Piece) : State :=
  ((ps.foldl (fun s p => s.write (some s.cur) false p.tgt.at_ p.data) (s.healCovered ps)).notePages (ps.flatMap (·.places))).upd fun sl =>
    { sl with latch := { sl.latch with parts := sl.latch.parts.put nearDone 0#512 } }

/-- The bytes of the remote pieces have come by reply. -/
def State.replied (s : State) (ps : List Piece) : Prop := ∀ p ∈ ps, p.tgt.remote = true → (s.me.latch.parts.find p.part).isSome = true

/-- A load of n bytes by instruction i of `len` bytes at base register a plus off (R114, R116): what it does for every pointer. -/
abbrev Loads (i : Instr) (len : Nat) (d a : R6) (off : Int) (n : Nat) (f : Nat → W) : Prop :=
  ∀ (s s1 : State) (x : W), Operands s [a] (some d) false none [x] s1 →
    (spc x = 7 → Ends i s s1 (some d) (s1.raise 64 x)) ∧ (spc x ≠ 7 → ptrAdd x off = none → Ends i s s1 (some d) (s1.raise 71 x)) ∧
    (∀ p, spc x ≠ 7 → ptrAdd x off = some p →
      (∀ c, s1.access s1.myCore p n n = .error c → Ends i s s1 (some d) (s1.raise c p)) ∧
      (∀ t, s1.access s1.myCore p n n = .ok t → ∀ q : Piece, q = ⟨0, p, t, n, []⟩ →
        (s1.behind (s1.apart d) [q] = true → Ends i s s1 (some d) (s1.parkRe .parkMem (.acks 0))) ∧ (s1.behind (s1.apart d) [q] = false →
        (s1.holds q = false → Ends i s s1 (some d) (s1.fill q.places q.lines false) ∧ Fills s1 q.places q.lines false) ∧
        (∀ c v, s1.holds q = true → s1.pieceErr false [q] q = some (c, v) → Ends i s s1 (some d) (s1.raise c v)) ∧
        (s1.allows false [q] → t.remote = true → s1.me.latch.parts.find 0 = none → Ends i s s1 (some d)
          (((s1.send (s1.ctxOf s1.myCore) s1.myCore (portOf t.at_) (.access s1.cur 0 t.at_ (.load n) true t.vc p)).upd fun sl =>
            { sl with latch := { sl.latch with left := 1 } }).park .parkMem .reply)) ∧
        (s1.allows false [q] → s1.replied [q] →
          Ends i s s1 (some d) ((if s1.apart d then s1 else s1.markRead q.lines).pure.finish false len d (f (leNat (s1.pieceBytes q))))))))

/-- The stores of instruction i, at pieces whose accesses its operands name; `err`: the fault of the piece after these, if that could not be formed
(R116, R117, R132). In global space inside a chunk they are speculative; in a local space they are written after the commit; elsewhere they
are sent, and each waits for its acknowledgement. -/
def StoresAt (i : Instr) (s s1 : State) (len : Nat) (ps : List Piece) (err : Option (Nat × W) := none) : Prop :=
  let glob := ps.all fun p => isGlobal p.tgt.at_
  let ls := (ps.flatMap (·.lines)).eraseDups
  let room := ((s1.me.chunk.storeLines ++ ls).eraseDups).length ≤ 512
  (glob = true → s1.me.latch.parts.find nearDone = none →
    (∀ ok bring bad, StopsAt s1 true ps err ok bring bad → (bring ≠ [] → exec i s = .next (s1.fill bring (ps.flatMap (·.lines)) true)) ∧
      (∀ c v, bad = some (c, v) → exec i s = .next (s1.raise c v))) ∧
    (s1.allows true ps → err = none → (ps.all fun p => !p.tgt.remote) = true →
      (s1.me.latch.stage = 0 → room → exec i s = .next ((s1.upd fun sl => { sl with chunk := { sl.chunk with
        stores := ps.foldl (fun t p => p.data.zipIdx.foldl (fun t (b, j) => t.put (p.tgt.at_ + j) b) t) sl.chunk.stores
        trs := s1.storeTrs ls sl.chunk.trs } }).retire len)) ∧
      (s1.me.latch.stage = 0 → ¬ room → exec i s = .next (s1.parkRe .parkMem .commit)) ∧
      (s1.me.latch.stage ≠ 0 → s1.behind true ps = true → exec i s = .next (s1.parkRe .parkMem (.acks 0))) ∧
      (s1.me.latch.stage ≠ 0 → s1.behind true ps = false → s1.heldUp ps = true → exec i s = .next (s1.parkRe .parkMem .commit)) ∧
      (s1.me.latch.stage ≠ 0 → s1.behind true ps = false → s1.heldUp ps = false →
        exec i s = .next ((s1.written ps).retireIrr len)))) ∧
  (glob = false → s1.me.chunk.global = true → exec i s = .next (s1.parkRe .parkMem .commit)) ∧
  (glob = false → s1.me.chunk.global = false → ∀ s2, s2 = s1.chunkDone s1.cur → s2.me.latch.parts.find nearDone = none →
    (∀ ok bring bad, StopsAt s2 true ps err ok bring bad → (bring ≠ [] → exec i s = .next (s2.fill bring (ps.flatMap (·.lines)) true)) ∧
      (∀ c v, bad = some (c, v) → exec i s = .next (s2.raise c v))) ∧
    (s2.allows true ps → err = none → s2.behind true ps = true → exec i s = .next (s2.parkRe .parkMem (.acks 0))) ∧
    (s2.allows true ps → err = none → (ps.all fun p => !p.tgt.remote) = true → s2.behind true ps = false → s2.heldUp ps = false →
      exec i s = .next ((s2.written ps).retireIrr len)) ∧
    (∀ p, s2.allows true ps → err = none → ps = [p] → p.tgt.remote = true → p.part < nearDone → s2.me.latch.parts.find p.part = none → s2.me.acks.length < 8 →
      s2.behind true ps = false → s2.heldUp ps = false → ∃ t, exec i s = .next t ∧
        t.net = s2.net ++ [⟨s2.myCore, portOf p.tgt.at_, .access s2.cur p.part p.tgt.at_ (.store p.data) false p.tgt.vc p.ptr, s2.ctxOf s2.myCore, none⟩] ∧
        t.me.acks = s2.me.acks ++ [p.tgt.vc] ∧ t.me.pc = s2.me.pc + nat len ∧ t.me.st = .run ∧ SameMemory s2 t ∧ t.cur = s2.cur))

/-- A scalar store of n bytes at base register a plus off. -/
abbrev Stores (i : Instr) (len : Nat) (a b : R6) (off : Int) (n : Nat) : Prop :=
  ∀ (s s1 : State) (x y : W), Operands s [a, b] none false none [x, y] s1 →
    (spc x = 7 → exec i s = .next (s1.raise 64 x)) ∧ (spc x ≠ 7 → ptrAdd x off = none → exec i s = .next (s1.raise 71 x)) ∧
    (∀ p, spc x ≠ 7 → ptrAdd x off = some p →
      (∀ c, s1.access s1.myCore p n n = .error c → exec i s = .next (s1.raise c p)) ∧
      (∀ t, s1.access s1.myCore p n n = .ok t → StoresAt i s s1 len [⟨0, p, t, n, leBytes y.toNat n⟩]))

/-- Instruction i performs the operation op at the home of target t (R122, R127): in place under a reservation at a slice, at another unit's
port, or at a place of its own; `done` is the end of the instruction with the value. -/
def AtHome (E : State → Prop) (s1 : State) (t : Tgt) (op : HomeOp) (ptr : W) (done : V512 → State → State) : Prop :=
  (∀ v, s1.me.latch.res = some v → E (done v s1)) ∧
  (s1.me.latch.res = none → isGlobal t.at_ = true → E ((s1.reserve false t.at_ op ptr).park .parkMem .resv)) ∧
  (s1.me.latch.res = none → isGlobal t.at_ = false → t.remote = true → E
    (((s1.send (s1.ctxOf s1.myCore) s1.myCore (portOf t.at_) (.access s1.cur 0 t.at_ op true t.vc ptr)).upd fun sl =>
      { sl with latch := { sl.latch with left := 1 } }).park .parkMem .reply)) ∧
  (s1.me.latch.res = none → isGlobal t.at_ = false → t.remote = false → ∀ s2,
    (∀ v, s1.homeStep s1.cur false t.at_ op = (.val v, s2) → E (done v (s2.homeAfter t.at_ op))) ∧
    (s1.homeStep s1.cur false t.at_ op = (.wait, s2) → E (s2.park op.parked.1 op.parked.2)) ∧
    (∀ c u, s1.homeStep s1.cur false t.at_ op = (.fault c u, s2) → E (s2.raise c (u.getD ptr))))

/-- The end of an instruction whose value goes to rd, and of one without a destination. -/
def toRd (d : R6) (v : V512) (s : State) : State := s.finish true 4 d (asW v)
def noRd (_ : V512) (s : State) : State := s.retireIrr 4

/-- The first n bytes of the array at p lie in the core's TCM, and no word of them is poisoned. -/
def State.tcmHolds (s : State) (p : W) (n : Nat) : Prop :=
  spc p = 3 ∧ offOf p / 2 ^ 18 = 0 ∧ fld p 0 18 + n ≤ 2 ^ 18 ∧ ∀ w ∈ wordsOf (tcmBase s.myCore + fld p 0 18) n, s.poisonSeen s.cur w = false

/-- n bytes at byte offset o of an array in TCM, as a number. -/
def State.tcmNum (s : State) (p : W) (o n : Nat) : Nat := leNat ((List.range n).map fun i => s.seen s.cur (tcmBase s.myCore + fld p 0 18 + o + i))

/-- The byte offset of unit i of a BMP8 array (R62). -/
def unitAt (rd : Nat → Nat → Nat) : Nat → Nat
  | 0 => 0
  | i + 1 => unitAt rd i + bmpSize (rd (unitAt rd i) 8)

/-- An FE instruction. -/
abbrev FullEmpty (i : Instr) (srcs : List R6) (d : Option R6) (rel : Bool) (op : FeOp) (done : V512 → State → State) : Prop :=
  ∀ (s s1 : State) (vs : List W), Operands s srcs d true (if rel then some 3 else none) vs s1 →
    (∀ c, s1.access s1.myCore (arg vs 0) 8 8 = .error c → Ends i s s1 d (s1.raise c (arg vs 0))) ∧
    (∀ t, s1.access s1.myCore (arg vs 0) 8 8 = .ok t → AtHome (Ends i s s1 d) s1 t (.fe op (arg vs 1)) (arg vs 0) done)

/-- The AMO that operands and registers name: width by FMT, the data, e0, the rounding mode, and whether a word result is signed. -/
def State.amoOf (s : State) (op : AmoOp) (vs : List W) (w : Nat) : HomeOp :=
  .amo op w (arg vs 1) (s.eget s.cur 0) (armMode s.me.rm) (fmtOf (arg vs 0) == 4 || (fmtOf (arg vs 0) == 8 && !op.fp))

/-- An AMO with a return value. -/
abbrev Atomic (i : Instr) (d a b : R6) (o : BitVec 2) (op : AmoOp) : Prop :=
  ∀ (s s1 : State) (vs : List W), Operands s [a, b] (some d) true (if o.getLsbD 1 then some 3 else none) vs s1 →
    (∀ c, s1.amoCheck (arg vs 0) op.fp = .error c → Ends i s s1 (some d) (s1.raise c (arg vs 0))) ∧
    (∀ t w, s1.amoCheck (arg vs 0) op.fp = .ok (t, w) → AtHome (Ends i s s1 (some d)) s1 t (s1.amoOf op vs w) (arg vs 0) (toRd d))

/-- An AMO without one: in global space the slot goes on and counts the operation until its acknowledgement (R129). -/
abbrev Reduces (i : Instr) (a b : R6) (o : BitVec 2) (op : AmoOp) : Prop :=
  ∀ (s s1 : State) (vs : List W), Operands s [a, b] none true (if o.getLsbD 1 then some 3 else none) vs s1 →
    (∀ c, s1.amoCheck (arg vs 0) op.fp = .error c → exec i s = .next (s1.raise c (arg vs 0))) ∧
    (∀ t w, s1.amoCheck (arg vs 0) op.fp = .ok (t, w) →
      (isGlobal t.at_ = true → exec i s = .next (((s1.reserve true t.at_ (s1.amoOf op vs w) (arg vs 0)).upd fun sl => { sl with reds := sl.reds + 1 }).retireIrr 4)) ∧
      (isGlobal t.at_ = false → AtHome (Ends i s s1 none) s1 t (s1.amoOf op vs w) (arg vs 0) noRd))

/-- A vector load: the enabled lanes take the elements at the byte offsets off. -/
abbrev LaneLoads (i : Instr) (srcs : List R6) (v : BitVec 5) (m : BitVec 3) (span : Bool) (off : State → List W → Nat → Nat → Int) : Prop :=
  ∀ (s s1 : State) (vs : List W), Operands s srcs none false none vs s1 →
    (∀ c t, s1.lanePieces (arg vs 0) m span 0#512 (off s vs) = .error (c, t) → exec i s = .next (s1.raise c t)) ∧
    (∀ L ps err, s1.lanePieces (arg vs 0) m span 0#512 (off s vs) = .ok (L, ps, err) → LoadParks (fun t => exec i s = .next t) s1 (decide (s1.me.latch.stage ≠ 0)) ps err) ∧
    (∀ L ps, s1.lanePieces (arg vs 0) m span 0#512 (off s vs) = .ok (L, ps, none) → s1.behind (decide (s1.me.latch.stage ≠ 0)) ps = false → s1.allows false ps → s1.replied ps →
      ∃ t, exec i s = .next t ∧ t.cur = s.cur ∧ t.me.pc = s1.me.pc + 4#64 ∧ SameMemory s1 t ∧
        (∀ r, r ≠ v.toNat → t.vget s.cur r = s1.vget s.cur r) ∧ (∀ r, t.xget s.cur r = s1.xget s.cur r) ∧
        ∀ j < 64 / L, lane (t.vget s.cur v.toNat) (8 * L) j =
          match ps.find? fun p => p.part == j with
          | some p => leNat (s1.pieceBytes p)
          | none => lane (s1.vget s.cur v.toNat) (8 * L) j)

/-- A vector store. -/
abbrev LaneStores (i : Instr) (srcs : List R6) (v : BitVec 5) (m : BitVec 3) (span : Bool) (off : State → List W → Nat → Nat → Int) : Prop :=
  ∀ (s s1 : State) (vs : List W), Operands s srcs none false none vs s1 →
    (∀ c t, s1.lanePieces (arg vs 0) m span (s1.vget s.cur v.toNat) (off s vs) = .error (c, t) → exec i s = .next (s1.raise c t)) ∧
    (∀ L ps err, s1.lanePieces (arg vs 0) m span (s1.vget s.cur v.toNat) (off s vs) = .ok (L, ps, err) →
      (ps = [] ∧ err = none → ∃ t, exec i s = .next t ∧ t.me.pc = s1.me.pc + 4#64 ∧ SameMemory s1 t) ∧
      (¬ (ps = [] ∧ err = none) → StoresAt i s s1 4 ps err))

end Sys2Proof.Machine

/-- Table 05-2: widths, extension and addresses of the loads. -/
def Sys2Proof.Rules.LoadResults : Prop := ∀ (d a : R6) (i : BitVec 13) (p q : BitVec 3) (u : BitVec 5),
  Loads (.lb d a i) 4 d a i.toInt 1 (fun v => (BitVec.ofNat 8 v).signExtend 64) ∧ Loads (.lbu d a i) 4 d a i.toInt 1 (BitVec.ofNat 64) ∧
  Loads (.lh d a i) 4 d a i.toInt 2 (fun v => (BitVec.ofNat 16 v).signExtend 64) ∧ Loads (.lhu d a i) 4 d a i.toInt 2 (BitVec.ofNat 64) ∧
  Loads (.lw d a i) 4 d a i.toInt 4 (fun v => (BitVec.ofNat 32 v).signExtend 64) ∧ Loads (.lwu d a i) 4 d a i.toInt 4 (BitVec.ofNat 64) ∧
  Loads (.ld d a i) 4 d a i.toInt 8 (BitVec.ofNat 64) ∧
  Loads (.cLd p q u) 2 (BitVec.ofNat 6 (8 + p.toNat)) (BitVec.ofNat 6 (8 + q.toNat)) (8 * u.toNat : Nat) 8 (BitVec.ofNat 64)

/-- Table 05-2: widths and addresses of the stores. -/
def Sys2Proof.Rules.StoreResults : Prop := ∀ (a b : R6) (i : BitVec 13) (p q : BitVec 3) (u : BitVec 5),
  Stores (.sb a b i) 4 a b i.toInt 1 ∧ Stores (.sh a b i) 4 a b i.toInt 2 ∧ Stores (.sw a b i) 4 a b i.toInt 4 ∧ Stores (.sd a b i) 4 a b i.toInt 8 ∧
  Stores (.cSd p q u) 2 (BitVec.ofNat 6 (8 + q.toNat)) (BitVec.ofNat 6 (8 + p.toNat)) (8 * u.toNat : Nat) 8

/-- The bytes that a load of a place without a message sees: little-endian, the slot's own speculative bytes in front of memory (R8, R251). -/
def Sys2Proof.Rules.LoadBytes : Prop := ∀ (s : State) (p : Piece), p.tgt.remote = false → p.n ≤ 64 → 
  leNat (s.pieceBytes p) < 2 ^ (8 * p.n) ∧
  (∀ j < 8 * p.n, (leNat (s.pieceBytes p)).testBit j = (match s.me.chunk.stores.find (p.tgt.at_ + j / 8) with | some b => b | none => s.byteAt (p.tgt.at_ + j / 8)).getLsbD (j % 8))

/-- The loads: their results, and the bytes they read. Of the model: logs 16, 32 and 47. -/
def Obligations.LoadInstructions : Prop := Rules.LoadResults ∧ Rules.LoadBytes

/-- A local store of y in n bytes: at the address that the pointer and the immediate give, the bytes are those of y, least significant first; every
other byte of memory, every register, the FE bits and the poison of every other word are as they were (R8, R117, R119). -/
def Sys2Proof.Rules.StoreFrame : Prop := ∀ (i : Instr) (a b : R6) (k : BitVec 13) (n : Nat) (s s1 : State) (x y p : W) (t : Tgt),
  (i, n) ∈ [(.sb a b k, 1), (.sh a b k, 2), (.sw a b k, 4), (.sd a b k, 8)] → Operands s [a, b] none false none [x, y] s1 → s1.memWf = true →
  spc x ≠ 7 → ptrAdd x k.toInt = some p → s1.access s1.myCore p n n = .ok t → t.remote = false → isGlobal t.at_ = false → s1.me.chunk.global = false →
  s1.pieceErr true [⟨0, p, t, n, leBytes y.toNat n⟩] ⟨0, p, t, n, leBytes y.toNat n⟩ = none → s1.me.latch.parts.find nearDone = none →
  ∃ s', exec i s = .next s' ∧ s'.cur = s.cur ∧ s'.me.pc = s1.me.pc + 4#64 ∧ s'.memWf = true ∧
    (∀ j < n, s'.byteAt (t.at_ + j) = y.extractLsb' (8 * j) 8) ∧ (∀ c, c < t.at_ ∨ t.at_ + n ≤ c → s'.byteAt c = s1.byteAt c) ∧
    (∀ c, s'.fullAt c = s1.fullAt c) ∧ (∀ c, c / 8 ≠ t.at_ / 8 → s'.poisonAt c = s1.poisonAt c) ∧
    (n = 8 → s'.poisonAt t.at_ = false) ∧ (∀ k r, s'.xget k r = s1.xget k r) ∧ (∀ r, s'.vget s.cur r = s1.vget s.cur r) ∧ SameSlot { s1.me with mons := s'.me.mons } s'.me ∧
    s'.me.fflags = s1.me.fflags ∧ s'.net = s1.net

/-- The stores: their completion, the bytes they write and the frame. Of the model: logs 16, 21, 32 and 47. -/
def Obligations.StoreInstructions : Prop := Rules.StoreResults ∧ Rules.StoreFrame

/-- The pointer checks of R40 and R114, in their order, and where a pointer leads: its home by the placement map, an SPX, TCX or TCR pointer to the
slot's own unit as SPD or TCM (R41), core 7 of a ringmaster's cluster as absent (R5). -/
def Obligations.PointerChecks : Prop := ∀ (s : State) (c : Nat) (p : W) (al n : Nat), c < 1024 → 0 < al →
  let x := s.ctxOf c
  let v := s.vcl c
  let low := fld p 0 (offWidth (spc p))
  let fits := offOf p / 2 ^ fieldsWidth (spc p) = 0
  let vd : Int := if spc p = 5 then (v : Int) + sInt (fld p 21 7) 7 else (fld p 21 7 : Nat)
  (spc p = 7 → s.access c p al n = .error 64) ∧
  (spc p ≠ 7 → ¬ fits → s.access c p al n = .error 65) ∧
  (spc p = 5 → fits → (vd < 0 ∨ vd > 127) → s.access c p al n = .error 67) ∧
  (spc p = 2 → fits → s.place x vd.toNat = none → s.access c p al n = .error 66) ∧
  (spc p = 4 ∨ (spc p = 5 ∧ 0 ≤ vd ∧ vd ≤ 127) → fits → (s.place x vd.toNat = none ∨ ∃ q, s.place x vd.toNat = some q ∧ isRing (q * 8 + fld p 18 3) = true) →
    s.access c p al n = .error 66) ∧
  (spc p = 6 → fits → low ≥ s.winSize x (v / 32) → s.access c p al n = .error 68) ∧
  (∀ a, s.access c p al n = .ok a → spc p ≠ 7 ∧ fits ∧ a.off = low ∧ a.off % al = 0 ∧
    a.off + n ≤ 2 ^ offWidth (spc p) ∧ (spc p = 6 → a.off + n ≤ s.winSize x (v / 32)) ∧
    (isGlobal a.at_ = true ↔ spc p = 0 ∨ spc p = 6) ∧ (spc p = 0 ∨ spc p = 1 ∨ spc p = 3 ∨ spc p = 6 → a.remote = false)) ∧
  (∀ a, s.resolve c p = .ok a → a.off = low ∧ a.width = offWidth (spc p) ∧
    (low % al ≠ 0 → s.access c p al n = .error 79) ∧ (low % al = 0 → low + n > 2 ^ offWidth (spc p) → s.access c p al n = .error 80) ∧
    (low % al = 0 → low + n ≤ 2 ^ offWidth (spc p) → low + n > a.limit → spc p = 6 ∧ s.access c p al n = .error 68) ∧
    (low % al = 0 → low + n ≤ 2 ^ offWidth (spc p) → low + n ≤ a.limit → s.access c p al n = .ok a)) ∧
  (fits → (spc p = 0 → s.resolve c p = .ok ⟨glbAt x 0, low, 52, 2 ^ 52, false, v⟩) ∧ (spc p = 1 → s.resolve c p = .ok ⟨spdBase (c / 8), low, 21, 2 ^ 21, false, v⟩) ∧
    (spc p = 3 → s.resolve c p = .ok ⟨tcmBase c, low, 18, 2 ^ 18, false, v⟩) ∧
    (∀ q, spc p = 2 → s.place x vd.toNat = some q → s.resolve c p = .ok ⟨spdBase q, low, 21, 2 ^ 21, decide (vd.toNat ≠ v), vd.toNat⟩) ∧
    (∀ q, spc p = 4 ∨ (spc p = 5 ∧ 0 ≤ vd ∧ vd ≤ 127) → s.place x vd.toNat = some q → isRing (q * 8 + fld p 18 3) = false →
      s.resolve c p = .ok ⟨tcmBase (q * 8 + fld p 18 3), low, 18, 2 ^ 18, decide (q * 8 + fld p 18 3 ≠ c), vd.toNat⟩))

/-- Table 05-3: which FE instruction performs which operation with which end; those of store type are releases (R122, R140). On a page without FE bits
the granted reservation raises cause 104 and has no effect (R47). -/
def Sys2Proof.Rules.FullEmptyResults : Prop := ∀ d a b : R6,
  FullEmpty (.ldf d a) [a] (some d) false .ldf (toRd d) ∧ FullEmpty (.ldff d a) [a] (some d) false .ldff (toRd d) ∧
  FullEmpty (.ste a b) [a, b] none true .ste noRd ∧ FullEmpty (.stf a b) [a, b] none true .stf noRd ∧
  FullEmpty (.feset a) [a] none true .feset noRd ∧ FullEmpty (.feclr a) [a] none true .feclr noRd ∧
  FullEmpty (.festat d a) [a] (some d) false .festat (toRd d) ∧
  (∀ (s g : State) (n : Nat) (r : Resv) (f : FeOp) (b : W) (t : Trans), s.resv[n]? = some r → r.op = .fe f b → r.red = false → glb0 ≤ r.place →
    (s.resv.take n).all (fun o => o.place / 8 != r.place / 8) = true → s.mirrorHolds r = false → s.walking r.who = false → r.held = false → s.resvMissing r = [] →
    g = s.haveLine (glbCtx r.place) (glbVa r.place) → g.trans (glbCtx r.place) (glbVa r.place) = some t → g.mustWait (some r.k) r.place 8 = false →
    t.deny true true (!modeF r.k) = none → t.kind ≠ 0 ∨ t.fe = false →
    exec (.sliceReservationGrant n) s = .next ({ g with resv := g.resv.eraseIdx n }.raiseAt r.k 104 r.ptr))

/-- Table 05-3, the operations on a word of local memory: what each returns, what becomes of the word and its FE bit, and when it waits. -/
def Sys2Proof.Rules.FullEmptyTable : Prop := ∀ (s : State) (k a : Nat) (b : W), s.memWf = true → a % 8 = 0 → a < glb0 →
  let r (op : FeOp) := (s.homeStep k false a (.fe op b)).1
  let t (op : FeOp) := (s.homeStep k false a (.fe op b)).2
  let word : W := nat (s.num a 8)
  (∀ op, ∀ c, c < a ∨ a + 8 ≤ c → (t op).byteAt c = s.byteAt c ∧ (t op).fullAt c = s.fullAt c ∧ (t op).poisonAt c = s.poisonAt c) ∧
  (s.fullAt a = false → r .ldf = .wait ∧ r .ldff = .wait ∧ ∀ op, op = .ldf ∨ op = .ldff → SameMemory s (t op) ∧
    (∃ w, w = ⟨k, a, op, b, s.beatAt (clockPort a)⟩ ∧ w ∈ (t op).feWait ∧ ((∀ o ∈ s.feWait, o.place = a → o.beat = w.beat → s.tid o.k ≤ s.tid k) → (t op).feWait = s.feWait ++ [w]))) ∧
  (s.fullAt a = true → r .ste = .wait ∧ SameMemory s (t .ste) ∧ ⟨k, a, .ste, b, s.beatAt (clockPort a)⟩ ∈ (t .ste).feWait) ∧
  (s.fullAt a = true → s.poisonAt a = false → r .ldf = .w word ∧ r .ldff = .w word ∧ (t .ldf).fullAt a = false ∧ SameMemory s (t .ldff)) ∧
  (s.poisonAt a = false → r .feset = .w 0#64 ∧ (t .feset).fullAt a = true ∧ r .feclr = .w 0#64 ∧ (t .feclr).fullAt a = false ∧
    r .festat = .w (if s.fullAt a then 1#64 else 0#64) ∧ SameMemory s (t .festat)) ∧
  (∀ op, op = .ldf ∨ op = .feset ∨ op = .feclr → s.poisonAt a = false → (op.needs = some true → s.fullAt a = true) → (t op).num a 8 = s.num a 8) ∧
  (∀ op, op = .stf ∨ (op = .ste ∧ s.fullAt a = false) → r op = .w 0#64 ∧ (t op).num a 8 = b.toNat ∧ (t op).fullAt a = true ∧ (t op).poisonAt a = false) ∧
  (∀ op, op = .feset ∨ op = .feclr ∨ op = .festat ∨ ((op = .ldf ∨ op = .ldff) ∧ s.fullAt a = true) → s.poisonAt a = true →
    r op = .fault 128 none ∧ SameMemory s (t op))

/-- The full-empty instructions, and the step at the home of the word. Of the model: logs 14 and 15. -/
def Obligations.FullEmptyInstructions : Prop := Rules.FullEmptyResults ∧ Rules.FullEmptyTable

/-- Tables 05-4 and 05-5: which AMO performs which operation, with and without a return value (R126, R129). -/
def Sys2Proof.Rules.AtomicResults : Prop := ∀ (d a b : R6) (o : BitVec 2),
  Atomic (.amoadd d a b o) d a b o .add ∧ Atomic (.amoand d a b o) d a b o .and ∧ Atomic (.amoor d a b o) d a b o .or ∧ Atomic (.amoxor d a b o) d a b o .xor ∧
  Atomic (.amomin d a b o) d a b o .min ∧ Atomic (.amomax d a b o) d a b o .max ∧ Atomic (.amominu d a b o) d a b o .minu ∧
  Atomic (.amomaxu d a b o) d a b o .maxu ∧ Atomic (.amoswap d a b o) d a b o .swap ∧ Atomic (.amocas d a b o) d a b o .cas ∧
  Atomic (.amofadd d a b o) d a b o .fadd ∧ Atomic (.amofmin d a b o) d a b o .fmin ∧ Atomic (.amofmax d a b o) d a b o .fmax ∧
  Reduces (.redadd a b o) a b o .add ∧ Reduces (.redand a b o) a b o .and ∧ Reduces (.redor a b o) a b o .or ∧ Reduces (.redxor a b o) a b o .xor ∧
  Reduces (.redmin a b o) a b o .min ∧ Reduces (.redmax a b o) a b o .max ∧ Reduces (.redminu a b o) a b o .minu ∧
  Reduces (.redmaxu a b o) a b o .maxu ∧ Reduces (.redfadd a b o) a b o .fadd ∧ Reduces (.redfmin a b o) a b o .fmin ∧ Reduces (.redfmax a b o) a b o .fmax

/-- The step of an AMO on w bits of local memory (R126): the old value is returned, extended as FMT says, the new one is stored, and nothing
else of memory changes; FADD, FMIN and FMAX compute as the instructions of R108 and R109 do with subnormals exact. -/
def Sys2Proof.Rules.AtomicTable : Prop := ∀ (s t : State) (k a w rm : Nat) (op : AmoOp) (b e0 : W) (sx : Bool) (r : HomeRes), s.memWf = true → a % (w / 8) = 0 → a < glb0 →
  w = 32 ∨ w = 64 → s.poisonAt a = false → s.homeStep k false a (.amo op w b e0 rm sx) = (r, t) →
  let m := s.num a (w / 8)
  let y := b.toNat % 2 ^ w
  r = .w (if w = 32 ∧ sx = true then (BitVec.ofNat 32 m).signExtend 64 else BitVec.ofNat 64 m) ∧
  (∀ c, c < a ∨ a + w / 8 ≤ c → t.byteAt c = s.byteAt c) ∧ (∀ c, t.fullAt c = s.fullAt c) ∧
  (op = .add → t.num a (w / 8) = (m + y) % 2 ^ w) ∧ (op = .swap → t.num a (w / 8) = y) ∧
  (op = .and → t.num a (w / 8) = m &&& y) ∧ (op = .or → t.num a (w / 8) = m ||| y) ∧ (op = .xor → t.num a (w / 8) = m ^^^ y) ∧
  (op = .minu → t.num a (w / 8) = min m y) ∧ (op = .maxu → t.num a (w / 8) = max m y) ∧
  (op = .min → sInt (t.num a (w / 8)) w = min (sInt m w) (sInt y w)) ∧ (op = .max → sInt (t.num a (w / 8)) w = max (sInt m w) (sInt y w)) ∧
  (op = .cas → t.num a (w / 8) = if m = e0.toNat % 2 ^ w then y else m) ∧
  let f := if w = 64 then fp64 else fp32
  (op = .fadd → t.num a (w / 8) = (f.fadd rm false m y).bits % 2 ^ w) ∧
  (op = .fmin → t.num a (w / 8) = (f.fminmax false false m y).bits % 2 ^ w) ∧ (op = .fmax → t.num a (w / 8) = (f.fminmax true false m y).bits % 2 ^ w)

/-- The atomic instructions and reductions, and the step at the home of the word. Of the model: log 14. -/
def Obligations.AtomicInstructions : Prop := Rules.AtomicResults ∧ Rules.AtomicTable

/-- Table 05-7: the vector loads and stores, with consecutive, strided and indexed lanes (R130 to R132). -/
def Sys2Proof.Rules.LaneAccess : Prop := ∀ (v y : BitVec 5) (x z : R6) (m : BitVec 3),
  LaneLoads (.vld v x m) [x] v m true (fun _ _ L j => (L * j : Nat)) ∧ LaneStores (.vst v x m) [x] v m true (fun _ _ L j => (L * j : Nat)) ∧
  LaneLoads (.vlds v x z m) [x, z] v m false (fun _ vs _ j => (arg vs 1).toInt * j) ∧ LaneStores (.vsts v x z m) [x, z] v m false (fun _ vs _ j => (arg vs 1).toInt * j) ∧
  LaneLoads (.vldx v x y m) [x] v m false (fun s _ L j => (L * lane (s.vget s.cur y.toNat) (8 * L) j : Nat)) ∧
  LaneStores (.vstx v x y m) [x] v m false (fun s _ L j => (L * lane (s.vget s.cur y.toNat) (8 * L) j : Nat))

/-- The pieces of a vector access (R131, R132): one for every enabled lane and no other, in lane order, of the lane width that FMT gives, checked
under R114, with the lane's bytes, up to the first lane that a check refuses, whose cause and pointer follow them. Of pieces that can be formed the
first that permission or poison refuses gives the fault. -/
def Sys2Proof.Rules.LanePieces : Prop := ∀ (s : State) (b : W) (m : BitVec 3) (span : Bool) (src : V512) (off : Nat → Nat → Int) (L : Nat) (ps : List Piece)
  (err : Option (Nat × W)), s.lanePieces b m span src off = .ok (L, ps, err) →
  let on := (List.range (64 / L)).filter (fun j => (s.mask s.cur m.toNat).getLsbD j)
  laneBytes (fmtOf b) = some L ∧ ps.map (·.part) = on.take ps.length ∧ (err = none → ps.length = on.length) ∧
  (∀ p ∈ ps, ptrAdd b (off L p.part) = some p.ptr ∧ s.access s.myCore p.ptr L L = .ok p.tgt ∧ p.n = L ∧ p.data = leBytes (lane src (8 * L) p.part) L) ∧
  (∀ c t, err = some (c, t) → ∃ j, on[ps.length]? = some j ∧
    ((spc b = 7 ∧ c = 64 ∧ t = b) ∨ (spc b ≠ 7 ∧ ptrAdd b (off L j) = none ∧ c = 71 ∧ t = b) ∨
      (spc b ≠ 7 ∧ ptrAdd b (off L j) = some t ∧ (s.resolve s.myCore t = .error c ∨ fmtCheck t = .error c ∨ s.access s.myCore t L L = .error c)))) ∧
  (span = true → on ≠ [] → ∃ t, s.access s.myCore b L 64 = .ok t) ∧
  ∀ wr, StopsAt s wr ps err (s.judge wr ps err).ok (s.judge wr ps err).bring (s.judge wr ps err).bad

/-- Vector loads and stores: the instructions and the places of their lanes. Of the model: logs 16, 21, 32, 34 and 47. -/
def Obligations.LaneInstructions : Prop := Rules.LaneAccess ∧ Rules.LanePieces

/-- VLDB, ELD, EST, EMOV and EGET (R133, R134). -/
def Sys2Proof.Rules.BlockAndExtension : Prop := ∀ (v y : BitVec 5) (x d : R6) (m e : BitVec 3) (s s1 : State) (p : W),
  (Operands s [x] none false none [p] s1 →
    let vi := s1.vget s.cur y.toNat
    (∀ c t, s1.vldbCheck p (nat (lane vi 64 1)) (lane vi 64 0) = some (c, t) → exec (.vldb v x y m) s = .next (s1.raise c t)) ∧
    (s1.vldbCheck p (nat (lane vi 64 1)) (lane vi 64 0) = none → exec (.vldb v x y m) s = .next (s1.vldb v m p (nat (lane vi 64 1)) (lane vi 64 0))) ∧
    (∀ c t, s1.extPieces p (fun _ => []) = .error (c, t) → exec (.eld x) s = .next (s1.raise c t)) ∧
    (∀ ps, s1.extPieces p (fun _ => []) = .ok ps → LoadParks (fun t => exec (.eld x) s = .next t) s1 (decide (s1.me.latch.stage ≠ 0)) ps none) ∧
    (∀ ps, s1.extPieces p (fun _ => []) = .ok ps → s1.behind (decide (s1.me.latch.stage ≠ 0)) ps = false → s1.allows false ps → s1.replied ps → ∃ t, exec (.eld x) s = .next t ∧ t.me.pc = s1.me.pc + 4#64 ∧ SameMemory s1 t ∧
      ps.length = 8 ∧ (∀ j < 8, ∃ q ∈ ps, ptrAdd p (8 * j : Nat) = some q.ptr ∧ s1.access s1.myCore q.ptr 8 8 = .ok q.tgt ∧ t.eget s.cur j = nat (leNat (s1.pieceBytes q)))) ∧
    (∀ ps, s1.extPieces p (fun j => leBytes (s1.eget s.cur j).toNat 8) = .ok ps → StoresAt (.est x) s s1 4 ps) ∧
    (∃ t, exec (.emov e x) s = .next t ∧ t.me.pc = s1.me.pc + 4#64 ∧ t.eget s.cur e.toNat = p ∧ (∀ r, r ≠ e.toNat → t.eget s.cur r = s1.eget s.cur r) ∧
      (∀ r, t.xget s.cur r = s1.xget s.cur r) ∧ SameMemory s1 t)) ∧
  (Operands s [] (some d) false none [] s1 → Ends (.eget d e) s s1 (some d) (s1.effect 4 (some d) (.ok { val := s1.eget s.cur e.toNat })))

/-- The lanes of VLDB for the plain formats, for INT4 and for the block formats (R51, R52, R56, R133): lane j is element n0 + j, rounded to FP32 (exactly,
where FP32 holds it); disabled lanes keep their value. -/
def Sys2Proof.Rules.BlockLanes : Prop := ∀ (s : State) (v : BitVec 5) (m : BitVec 3) (b x : W) (n0 : Nat) (rs : List Range) (ps : List Piece), fmtOf b ≤ 22 →
  rs = (if 12 ≤ fmtOf b ∧ fmtOf b ≤ 16 then [n0 / 8, n0 / 8 + 1].flatMap fun q => [(false, mxScale (fmtOf b) q, 1), (false, mxData (fmtOf b) q, (mxFmt (fmtOf b)).bits)]
    else if fmtOf b = 22 then [(false, n0 / 2, 8)] else [(false, n0 * plainBytes (fmtOf b), 16 * plainBytes (fmtOf b))]) →
  ¬ (17 ≤ fmtOf b ∧ fmtOf b ≤ 20) → allPieces (s.rangePieces b x 0 rs) = .ok ps → s.behind (decide (s.me.latch.stage ≠ 0)) ps = false → s.allows false ps → s.replied ps →
  ∃ byte : Nat → Byte, (∀ z o n, (z, o, n) ∈ rs → ∀ i < n, ∃ p ∈ ps, ptrAdd b ((o + i / 64 * 64 : Nat) : Int) = some p.ptr ∧ (s.pieceBytes p)[i % 64]? = some (byte (o + i))) ∧
    let rd (o n : Nat) := leNat ((List.range n).map fun i => byte (o + i))
    ∀ t, t = s.vldb v m b x n0 → t.me.pc = s.me.pc + 4#64 ∧ SameMemory s t ∧ ∀ j < 16, lane (t.vget s.cur v.toNat) 32 j =
      if (s.mask s.cur m.toNat).getLsbD j then
        (fp32.round 0 (if 12 ≤ fmtOf b ∧ fmtOf b ≤ 16 then
            blockValue (mxFmt (fmtOf b)) (mxBlock (fmtOf b) rd (n0 / 8 + j / 8)).1 ((mxBlock (fmtOf b) rd (n0 / 8 + j / 8)).2.getD (j % 8) 0)
          else plainValue (fmtOf b) (plainCode (fmtOf b) rd (n0 + j)))).bits % 2 ^ 32
      else lane (s.vget s.cur v.toNat) 32 j

/-- The lanes of VLDB for KEF8 (17), SP24 (18), SP24B (19) and BMP8 (20), for arrays in the core's TCM (R59 to R62, R133): an entry of the strip table
that is no multiple of 4, or a bad metadata nibble, is a fault with a TVAL that is not stated (log 5); a malformed strip is cause 74 with the
strip's address; else lane j is element n0 + j, and disabled lanes keep their value. -/
def Sys2Proof.Rules.BlockCompressed : Prop := ∀ (s : State) (v : BitVec 5) (m : BitVec 3) (b x : W) (n0 : Nat), n0 % 8 = 0 → s.me.latch.parts = [] →
  let f := fmtOf b
  let rd := s.tcmNum b
  let aux := s.tcmNum x
  let s0 := if s.me.latch.stage ≠ 0 then s else s.markRead []
  let lanes (g : Nat → FV) := ∃ t, s.vldb v m b x n0 = t ∧ t.me.pc = s.me.pc + 4#64 ∧ SameMemory s t ∧ ∀ j < 16, lane (t.vget s.cur v.toNat) 32 j =
    if (s.mask s.cur m.toNat).getLsbD j then (fp32.round 0 (g j)).bits % 2 ^ 32 else lane (s.vget s.cur v.toNat) 32 j
  (∀ ts offs : List Nat, f = 17 → ts = (if n0 % 256 = 248 then [n0 / 256, n0 / 256 + 1] else [n0 / 256]) → s.tcmHolds x (4 * (n0 / 256) + 4 * ts.length) →
    offs = ts.map (fun t => aux (4 * t) 4) →
    ((∃ o ∈ offs, o % 4 ≠ 0) → s.vldb v m b x n0 = s0.raiseOpen 76) ∧
    ((∀ o ∈ offs, o % 4 = 0 ∧ s.tcmHolds b (o + 4)) →
      (∀ o, offs.find? (fun o => (kefLength (rd o 4)).isNone) = some o → s.vldb v m b x n0 = s0.raise 74 (stripAt b o)) ∧
      ((∀ o ∈ offs, ∃ len, kefLength (rd o 4) = some len ∧ s.tcmHolds b (o + len)) →
        let strip (o : Nat) := kefStrip (rd o 4) ((List.range (rd o 2 - 4)).map fun i => rd (o + 4 + i) 1)
        (∀ o, offs.find? (fun o => (strip o).isNone) = some o → s.vldb v m b x n0 = s0.raise 74 (stripAt b o)) ∧
        ((∀ o ∈ offs, (strip o).isSome = true) → lanes fun j =>
          let q := ((strip (offs.getD ((n0 + j) / 256 - n0 / 256) 0)).getD []).getD ((n0 + j) % 256 / 8) (0, [])
          blockValue e4m3 q.1 (q.2.getD ((n0 + j) % 8) 0))))) ∧
  (∀ w, (f = 18 ∧ w = 1) ∨ (f = 19 ∧ w = 2) → s.tcmHolds b (n0 / 2 * w + 8 * w) → s.tcmHolds x (8 * (n0 / 64) + if n0 % 64 = 56 then 16 else 8) →
    ((∃ i < 4, spBad (spNibble aux (n0 / 4 + i)) = true) → s.vldb v m b x n0 = s0.raiseOpen 75) ∧
    ((∀ i < 4, spBad (spNibble aux (n0 / 4 + i)) = false) → lanes fun j => spValue f rd aux (n0 + j))) ∧
  (f = 20 → s.tcmHolds b (unitAt rd (n0 / 64 + if n0 % 64 = 56 then 2 else 1)) → lanes fun j => bmpValue rd (unitAt rd ((n0 + j) / 64)) ((n0 + j) % 64))

/-- Block loads of a vector, and operand-extension transfers. Of the model: logs 5, 33, 79 and 96. -/
def Obligations.BlockInstructions : Prop := Rules.BlockAndExtension ∧ Rules.BlockLanes ∧ Rules.BlockCompressed

/-- The SYNC group (R135 to R139): what each instruction does at once, and what it parks for. -/
def Sys2Proof.Rules.SyncResults : Prop := ∀ (d a b : R6) (s s1 : State) (p : W),
  (s.me.chunk.global = true → ∀ i ∈ [Instr.fence b, .ccut, .quiesce b, .yield, .cYield], exec i s = .next (s.parkRe .parkMem .commit)) ∧
  (s.me.chunk.global = false → s1 = s.chunkDone s.cur →
    (released s1.me (s1.vcl s1.myCore) b.toNat = true → exec (.fence b) s = .next (s1.retireIrr 4)) ∧
    (released s1.me (s1.vcl s1.myCore) b.toNat = false → exec (.fence b) s = .next (s1.park .parkMem (.fence b.toNat))) ∧
    exec .ccut s = .next (s1.retireIrr 4) ∧
    exec .yield s = .next ((s1.upd fun sl => { sl with hold := 1 }).retireIrr 4) ∧ exec .cYield s = .next ((s1.upd fun sl => { sl with hold := 1 }).retireIrr 2) ∧
    (s1.me.latch.res = none → exec (.quiesce b) s = .next (s1.joinParade b.toNat)) ∧ (s1.me.latch.res.isSome = true → exec (.quiesce b) s = .next (s1.retireIrr 4))) ∧
  (Operands s [a] (some d) true none [p] s1 →
    (∀ c, s1.access s1.myCore p 1 1 = .error c → Ends (.monarm d a) s s1 (some d) (s1.raise c p)) ∧
    (∀ t, s1.access s1.myCore p 1 1 = .ok t → (t.remote = true → Ends (.monarm d a) s s1 (some d) (s1.raise 82 p)) ∧
      (t.remote = false → (∀ i, s1.me.monFree = some i → Ends (.monarm d a) s s1 (some d) (((s1.undoable d (.mons [] [i])).upd fun sl => { sl with mons := sl.mons.put i { block := lineOf t.at_ } }).finish true 4 d (nat i))) ∧
        (s1.me.monFree = none → Ends (.monarm d a) s s1 (some d) (s1.finish true 4 d (BitVec.allOnes 64)))))) ∧
  (Operands s [a] none true none [p] s1 →
    (a = 0#6 → exec (.monclr a) s = .next ((s1.upd fun sl => { sl with mons := [] }).retireIrr 4)) ∧
    (a ≠ 0#6 → (∀ c, s1.access s1.myCore p 1 1 = .error c → exec (.monclr a) s = .next (s1.raise c p)) ∧
      (∀ t, s1.access s1.myCore p 1 1 = .ok t → exec (.monclr a) s =
        .next ((s1.upd fun sl => { sl with mons := sl.mons.filter fun m => m.2.block ≠ lineOf t.at_ }).retireIrr 4)))) ∧
  (Operands s [] (some d) true none [] s1 →
    (s1.me.latch.res = none → s1.me.monHits ≠ 0 ∨ s1.me.mons = [] → Ends (.monwait d) s s1 (some d) (s1.monReturn d 0#64)) ∧
    (s1.me.latch.res = none → s1.me.monHits = 0 → s1.me.mons ≠ [] → Ends (.monwait d) s s1 (some d) (s1.park .parkMon (.monitor (s1.core s1.myCore).cyc))) ∧
    (∀ v, s1.me.latch.res = some v → Ends (.monwait d) s s1 (some d) (s1.monReturn d (asW v)) ∧ Ends (.waitmsg d) s s1 (some d) (s1.finish true 4 d (asW v))) ∧
    (s1.me.latch.res = none → s1.mailCount s1.cur ≠ 0 → Ends (.waitmsg d) s s1 (some d) (s1.finish true 4 d (nat (s1.mailCount s1.cur)))) ∧
    (s1.me.latch.res = none → s1.mailCount s1.cur = 0 → Ends (.waitmsg d) s s1 (some d) { s1.park .parkMsg (.message (s1.core s1.myCore).cyc s1.serial false) with serial := s1.serial + 1 }))

/-- A monitor is triggered by every write that takes effect on its block, by whomever (R137). -/
def Sys2Proof.Rules.MonitorTriggers : Prop := ∀ (s : State) (by_ : Option Nat) (remote : Bool) (a : Nat) (data : List Byte) (k i : Nat) (m : Monitor), (s.slots.map (·.1)).Pairwise (· < ·) →
  (s.slot k).mons.find i = some m → (linesOf a data.length).contains m.block = true → ((s.homeWrite by_ remote a data).slot k).mons.find i = some { m with hit := true }

/-- Fences, monitors and waits, and what a write does to a monitor. Of the model: log 9. -/
def Obligations.SyncInstructions : Prop := Rules.SyncResults ∧ Rules.MonitorTriggers

/-! Vectors -/

namespace Sys2Proof.Machine

/-- What a vector instruction leaves as it was, apart from vector register r of the issuing slot and FFLAGS. -/
structure OnlyV (s t : State) (r : Nat) : Prop where
  cur : t.cur = s.cur
  pc : t.me.pc = s.me.pc + 4#64
  v : ∀ k r', k ≠ s.cur ∨ r' ≠ r → t.vget k r' = s.vget k r'
  x : ∀ k r', t.xget k r' = s.xget k r'
  m : ∀ k r', t.mget k r' = s.mget k r'
  e : ∀ k r', t.eget k r' = s.eget k r'
  mem : SameMemory s t
  units : SameUnits s t

/-- The lanes of width w that a vector register holds after an instruction that writes it. -/
abbrev LanesAre (i : Instr) (v : BitVec 5) (w : Nat) (f : State → Nat → Nat) : Prop :=
  ∀ s : State, ∃ t, exec i s = .next t ∧ OnlyV s t v.toNat ∧ t.me.fflags = s.me.fflags ∧ ∀ j < 512 / w, lane (t.vget s.cur v.toNat) w j = f s j

/-- Lane j of the issuing slot's vector register r. -/
def State.ln (s : State) (r : BitVec 5) (w j : Nat) : Nat := lane (s.vget s.cur r.toNat) w j

/-- Enabled lanes take f; the others keep their value (R170). -/
abbrev Masked (i : Instr) (v : BitVec 5) (m : BitVec 3) (w : Nat) (f : State → Nat → Nat) : Prop :=
  LanesAre i v w fun s j => if s.on m j then f s j else s.ln v w j

/-- An integer lane instruction on a, b and the old destination. -/
abbrev LaneInt (i : Instr) (v a b : BitVec 5) (m : BitVec 3) (w : Nat) (f : Nat → Nat → Nat → Nat) : Prop :=
  Masked i v m w fun s j => f (s.ln a w j) (s.ln b w j) (s.ln v w j)

/-- A slot that neither parks for the normaliser nor traps: FTZ = 1 or the normaliser has served it, and UE = 0 (R67, R111). -/
def State.quiet (s : State) : Prop := (s.me.ftz = true ∨ s.me.latch.res.isSome = true) ∧ s.me.ue = false

/-- An FP lane instruction (R171, R172, R174): PARK-NORM for a subnormal in an enabled lane, the trap of the lowest lane that raised the reported
flag, and otherwise every enabled lane's result and the flags of all of them. -/
abbrev LaneFp (i : Instr) (v : BitVec 5) (m : BitVec 3) (w : Nat) (f : State → Nat → FRes) : Prop :=
  ∀ s : State,
    let en := (List.range (512 / w)).filter (s.on m)
    let fl := orAll (en.map fun j => (f s j).flags)
    let sub := en.any fun j => (f s j).sub
    (sub = true → s.me.ftz = false → s.me.latch.res = none → exec i s = .next s.parkNorm) ∧
    (sub = false ∨ s.me.ftz = true ∨ s.me.latch.res.isSome = true →
      (∀ c, s.me.fpTrap fl = some c → ∃ l, l ∈ en ∧ (f s l).flags.testBit (164 - c) = true ∧ (∀ j ∈ en, j < l → (f s j).flags.testBit (164 - c) = false) ∧
        exec i s = .next (s.raise c (nat (fl + 256 * l)))) ∧
      (s.me.fpTrap fl = none → ∃ t, exec i s = .next t ∧ OnlyV s t v.toNat ∧ t.me.fflags = s.me.fflags ||| nat (fl % 32) ∧
        ∀ j < 512 / w, lane (t.vget s.cur v.toNat) w j = if s.on m j then (f s j).bits % 2 ^ w else s.ln v w j))

/-- An FP lane instruction that computes r of a, b and the old destination in the lane format of ty. -/
abbrev LaneFpOp (i : Instr) (v a b : BitVec 5) (m : BitVec 3) (t : BitVec 2) (r : Fmt → Nat → Bool → Nat → Nat → Nat → FRes) : Prop :=
  LaneFp i v m (tyF t).bits fun s j => r (tyF t) s.me.rm s.me.ftz (s.ln a (tyF t).bits j) (s.ln b (tyF t).bits j) (s.ln v (tyF t).bits j)

/-- What an instruction leaves that writes one mask register. -/
structure OnlyM (s t : State) (r : Nat) : Prop where
  cur : t.cur = s.cur
  pc : t.me.pc = s.me.pc + 4#64
  v : ∀ k r', t.vget k r' = s.vget k r'
  x : ∀ k r', t.xget k r' = s.xget k r'
  m : ∀ k r', k ≠ s.cur ∨ r' ≠ r → t.mget k r' = s.mget k r'
  mem : SameMemory s t
  units : SameUnits s t

/-- A mask result, bit by bit. -/
abbrev MaskIs (i : Instr) (d : BitVec 3) (f : State → Nat → Bool) : Prop :=
  ∀ s : State, ∃ t, exec i s = .next t ∧ OnlyM s t d.toNat ∧ t.me.fflags = s.me.fflags ∧ ∀ j < 64, (t.mget s.cur d.toNat).getLsbD j = f s j

/-- An integer compare: enabled lanes only. -/
abbrev Compares (i : Instr) (d : BitVec 3) (a b : BitVec 5) (m : BitVec 3) (w : Nat) (f : Nat → Nat → Bool) : Prop :=
  MaskIs i d fun s j => decide (j < 512 / w) && (s.on m j && f (s.ln a w j) (s.ln b w j))

/-- An FP compare in a quiet slot. -/
abbrev ComparesFp (i : Instr) (d : BitVec 3) (a b : BitVec 5) (m : BitVec 3) (t : BitVec 2) (op : Nat) : Prop :=
  ∀ s : State, s.quiet → ∃ u, exec i s = .next u ∧ OnlyM s u d.toNat ∧ ∀ j < 64, (u.mget s.cur d.toNat).getLsbD j =
    (decide (j < 512 / (tyF t).bits) && (s.on m j && ((tyF t).fcmp op s.me.ftz (s.ln a (tyF t).bits j) (s.ln b (tyF t).bits j)).bits == 1))

/-- A conversion in a quiet slot: element j goes to lane j of width w, the lanes behind the last element are 0 (R182). -/
abbrev Converts (i : Instr) (v : BitVec 5) (w : Nat) (f : State → List FRes) : Prop :=
  ∀ s : State, s.quiet → ∃ t, exec i s = .next t ∧ OnlyV s t v.toNat ∧ t.me.fflags = s.me.fflags ||| nat (orAll ((f s).map (·.flags)) % 32) ∧
    ∀ j < 512 / w, lane (t.vget s.cur v.toNat) w j = (((f s).map (·.bits)).getD j 0) % 2 ^ w

/-- The elements at lanes from_ to from_ + n − 1 of register a in format q, under FTZ. -/
def State.els (s : State) (a : BitVec 5) (q : Fmt) (from_ n : Nat) : List (FV × Bool) :=
  (List.range n).map fun j => (q.valueFtz s.me.ftz (s.ln a q.bits (from_ + j)), q.wide && q.subnormal (s.ln a q.bits (from_ + j)))

end Sys2Proof.Machine

/-- Table 07-2: the integer lane instructions. -/
def Obligations.VectorInt : Prop := ∀ (v a b : BitVec 5) (m : BitVec 3) (t : BitVec 2),
  let w := tyW t
  let sg (x : Nat) : Int := sInt x w
  LaneInt (.vadd v a b m t) v a b m w (fun x y _ => (x + y) % 2 ^ w) ∧ LaneInt (.vsub v a b m t) v a b m w (fun x y _ => (x + 2 ^ w - y) % 2 ^ w) ∧
  LaneInt (.vmul v a b m t) v a b m w (fun x y _ => x * y % 2 ^ w) ∧ LaneInt (.vmad v a b m t) v a b m w (fun x y d => (x * y + d) % 2 ^ w) ∧
  LaneInt (.vmin v a b m t) v a b m w (fun x y _ => if sg x ≤ sg y then x else y) ∧ LaneInt (.vmax v a b m t) v a b m w (fun x y _ => if sg y ≤ sg x then x else y) ∧
  LaneInt (.vminu v a b m t) v a b m w (fun x y _ => min x y) ∧ LaneInt (.vmaxu v a b m t) v a b m w (fun x y _ => max x y) ∧
  LaneInt (.vabs v a m t) v a a m w (fun x _ _ => if sg x < 0 then 2 ^ w - x else x) ∧ LaneInt (.vneg v a m t) v a a m w (fun x _ _ => (2 ^ w - x) % 2 ^ w) ∧
  LaneInt (.vand v a b m t) v a b m w (fun x y _ => x &&& y) ∧ LaneInt (.vor v a b m t) v a b m w (fun x y _ => x ||| y) ∧
  LaneInt (.vxor v a b m t) v a b m w (fun x y _ => x ^^^ y) ∧ LaneInt (.vandn v a b m t) v a b m w (fun x y _ => x &&& (2 ^ w - 1 - y)) ∧
  LaneInt (.vnot v a m t) v a a m w (fun x _ _ => 2 ^ w - 1 - x) ∧ LaneInt (.vshl v a b m t) v a b m w (fun x y _ => x <<< (y % w) % 2 ^ w) ∧
  LaneInt (.vshr v a b m t) v a b m w (fun x y _ => x >>> (y % w)) ∧
  LaneInt (.vsra v a b m t) v a b m w (fun x y _ => ((sg x / (2 ^ (y % w) : Nat)) % (2 ^ w : Nat)).toNat)

/-- Tables 07-3 and 07-4: the FP lane instructions; VFABS and VFNEG touch every lane and raise nothing (R174, R175).
Of the model: logs 19 and 81. -/
def Obligations.VectorFp : Prop := ∀ (v a b : BitVec 5) (m : BitVec 3) (t : BitVec 2),
  LaneFpOp (.vfadd v a b m t) v a b m t (fun f rm z x y _ => f.fadd rm z x y) ∧ LaneFpOp (.vfsub v a b m t) v a b m t (fun f rm z x y _ => f.fsub rm z x y) ∧
  LaneFpOp (.vfmul v a b m t) v a b m t (fun f rm z x y _ => f.fmul rm z x y) ∧ LaneFpOp (.vfma v a b m t) v a b m t (fun f rm z x y d => f.fma rm z x y d) ∧
  LaneFpOp (.vfmin v a b m t) v a b m t (fun f _ z x y _ => f.fminmax false z x y) ∧ LaneFpOp (.vfmax v a b m t) v a b m t (fun f _ z x y _ => f.fminmax true z x y) ∧
  LaneFpOp (.vexp2b v a m t) v a a m t (fun f _ z x _ _ => trans 0 f z x) ∧ LaneFpOp (.vrcpb v a m t) v a a m t (fun f _ z x _ _ => trans 1 f z x) ∧
  LaneFpOp (.vrsqb v a m t) v a a m t (fun f _ z x _ _ => trans 2 f z x) ∧
  LanesAre (.vfabs v a t) v (tyF t).bits (fun s j => (tyF t).fabs (s.ln a (tyF t).bits j) % 2 ^ (tyF t).bits) ∧
  LanesAre (.vfneg v a t) v (tyF t).bits (fun s j => (tyF t).fneg (s.ln a (tyF t).bits j) % 2 ^ (tyF t).bits)

/-- Tables 07-5 and 07-6: the compares and the mask instructions; bits of disabled lanes and above the lanes are 0 (R176, R177). -/
def Sys2Proof.Rules.VectorMasks : Prop := ∀ (d p q : BitVec 3) (v a b x : BitVec 5) (m : BitVec 3) (t : BitVec 2),
  let w := tyW t
  Compares (.vceq d a b m t) d a b m w (fun x y => x == y) ∧ Compares (.vcne d a b m t) d a b m w (fun x y => x != y) ∧
  Compares (.vclt d a b m t) d a b m w (fun x y => sInt x w < sInt y w) ∧ Compares (.vcle d a b m t) d a b m w (fun x y => sInt x w ≤ sInt y w) ∧
  Compares (.vcltu d a b m t) d a b m w (fun x y => x < y) ∧ ComparesFp (.vfceq d a b m t) d a b m t 0 ∧ ComparesFp (.vfclt d a b m t) d a b m t 1 ∧
  ComparesFp (.vfcle d a b m t) d a b m t 2 ∧
  MaskIs (.mand d p q) d (fun s j => (s.mget s.cur p.toNat).getLsbD j && (s.mget s.cur q.toNat).getLsbD j) ∧
  MaskIs (.mor d p q) d (fun s j => (s.mget s.cur p.toNat).getLsbD j || (s.mget s.cur q.toNat).getLsbD j) ∧
  MaskIs (.mnot d p) d (fun s j => !(s.mget s.cur p.toNat).getLsbD j) ∧
  LanesAre (.vsel v a b m t) v w (fun s j => if s.on m j then s.ln a w j else s.ln b w j) ∧
  (∀ s : State, ∃ u, exec (.mpopc x p m t) s = .next u ∧ u.me.pc = s.me.pc + 4#64 ∧ SameMemory s u ∧ (∀ k r, u.vget k r = s.vget k r ∧ u.mget k r = s.mget k r) ∧
    (∀ r, r ≠ x.toNat → u.xget s.cur r = s.xget s.cur r) ∧
    (x ≠ 0#5 → x ≠ 31#5 → u.xget s.cur x.toNat = nat ((List.range (512 / w)).countP fun j => (s.mget s.cur p.toNat).getLsbD j && s.on m j)))

/-- Table 07-7: moves and permutes (R178). -/
def Sys2Proof.Rules.VectorMoves : Prop := ∀ (v a b x y : BitVec 5) (m : BitVec 3) (t : BitVec 2),
  let w := tyW t
  let n := 512 / w
  Masked (.vbcast v x m t) v m w (fun s _ => (s.xget s.cur x.toNat).toNat % 2 ^ w) ∧
  LanesAre (.vins v x y t) v w (fun s j => if j = (s.xget s.cur y.toNat).toNat % n then (s.xget s.cur x.toNat).toNat % 2 ^ w else s.ln v w j) ∧
  Masked (.vperm v a b m t) v m w (fun s j => s.ln a w (s.ln b w j % n)) ∧
  Masked (.vslide v a y m t) v m w (fun s j => if 0 ≤ (j : Int) + (s.xget s.cur y.toNat).toInt ∧ (j : Int) + (s.xget s.cur y.toNat).toInt < n
    then s.ln a w ((j : Int) + (s.xget s.cur y.toNat).toInt).toNat else 0) ∧
  LanesAre (.viota v m t) v w (fun s j => (List.range j).countP (s.on m)) ∧
  (∀ s : State, ∃ u, exec (.vcompress v a m t) s = .next u ∧ OnlyV s u v.toNat ∧
    (∀ j < n, s.on m j = true → u.ln v w ((List.range j).countP (s.on m)) = s.ln a w j) ∧
    (∀ j < n, (List.range n).countP (s.on m) ≤ j → u.ln v w j = 0)) ∧
  (∀ s : State, ∃ u, exec (.vext x a y t) s = .next u ∧ u.me.pc = s.me.pc + 4#64 ∧ SameMemory s u ∧ (∀ k r, u.vget k r = s.vget k r ∧ u.mget k r = s.mget k r) ∧
    (∀ r, r ≠ x.toNat → u.xget s.cur r = s.xget s.cur r) ∧
    (x ≠ 0#5 → x ≠ 31#5 → u.xget s.cur x.toNat = nat (s.ln a w ((s.xget s.cur y.toNat).toNat % n))))

/-- Mask registers and moves between lanes. -/
def Obligations.MaskInstructions : Prop := Rules.VectorMasks ∧ Rules.VectorMoves

/-- R179 and R181: the integer reductions and scans. -/
def Sys2Proof.Rules.VectorReductions : Prop := ∀ (v a b : BitVec 5) (m : BitVec 3) (t : BitVec 2),
  let w := tyW t
  let n := 512 / w
  LanesAre (.vredadd v a m t) v w (fun s j => if j = 0 then (((List.range n).filter (s.on m)).map (s.ln a w)).sum % 2 ^ w else 0) ∧
  (∀ s : State, ∃ u, exec (.vredmax v a m t) s = .next u ∧ OnlyV s u v.toNat ∧ (∀ j, 0 < j → j < n → u.ln v w j = 0) ∧
    ((∀ j < n, s.on m j = false) → u.ln v w 0 = 2 ^ (w - 1)) ∧
    (∀ j < n, s.on m j = true → sInt (s.ln a w j) w ≤ sInt (u.ln v w 0) w) ∧
    ((∃ j < n, s.on m j = true) → ∃ j < n, s.on m j = true ∧ u.ln v w 0 = s.ln a w j)) ∧
  LanesAre (.vscan v a b m t) v w (fun s j => if s.on m j then (s.ln b w 0 + (((List.range (j + 1)).filter (s.on m)).map (s.ln a w)).sum) % 2 ^ w else s.ln v w j) ∧
  (∀ s : State, ∃ u, exec (.vsegscan v a b m t) s = .next u ∧ OnlyV s u v.toNat ∧ ∀ j < n, u.ln v w j =
    if s.on m j then s.ln a w j else ((if j = 0 then s.ln b w 0 else u.ln v w (j - 1)) + s.ln a w j) % 2 ^ w)

/-- R180 and R181 in a quiet slot: the fixed tree of the FP reductions, level by level, and the FP scans, lane by lane. -/
def Sys2Proof.Rules.VectorFpReductions : Prop := ∀ (v a b : BitVec 5) (m : BitVec 3) (t : BitVec 2) (s : State), s.quiet →
  let f := tyF t
  let n := 512 / f.bits
  let leaf (j : Nat) : Nat := f.ftzCode s.me.ftz (s.ln a f.bits j)
  let tree (i : Instr) (op : Nat → Nat → FRes) (none_ : Nat) : Prop :=
    ∃ (u : State) (T : Nat → Nat → Option Nat), exec i s = .next u ∧ OnlyV s u v.toNat ∧ (∀ j < n, T 0 j = if s.on m j then some (leaf j) else none) ∧
      (∀ l j, j < n / 2 ^ (l + 1) → T (l + 1) j = match T l (2 * j), T l (2 * j + 1) with | some x, some y => some (op x y).bits | some x, none => some x | none, y => y) ∧
      (∀ j, 0 < j → j < n → u.ln v f.bits j = 0) ∧
      u.ln v f.bits 0 = (match T (Nat.log2 n) 0 with | none => none_ | some x => if (f.value x).isNan then f.canon else x) % 2 ^ f.bits
  let head (x : Nat) : Nat := if (f.value x).isNan then f.canon else f.ftzCode s.me.ftz x
  tree (.vfredadd v a m t) (f.fadd s.me.rm s.me.ftz) 0 ∧ tree (.vfredmax v a m t) (f.fminmax true s.me.ftz) (f.infCode true) ∧
  (∃ (u : State) (c : Nat → Nat), exec (.vfscan v a b m t) s = .next u ∧ OnlyV s u v.toNat ∧ c 0 = s.ln b f.bits 0 ∧ ∀ j < n,
    (s.on m j = true → c (j + 1) = (f.fadd s.me.rm s.me.ftz (c j) (s.ln a f.bits j)).bits ∧ u.ln v f.bits j = c (j + 1) % 2 ^ f.bits) ∧
    (s.on m j = false → c (j + 1) = c j ∧ u.ln v f.bits j = s.ln v f.bits j)) ∧
  (∃ (u : State) (c : Nat → Nat), exec (.vfsegscan v a b m t) s = .next u ∧ OnlyV s u v.toNat ∧ c 0 = s.ln b f.bits 0 ∧ ∀ j < n,
    c (j + 1) = (if s.on m j then head (s.ln a f.bits j) else (f.fadd s.me.rm s.me.ftz (c j) (s.ln a f.bits j)).bits) ∧ u.ln v f.bits j = c (j + 1) % 2 ^ f.bits)

/-- Reductions over the lanes of a vector. -/
def Obligations.ReductionInstructions : Prop := Rules.VectorReductions ∧ Rules.VectorFpReductions

/-- R182 to R186 in a quiet slot: the conversions, the block quantiser and its inverse, packing and unpacking. -/
def Obligations.VectorConversions : Prop := ∀ (v a b c h : BitVec 5) (r : BitVec 3) (t : BitVec 2),
  let mode (s : State) : Nat := if r = 7#3 then s.me.rm else r.toNat
  let q := (vcvtFmts c.toNat).1
  let d := (vcvtFmts c.toNat).2
  let n := 512 / max q.bits d.bits
  Converts (.vcvt v a c r t) v d.bits (fun s => convGroup d (mode s) s.me.ftz (s.els a q 0 n)) ∧
  Converts (.vcvti v a c r t) v (vcvtiFmts c.toNat).2.2 (fun s =>
    let (q, sg, w) := vcvtiFmts c.toNat
    (s.els a q 0 (512 / max q.bits w)).map fun x =>
      let i : Int × Nat := x.1.toInt (mode s) (if sg then -(2 ^ (w - 1) : Nat) else 0) (if sg then (2 ^ (w - 1) : Nat) - 1 else (2 ^ w : Nat) - 1)
      ({ bits := (i.1 % ((2 ^ w : Nat) : Int)).toNat, flags := i.2, sub := x.2 } : FRes)) ∧
  Converts (.vcvtf v a c r t) v (vcvtfFmts c.toNat).2.2.bits (fun s =>
    let (sg, w, d) := vcvtfFmts c.toNat
    convGroup d (mode s) s.me.ftz ((List.range (512 / max w d.bits)).map fun j => (FV.ofInt (if sg then sInt (s.ln a w j) w else s.ln a w j), false))) ∧
  Converts (.vdeq v a c r) v 32 (fun s => (List.range 16).map fun j => fp32.result (armMode (mode s)) s.me.ftz
    (blockValue (quantFmt c.toNat) (s.ln a 8 (j / 8)) (bitsOf (s.vget s.cur a.toNat).toNat (64 + (quantFmt c.toNat).bits * j) (quantFmt c.toNat).bits)) 0) ∧
  (let q := if t = 0#2 then fp32 else bf16
   let d := if t = 0#2 then bf16 else e4m3
   Converts (.vpack v a b r t) v d.bits (fun s => convGroup d (mode s) s.me.ftz (s.els a q 0 (512 / q.bits) ++ s.els b q 0 (512 / q.bits)))) ∧
  (let q := if t = 1#2 then bf16 else e4m3
   let d := if t = 1#2 then fp32 else bf16
   h.toNat ≤ 1 → Converts (.vunpk v a h r t) v d.bits (fun s => convGroup d 0 s.me.ftz (s.els a q (512 / d.bits * h.toNat) (512 / d.bits)))) ∧
  (∀ s : State, s.quiet → ∃ u, exec (.vquant v a c r) s = .next u ∧ OnlyV s u v.toNat ∧ ∀ i < 2,
    let f := quantFmt c.toNat
    let qb := quantise f (mode s) (FV.zero false) ((s.els a fp32 (8 * i) 8).map (·.1))
    u.ln v 8 i = qb.scale % 256 ∧ ∀ j < 8, bitsOf (u.vget s.cur v.toNat).toNat (64 + f.bits * (8 * i + j)) f.bits = qb.codes.getD j 0 % 2 ^ f.bits)

/-! Tasks, counters, groups and loop nests -/

namespace Sys2Proof.Machine

/-- The record that SPAWN and SPAWNL send for target word t (R142, R143). -/
def State.spawnRec (s : State) (r : R6) (t : W) (reply : Option Nat) : TaskRec := { s.recAt r with reply := reply, pri := fld t 48 2 }

/-- What a launch to target t does once nothing stops it: to the issuing core itself it arrives in the issuing turn, else it is sent. -/
abbrev Spawns (E : State → Prop) (s1 : State) (rec : TaskRec) (t : W) (after : State → State) : Prop :=
  (∀ c v, s1.targetFault (s1.ctxOf s1.myCore) rec.w0 t = some (c, v) → E (s1.raise c v)) ∧
  (s1.targetFault (s1.ctxOf s1.myCore) rec.w0 t = none →
    (s1.niqLen s1.myCore ≥ 8 → E (s1.parkRe .parkMem .niq)) ∧
    (s1.niqLen s1.myCore < 8 →
      (t.getLsbD 47 = true ∨ s1.coreAt (s1.ctxOf s1.myCore) (fld t 32 10) ≠ some s1.myCore →
        E ((after s1).sendRec (s1.ctxOf s1.myCore) s1.myCore rec t (fld (s1.eget s1.cur 0) 0 16))) ∧
      (t.getLsbD 47 = false → s1.coreAt (s1.ctxOf s1.myCore) (fld t 32 10) = some s1.myCore →
        (∀ u, (after s1.stampMe).arrive s1.myCore rec = some u → E u) ∧
        ((after s1.stampMe).arrive s1.myCore rec = none → E ((after s1).sendRec (s1.ctxOf s1.myCore) s1.myCore rec t (fld (s1.eget s1.cur 0) 0 16))))))

/-- A wait for one reply. -/
def awaits (st : SlotSt) (w : Wait) (s : State) : State := (s.upd fun sl => { sl with latch := { sl.latch with left := 1 } }).park st w

/-- A counter instruction on the counter that n names (R145 to R147): in the own cluster's bank at once, by a request to another. -/
abbrev AtBank (E : State → Prop) (s1 : State) (n : W) (op : BankOp) (done : V512 → State → State) : Prop :=
  (∀ v, s1.me.latch.res = some v → E (done v s1)) ∧
  (s1.me.latch.res = none →
    (fld n 17 47 ≠ 0 ∨ s1.place (s1.ctxOf s1.myCore) (fld n 10 7) = none → E (s1.raise 225 n)) ∧
    (∀ p, fld n 17 47 = 0 → s1.place (s1.ctxOf s1.myCore) (fld n 10 7) = some p →
      (p ≠ cluOf s1.cur → E (awaits .parkMem .reply (s1.send (s1.ctxOf s1.myCore) s1.myCore (portBank p) (.bank s1.cur n.toNat op)))) ∧
      (p = cluOf s1.cur → ∀ u,
        (∀ v, (s1.stamp (portBank p) (s1.tid s1.cur)).bankStep p (s1.ctxOf s1.myCore) (s1.tid s1.cur) (fld n 0 10) op = (.ok v, u) → E (done v u)) ∧
        (∀ c, (s1.stamp (portBank p) (s1.tid s1.cur)).bankStep p (s1.ctxOf s1.myCore) (s1.tid s1.cur) (fld n 0 10) op = (.error c, u) → E (u.raise c n)))))

/-- A request to the unit of the group that n names (R148, R149). -/
abbrev AtGroup (E : State → Prop) (s1 : State) (n : W) (op : GroupOp) (st : SlotSt) (w : Wait) (done : V512 → State → State) : Prop :=
  (∀ v, s1.me.latch.res = some v → E (done v s1)) ∧
  (s1.me.latch.res = none → fld n 10 54 ≠ 0 → E (s1.raise 228 n)) ∧
  (s1.me.latch.res = none → fld n 10 54 = 0 → E (awaits st w (s1.send (s1.ctxOf s1.myCore) s1.myCore (portGroup (s1.ctxOf s1.myCore) (fld n 8 2)) (.group s1.cur (s1.ctxOf s1.myCore) n.toNat op))))

/-- An operation at the home of the queue that handle h names (R156 to R159). -/
abbrev AtQueue (E : State → Prop) (s1 : State) (h : W) (op : QCtlOp) (done : V512 → State → State) : Prop :=
  (∀ v, s1.me.latch.res = some v → E (done v s1)) ∧
  (s1.me.latch.res = none →
    (s1.homeCore (s1.ctxOf s1.myCore) h = none → E (s1.raise 197 h)) ∧
    (∀ c, s1.homeCore (s1.ctxOf s1.myCore) h = some c →
      (c ≠ s1.myCore → E (awaits .parkMem .reply (s1.send (s1.ctxOf s1.myCore) s1.myCore c (.qctl s1.cur h op)))) ∧
      (c = s1.myCore → ∀ u, (∀ v, s1.qCtlStep s1.cur h op = (.ok v, u) → E (done v u)) ∧
        (∀ e, s1.qCtlStep s1.cur h op = (.error e, u) → E (u.raise e h)))))

/-- The same through end d of the core: an unbound end is cause 192, one that a stream holds cause 200 where `held` (R158, R161). -/
abbrev AtEnd (E : State → Prop) (s1 : State) (d : R6) (held : Bool) (op : QCtlOp) (done : V512 → State → State) : Prop :=
  (∀ v, s1.me.latch.res = some v → E (done v s1)) ∧
  (s1.me.latch.res = none → s1.qend d = none → E (s1.raiseOpen 192)) ∧
  (∀ e, s1.me.latch.res = none → s1.qend d = some e →
    (held = true → e.stream = true → E (s1.raise 200 e.h)) ∧ (held = false ∨ e.stream = false → AtQueue E s1 e.h op done))

/-- A MAT operation (R188, R191): the checks in their order, then the launch, and rd when it completes. -/
abbrev Launches (i : Instr) (d : R6) (kind : Nat) (check : State → MatReq → Option (Nat × Nat)) (go : State → MatReq → State) : Prop :=
  ∀ s s1 : State, Operands s [] (some d) true (some 3) [] s1 →
    (∀ v, s1.me.latch.res = some v → Ends i s s1 (some d) (s1.finish true 4 d (asW v))) ∧
    (∀ c j, s1.me.latch.res = none → check s1 (s1.matReq kind) = some (c, j) → Ends i s s1 (some d) (s1.raise c (nat j))) ∧
    (s1.me.latch.res = none → check s1 (s1.matReq kind) = none → Ends i s s1 (some d) (go s1 (s1.matReq kind)))

/-- The launch of a copy or indirect operation (R220 to R222): the checks, the ticket, the request. -/
abbrev StartsEngine (i : Instr) (d : R6) (kind : Nat) : Prop :=
  ∀ s s1 : State, Operands s [] (some d) true (some 3) [] s1 →
    let r := s1.engReq kind
    (∀ c j, s1.engCheck s1.myCore r = some (c, j) → Ends i s s1 (some d) (s1.raise c (nat j))) ∧
    (s1.engCheck s1.myCore r = none →
      (r.ticket ∈ (s1.core s1.myCore).live → Ends i s s1 (some d) (s1.parkRe .parkEng (.ticket r.ticket))) ∧
      (r.ticket ∉ (s1.core s1.myCore).live →
        (s1.niqLen s1.myCore ≥ 8 → Ends i s s1 (some d) (s1.parkRe .parkMem .niq)) ∧
        (s1.niqLen s1.myCore < 8 → Ends i s s1 (some d) (((s1.send r.ctx s1.myCore (s1.engTarget r) (.engine r)).modCore s1.myCore fun c =>
          { c with ticket := if r.ticket ≥ 65535 then 1 else r.ticket + 1, live := c.live ++ [r.ticket] }).finish true 4 d (nat r.ticket)))))

/-- A byte-barrier instruction (R230). -/
abbrev Barrier (E : State → Prop) (s1 : State) (p b : W) (ok : Prop) (op : HomeOp) (done : V512 → State → State) : Prop :=
  (spc p ≠ 1 → spc p ≠ 2 → E (s1.raise 290 p)) ∧
  (spc p = 1 ∨ spc p = 2 → (∀ c, s1.access s1.myCore p 8 8 = .error c → E (s1.raise c p)) ∧
    (∀ t, s1.access s1.myCore p 8 8 = .ok t → (¬ ok → E (s1.raise 295 b)) ∧ (ok → AtHome E s1 t op p done)))

/-- A residency instruction (R238): its request goes to the slice of its key's entry, and the slot waits. -/
abbrev Residency (E : State → Prop) (d : R6) (s1 : State) (key : W) (op : Nat) (w : W) : Prop :=
  (fld key 36 28 ≠ 0 → E (s1.raise 320 key)) ∧
  (fld key 36 28 = 0 → (∀ v, s1.me.latch.res = some v → E (s1.finish true 4 d (asW v))) ∧
    (s1.me.latch.res = none → E (awaits .parkMem .reply (s1.sendExpert key op w))))

/-- What a release at the bank of cluster p leaves (R146): the record goes to the target that T names, as a released one; a target that fails its check
discards it, and a record of cause 224 goes to the bank's die, with SRC 5, the bank's cluster and T. The position among a group's members is not
stated (log 22). -/
def Releases (s t : State) (p x src : Nat) (r : TaskRec) (T : W) : Prop :=
  (s.targetFault x r.w0 T ≠ none → t.net = s.net ∧ t.frFlight = s.frFlight ++ [(p / 32, ⟨recWord0 5 false false 224 src x, T, 0#64, nat (p * 128)⟩)]) ∧
  (s.targetFault x r.w0 T = none → ∀ r' : TaskRec, r' = { r with rel := true, src := src, reply := none, pri := fld T 48 2, ctx := x } → t.frFlight = s.frFlight ∧
    (T.getLsbD 47 = false → ∀ c, s.coreAt x (fld T 32 10) = some c → t.net = s.net ++ [⟨engIf p, c, .task r', x, none⟩]) ∧
    (T.getLsbD 47 = true → ∃ e0, t.net = s.net ++ [⟨engIf p, portGroup x (fld T 40 2), .group (engIf p) x (fld T 32 10) (.spawn r' e0), x, none⟩]))

/-- The answers of a completed generation n of the group `name` to the slots ks. -/
def told (x name n : Nat) (ks : List Nat) : List Msg :=
  ks.map fun k => ⟨portGroup x (name / 256), coreOf k, .reply k 0 (.val (BitVec.ofNat 512 n)), x, none⟩

/-- What becomes of the group that stands as g (R149). While a member has not arrived, or while there is neither member nor pending member, it stands so.
Otherwise its generation completes: the parked arrivals are answered with its number, pending members become members, leavers are removed, and the
arrivals of pending members count in the next generation, which completes in its turn where they are all of its members. -/
def GroupTurns (s t : State) (x name : Nat) (g : Group) : Prop :=
  let new := (g.members ++ g.pending).filter fun j => j ∉ g.leavers
  (∀ n, n ≠ name → (t.ctx x).groups.find n = (s.ctx x).groups.find n) ∧ t.slots = s.slots ∧
  ((∃ m ∈ g.members, m ∉ g.arrived) ∨ (g.members = [] ∧ g.pending = []) → t.net = s.net ∧ (t.ctx x).groups.find name = some g) ∧
  ((g.members ≠ [] ∧ ∀ m ∈ g.members, m ∈ g.arrived) ∨ (g.members = [] ∧ g.pending ≠ []) →
    ((∃ m ∈ new, m ∉ g.early) ∨ new = [] → t.net = s.net ++ told x name g.gen g.parked ∧
      (t.ctx x).groups.find name = some { gen := (g.gen + 1) % 2 ^ 32, members := new, arrived := g.early, parked := g.early }) ∧
    (new ≠ [] → (∀ m ∈ new, m ∈ g.early) → t.net = s.net ++ told x name g.gen g.parked ++ told x name ((g.gen + 1) % 2 ^ 32) g.early ∧
      (t.ctx x).groups.find name = some { gen := (g.gen + 2) % 2 ^ 32, members := new }))

/-- A list with k in it once. -/
def withK (l : List Nat) (k : Nat) : List Nat := if k ∈ l then l else l ++ [k]

/-- The end of an instruction that only reads: its value goes to rd. -/
def readRd (d : R6) (v : V512) (s : State) : State := s.pure.finish true 4 d (asW v)

end Sys2Proof.Machine

/-- SPAWN, SPAWNL and QUIT (R142 to R144). -/
def Sys2Proof.Rules.TaskResults : Prop := ∀ (d r t : R6) (s s1 : State) (w : W),
  (Operands s [t] none true (some 3) [w] s1 → s1.me.latch.res = none → Spawns (Ends (.spawn r t) s s1 none) s1 (s1.spawnRec r w none) w (fun u => u.retireIrr 4)) ∧
  (Operands s [t] (some d) true (some 3) [w] s1 →
    (∀ v, s1.me.latch.res = some v → Ends (.spawnl d r t) s s1 (some d) (s1.finish true 4 d (asW v))) ∧
    (s1.me.latch.res = none → Spawns (Ends (.spawnl d r t) s s1 (some d)) s1 (s1.spawnRec r w (some s1.cur)) w (awaits .parkMem .reply))) ∧
  (s.me.chunk.global = true → exec .quit s = .next (s.parkRe .parkMem .commit)) ∧
  (s.me.chunk.global = false → s1 = s.chunkDone s.cur →
    (released s1.me (s1.vcl s1.myCore) 3 = false → exec .quit s = .next (s1.parkRe .parkMem (.acks 3))) ∧
    (released s1.me (s1.vcl s1.myCore) 3 = true → exec .quit s = .next (s1.freeSlot s1.cur)))

/-- Where a record goes (R273 to R275, R278): while an unreserved FREE slot exists a record that is no release waits to land, else it is pushed at the
bottom of the deque, which takes 64, and a SPAWNL that sent it is told PUSHED. -/
def Sys2Proof.Rules.TaskArrival : Prop := ∀ (s : State) (c : Nat) (r : TaskRec),
  (r.rel = false → s.unreserved c ≠ [] → ∃ t, s.arrive c r = some t ∧ (t.core c).arrived = (s.core c).arrived ++ [r] ∧ (t.core c).deque = (s.core c).deque ∧ t.slots = s.slots ∧ t.net = s.net) ∧
  (r.rel = true ∨ s.unreserved c = [] → (64 ≤ (s.core c).deque.length → s.arrive c r = none) ∧
    ((s.core c).deque.length < 64 → ∃ t, s.arrive c r = some t ∧ (t.core c).deque = (s.core c).deque ++ [{ r with reply := none }] ∧
      (t.core c).arrived = (s.core c).arrived ∧ (r.reply = none → t.slots = s.slots ∧ t.net = s.net) ∧
      (∀ j, r.reply = some j → (coreOf j = c → (t.slot j).latch.res = some (BitVec.ofNat 512 (2 ^ 62)) ∧ (t.slot j).st = .run ∧ j ∈ t.replay) ∧
        (coreOf j ≠ c → t.net = s.net ++ [⟨c, coreOf j, .reply j 0 (.val (BitVec.ofNat 512 (2 ^ 62))), r.ctx, none⟩]))))

/-- The landing of a record in slot k (R22, R143): RUN at word 0, x1 to x3 from the record, every other register zero, every system register at its reset
value; a SPAWNL that sent the record is told LANDED and the slot. -/
def Sys2Proof.Rules.TaskLanding : Prop := ∀ (s t : State) (r : TaskRec) (k : Nat), t = s.land k r →
  (r.reply ≠ some k → (t.slot k).st = .run ∧ (t.slot k).pc = r.w0 ∧ t.xget k 1 = r.w1 ∧ t.xget k 2 = r.w2 ∧ t.xget k 3 = r.w3 ∧
    (∀ i, 3 < i → i ≠ 31 → t.xget k i = 0#64) ∧ t.xget k 31 = nat (t.tid k) ∧ (∀ i, t.vget k i = 0#512 ∧ t.mget k i = 0#64 ∧ t.eget k i = 0#64) ∧
    (∀ n, n ≠ 9 → n ≠ 10 → n ≠ 11 → t.slotReg k n = 0#64) ∧ t.slotReg k 9 = 512#64 ∧ t.slotReg k 10 = nat (t.ctxOf (coreOf k)) ∧ t.slotReg k 11 = nat (k % 16 * 16 + 1) ∧
    (t.slot k).mons = [] ∧ (t.slot k).chunk.global = false) ∧
  (∀ m ∈ (t.core (coreOf k)).mail, m.dest ≠ some (k % 16)) ∧ (∀ m ∈ (s.core (coreOf k)).mail, m.dest ≠ some (k % 16) → m ∈ (t.core (coreOf k)).mail) ∧
  (r.reply = none → ∀ j, j ≠ k → t.slot j = s.slot j) ∧
  (∀ j, r.reply = some j → let v : V512 := BitVec.ofNat 512 ((2 ^ 63 + s.tid k) % 2 ^ 64)
    (coreOf j = coreOf k → (t.slot j).latch.res = some v ∧ (t.slot j).st = .run ∧ j ∈ t.replay) ∧
    (coreOf j ≠ coreOf k → t.net = s.net ++ [⟨coreOf k, coreOf j, .reply j 0 (.val v), r.ctx, none⟩]))

/-- Spawning and ending tasks, and the landing of a record. Of the model: logs 14, 23 and 72. -/
def Obligations.TaskInstructions : Prop := Rules.TaskResults ∧ Rules.TaskArrival ∧ Rules.TaskLanding

/-- DINIT, DARM, DBIND, DDEC and DSTAT (R145, R146). -/
def Sys2Proof.Rules.CounterResults : Prop := ∀ (d a b : R6) (s s1 : State) (n w : W),
  (Operands s [a, b] none true (some 3) [n, w] s1 →
    AtBank (Ends (.dinit a b) s s1 none) s1 n (.dinit (fld w 0 32)) noRd ∧
    (s1.me.latch.res = none →
      (fld n 17 47 ≠ 0 ∨ s1.place (s1.ctxOf s1.myCore) (fld n 10 7) = none → exec (.darm d a b) s = .next (s1.raise 225 n) ∧ exec (.dbind d a b) s = .next (s1.raise 225 n)) ∧
      (fld n 17 47 = 0 → s1.place (s1.ctxOf s1.myCore) (fld n 10 7) ≠ none → ∀ c t, s1.targetFault (s1.ctxOf s1.myCore) (s1.recAt d).w0 w = some (c, t) →
        exec (.darm d a b) s = .next (s1.raise c t) ∧ exec (.dbind d a b) s = .next (s1.raise c t))) ∧
    (s1.targetFault (s1.ctxOf s1.myCore) (s1.recAt d).w0 w = none →
      AtBank (Ends (.darm d a b) s s1 none) s1 n (.darm (s1.recAt d) w) noRd ∧
      AtBank (Ends (.dbind d a b) s s1 none) s1 n (.dbind (s1.recAt d) w) (fun v u =>
        ((List.range 4).foldl (fun u i => u.xset u.cur (d.toNat % 32 + i) (nat (lane v 64 i))) u).retireIrr 4))) ∧
  (Operands s [a] none true (some 3) [n] s1 → AtBank (Ends (.ddec a) s s1 none) s1 n .ddec noRd) ∧
  (Operands s [a] (some d) true none [n] s1 → AtBank (Ends (.dstat d a) s s1 (some d)) s1 n .dstat (toRd d))

/-- The step of a counter (R146): creation, the dependence that reaches zero before or after its record is bound, a record bound to a counter that has
fired, releases, the causes 226 and 227, and the word of DSTAT. -/
def Sys2Proof.Rules.CounterTable : Prop := ∀ (s t : State) (p x src i n : Nat) (r : TaskRec) (w : W) (res : Except Nat V512),
  let k := Tbl.get {} (s.clu p).bank i
  let k' := Tbl.get {} (t.clu p).bank i
  Tbl.wf {} (s.clu p).bank = true →
  (s.bankStep p x src i (.dinit n) = (res, t) → (k.st ≠ 0 → res = .error 226 ∧ t = s) ∧ (k.st = 0 → res = .ok 0#512 ∧ k'.count = n ∧ k'.st = if n = 0 then 3 else 1)) ∧
  (s.bankStep p x src i .ddec = (res, t) →
    (k.st = 0 → res = .error 226 ∧ t = s) ∧ (k.st ≠ 0 → k.count = 0 → res = .error 227 ∧ t = s) ∧
    (k.st ≠ 0 → 1 < k.count → res = .ok 0#512 ∧ k'.count = k.count - 1 ∧ k'.st = k.st ∧ k'.task = k.task ∧ k'.t = k.t ∧ t.net = s.net) ∧
    (k.st ≠ 0 → k.st ≠ 2 → k.count = 1 → res = .ok 0#512 ∧ k'.count = 0 ∧ k'.st = 3 ∧ t.net = s.net) ∧
    (k.st = 2 → k.count = 1 → res = .ok 0#512 ∧ k'.st = 0 ∧ Releases s t p x src k.task k.t)) ∧
  (s.bankStep p x src i (.dbind r w) = (res, t) → (k.st = 0 → res = .error 226 ∧ t = s) ∧
    (k.st = 1 → res = .ok 0#512 ∧ k'.st = 2 ∧ k'.count = k.count ∧ k'.task = r ∧ k'.t = w ∧ t.net = s.net) ∧
    (k.st = 2 → res = .ok k.task.words ∧ k'.st = 2 ∧ k'.task = r ∧ k'.t = w ∧ k'.count = k.count ∧ t.net = s.net) ∧
    (k.st = 3 → res = .ok 0#512 ∧ k'.st = 0 ∧ Releases s t p x src r w)) ∧
  (s.bankStep p x src i (.darm r w) = (res, t) → (k.st ≠ 0 → res = .error 226 ∧ t = s) ∧
    (k.st = 0 → fld w 0 32 ≠ 0 → res = .ok 0#512 ∧ k'.st = 2 ∧ k'.count = fld w 0 32 ∧ k'.task = r ∧ k'.t = w ∧ t.net = s.net) ∧
    (k.st = 0 → fld w 0 32 = 0 → res = .ok 0#512 ∧ k'.st = 0 ∧ Releases s t p x src r w)) ∧
  (s.bankStep p x src i .dstat = (res, t) → t = s ∧ (k.st < 4 → k.count < 2 ^ 32 →
    res = .ok ((BitVec.ofNat 2 k.st ++ 0#12 ++ (if k.st = 2 then k.t.extractLsb' 32 18 else 0#18) ++ BitVec.ofNat 32 k.count).setWidth 512))) ∧
  (∀ op j, s.bankStep p x src i op = (res, t) → j ≠ i → Tbl.get {} (t.clu p).bank j = Tbl.get {} (s.clu p).bank j)

/-- Dependence counters: the instructions, and the step at the bank. Of the model: log 22. -/
def Obligations.CounterInstructions : Prop := Rules.CounterResults ∧ Rules.CounterTable

/-- The GROUP instructions (R148, R149). -/
def Sys2Proof.Rules.GroupResults : Prop := ∀ (d a : R6) (s s1 : State) (n : W),
  (Operands s [] (some d) true none [] s1 → AtGroup (Ends (.gnew d) s s1 (some d)) s1 (nat (s1.vcl s1.myCore / 32 * 256)) .gnew .parkMem .reply
    fun v u => (u.undoable d (.group (u.ctxOf u.myCore) (asW v).toNat)).finish true 4 d (asW v)) ∧
  (Operands s [a] none true none [n] s1 → AtGroup (Ends (.gjoin a) s s1 none) s1 n .gjoin .parkMem .reply noRd ∧ AtGroup (Ends (.gfree a) s s1 none) s1 n .gfree .parkMem .reply noRd) ∧
  (Operands s [a] none true (some 3) [n] s1 → AtGroup (Ends (.gleave a) s s1 none) s1 n .gleave .parkMem .reply noRd) ∧
  (Operands s [a] (some d) true (some 3) [n] s1 → AtGroup (Ends (.gbar d a) s s1 (some d)) s1 n .gbar .parkBar .group (toRd d))

/-- The step of a group unit (R148): GNEW takes the lowest free group of its die (log 24) or gives cause 229; of an unallocated group the others give cause 228.
GJOIN makes the slot a pending member, cause 230 where it belongs to some group; GLEAVE notes its leaving and its arrival, cause 231 for a stranger;
GFREE frees a group with no members, else cause 232. -/
def Sys2Proof.Rules.GroupTable : Prop := ∀ (s t : State) (k x name : Nat) (op : GroupOp) (r : Option (Except Nat V512)), s.groupStep k x name op = (r, t) →
  let at_ (j : Nat) := (s.ctx x).groups.find (name / 256 * 256 + j)
  (op = .gnew → ((∀ j < 256, (at_ j).isSome = true) → r = some (.error 229) ∧ t = s) ∧
    (∀ j < 256, at_ j = none → (∀ i < j, (at_ i).isSome = true) → r = some (.ok (BitVec.ofNat 512 (name / 256 * 256 + j))) ∧ t.slots = s.slots ∧ t.net = s.net ∧
      (t.ctx x).groups.find (name / 256 * 256 + j) = some {} ∧ ∀ n, n ≠ name / 256 * 256 + j → (t.ctx x).groups.find n = (s.ctx x).groups.find n)) ∧
  ((s.ctx x).groups.find name = none → op = .gjoin ∨ op = .gleave ∨ op = .gbar ∨ op = .gfree → r = some (.error 228) ∧ t = s) ∧
  (∀ g, (s.ctx x).groups.find name = some g →
    (op = .gjoin → ((∃ n h, (n, h) ∈ (s.ctx x).groups ∧ (k ∈ h.members ∨ k ∈ h.pending)) → r = some (.error 230) ∧ t = s) ∧
      ((∀ n h, (n, h) ∈ (s.ctx x).groups → k ∉ h.members ∧ k ∉ h.pending) → r = some (.ok 0#512) ∧ GroupTurns s t x name { g with pending := g.pending ++ [k] })) ∧
    (op = .gleave → (k ∉ g.members → k ∉ g.pending → r = some (.error 231) ∧ t = s) ∧
      (k ∈ g.members ∨ k ∈ g.pending → r = some (.ok 0#512) ∧ GroupTurns s t x name { g with leavers := withK g.leavers k, arrived := withK g.arrived k })) ∧
    (op = .gfree → (g.members ≠ [] ∨ g.pending ≠ [] → r = some (.error 232) ∧ t = s) ∧
      (g.members = [] → g.pending = [] → ((s.ctx x).groups.map (·.1)).Pairwise (· < ·) → r = some (.ok 0#512) ∧ (t.ctx x).groups.find name = none ∧ t.net = s.net ∧ t.slots = s.slots ∧
        ∀ n, n ≠ name → (t.ctx x).groups.find n = (s.ctx x).groups.find n)))

/-- A group barrier (R149): a member's arrival is noted and may complete the generation; a pending member's is kept for the next one; that of any other slot
is cause 231. -/
def Sys2Proof.Rules.GroupBarrier : Prop := ∀ (s t : State) (k x name : Nat) (g : Group) (r : Option (Except Nat V512)),
  (s.ctx x).groups.find name = some g → s.groupStep k x name .gbar = (r, t) →
  (k ∈ g.members → r = none ∧ GroupTurns s t x name { g with arrived := withK g.arrived k, parked := withK g.parked k }) ∧
  (k ∉ g.members → k ∈ g.pending → r = none ∧ t.net = s.net ∧ t.slots = s.slots ∧ (t.ctx x).groups.find name = some { g with early := withK g.early k }) ∧
  (k ∉ g.members → k ∉ g.pending → r = some (.error 231) ∧ t = s)

/-- Groups: the instructions, the steps of their unit, and the barrier. Of the model: log 24. -/
def Obligations.GroupInstructions : Prop := Rules.GroupResults ∧ Rules.GroupTable ∧ Rules.GroupBarrier

/-- ITERI and NEXT (R107, R151, R152): binding a nest, the index tuple of the current claim, the claim at the descriptor's home, and the end of the nest. -/
def Sys2Proof.Rules.NestResults : Prop := ∀ (a : R6) (i : BitVec 13) (s s1 : State) (p : W),
  (Operands s [a] none true none [p] s1 →
    (p = 0#64 → exec (.iteri a) s = .next ((s1.upd fun sl => { sl with nestp := 0#64, nestc := 0#64, iter := none }).retireIrr 4)) ∧
    (p ≠ 0#64 → (∀ c, s1.access s1.myCore p 64 64 = .error c → exec (.iteri a) s = .next (s1.raise c p)) ∧
      (∀ t, s1.access s1.myCore p 64 64 = .ok t → (3 ≤ spc p → spc p ≤ 5 → exec (.iteri a) s = .next ((s1.upd fun sl => { sl with iter := none }).raise 234 p)) ∧
        (¬ (3 ≤ spc p ∧ spc p ≤ 5) → ∀ q : Piece, q = ⟨0, p, { t with off := t.off + 8 }, 48, []⟩ → s1.behind true [q] = false → s1.allows false [q] → s1.replied [q] → ∀ w : List Nat,
          w = (List.range 6).map (fun j => leNat (((s1.pieceBytes q).drop (8 * j)).take 8)) →
          (nestOf w = none → exec (.iteri a) s = .next ((s1.upd fun sl => { sl with iter := none }).raise 234 p)) ∧
          (∀ it, nestOf w = some it → exec (.iteri a) s = .next ((s1.upd fun sl => { sl with iter := some it, nestp := p, nestc := 0#64 }).retireIrr 4)))))) ∧
  (s.me.nestp = 0#64 → exec (.next i) s = .next (s.retire 4)) ∧
  (s.me.nestp ≠ 0#64 → s.me.iter = none → exec (.next i) s = .next (s.raise 234 s.me.nestp)) ∧
  (∀ it, s.me.nestp ≠ 0#64 → s.me.iter = some it →
    (fld s.me.nestc 40 24 ≠ 0 → exec (.next i) s = .next ((s.nextStep it (fld s.me.nestc 40 24) (fld s.me.nestc 0 40)).retireTo (s.me.pc + BitVec.ofInt 64 (2 * i.toInt)))) ∧
    (fld s.me.nestc 40 24 = 0 → s.me.chunk.global = true → exec (.next i) s = .next (s.parkRe .parkMem .commit)) ∧
    (fld s.me.nestc 40 24 = 0 → s.me.chunk.global = false → s1 = s.chunkDone s.cur →
      (∀ e, s1.access s1.myCore s.me.nestp 64 64 = .error e → exec (.next i) s = .next (s1.raise e s.me.nestp)) ∧
      (∀ t, s1.access s1.myCore s.me.nestp 64 64 = .ok t → AtHome (Ends (.next i) s s1 none) s1 t (.claim (it.g * it.p) it.total) s.me.nestp
        (fun v u => if fld (asW v) 0 24 = 0 then u.retireIrr 4 else (u.nextStep it (fld (asW v) 0 24) (lane v 64 1)).retireIrrTo (s.me.pc + BitVec.ofInt 64 (2 * i.toInt))))))

/-- The loop step (R107): x24 to x27 take the index tuple of the linear index, extent 0 fastest, and NESTC moves on by one; and the claim (R152): a
share of what remains, at least one and at most 2^24 − 1 iterations. -/
def Sys2Proof.Rules.NestSteps : Prop := ∀ (s t : State) (it : Iter) (left idx : Nat),
  (t = s.nextStep it left idx → t.xget s.cur 24 = nat (idx % it.e0) ∧ t.xget s.cur 25 = nat (idx / it.e0 % it.e1) ∧ t.xget s.cur 26 = nat (idx / it.e0 / it.e1 % it.e2) ∧
    t.xget s.cur 27 = nat (idx / it.e0 / it.e1 / it.e2 % it.e3) ∧ (∀ r, r < 24 ∨ 27 < r → t.xget s.cur r = s.xget s.cur r) ∧
    (1 ≤ left → left < 2 ^ 24 → fld t.me.nestc 40 24 = left - 1 ∧ fld t.me.nestc 0 40 = (idx + 1) % 2 ^ 40) ∧ t.me.nestp = s.me.nestp) ∧
  (∀ (k a gp total : Nat) (r : HomeRes), s.memWf = true → a % 8 = 0 → a < glb0 → s.poisonAt a = false → s.homeStep k false a (.claim gp total) = (r, t) →
    let old := s.num a 5
    (old = 0 → r = .val 0#512 ∧ SameMemory s t) ∧
    (old ≠ 0 → 1 ≤ gp → ∃ n, 1 ≤ n ∧ n ≤ old ∧ n < 2 ^ 24 ∧ (n < 2 ^ 24 - 1 → old ≤ n * gp ∧ (n = 1 ∨ (n - 1) * gp < old)) ∧ t.num a 5 = old - n ∧
      (∀ c, c < a ∨ a + 5 ≤ c → t.byteAt c = s.byteAt c) ∧ (old ≤ total → total < 2 ^ 40 → r = .val (BitVec.ofNat 512 (n + 2 ^ 64 * (total - old))))))

/-- Loop nests: the instructions, the claim and the loop step. Of the model: logs 14, 72 and 98. -/
def Obligations.NestInstructions : Prop := Rules.NestResults ∧ Rules.NestSteps

/-! Queues -/

/-- The QUEUE instructions and BTOK (R106, R153 to R160). -/
def Sys2Proof.Rules.QueueResults : Prop := ∀ (d a b : R6) (i : BitVec 13) (s s1 : State) (h w : W),
  (Operands s [] (some d) true none [] s1 →
    (qnewCheck (s1.eget s1.cur 0) (s1.eget s1.cur 1) (s1.eget s1.cur 2) (s1.eget s1.cur 3) = none → Ends (.qnew d) s s1 (some d) (s1.raiseOpen 193)) ∧
    (∀ r, qnewCheck (s1.eget s1.cur 0) (s1.eget s1.cur 1) (s1.eget s1.cur 2) (s1.eget s1.cur 3) = some r →
      ((∀ j < 64, (s1.queue (cluOf s1.cur * 64 + j)).alloc = true) → Ends (.qnew d) s s1 (some d) (s1.raiseOpen 194)) ∧
      (∀ j < 64, (s1.queue (cluOf s1.cur * 64 + j)).alloc = false → (∀ l < j, (s1.queue (cluOf s1.cur * 64 + l)).alloc = true) → ∃ u,
        u = (s1.undoable d (.record (cluOf s1.cur * 64 + j) (s1.queue (cluOf s1.cur * 64 + j)).gen)).modQueue (cluOf s1.cur * 64 + j) (fun o => { r with gen := o.gen, home := s1.myCore % 8 }) ∧
        Ends (.qnew d) s s1 (some d) (u.finish true 4 d (u.handle (cluOf s1.cur * 64 + j))))) ∧
    AtEnd (Ends (.qstat d a) s s1 (some d)) s1 a false .stat (readRd d)) ∧
  (Operands s [a, b] none true none [h, w] s1 →
    (∀ v, s1.me.latch.res = some v → exec (.qbind d a b) s = .next (s1.retireIrr 4)) ∧
    (s1.me.latch.res = none → w.toNat < 1 ∨ 3 < w.toNat → exec (.qbind d a b) s = .next (s1.raiseOpen 193)) ∧
    (s1.me.latch.res = none → 1 ≤ w.toNat → w.toNat ≤ 3 → s1.qend d ≠ none → exec (.qbind d a b) s = .next (s1.raise 196 h)) ∧
    (1 ≤ w.toNat → w.toNat ≤ 3 → s1.qend d = none → AtQueue (Ends (.qbind d a b) s s1 none) s1 h (.bind (qIx d) w.toNat) noRd)) ∧
  (Operands s [] none true none [] s1 →
    AtEnd (Ends (.qunbind d) s s1 none) s1 d false (.unbind (qIx d)) noRd ∧ AtEnd (Ends (.qctlDrain d) s s1 none) s1 d true .drain noRd ∧
    AtEnd (Ends (.qctlClose d) s s1 none) s1 d true .close noRd ∧ AtEnd (Ends (.qctlOpen d) s s1 none) s1 d true .opn noRd) ∧
  (Operands s [b] none true none [w] s1 →
    (w = 0#64 → AtEnd (Ends (.qctl d b) s s1 none) s1 d true .drain noRd) ∧ (w = 1#64 → AtEnd (Ends (.qctl d b) s s1 none) s1 d true .close noRd) ∧
    (w = 2#64 → AtEnd (Ends (.qctl d b) s s1 none) s1 d true .opn noRd) ∧
    (3 ≤ w.toNat → exec (.qctl d b) s = .next (s1.raiseOpen (if s1.qend d = none then 192 else 193)))) ∧
  (Operands s [b] (some d) true (some 3) [w] s1 → Ends (.qtok d b) s s1 (some d) (s1.pure.finish true 4 d w true)) ∧
  (Operands s [a] none true none [h] s1 → AtQueue (Ends (.qfree a) s s1 none) s1 h .free noRd) ∧
  (∀ v, s.me.latch.res = some v → exec (.btok a i) s = .next (s.btokDone i (v.getLsbD 64))) ∧
  (s.me.latch.res = none → (∀ c, s.endCheck 1 a = some c → exec (.btok a i) s = .next (s.raiseWith c)) ∧
    (s.endCheck 1 a = none → s.me.chunk.global = false → s1 = s.chunkDone s.cur →
      (s1.endLocal a = false → exec (.btok a i) s = .next ((s1.toHome a fun h => .qpop s1.cur (qIx a) h true).waitEnd a id)) ∧
      (∀ q u, s1.endLocal a = true → s1.endQueue a = some q →
        (∀ v, s1.stampMe.qPop q s1.cur (qIx a) true = (.item v, u) → exec (.btok a i) s = .next (u.btokDone i (v.getLsbD 64))) ∧
        (s1.stampMe.qPop q s1.cur (qIx a) true = (.wait, u) → exec (.btok a i) s = .next (u.waitEnd a id)))))

/-- QREF (R160): the checks, the record at b, and a stream in the lowest free place of the cluster's indirect engine. -/
def Sys2Proof.Rules.StreamStart : Prop := ∀ (d a b : R6) (s s1 : State) (p : W), Operands s [b] none true none [p] s1 →
  (∀ c, s1.endCheck 1 a = some c → exec (.qref d a b) s = .next (s1.raiseWith c)) ∧
  (∀ c, s1.endCheck 1 a = none → s1.endCheck 2 d = some c → exec (.qref d a b) s = .next (s1.raiseWith c)) ∧
  (s1.endCheck 1 a = none → s1.endCheck 2 d = none →
    (∀ c, s1.access s1.myCore p 8 32 = .error c → exec (.qref d a b) s = .next (s1.raise c p)) ∧
    (∀ t, s1.access s1.myCore p 8 32 = .ok t → ∀ q : Piece, q = ⟨0, p, t, 32, []⟩ → s1.behind true [q] = false → s1.allows false [q] → s1.replied [q] → ∀ w : List Nat,
      w = (List.range 4).map (fun j => leNat (((s1.pieceBytes q).drop (8 * j)).take 8)) →
      (qrefRecord w = none → exec (.qref d a b) s = .next (s1.raise 193 p)) ∧
      (qrefRecord w ≠ none → (∀ j < 4, ((s1.clu (cluOf s1.cur)).streams.find j).isSome = true) → exec (.qref d a b) s = .next (s1.parkRe .parkEng .stream)) ∧
      (∀ base sm bound sen fill j, qrefRecord w = some (base, sm, bound, sen, fill) → j < 4 → (s1.clu (cluOf s1.cur)).streams.find j = none →
        (∀ l < j, ((s1.clu (cluOf s1.cur)).streams.find l).isSome = true) → ∃ u st, exec (.qref d a b) s = .next u ∧ u.me.pc = s1.me.pc + 4#64 ∧ SameMemory s1 u ∧
          (u.clu (cluOf s1.cur)).streams.find j = some st ∧ st.base = base ∧ st.sm = sm ∧ st.bound = bound ∧ st.sentinel = sen ∧ st.fill = fill ∧ st.c = s1.myCore ∧ st.x = s1.ctxOf s1.myCore ∧ st.vtid = s1.tid s.cur ∧ st.idx = none ∧ st.out = none ∧ st.stop = false ∧
          (∀ e, s1.qend a = some e → (u.qend a).map (·.stream) = some true))))

/-- The queue instructions, and the start of a stream. Of the model: logs 14, 24, 31, 37 and 94. -/
def Obligations.QueueInstructions : Prop := Rules.QueueResults ∧ Rules.StreamStart

/-- The ring of a queue is first in, first out (R155, R157): an item put goes behind the others with its token bit, and the item taken is the
oldest, or the first of those given back (log 13). -/
def Sys2Proof.Rules.QueueFifo : Prop := ∀ (s : State) (q : Nat) (i : Item) (new : Bool),
  let items (u : State) : List Item := (List.range (u.queue q).n).map fun j => u.areaItem (u.ringAt q) (u.queue q).depth (((u.queue q).head + j) % (u.queue q).depth)
  s.memWf = true → q < 8192 → (s.queue q).ring % 8 = 0 → (s.queue q).ring + 8 * (s.queue q).depth + 8 * ceilDiv (s.queue q).depth 64 ≤ 2 ^ 21 →
  (s.queue q).head < (s.queue q).depth →
  ((s.queue q).n < (s.queue q).depth → items (s.ringPut q i new) = items s ++ [i] ∧ ((s.ringPut q i new).queue q).back = (s.queue q).back) ∧
  ((s.queue q).back = [] → 0 < (s.queue q).n → (s.queue q).n ≤ (s.queue q).depth → (s.ringTake q).2.1 :: items (s.ringTake q).2.2 = items s) ∧
  (∀ j a b, (s.queue q).back = (j, a) :: b → (s.ringTake q).1 = j ∧ (s.ringTake q).2.1 = a ∧ ((s.ringTake q).2.2.queue q).back = b ∧ items (s.ringTake q).2.2 = items s)

/-- What a pop and a push get at the home (R157, R158, R281, R282). An item that BTOK holds is for the pop of its slot through its end (R106). A push passes no item that was pushed before it: with items in the spill area or on their
way there, or producers that wait, it goes behind them; only a queue with none of these hands it to a waiting consumer or puts it in the ring. -/
def Sys2Proof.Rules.QueueHome : Prop := ∀ (s : State) (q k e : Nat) (b : Bool) (i : Item), let r := s.queue q
  (∀ o, r.held.find? (·.of k e) = some o → (s.qPop q k e b).1 = .item (if b then o.it.enc else o.it.enc (some o.seq) (some e))) ∧
  (r.held.find? (·.of k e) = none →
    (∀ j a l, r.back = (j, a) :: l → (s.qPop q k e b).1 = .item (if b then a.enc else a.enc (some j))) ∧
    (r.back = [] → 0 < r.n → let a := s.areaItem (s.ringAt q) r.depth r.head
      (s.qPop q k e b).1 = .item (if b then a.enc else a.enc (some r.seq))) ∧
    (r.isEmpty = true → r.closed = true → s.qPop q k e b = (.item (Item.enc ⟨BitVec.allOnes 64, true⟩), s)) ∧
    (r.avail = 0 → (r.closed && r.isEmpty) = false → (s.qPop q k e b).1 = .wait ∧
      (s.links.hostq = [] → r.prod = [] → ((s.qPop q k e b).2.queue q).cons = r.cons ++ [(k, if b then some e else none)]))) ∧
  (r.closed = true → s.qPush q k i = (.fault 198, s)) ∧
  (r.closed = false →
    (r.prod = [] → r.handOver = true → s.qPush q k i = (.done, ((s.modQueue q fun r => { r with seq := r.seq + 1 }).qServe q r.seq i).qChanged q)) ∧
    (r.prod = [] → r.cons = [] → r.ringRoom = true → s.qPush q k i = (.done, (s.ringPut q i).qChanged q)) ∧
    (r.prod = [] → r.handOver = false → r.ringRoom = false → r.spillRoom = true → (s.qPush q k i).1 = .wait ∧
      (s.links.hostq = [] → ((s.qPush q k i).2.queue q).inbox = r.inbox ++ [(k, i)])) ∧
    (r.prod ≠ [] ∨ (r.handOver = false ∧ r.ringRoom = false ∧ r.spillRoom = false) → (s.qPush q k i).1 = .wait ∧
      (s.links.hostq = [] → r.handOver = false → r.ringRoom = false → r.spillRoom = false → ((s.qPush q k i).2.queue q).prod = r.prod ++ [(k, i)])))

/-- A QUEUE instruction of slot k at the home of queue q (R156 to R159): QSTAT reads the state as one snapshot, DRAIN discards every item and wakes the producers,
CLOSE wakes every slot parked on the queue, OPEN clears CLOSE; QBIND and QFREE check the end, the scope and the bound ends. -/
def Sys2Proof.Rules.QueueControls : Prop := ∀ (s : State) (q k : Nat) (h : W), s.findQueue (s.ctxOf (coreOf k)) h = some q → s.links.hostq = [] →
  let r := s.queue q
  let o (op : QCtlOp) := s.qCtlStep k h op
  let slots := (∀ e ∈ r.cons, e.1 < 16384) ∧ (∀ e ∈ r.prod, e.1 < 16384) ∧ ∀ e ∈ r.inbox, e.1 < 16384
  let plain := ∀ e, e ∈ r.prod ∨ e ∈ r.inbox ∨ e.1 ∈ r.cons.map (·.1) → (s.slot e.1).latch.undo = []
  (o .stat = (.ok ((s.qStat q (coreOf k)).setWidth 512), s) ∧
    (r.sn < 2 ^ 24 → ((s.qStat q (coreOf k)).getLsbD 63 = r.closed ∧ fld (s.qStat q (coreOf k)) 32 24 = r.sn ∧
      fld (s.qStat q (coreOf k)) 0 13 = min 4096 (r.back.length + r.n + r.held.length + r.rsv.length) ∧
      (slots → fld (s.qStat q (coreOf k)) 16 13 = min 8191 (r.cons.length + r.prod.length + r.inbox.length + s.qMulti q))))) ∧
  (slots → plain → ∀ u res, o .drain = (res, u) → res = .ok 0#512 ∧ (u.queue q).avail = 0 ∧ (u.queue q).sn = 0 ∧ (u.queue q).prod = [] ∧ (u.queue q).inbox = [] ∧
    ∀ e, e ∈ r.prod ∨ e ∈ r.inbox → (s.slot e.1).wait = .queue → (u.slot e.1).wait = .reissue) ∧
  (slots → plain → ∀ u res, o .close = (res, u) → res = .ok 0#512 ∧ (u.queue q).closed = true ∧ (u.queue q).cons = [] ∧ (u.queue q).prod = [] ∧ (u.queue q).inbox = [] ∧
    (u.queue q).n = r.n ∧ (u.queue q).sn = r.sn ∧
    (∀ e ∈ r.cons, (s.slot e.1).wait = .queue → (u.slot e.1).wait = .reissue) ∧
    ∀ e, e ∈ r.prod ∨ e ∈ r.inbox → (s.slot e.1).wait = .queue → (u.slot e.1).wait = .reissue) ∧
  (∀ u res, o .opn = (res, u) → res = .ok 0#512 ∧ (u.queue q).closed = false) ∧
  (∀ ix d, ((((s.core (coreOf k)).q.find ix).isSome = true → o (.bind ix d) = (.error 196, s)) ∧
    ((s.core (coreOf k)).q.find ix = none → s.qInScope q (coreOf k) = false → o (.bind ix d) = (.error 195, s)) ∧
    ((s.core (coreOf k)).q.find ix = none → s.qInScope q (coreOf k) = true → ∃ u, o (.bind ix d) = (.ok 0#512, u) ∧
      ((u.core (coreOf k)).q.find ix).map (fun e => (e.h, e.dir, e.stream)) = some (h, d, false)))) ∧
  (s.qInScope q (coreOf k) = false → o .free = (.error 195, s)) ∧
  (s.qInScope q (coreOf k) = true → s.qBound (s.ctxOf (coreOf k)) h = true ∨ r.hostEnds > 0 → o .free = (.error 199, s)) ∧
  (s.qInScope q (coreOf k) = true → s.qBound (s.ctxOf (coreOf k)) h = false → r.hostEnds = 0 → ∃ u, o .free = (.ok 0#512, u) ∧
    (u.queue q).alloc = false ∧ (u.queue q).gen = (r.gen + 1) % 65536)

/-- What a queue does at its home. Of the model: logs 13, 14, 65 and 72. -/
def Obligations.QueueSteps : Prop := Rules.QueueFifo ∧ Rules.QueueHome ∧ Rules.QueueControls

/-! The SYS group -/

/-- TRAP, BREAK, IFLUSH, ERET and CFLUSH (R162, R163, R165, R166). -/
def Sys2Proof.Rules.SystemResults : Prop := ∀ (a b : R6) (s s1 : State) (x y : W),
  (Operands s [a] none true none [x] s1 → b.toNat < 16 → exec (.trap a b) s = .next (s1.raise (352 + b.toNat) x)) ∧
  (s.me.chunk.global = true → ∀ i ∈ [Instr.brk, .iflush, .eret], exec i s = .next (s.parkRe .parkMem .commit)) ∧
  (s.me.chunk.global = false → exec .brk s = .next ((s.chunkDone s.cur).raise 368 0#64) ∧
    (∃ t, exec .iflush s = .next t ∧ t.me.fbuf = [] ∧ t.me.pc = s.me.pc + 4#64 ∧ t.me.x = s.me.x ∧ SameSlot s.me t.me ∧ SameMemory s t ∧ SameUnits s t) ∧
    (∃ t, exec .eret s = .next t ∧ t.me.pc = s.me.txpc ∧ t.me.tstat.getLsbD 0 = s.me.tstat.getLsbD 1 ∧ t.me.tstat.getLsbD 1 = false ∧ t.me.x = s.me.x ∧
      t.me.tcause = s.me.tcause ∧ t.me.txpc = s.me.txpc ∧ t.me.tval = s.me.tval ∧ t.me.tvec = s.me.tvec ∧ t.me.fflags = s.me.fflags ∧ SameMemory s t ∧ SameUnits s t)) ∧
  (Operands s [a, b] none true none [x, y] s1 →
    (∀ v, s1.me.latch.res = some v → exec (.cflush a b) s = .next (s1.retireIrr 4)) ∧
    (s1.me.latch.res = none → (∀ c, s1.resolve s1.myCore x = .error c → exec (.cflush a b) s = .next (s1.raise c x)) ∧
      (∀ t, s1.resolve s1.myCore x = .ok t → (spc x ≠ 0 → spc x ≠ 6 → exec (.cflush a b) s = .next (s1.raise 85 x)) ∧
        (spc x = 0 ∨ spc x = 6 → (y.toNat = 0 ∨ t.off + y.toNat ≤ 2 ^ t.width ∧ t.off + y.toNat ≤ t.limit →
          exec (.cflush a b) s = .next (((s1.cflush t.at_ y.toNat).send (s1.ctxOf s1.myCore) (portSlice 0) s1.myCore (.reply s1.cur 0 (.val 0#512))).park .parkMem .system))))))

/-- The mode rules (R6, R32, R33, R164, R167): in mode U an index of 0x800 or more is cause 33 and every instruction of firmware cause 32; an index that no table
assigns is cause 34 in either mode; a write of DEQSPILL in mode U is cause 35. A register of a target slot on another core is reached by a request (R141;
log 108). Of the model: logs 2 and 5. -/
def Obligations.ModeRules : Prop := ∀ (d a h l : R6) (s s1 : State) (v : W),
  let n := h.toNat * 64 + l.toNat
  (modeF s.cur = false → ∀ i ∈ [Instr.tinv d a, .freeze d a, .thaw d a, .nudge d a], exec i s = .next (s.raiseOpen 32)) ∧
  (s.me.chunk.global = false → s1 = s.chunkDone s.cur →
    (modeF s.cur = false → 0x800 ≤ n → exec (.sysrd d h l) s = .next (s1.raiseOpen 33) ∧ exec (.syswr d h l) s = .next (s1.raiseOpen 33)) ∧
    (modeF s.cur = true ∨ n < 0x800 → (lowIndex n || highIndex n) = false → exec (.sysrd d h l) s = .next (s1.raiseOpen 34) ∧ exec (.syswr d h l) s = .next (s1.raiseOpen 34)) ∧
    (modeF s.cur = false → n = 0x107 → exec (.syswr d h l) s = .next (s1.raiseOpen 35))) ∧
  (sysCheck (modeF s.cur) n false = none → Operands s [] (some d) true none [] s1 →
    (∀ r, s1.me.latch.res = some r → Ends (.sysrd d h l) s s1 (some d) (s1.pure.finish true 4 d (asW r))) ∧
    (s1.me.latch.res = none → (∀ k, s1.farSlot n = some k → Ends (.sysrd d h l) s s1 (some d) (s1.farReg k n none)) ∧
      (s1.farSlot n = none → Ends (.sysrd d h l) s s1 (some d) ((if n < 0x800 then (s1.sysRead n).2.pure else (s1.sysRead n).2).finish true 4 d (s1.sysRead n).1)))) ∧
  (sysCheck (modeF s.cur) n true = none → Operands s [d] none true none [v] s1 →
    (s1.me.latch.res.isSome = true → exec (.syswr d h l) s = .next (s1.retireIrr 4)) ∧
    (s1.me.latch.res = none → (∀ k, s1.farSlot n = some k → exec (.syswr d h l) s = .next (s1.farReg k n (some v))) ∧
      (s1.farSlot n = none → ∀ u, u = (s1.upd fun sl => { sl with pend := some (.and d d d) }).sysWrite n v →
        (u.me.pend.isSome = true → exec (.syswr d h l) s = .next (u.retireIrr 4)) ∧ (n < 0x200 → u.me.pend.isSome = true)))) ∧
  (n < 0xA00 ∨ coreOf s.tgtSlot = s.myCore → s.farSlot n = none) ∧ (0xA00 ≤ n → n < 0xC00 → coreOf s.tgtSlot ≠ s.myCore → s.farSlot n = some s.tgtSlot)

/-- The per-slot system registers (R32 to R34, Tables 01-4 to 01-11): after a write each holds the writable bits of the value, and no other register of the slot
changes. -/
def Sys2Proof.Rules.SlotRegisters : Prop := ∀ (s t : State) (k n : Nat) (w : W), t = s.setLow k n w → n < 15 →
  (n = 0 → t.slotReg k 0 = w &&& 0xFFFE#64) ∧ (n = 1 → t.slotReg k 1 = w &&& 3#64) ∧ (n = 2 → t.slotReg k 2 = w &&& 0x1FF#64) ∧
  (n = 3 ∨ n = 4 ∨ n = 12 ∨ n = 13 ∨ n = 14 → t.slotReg k n = w) ∧ (n = 5 ∨ n = 7 → t.slotReg k n = w &&& 0x1F#64) ∧
  (n = 6 → w.toNat % 8 < 5 → t.slotReg k 6 = w &&& 0xF#64) ∧ (n = 8 → t.slotReg k 8 = w &&& 0xFFFFFFFF#64) ∧
  (n = 9 → t.slotReg k 9 = if w.toNat < 32 then 32#64 else if 512 < w.toNat then 512#64 else w) ∧
  (n = 10 ∨ n = 11 → t.slotReg k n = s.slotReg k n) ∧ (∀ j, j ≠ n → t.slotReg k j = s.slotReg k j) ∧
  (t.slot k).pc = (s.slot k).pc ∧ (∀ r, t.xget k r = s.xget k r) ∧ (∀ j, j ≠ k → t.slot j = s.slot j) ∧ t.cores = s.cores ∧ SameMemory s t

/-- System instructions and the registers they reach. Of the model: log 51. -/
def Obligations.SystemInstructions : Prop := Rules.SystemResults ∧ Rules.SlotRegisters

/-- FREEZE, THAW, NUDGE and TINV in mode F (R141, R154, R167, R300, R330, R332): NUDGE of a slot elsewhere is a request, whose reply completes it; the
end of a whole-pair TINV retires the pair, with its groups, queue records and bound ends. -/
def Sys2Proof.Rules.FirmwareResults : Prop := ∀ (d a b : R6) (s s1 : State) (p y : W), modeF s.cur = true →
  (Operands s [a] (some d) true none [p] s1 →
    (∀ v, s1.me.latch.res = some v → Ends (.freeze d a) s s1 (some d) (s1.finish true 4 d (asW v)) ∧ Ends (.thaw d a) s s1 (some d) (s1.finish true 4 d (asW v))) ∧
    (s1.me.latch.res = none →
      (∀ c, s1.freezeRefusal p = some c → Ends (.freeze d a) s s1 (some d) (s1.finish true 4 d (nat c))) ∧
      (s1.freezeRefusal p = none → Ends (.freeze d a) s s1 (some d) ((s1.freezeStart (fld p 0 24)).park .parkMem .system)) ∧
      (∀ c, s1.thawRefusal p = some c → Ends (.thaw d a) s s1 (some d) (s1.finish true 4 d (nat c))) ∧
      (s1.thawRefusal p = none → Ends (.thaw d a) s s1 (some d) ((s1.modCtx (fld p 0 24) fun cx => { cx with frz := 4, frzSlot := some s1.cur }).park .parkMem .system))) ∧
    (∀ v, s1.me.latch.res = some v → Ends (.nudge d a) s s1 (some d) (s1.finish true 4 d (asW v))) ∧
    (s1.me.latch.res = none → coreOf (fld p 0 14) = s1.myCore → Ends (.nudge d a) s s1 (some d) ((s1.nudge (fld p 0 14)).finish true 4 d (nat (s1.slot (fld p 0 14)).st.code))) ∧
    (s1.me.latch.res = none → coreOf (fld p 0 14) ≠ s1.myCore → Ends (.nudge d a) s s1 (some d) (s1.askSlot (coreOf (fld p 0 14)) (.nudge s1.cur (fld p 0 14))))) ∧
  (Operands s [a, b] none true none [p, y] s1 →
    (fld p 24 40 ≠ 0 ∨ tinvForm y = none → exec (.tinv a b) s = .next (s1.raiseOpen 38)) ∧
    (∀ f, fld p 24 40 = 0 → tinvForm y = some f →
      (∀ v, s1.me.latch.res = some v → exec (.tinv a b) s = .next ((s1.tinvEnd p.toNat f).retireIrr 4)) ∧
      (s1.me.latch.res = none → exec (.tinv a b) s = .next (((s1.tinv p.toNat f).send 0 (portSlice 0) s1.myCore (.reply s1.cur 0 (.val 0#512))).park .parkMem .system)))) ∧
  (∀ x t, t = s.tinvEnd x .pair → (t.ctx x).active = false ∧ (t.ctx x).groups = [] ∧ ∀ v c, v < 128 → s.place x v = some c → Unqueued s t c)

/-! The engines -/

/-- The MAT instructions (R187 to R218): checks, launches, handles and controls. Of the model: logs 24, 40 and 86. -/
def Obligations.MatrixResults : Prop := ∀ (d a b : R6) (s s1 : State) (p y : W),
  let mul (u : State) (r : MatReq) : State := (if r.keep && !r.mirror && r.acc ≠ 2 then u.modClu (cluOf u.cur) fun c => { c with keepRsv := some u.cur } else u).matSend r
  let ck (u : State) (r : MatReq) := u.mulCheck u.myCore (cluOf u.cur) r
  Launches (.mma d) d 0 ck mul ∧ Launches (.mmas d) d 1 ck mul ∧ Launches (.mmax d) d 2 ck mul ∧ Launches (.mdelta d) d 3 ck mul ∧ Launches (.mrefresh d) d 4 ck mul ∧
  Launches (.mloadb d) d 6 (fun u r => u.loadbCheck u.myCore r) (fun u r =>
    match (List.range 64).find? fun j => !(u.handleAt (cluOf u.cur) j).used, u.freeRows (cluOf u.cur) (tileRows (fmtOf (r.g 1)) r.kk) with
    | some j, some row => (u.modHandle (cluOf u.cur) j fun h => { h with taken := true, row := row, rows := tileRows (fmtOf (r.g 1)) r.kk }).matSend { r with handle := some j }
    | _, _ => u.raise 261 1#64) ∧
  Launches (.mstc d) d 8 (fun u r => u.mstcCheck u.myCore (cluOf u.cur) r) (fun u r => u.matSend r) ∧
  Launches (.mgroup d) d 9 (fun u r => u.mgroupCheck u.myCore r) (fun u r => u.matSend r) ∧
  (Operands s [a] (some d) true (some 3) [p] s1 →
    (∀ v, s1.me.latch.res = some v → Ends (.minv d a) s s1 (some d) (s1.finish true 4 d (asW v))) ∧
    (s1.me.latch.res = none → (∀ c, s1.matPtr s1.myCore p 1 = some c → Ends (.minv d a) s s1 (some d) (s1.raise c p)) ∧
      (s1.matPtr s1.myCore p 1 = none → spc p ≠ 0 ∧ spc p ≠ 6 ∨ offOf p % 128 ≠ 0 → Ends (.minv d a) s s1 (some d) (s1.raise 266 p)) ∧
      (s1.matPtr s1.myCore p 1 = none → spc p = 0 ∨ spc p = 6 → offOf p % 128 = 0 → Ends (.minv d a) s s1 (some d) (s1.matSend { kind := 5, e := List.replicate 6 0#64 ++ [p, 0#64], k := s1.cur, ctx := s1.ctxOf s1.myCore, vtid := s1.tid s1.cur, rm := 0 })))) ∧
  (Operands s [a] none true none [p] s1 →
    (s1.handleOf (cluOf s1.cur) p = none → exec (.mfreeb a) s = .next (s1.raiseOpen 260)) ∧
    (∀ j, s1.handleOf (cluOf s1.cur) p = some j → exec (.mfreeb a) s =
      .next (((s1.modHandle (cluOf s1.cur) j fun h => { h with live := false, freed := true, gen := nextGen h.gen }).handleDone (cluOf s1.cur) j).retireIrr 4))) ∧
  (Operands s [a, b] (some d) true none [p, y] s1 →
    (fld p 14 50 ≠ 0 ∨ fld y 2 62 ≠ 0 → Ends (.mpri d a b) s s1 (some d) (s1.raiseOpen 271)) ∧
    (fld p 14 50 = 0 → fld y 2 62 = 0 → Ends (.mpri d a b) s s1 (some d) ((s1.modClu (cluOf s1.cur) fun c => { c with matq := c.matq.map fun o => if o.req.vtid = p.toNat then { o with base := y.toNat } else o }).finish true 4 d
        (nat ((s1.clu (cluOf s1.cur)).matq.countP fun o => o.req.vtid == p.toNat))))) ∧
  (Operands s [a] (some d) true none [p] s1 →
    (11 ≤ p.toNat → Ends (.mstat d a) s s1 (some d) (s1.raiseOpen 271)) ∧ (p.toNat < 11 → Ends (.mstat d a) s s1 (some d) (s1.pure.finish true 4 d (s1.matStat (cluOf s1.cur) p.toNat))))

/-- The XFER group (R220 to R230, R236): launches, byte barriers and messages. -/
def Sys2Proof.Rules.TransferResults : Prop := ∀ (d a b : R6) (s s1 : State) (p y : W),
  StartsEngine (.copy d) d 0 ∧ StartsEngine (.gather d) d 1 ∧ StartsEngine (.scatter d) d 2 ∧ StartsEngine (.isect d) d 3 ∧ StartsEngine (.rsort d) d 4 ∧
  (Operands s [a, b] none true (some 3) [p, y] s1 →
    Barrier (Ends (.bbinit a b) s s1 none) s1 p y (1 ≤ y.toNat ∧ y.toNat < 2 ^ 31) (.bbinit y) noRd ∧ Barrier (Ends (.bbexpect a b) s s1 none) s1 p y (y.toNat < 2 ^ 32) (.bbexpect y) noRd ∧
    (sendmBad p = true → exec (.sendm a b) s = .next (s1.raise 297 p)) ∧
    (sendmBad p = false → p.getLsbD 63 = false → s1.coreAt (s1.ctxOf s1.myCore) (fld p 4 10) = none → exec (.sendm a b) s = .next (s1.raise 297 p)) ∧
    (∀ c, sendmBad p = false → p.getLsbD 63 = false → s1.coreAt (s1.ctxOf s1.myCore) (fld p 4 10) = some c →
      (s1.niqLen s1.myCore ≥ 8 → exec (.sendm a b) s = .next (s1.parkRe .parkMem .niq)) ∧
      (s1.niqLen s1.myCore < 8 → exec (.sendm a b) s = .next ((s1.send (s1.ctxOf s1.myCore) s1.myCore c
        (.mail s1.cur { dest := if p.getLsbD 14 then some (fld p 0 4) else none, data := y } (s1.ctxOf s1.myCore))).retireIrr 4))) ∧
    (sendmBad p = false → p.getLsbD 63 = true → s1.granted (s1.ctxOf s1.myCore) (fld p 50 12) = none → exec (.sendm a b) s = .next (s1.raise 298 p)) ∧
    (∀ g, sendmBad p = false → p.getLsbD 63 = true → s1.granted (s1.ctxOf s1.myCore) (fld p 50 12) = some g → s1.niqLen s1.myCore < 8 →
      exec (.sendm a b) s = .next ((s1.toPackage (fld p 50 12) (.sendm (fld g 0 24) p y)).retireIrr 4))) ∧
  (Operands s [a, b] (some d) true (some 3) [p, y] s1 → Barrier (Ends (.bbwait d a b) s s1 (some d)) s1 p y (y.toNat < 2) (.bbwait (y.getLsbD 0)) (toRd d))

/-- The byte barrier (R229, R230): initialisation, expectation, the wait for the other phase; and a credit of n + 1 bytes leaves the word that a credit of one
byte and then one of n bytes leave. -/
def Sys2Proof.Rules.BarrierTable : Prop := (∀ (s : State) (k a : Nat) (y : W), s.memWf = true → a % 8 = 0 → a < glb0 → s.poisonAt a = false →
    (y.toNat < 2 ^ 31 → ∀ t, s.homeStep k false a (.bbinit y) = (.w 0#64, t) → t.num a 8 = y.toNat * 2 ^ 32 + y.toNat) ∧
    (s.num a 4 + y.toNat < 2 ^ 32 → ∃ t, s.homeStep k false a (.bbexpect y) = (.w 0#64, t) ∧ t.num a 4 = s.num a 4 + y.toNat ∧ t.num (a + 4) 4 = s.num (a + 4) 4) ∧
    (2 ^ 32 ≤ s.num a 4 + y.toNat → s.homeStep k false a (.bbexpect y) = (.fault 295 (some y), s)) ∧
    ((s.num a 8).testBit 63 ≠ y.getLsbD 0 → s.homeStep k false a (.bbwait (y.getLsbD 0)) = (.w (nat (s.num a 8)), s)) ∧
    ((s.num a 8).testBit 63 = y.getLsbD 0 → s.homeStep k false a (.bbwait (y.getLsbD 0)) = (.wait, { s with bbWait := s.bbWait ++ [(a, k)] }))) ∧
  (∀ w n : Nat, w < 2 ^ 64 → w % 2 ^ 32 ≠ 0 → bitsOf w 32 31 ≠ 0 →
    (creditWords w (n + 1)).2 = false ∧ (creditWords w (n + 1)).1.getLastD 0 = (creditWords ((creditWords w 1).1.getLastD 0) n).1.getLastD 0)

/-- Copies, indirect operations, byte barriers and messages. Of the model: logs 5 and 45. -/
def Obligations.TransferInstructions : Prop := Rules.TransferResults ∧ Rules.BarrierTable

/-- The EXPERT group (R238 to R242). -/
def Sys2Proof.Rules.ExpertResults : Prop := ∀ (d a b : R6) (s s1 : State) (p y : W),
  (Operands s [a] (some d) true (some 3) [p] s1 →
    Residency (Ends (.elook d a) s s1 (some d)) d s1 p 0 0#64 ∧ Residency (Ends (.epin d a) s s1 (some d)) d s1 p 2 1#64 ∧ Residency (Ends (.eunpin d a) s s1 (some d)) d s1 p 3 0#64) ∧
  (Operands s [a, b] (some d) true (some 3) [p, y] s1 →
    Residency (Ends (.ereq d a b) s s1 (some d)) d s1 p 1 y ∧
    (∀ v, s1.me.latch.res = some v → Ends (.route d a b) s s1 (some d) (s1.finish true 4 d (asW v))) ∧ (s1.me.latch.res = none →
    (∀ c, s1.heapAt p = .error c → Ends (.route d a b) s s1 (some d) (s1.raise c p)) ∧
    (∀ h, s1.heapAt p = .ok h → (s1.anyPoison h 136 = true → Ends (.route d a b) s s1 (some d) (s1.raise 128 p)) ∧ (s1.anyPoison h 136 = false →
      s1.num h 8 ≥ 2 ^ 13 ∨ bitsOf (s1.num h 8) 5 3 ≠ 0 ∨ bitsOf (s1.num h 8) 8 5 < 1 ∨ bitsOf (s1.num h 8) 8 5 > 16 ∨ bitsOf (s1.num h 8) 0 5 > bitsOf (s1.num h 8) 8 5 →
      Ends (.route d a b) s s1 (some d) (s1.raise 168 p))) ∧
    (∀ h, s1.heapAt p = .ok h → s1.anyPoison h 136 = false → s1.num h 8 < 2 ^ 13 → bitsOf (s1.num h 8) 5 3 = 0 → ∀ cap n,
      cap = bitsOf (s1.num h 8) 8 5 → n = bitsOf (s1.num h 8) 0 5 → 1 ≤ cap → cap ≤ 16 → n ≤ cap →
      (n = 0 → Ends (.route d a b) s s1 (some d) (s1.raise 325 p)) ∧
      (∀ c, n ≠ 0 → s1.resolve s1.myCore y = .error c → Ends (.route d a b) s s1 (some d) (s1.raise c y)) ∧
      (∀ t, n ≠ 0 → s1.resolve s1.myCore y = .ok t → (3 ≤ spc y ∧ spc y ≤ 5) ∨ t.off % 8 ≠ 0 → Ends (.route d a b) s s1 (some d) (s1.raise 326 y)) ∧
      (∀ t g, n ≠ 0 → s1.resolve s1.myCore y = .ok t → ¬ (3 ≤ spc y ∧ spc y ≤ 5) → t.off % 8 = 0 → t.extent 8 = .ok g →
        AtHome (Ends (.route d a b) s s1 (some d)) s1 g (.route ((rankIds ((List.range n).map fun j => s1.num (h + 8 + 8 * j) 8)).take 8) (fld (s1.rd d) 32 3) (fld (s1.rd d) 0 32) y) y (toRd d))))) ∧
  (Operands s [a, b] none true (some 3) [p, y] s1 →
    (fld p 36 28 ≠ 0 → exec (.ehint a b) s = .next (s1.raise 320 p)) ∧ (fld p 36 28 = 0 → 3 < y.toNat → exec (.ehint a b) s = .next (s1.raise 327 y)) ∧
    (fld p 36 28 = 0 → y.toNat ≤ 3 → s1.niqLen s1.myCore ≥ 8 → exec (.ehint a b) s = .next (s1.parkRe .parkMem .niq)) ∧
    (fld p 36 28 = 0 → y.toNat ≤ 3 → s1.niqLen s1.myCore < 8 → exec (.ehint a b) s = .next ((s1.sendExpert p 4 y).retireIrr 4)))

/-- A ROUTE step on a good local table (R241): the first expert of the ranking whose load is below its capacity is taken and its load counts one more; nothing else of
the table changes. -/
def Sys2Proof.Rules.RouteStep : Prop := ∀ (s t : State) (k a j id tok : Nat) (ids : List Nat) (tab : W) (r : HomeRes), s.memWf = true → a % 8 = 0 → a + 8 + 8 * 65536 ≤ glb0 →
  s.poisonAt a = false → bitsOf (s.num a 8) 16 16 = 0 → s.num a 8 % 65536 ≠ 0 → 8 + 8 * (s.num a 8 % 65536) ≤ s.roomAt k a → ids[j]? = some id → (∀ e ∈ ids, e < s.num a 8 % 65536 ∧ s.poisonAt (a + 8 + 8 * e) = false) →
  s.num (a + 8 + 8 * id) 4 < s.num (a + 8 + 8 * id + 4) 4 →
  (∀ l e, l < j → ids[l]? = some e → s.num (a + 8 + 8 * e + 4) 4 ≤ s.num (a + 8 + 8 * e) 4) → s.homeStep k false a (.route ids 0 tok tab) = (r, t) →
  r = .w (nat (j * 2 ^ 32 + id)) ∧ t.num (a + 8 + 8 * id) 4 = s.num (a + 8 + 8 * id) 4 + 1 ∧ ∀ c, c < a + 8 + 8 * id ∨ a + 8 + 8 * id + 4 ≤ c → t.byteAt c = s.byteAt c

/-- Expert residency and routing. Of the model: logs 14, 42, 45 and 72. -/
def Obligations.ExpertInstructions : Prop := Rules.ExpertResults ∧ Rules.RouteStep

/-! Events: the network, the sequencers, commit, translation, engines, freezing, the links and the security controller -/

namespace Sys2Proof.Machine

/-- A row of firmware's: a slot of firmware performs it; to a running slot of mode U its register is closed (cause 33). -/
abbrev Commands (i : Instr) (f : State → State) : Prop :=
  ∀ s : State, (modeF s.cur = true → exec i s = .next (f s)) ∧
    (modeF s.cur = false → (s.me.st = .run → exec i s = .next (s.raiseOpen 33)) ∧ (s.me.st ≠ .run → exec i s = .next s))

/-- The refused message n = m goes back to its sender, which keeps it until h cycles of its counter have passed (R9, R222). -/
def State.sentBack (s : State) (n : Nat) (m : Msg) (h : Nat) : State :=
  { s with net := s.net.modify n fun o => { o with back := some (s.senderCyc m + h) } }

/-- A unit that refuses message n = m: with a hint of 16 to 1,024 it goes back, with another hint nothing happens. -/
abbrev Refuses (i : Nat → Instr) (s : State) (n : Nat) (m : Msg) : Prop :=
  ∀ h, (16 ≤ h → h ≤ 1024 → exec (i h) s = .next (s.sentBack n m h)) ∧ (h < 16 ∨ 1024 < h → exec (i h) s = .next s)

/-- The state in which a vacant turn of core c looks for its job: shared-bank writes have landed, one further home turn has passed. -/
def State.turnBegun (s : State) (c : Nat) : State := { (s.beginCycle c).passTurn (s.turnOwner c) with ending := some c }

/-- A vacant turn of core c performs the job j, and the step will count the cycle (R268). -/
abbrev Serves (i : Instr) (c : Nat) (s : State) (j : Job) : Prop :=
  s.vacant c = true → (s.beginCycle c).job c = some j → (s.turnBegun c).job c = some j → exec i s = .next ((s.turnBegun c).perform c j)

/-- The byte that a COPY, GATHER or SCATTER writes. -/
def State.movedByte (s : State) (m : Move) : Byte := match m.src with | some a => s.byteAt a | none => m.fill

/-- The message n taken off the network. -/
def State.without (s : State) (n : Nat) : State := { s with net := s.net.eraseIdx n }

end Sys2Proof.Machine

/-- What each message does that a unit takes from the network, and when a full unit refuses one (R122, R127, R143, R146, R148, R204,
R222, R229, R236, R273, R276, R280, R308). -/
def Sys2Proof.Rules.ArrivalResults : Prop := ∀ (s : State) (n h : Nat) (m : Msg), s.deliverable n = some m →
  let u := s.accept n m
  (∀ k part a op ret vc ptr v t, m.body = .access k part a op ret vc ptr → u.homeStep k true a op = (.val v, t) →
    (ret = true → exec (.remoteAccessArrival n) s = .next ((t.send m.ctx m.dst (coreOf k) (.reply k part (.val v))).homeAfter a op)) ∧
    (ret = false → exec (.remoteAccessArrival n) s = .next ((t.send m.ctx m.dst (coreOf k) (.ack k vc)).homeAfter a op))) ∧
  (∀ k part a op ret vc ptr t, m.body = .access k part a op ret vc ptr → (u.homeStep k true a op = (.wait, t) → exec (.remoteAccessArrival n) s = .next (t.parkAt k op.parked.1 op.parked.2)) ∧
    (∀ c, u.homeStep k true a op = (.fault c, t) → (ret = true → exec (.remoteAccessArrival n) s = .next (t.send m.ctx m.dst (coreOf k) (.reply k part (.fault c ptr)))) ∧
      (ret = false → exec (.remoteAccessArrival n) s = .next ((t.lateFault (dieOfPlace a) k m.ctx c ptr).send m.ctx m.dst (coreOf k) (.ack k vc))))) ∧
  (∀ k t r w v, m.body = .slotReg k t r w v →
    (∀ g q, u.slotAccess t r w v = some (g, q) → exec (.remoteAccessArrival n) s = .next (q.send m.ctx m.dst (coreOf k) (.reply k 0 (.val (g.setWidth 512))))) ∧
    (u.slotAccess t r w v = none → exec (.remoteAccessArrival n) s = .next (u.free.2.send m.ctx m.dst (coreOf k) (.reply k 0 (.fault 44 u.free.1))))) ∧
  (∀ k t, m.body = .nudge k t → exec (.remoteAccessArrival n) s = .next ((u.nudge t).send m.ctx m.dst (coreOf k) (.reply k 0 (.val ((nat (u.slot t).st.code).setWidth 512))))) ∧
  (∀ k d x, m.body = .mail k d x → (64 ≤ (s.core m.dst).mail.length → Refuses (.mailboxMessageArrival n) s n m) ∧
    ((s.core m.dst).mail.length < 64 → m.src < 1024 → exec (.mailboxMessageArrival n h) s = .next ((u.mailAccept m.dst d).niqWake m.src))) ∧
  (∀ r, m.body = .engine r → (s.engOps (r.engine m.dst)).length ≥ (if r.kind = 0 then 16 else 8) → Refuses (.engineRequestArrival n) s n m) ∧
  (∀ r, m.body = .engine r → (s.engOps (r.engine m.dst)).length < (if r.kind = 0 then 16 else 8) →
    exec (.engineRequestArrival n h) s = .next ((({ u with serial := u.serial + 1 } : State).setEngOps (r.engine m.dst) (s.engOps (r.engine m.dst) ++ [{ id := u.serial, req := r }])).freed m.src)) ∧
  (∀ r, m.body = .task r → (∀ t, u.arrive m.dst r = some t → r.stolen = false → exec (.taskRecordArrival n h) s = .next (t.freed m.src)) ∧
    (∀ t, u.arrive m.dst r = some t → r.stolen = true → exec (.taskRecordArrival n h) s = .next ((t.modCore m.dst fun co => { co with stealing := false, ended := false }).freed m.src)) ∧
    (u.arrive m.dst r = none → Refuses (.taskRecordArrival n) s n m)) ∧
  (∀ ks, m.body = .start ks → exec (.pinnedStart n) s = .next (ks.foldl State.startSlot u)) ∧
  (∀ th, m.body = .steal th → (u.core m.dst).reserved = [] → (∀ l r, (u.core m.dst).stealLevel = some l → ((u.core m.dst).level l).head? = some r →
    ∃ t, exec (.stealAnswer n) s = .next t ∧ t.net = u.net ++ [⟨m.dst, th, .task { r with src := u.vcl m.dst * 128 + m.dst % 8 * 16, reply := none, rel := false, stolen := true, ctx := m.ctx }, m.ctx, none⟩])) ∧
  (∀ th, m.body = .steal th → (u.core m.dst).reserved ≠ [] → ∃ t, exec (.stealAnswer n) s = .next t ∧ t.net = u.net ++ [⟨m.dst, th, .stealNo m.dst, m.ctx, none⟩] ∧ t.cores = u.cores) ∧
  (∀ v, m.body = .stealNo v → exec (.stealAnswer n) s = .next (u.stealRefused m.dst)) ∧
  (∀ e id a k x, m.body = .credit e id a k x → let v := u.modEng e id fun o => { o with credits := o.credits - 1 }
    (v.poisonAt a = true → exec (.credit n) s = .next ((v.engStop e id 128 true).engEnd e id)) ∧
    (v.poisonAt a = false → ∀ ws bad w, creditWords (v.num a 8) k = (ws, bad) → w = ws.foldl (fun s w => s.write none true a (leBytes w 8)) v →
      exec (.credit n) s = .next ((if bad then w.engStop e id 296 true else w).engEnd e id))) ∧
  (∀ k name op, m.body = .bank k name op → ∀ r t, u.bankStep (m.dst - 2304) m.ctx (u.tid k) (name % 1024) op = (r, t) →
    (∀ v, r = .ok v → exec (.counterBankStep n) s = .next (t.answer m.ctx m.dst k 0 (.val v))) ∧
    (∀ c, r = .error c → exec (.counterBankStep n) s = .next (t.answer m.ctx m.dst k 0 (.fault c (nat name))))) ∧
  (∀ k x name op, m.body = .group k x name op → ∀ r t, u.groupStep k x name op = (r, t) →
    (r = none → exec (.groupRequestArrival n) s = .next (t.freed m.src)) ∧ (∀ v, r = some (.ok v) → exec (.groupRequestArrival n) s = .next ((t.freed m.src).answer x m.dst k 0 (.val v))) ∧
    (∀ c, r = some (.error c) → op = .gjoin ∨ op = .gleave ∨ op = .gfree ∨ op = .gbar → exec (.groupRequestArrival n) s = .next ((t.freed m.src).answer x m.dst k 0 (.fault c (nat name))))) ∧
  (∀ k key x w e, m.body = .expert k key x 1 w → 1 < w → u.expertOf key.toNat = some e → ownerOf e.rcd = x →
    exec (.residencyStep n) s = .next ((u.cacheModel e).answer x m.dst k 0 (.fault 327 (nat w)))) ∧
  (∀ k key x op w, m.body = .expert k key x op w → op ≠ 4 → op ≠ 1 ∨ w ≤ 1 →
    (u.expertOf key.toNat = none → exec (.residencyStep n) s = .next (u.answer x m.dst k 0 (.fault 320 key))) ∧
    (∀ e, u.expertOf key.toNat = some e → (ownerOf e.rcd ≠ x → exec (.residencyStep n) s = .next (u.answer x m.dst k 0 (.fault 320 key))) ∧
      (ownerOf e.rcd = x → ∀ r t, (u.cacheModel e).exStep k e key op (nat w) = (r, t) → (r = none → exec (.residencyStep n) s = .next t) ∧
        (∀ v, r = some (.ok v) → exec (.residencyStep n) s = .next (t.answer x m.dst k 0 (.val (v.setWidth 512)))) ∧
        (∀ c, r = some (.error c) → exec (.residencyStep n) s = .next (t.answer x m.dst k 0 (.fault c key)))))) ∧
  (∀ k key x w, m.body = .expert k key x 4 w → (u.expertOf key.toNat = none → exec (.residencyStep n) s = .next (u.freed m.src)) ∧
    (∀ e, u.expertOf key.toNat = some e → (ownerOf e.rcd ≠ x → exec (.residencyStep n) s = .next (u.freed m.src)) ∧
      (ownerOf e.rcd = x → let v := (u.cacheModel e).freed m.src
        (v.exImage e.at_ = 0#64 → exec (.residencyStep n) s = .next (v.lateFault (e.sl / 32) k x 328 key)) ∧
        (v.exImage e.at_ ≠ 0#64 → ∀ y, y = v.exWord (e.at_ + 24) (setFld (v.exW3 e.at_) 61 2 (w % 4)) → exec (.residencyStep n) s = .next (if w = 1 then y.exPageIn e key.toNat else y))))) ∧
  (∀ r, m.body = .mat r → (r.bad = none → exec (.matrixLaunchArrival n) s = .next (u.matEnter (m.dst - 1024) r)) ∧
    (∀ t, r.bad = some t → exec (.matrixLaunchArrival n) s = .next ((u.expertDone r).reqFault (m.dst - 1024) r 134 t))) ∧
  (∀ d q, m.body = .tsPark d q → let x := q.ctx; let v := s.ovf x d; let len := fld (Tbl.get 0#64 (s.ctx x).tsctl d) 0 16; let a := s.ovPlace x d (v.head + v.len)
    (v.len = 0 ∧ (s.tsFree d x = true ∨ len = 0) ∨ v.bad = true →
      let behind : Prop := ∃ o ∈ s.net.drop (n + 1), o.src = m.src ∧ ∃ key f, o.body = .tsRelease d key f
      ((s.die d).turnstile.length < 1024 → s.tsFree d x = true ∨ v.bad = false ∨ behind → exec (.turnstilePark n) s = .next (u.tsPut d { q with late := decide (v.len ≠ 0) })) ∧
      (1024 ≤ (s.die d).turnstile.length ∨ s.tsFree d x = false ∧ v.bad = true ∧ ¬ behind → exec (.turnstilePark n) s = .next s)) ∧
    (0 < v.len → len ≤ v.len → v.bad = false → s.walking (dieAgent d) = false → exec (.turnstilePark n) s = .next (s.tsRefill d x)) ∧
    (0 < v.len ∨ s.tsFree d x = false → v.bad = false → v.len < len → s.walking (dieAgent d) = false →
      (∀ va, s.reachAll x (placesFrom a 32) false true = .error (.walk va) → exec (.turnstilePark n) s = .next (s.askWalk (dieAgent d) x va true)) ∧
      (∀ w, s.reachAll x (placesFrom a 32) false true = .ok w → w.mustWait none a 32 = false → exec (.turnstilePark n) s =
        .next ((((w.accept n m).unitWrite a (q.words.flatMap fun w => leBytes w.toNat 8)).modOvf x d fun v => { v with len := v.len + 1 }).tsRefill d x)))) ∧
  (∀ d key fail t, m.body = .tsRelease d key fail → s.walking (dieAgent d) = false → s.tsFind d m.ctx key = .ok (none, t) → exec (.turnstileRelease n) s = .next (t.accept n m))

/-- What reaches the home of a queue (R91, R157, R281): pushes, pops, operations and the two rounds of R91. -/
def Sys2Proof.Rules.QueueArrivals : Prop := ∀ (s : State) (n : Nat) (m : Msg), s.deliverable n = some m →
  let u := s.accept n m
  (∀ k h it, m.body = .qpush k h it → (u.findQueue m.ctx h = none → exec (.queuePushArrival n) s = .next (u.answer m.ctx m.dst k 0 (.fault 197 h))) ∧
    (∀ q t, u.findQueue m.ctx h = some q → (u.qPush q k it = (.done, t) → exec (.queuePushArrival n) s = .next (t.answer m.ctx m.dst k 0 (.val 0#512))) ∧
      (u.qPush q k it = (.wait, t) → exec (.queuePushArrival n) s = .next t) ∧
      (∀ c, u.qPush q k it = (.fault c, t) → exec (.queuePushArrival n) s = .next (t.answer m.ctx m.dst k 0 (.fault c h))))) ∧
  (∀ k e h b, m.body = .qpop k e h b → (u.findQueue m.ctx h = none → exec (.queuePopArrival n) s = .next (u.answer m.ctx m.dst k 0 (.fault 197 h))) ∧
    (∀ q t, u.findQueue m.ctx h = some q → (∀ v, u.qPop q k e b = (.item v, t) → exec (.queuePopArrival n) s = .next (t.answer m.ctx m.dst k 0 (.val v))) ∧
      (u.qPop q k e b = (.wait, t) → exec (.queuePopArrival n) s = .next t))) ∧
  (∀ k h op t, m.body = .qctl k h op → (∀ v, u.qCtlStep k h op = (.ok v, t) → exec (.queueControlArrival n) s = .next (t.answer m.ctx m.dst k 0 (.val v))) ∧
    (∀ e, u.qCtlStep k h op = (.error e, t) → exec (.queueControlArrival n) s = .next (t.answer m.ctx m.dst k 0 (.fault e h)))) ∧
  (∀ k ix e h push, m.body = .qrsv k ix e h push → (u.findQueue m.ctx h = none → exec (.reservationRound n) s = .next (u.answer m.ctx m.dst k ix (.fault 197 h))) ∧
    (∀ q, u.findQueue m.ctx h = some q → (push = true → (u.queue q).closed = true → exec (.reservationRound n) s = .next (u.answer m.ctx m.dst k ix (.fault 198 h))) ∧
      (push = false ∨ (u.queue q).closed = false → ∀ v t, u.qReserve q k ix e push = (v, t) → exec (.reservationRound n) s = .next (t.answer m.ctx m.dst k ix (.val v))))) ∧
  (∀ k ix h it q, m.body = .qfin k ix h true it → u.findQueue m.ctx h = some q → exec (.commitRound n) s = .next ((u.qFinish q k ix true it).answer m.ctx m.dst k ix (.val 0#512))) ∧
  (∀ k ix h it q, m.body = .qfin k ix h false it → u.findQueue m.ctx h = some q → exec (.commitRound n) s = .next (u.qFinish q k ix false it)) ∧
  (∀ k o, m.body = .qback k o → (∀ q, u.findQueue m.ctx o.h = some q → exec (.commitRound n) s = .next (u.qBack q k o.seq o.it o.was)) ∧
    (u.findQueue m.ctx o.h = none → exec (.commitRound n) s = .next u))

/-- What each message does at the unit it reaches. Of the model: logs 13, 14, 23, 42, 65, 68 and 74. -/
def Obligations.NetworkArrivals : Prop := Rules.ArrivalResults ∧ Rules.QueueArrivals

/-- What ends a slot's wait: answers, acknowledgements, messages sent again, time-outs, the normaliser, an injected fault (R67, R137, R138,
R222, R258, R270, R322). -/
def Sys2Proof.Rules.WaitsEnd : Prop := ∀ (s : State) (n k : Nat) (m : Msg),
  (∀ v, s.net[n]? = some m → m.body = .reply k 0 (.val v) → (s.slot k).wait ∈ [.queue, .group, .system, .engine, .fe, .bbar, .resv] → exec (.reply n) s = .next ((s.without n).complete k v)) ∧
  (∀ c t, s.net[n]? = some m → m.body = .reply k 0 (.fault c t) → (s.slot k).wait ∈ [.queue, .group, .system, .engine, .fe, .bbar, .resv] → exec (.reply n) s = .next ((s.without n).raiseAt k c t)) ∧
  (∀ p r, s.net[n]? = some m → m.body = .reply k p r → (s.slot k).wait = .reply → exec (.reply n) s = .next ((s.without n).partReply k p r)) ∧
  (∀ vc, s.net[n]? = some m → m.body = .ack k vc → exec (.acknowledgement n) s = .next (((s.without n).modSlot k fun sl => { sl with acks := sl.acks.erase vc }).ackWake k)) ∧
  (∀ due, s.net[n]? = some m → m.back = some due → (due ≤ s.senderCyc m → exec (.refusalResend n) s = .next { s with net := s.net.modify n fun m => { m with back := none } }) ∧
    (s.senderCyc m < due → exec (.refusalResend n) s = .next s)) ∧
  (∀ t, (s.slot k).wait = .monitor t → (s.slot k).monto ≠ 0#64 →
    (t + (s.slot k).monto.toNat ≤ (s.core (coreOf k)).cyc → exec (.monitorTimeout k) s = .next (s.complete k (BitVec.ofNat 512 (2 ^ 63)))) ∧
    ((s.core (coreOf k)).cyc < t + (s.slot k).monto.toNat → exec (.monitorTimeout k) s = .next s)) ∧
  (∀ t o, (s.slot k).wait = .message t o false → (s.slot k).monto ≠ 0#64 → t + (s.slot k).monto.toNat ≤ (s.core (coreOf k)).cyc → exec (.waitmsgTimeout k) s = .next (s.complete k 0#512)) ∧
  (∀ c q t, (s.core c).normQ = [k] → q = s.modCore c (fun co => { co with normQ := [] }) → (s.slot k).wait = .norm (some t) → t + 32 ≤ (s.core c).cyc → exec (.normaliserDone c) s = .next (q.complete k 0#512)) ∧
  (∀ f, coreOf k < 1024 → s.inStep (coreOf k) = true → (s.slot k).inj = some f → (s.slot k).err = none → s.runs (coreOf k) = true → s.turnOwner (coreOf k) = k → s.issues (coreOf k) = true →
    exec (.injectedFaultTaken k) s = .next { (s.beginCycle (coreOf k)).takeInjected k f with ending := some (coreOf k) })

/-- Commit (R245, R251 to R256): the request, the grant in the order of the arbiter, after which every byte that the chunk has written reads
as the chunk left it, the solo grant, and the write-back of a line; and the grant of a slice's reservation of a word outside GLB (R127). -/
def Sys2Proof.Rules.CommitResults : Prop := ∀ (s : State) (k : Nat),
  ((s.slot k).wantsCommit = true → (s.slot k).commitReq = false → s.inOrder (portArb (dieOf k)) (s.tid k) = true → exec (.commitRequest k) s =
    .next (((s.stamp (portArb (dieOf k)) (s.tid k)).modSlot k fun sl => { sl with commitReq := true }).modDie (dieOf k) fun d => { d with arb := d.arb ++ [k] })) ∧
  (let firsts := (((s.slot k).chunk.stores.map (·.1)).map lineOf).eraseDups.map fun l => (((s.slot k).chunk.stores.map (·.1)).find? fun a => lineOf a == l).getD 0;
    s.arbGrants (s.die (dieOf k)).arb k = true → s.crossDie k = false ∨ s.arbGrants s.pkgArb k = true → (s.slot k).reds = 0 → s.logOver firsts = false →
    (∀ a b, (a, b) ∈ (s.slot k).chunk.stores → s.mustWait (some k) a 1 = false) →
    exec (.commitGrant k) s = .next ((({ (s.modDie (dieOf k) fun d => { d with arb := d.arb.erase k }) with pkgArb := s.pkgArb.erase k } : State).commitWrites k).committed k)) ∧
  (s.arbGrants (s.die (dieOf k)).arb k = true → s.crossDie k = true → k ∉ s.pkgArb → s.inOrder (portArb 4) (s.tid k) = true →
    exec (.commitGrant k) s = .next { s.stamp (portArb 4) (s.tid k) with pkgArb := s.pkgArb ++ [k] }) ∧
  (∀ a j, a = (s.die (dieOf k)).arb → k ∉ a ∨ j ∈ a.takeWhile (· ≠ k) ∧ (s.slot k).chunk.overlap (s.slot j).chunk = true → exec (.commitGrant k) s = .next s) ∧
  ((s.slot k).reds ≠ 0 → s.crossDie k = false → exec (.commitGrant k) s = .next s) ∧
  (∀ q, s.soloHolder = none → s.soloQ = k :: q → (s.slot k).wait = .solo → ((s.slot k).reds ≠ 0 → exec .soloGrant s = .next s) ∧ ((s.slot k).reds = 0 →
    ∃ t, exec .soloGrant s = .next t ∧ t.soloHolder = some k ∧ t.soloQ = q ∧ (t.slot k).solo = true ∧ (t.slot k).wait = .reissue ∧ (t.slot k).st = (s.slot k).st)) ∧
  (∀ l c, s.lines.find l = some c → (c.dirty = true → exec (.lineWriteback l false) s = .next (s.writeBack l)) ∧ (s.lineMarked l = false → exec (.lineWriteback l true) s = .next ((s.writeBack l).dropLine l)) ∧
    (s.lineMarked l = true → exec (.lineWriteback l true) s = .next s)) ∧
  (∀ r o t, s.resv = [r] → s.mirrorHolds r = false → r.place < glb0 → (∀ ids st c j, r.op ≠ .route ids st c j) → r.held = false → s.walking r.who = false → s.mustWait (some r.k) r.place 8 = false →
    ({ s with resv := [] } : State).homeStep r.k false r.place r.op = (o, t) →
    (r.red = false ∨ (∀ v, o ≠ .val v) → exec (.sliceReservationGrant 0) s = .next (t.resvResult r o)) ∧
    (∀ v, r.red = true → o = .val v → exec (.sliceReservationGrant 0) s =
      .next ((if ((t.slot r.k).chunk.reads.find (lineOf r.place)).isSome then t.squash r.k else t).redDone r.k))) ∧
  (∀ n r o, s.resv[n]? = some r → o ∈ s.resv.take n → o.place / 8 = r.place / 8 ∨ o.k = r.k → exec (.sliceReservationGrant n) s = .next s)

/-- Every byte that a chunk has written reads after its commit as the chunk left it, every other byte as before (R250, R252); the chunk writes
lines that the package holds, none of a watched region. -/
def Sys2Proof.Rules.CommitBytes : Prop := ∀ (s : State) (k a : Nat), s.memWf = true → ((s.slot k).chunk.stores.map (·.1)).Pairwise (· < ·) → (s.lines.map (·.1)).Pairwise (· < ·) →
  (∀ b c, (b, c) ∈ (s.slot k).chunk.stores → b < glb0 ∧ (s.slot k).chunk.trs.find (lineOf b) = none ∨ ∃ l, s.lines.find (lineOf b) = some l ∧ l.tr.watch = none) →
  (s.commitWrites k).byteAt a = ((s.slot k).chunk.stores.find a).getD (s.byteAt a)

/-- The commit of a chunk, and the bytes it leaves. Of the model: logs 14, 16, 68 and 100. -/
def Obligations.CommitRules : Prop := Rules.CommitResults ∧ Rules.CommitBytes

/-- The jobs of Table 11-1 that a vacant turn performs, each by its own row (R268 to R276, R282): the turn's own woken slot comes before every other job, a record that cannot be read is not landed,
a core steals only while it is hungry; and the delay after a sweep. Of the model: logs 14, 68 and 72. -/
def Obligations.SequencerResults : Prop := ∀ (s : State) (c k q l v : Nat),
  Serves (.sequencerReissue k) (coreOf k) s (.reissue k) ∧ Serves (.landRecord c) c s (.landPop k) ∧ Serves (.landRecord c) c s (.landArrived k) ∧
  (q < 64 → s.qcore (l * 64 + q) = c → Serves (.queueSpillRefill l q) c s (.refill (l * 64 + q)) ∧ Serves (.queueSpillRefill l q) c s (.spill (l * 64 + q))) ∧
  Serves (.dequeSpillMove c) c s (.dequeOut l) ∧ Serves (.dequeSpillMove c) c s (.dequeBack l) ∧ Serves (.stealRequest c) c s (.steal v) ∧
  (∀ j, s.job c = some j → ((s.slot (s.turnOwner c)).wait = .reissue → j = .reissue (s.turnOwner c)) ∧ (∀ k, j = .landPop k → s.canPopRec c = true) ∧
    (∀ k, j = .landArrived k → (s.core c).arrived ≠ []) ∧ (∀ v, j = .steal v → s.hungry c = true ∧ (s.core c).stealing = false ∧ (s.core c).rest = none ∧ v ∈ s.victims c)) ∧
  (∀ t, (s.core c).rest = some t → (t + 256 ≤ (s.core c).cyc → exec (.stealSweepDelay c) s = .next (s.modCore c fun co => { co with rest := none })) ∧
    ((s.core c).cyc < t + 256 → exec (.stealSweepDelay c) s = .next s))

/-- What ends a walk (R290 to R297): a translation that the slice already holds, an open miss record that the requester joins, a fault, a leaf, a
first miss; the host's answers; and the message of a miss on its way to firmware and back. -/
def Sys2Proof.Rules.TranslationResults : Prop := ∀ (s : State) (n : Nat) (w : Walk), s.walks[n]? = some w →
  (w.st = 0 → (∀ t, s.tlb w.x w.va = some t → exec (.translationWalk n) s = .next (s.dropWalks (· == w))) ∧
    (s.tlb w.x w.va = none → (∀ m, s.missOf w.sl w.x w.va = some m → m.open_ = true → exec (.translationWalk n) s = .next (s.joinMiss w)) ∧
      ((∀ m, s.missOf w.sl w.x w.va = some m → m.open_ = false) →
        (∀ c, s.walkTable w.x w.va = .fault c → exec (.translationWalk n) s = .next (s.walkFault w c)) ∧
        (∀ e l first, s.walkTable w.x w.va = .leaf e l first → e.kind = 0 →
          exec (.translationWalk n) s = .next ((s.orEntry first 14).installed w (leafTrans w.x w.va e l (nat (s.num (first + 8) 8))))) ∧
        (∀ e l first, s.walkTable w.x w.va = .leaf e l first → e.kind = 1 → s.attached e.pa (codeBytes (4 * l + e.size)) = false → exec (.translationWalk n) s = .next (s.walkFault w 127)) ∧
        (s.walkTable w.x w.va = .miss → let full := 32 ≤ (s.misses.filter fun m => m.sl == w.sl && m.open_).length
          (∀ m, s.missOf w.sl w.x w.va = some m → (4 ≤ m.rep → exec (.translationWalk n) s = .next ((s.setMiss m none).rejectKey w 100)) ∧
            (m.rep < 4 → ¬ full → exec (.translationWalk n) s = .next (s.missSend { m with rep := m.rep + 1, open_ := true, page := false, asked := false, wr := w.wr, fea := w.fea } w)) ∧
            (m.rep < 4 → full → exec (.translationWalk n) s = .next s)) ∧
          (s.missOf w.sl w.x w.va = none →
            (¬ full → exec (.translationWalk n) s = .next (s.missSend { sl := w.sl, x := w.x, vpn := w.va / 4096, page := false, wr := w.wr, fea := w.fea } w)) ∧
            (full → exec (.translationWalk n) s = .next s)))))) ∧
  (∀ t pa, w.st = 1 → w.leaf = some t → (pa % t.size = 0 → pa + t.size ≤ 2 ^ 52 → exec (.atsCompletion n 0 pa) s = .next (s.installed w { t with place := pageBase 2 pa })) ∧
    (∀ f, s.vfOf w.x = some f → (Tbl.get false s.links.noPri f = true → exec (.atsCompletion n 1 pa) s = .next (s.walkFault w 102)) ∧
      (Tbl.get false s.links.noPri f = false → exec (.atsCompletion n 1 pa) s = .next ((s.missed w true).getD s))) ∧
    exec (.atsCompletion n 2 pa) s = .next (s.walkFault w 123) ∧ exec (.atsCompletion n 3 pa) s = .next (s.walkFault w 124))

/-- Misses (R293 to R297): fault messages merge at a router and are queued at the ringmaster, wakes are copied to the recorded ports, and the answers of
the host to a page request end its records; a function whose requests failed asks no more until it is enabled again. -/
def Sys2Proof.Rules.MissResults : Prop := ∀ (s : State) (n : Nat) (m : Msg),
  (∀ key u src wr fea rep, s.fltReady n = some m → m.body = .faultMsg key u src wr fea rep → u < 128 → (∀ e ∈ (s.clu u).merge, e.1 ≠ key) → (s.clu u).merge.length < 16 →
    exec (.faultMessage n) s = .next (((s.without n).modClu u fun c => { c with merge := (s.clu u).merge ++ [(key, rep, [src])] }).fltSend u ((treeUp u).getD (128 + u / 32))
      (.faultMsg key ((treeUp u).getD (128 + u / 32)) u wr fea rep))) ∧
  (∀ key d src wr fea rep, s.fltReady n = some m → m.body = .faultMsg key (128 + d) src wr fea rep → (s.die d).faults = [] → ∃ t, exec (.faultMessage n) s = .next t ∧ t.net = s.net.eraseIdx n ∧
    (t.die d).faults.find 0 = some ⟨s.serial, key, wr, fea, rep, false⟩) ∧
  (∀ key u act ps r, s.fltReady n = some m → m.body = .wake key u act → u < 128 → (s.clu u).merge.find? (·.1 == key) = some (key, r, ps) →
    ∃ t, exec (.wake n) s = .next t ∧ t.net = s.net.eraseIdx n ++ ps.map fun p => ⟨fltPort u, fltPort p, .wake key p act, 0, none⟩) ∧
  (∀ r key act, s.fltReady n = some m → m.body = .wake key (256 + r.sl) act → s.misses = [r] → r.open_ = true → r.page = false → key = r.x * 2 ^ 40 + r.vpn →
    exec (.wake n) s = .next (if act = 0 then (s.without n).retryMiss r else (s.without n).rejectMiss r 101)) ∧
  (∀ r, s.misses[n]? = some r → r.asked = true → r.open_ = true → let ms := s.misses.filter (fun o => o.asked && o.open_ && o.x == r.x && o.vpn == r.vpn)
    let next (u : State) : State := u.pageSend r.x u.misses.length
    exec (.pageRequestSuccess n) s = .next (next (ms.foldl State.retryMiss s)) ∧
    exec (.pageRequestInvalidRequest n) s = .next (next (ms.foldl (fun s m => s.rejectMiss m 102) s)) ∧
    (∀ f, s.vfOf r.x = some f → exec (.pageRequestResponseFailure n) s =
      .next (next (ms.foldl (fun s m => s.rejectMiss m 102) { s with links := { s.links with noPri := s.links.noPri.put f true } })))) ∧
  (∀ m x, x = m.x → s.misses = [m] → m.open_ = true → m.page = true → m.asked = false → ∀ f, s.vfOf x = some f →
    (0 < Tbl.get 0 s.links.priAlloc f → (s.pageSend x 1).misses = [{ m with asked := true }]) ∧ (Tbl.get 0 s.links.priAlloc f = 0 → s.pageSend x 1 = s)) ∧
  (Tbl.get false s.links.noPri n = true → exec (.pageRequestReenable n) s = .next { s with links := { s.links with noPri := s.links.noPri.del n } }) ∧
  (∀ k, 128 ≤ (s.clu n).dlog.length → (s.clu n).dlog = k → exec (.dirtyLogMerge n) s =
    .next (k.foldl (fun s e => s.mergePage (n / 32) e) ((s.modClu n fun c => { c with dlog := [] }).modDie (n / 32) fun di => { di with harvest := di.harvest.del n })))

/-- Walks, misses and the answers to them. Of the model: logs 28, 48, 50, 52, 53, 68 and 93. -/
def Obligations.TranslationSteps : Prop := Rules.TranslationResults ∧ Rules.MissResults

/-- A matrix engine's own steps (R189, R204, R206, R213, R215, R217): the start of the best operation, the next k-block, ageing, the reservation of a mirror record, and
the completion. -/
def Sys2Proof.Rules.MatrixEngine : Prop := ∀ (s : State) (cl : Nat) (o : MatOp),
  (s.matRun cl = none → bestOp ((s.clu cl).matq.filter fun o => s.canStart cl o && (s.ctx o.req.ctx).frz < 2) = some o → ∃ f, exec (.arrayIdleStart cl) s =
    .next { s.modMat cl o.id f with serial := s.serial + 1 } ∧ ∀ p : MatOp, (f p).st = 1 ∧ (f p).req = p.req ∧ (f p).id = p.id) ∧
  (∀ q u, s.matRun cl = some o → o.rej = none → o.kb < o.req.kblocks → o.req.mirror = false → s.walking (.mat cl o.id) = false → (s.ctx o.req.ctx).frz < 2 → s.tileFault cl o = none →
    (∀ b, bestOp ((s.clu cl).matq.filter fun p => p.st == 0 && p.req.kind ≠ 9 && (s.ctx p.req.ctx).frz < 2) = some b → b.eff ≤ o.eff) → s.kTake cl o = .ok (q, u) → q.outs = [] →
    let p := q.done (elemFmt (fmtOf (o.req.g 0))) (elemFmt (u.bFmt cl o.req))
    exec (.kStepBoundary cl) s = .next ((u.modMat cl o.id fun _ => p).bump cl 3 (p.skips - o.skips))) ∧
  (∀ (q : KStep) (fa fb : Fmt) (i j : Nat) (row : List Nat) (v : Nat) (a b : Nat × List Nat), (q.o.accs.getD [])[i]? = some row → row[j]? = some v → q.a[i]? = some a → q.b[j]? = some b → (q.done fa fb).kb = q.o.kb + 1 ∧
    ∃ r, ((q.done fa fb).accs.getD [])[i]? = some r ∧ r[j]? = some (accBlock fa fb q.o.req.zsm (v, 0) a b).1) ∧
  (∀ b, s.matRun cl = some o → o.kb < o.req.kblocks → o.req.mirror = false → (s.ctx o.req.ctx).frz < 2 →
    bestOp ((s.clu cl).matq.filter fun p => p.st == 0 && p.req.kind ≠ 9 && (s.ctx p.req.ctx).frz < 2) = some b → o.eff < b.eff → s.banksUsed cl < 2 → (∀ p ∈ (s.clu cl).matq, p.st ≠ 2) → s.walking (.mat cl o.id) = false → o.id ≠ b.id →
    (∀ p ∈ (s.clu cl).matq, p.id = o.id → p = o) →
    ∃ t, exec (.kStepBoundary cl) s = .next t ∧ t.mem = s.mem ∧ t.slots = s.slots ∧ (∀ p ∈ (t.clu cl).matq, (p.id = o.id → p.st = 2 ∧ p.ovt = true ∧ p.accs = o.accs ∧ p.kb = o.kb) ∧ (p.id = b.id → p.st = 1) ∧
      (p.id ≠ o.id → p.id ≠ b.id → p ∈ (s.clu cl).matq))) ∧
  (∀ j, (s.clu cl).matq[j]? = some o → o.st ≠ 1 → o.req.kind ≠ 9 → o.aged < 3 → exec (.priorityAgeing cl j) s = .next (s.modMat cl o.id fun o => { o with aged := o.aged + 1 })) ∧
  (∀ u, let p := s.opBase (coreOf o.req.k) (o.req.g 6)
    s.matRun cl = some o → o.req.kind = 5 → o.granted = false → s.clusters = [(cl, s.clu cl)] → (s.clu cl).matq = [o] → s.resv = [] → s.walking (.mirror cl o.id) = false → (s.ctx o.req.ctx).frz < 2 →
    (s.recordWords o.req p = .ok u → u.mirrorCheck o.req p = none →
      exec (.mirrorReservationGrant cl) s = .next (u.modMat cl o.id fun o => { o with granted := true, rcd := (List.range 16).map (u.mrec p), mirrorGen := 0, region := none })) ∧
    (s.need o.req.view [(p + 8, 8)] = .ok u → fld (u.mrec p 1) 0 24 ≠ o.req.ctx → exec (.mirrorReservationGrant cl) s = .next (s.matFault cl o 264 (o.req.g 6)))) ∧
  (s.matRun cl = some o → 3 ≤ o.req.kind → o.req.kind ≤ 5 → s.recordTaken (s.opBase (coreOf o.req.k) (o.req.g 6)) o.id o.seq = true → exec (.mirrorReservationGrant cl) s = .next s) ∧
  (∀ res u w, s.matRun cl = some o → o.rej = none → o.req.kblocks ≤ o.kb → o.req.kind < 3 ∨ 5 < o.req.kind ∨ o.granted = true → s.walking (.mat cl o.id) = false → (s.ctx o.req.ctx).frz < 2 →
    s.matResult cl o = .ok (res, u) → u.reachOuts o.req.view res.outs = .ok w → w.outsWait res.outs = false →
    exec (.matrixOperationCompletion cl) s = .next ((w.putOuts res.outs false).matDone cl o res)) ∧
  (∀ c va, s.matRun cl = some o → o.rej = some (c, va) → o.req.kblocks ≤ o.kb → o.req.kind < 3 ∨ 5 < o.req.kind ∨ o.granted = true → s.walking (.mat cl o.id) = false → (s.ctx o.req.ctx).frz < 2 →
    exec (.matrixOperationCompletion cl) s = .next ((s.matStop cl o c (glbAt o.req.ctx va)).getD s)) ∧
  (∀ c a, s.matRun cl = some o → o.rej = none → o.req.kblocks ≤ o.kb → o.req.kind < 3 ∨ 5 < o.req.kind → s.walking (.mat cl o.id) = false → (s.ctx o.req.ctx).frz < 2 →
    s.matResult cl o = .error (.stop c a) → c ≠ 130 → c ≠ 134 → a < 2 ^ 64 → exec (.matrixOperationCompletion cl) s = .next (s.matFault cl o c (nat (addrOf a))))

/-- Grouped tiles (R208 to R211, R308, R309): a walk takes its next record, a faulty one stops it, an expert's tile is dispatched, or parked while its expert is away; tiles move
to an idle engine; released tiles are dispatched. -/
def Sys2Proof.Rules.GroupedTiles : Prop := ∀ (s u : State) (cl : Nat) (o : MatOp),
  (let rp := o.req.g 6 + nat (64 * o.next); let a := s.opBase (coreOf o.req.k) rp
    ((s.clu cl).matq.find? fun o => o.req.kind == 9 && !o.walkDone) = some o → s.walking (.mat cl o.id) = false → (s.ctx o.req.ctx).frz < 2 → s.need o.req.view [(a, 64)] = .ok u →
    let w := (List.range 8).map fun i => nat (u.num (a + 8 * i) 8); let r := groupTile o.req o.id rp w
    (u.recordBad cl r w = true → exec (.groupRecordWalk cl) s = .next (u.walkBad cl o rp 268 rp)) ∧
    (u.recordBad cl r w = false → r.expert = none → (u.clu cl).matq.length < 32 → exec (.groupRecordWalk cl) s = .next ((u.dispatchTile cl (u.tileHandle cl r)).walkNext cl o)) ∧
    (∀ key e, u.recordBad cl r w = false → r.expert = some key → u.expertOf key.toNat = some e → ownerOf e.rcd = o.req.ctx → (u.cacheModel e).exHere e = true → ((u.cacheModel e).clu cl).matq.length < 32 →
      exec (.groupRecordWalk cl) s = .next ((((u.cacheModel e).exSetRefs e key.toNat (· + 1)).dispatchTile cl ((u.cacheModel e).expertB cl r e)).walkNext cl o)) ∧
    (∀ key e, u.recordBad cl r w = false → r.expert = some key → u.expertOf key.toNat = some e → ownerOf e.rcd = o.req.ctx → (u.cacheModel e).exHere e = false → (u.cacheModel e).tsRoom (cl / 32) o.req.ctx = true →
      let v := (((u.cacheModel e).exPageIn e key.toNat).exSetTurn e.at_ (· + 1)).send o.req.ctx (portSlice e.sl) (portSlice (32 * (cl / 32)))
        (.tsPark (cl / 32) ⟨key, rp, o.req.ctx, o.req.k, cl, o.req.g 5, o.req.rm, o.id, false, false⟩)
      exec (.groupRecordWalk cl) s = .next (((v.bump cl 9 1).modMat cl o.id fun o => { o with parked := o.parked + 1 }).walkNext cl o)) ∧
    (∀ key e, u.recordBad cl r w = false → r.expert = some key → u.expertOf key.toNat = some e → ownerOf e.rcd = o.req.ctx → (u.cacheModel e).exHere e = false → (u.cacheModel e).tsRoom (cl / 32) o.req.ctx = false →
      o.stalled = false → exec (.groupRecordWalk cl) s = .next ((((u.cacheModel e).exPageIn e key.toNat).modMat cl o.id fun o => { o with stalled := true }).bump cl 8 1))) ∧
  (∀ x v p, s.owner cl = some (x, v) → (s.clu cl).matq = [] → (s.clu cl).matPort = [] → (s.ctx x).frz < 2 →
    (let waiting := fun p => (s.clu p).matq.filter fun o => o.st == 0 && o.req.tile.isSome;
      ((List.range 128).filterMap fun v => (s.place x v).filter fun p => p / 32 == cl / 32 && p ≠ cl && (waiting p).length > 1) = [p] →
      ((waiting p).find? fun o => o.req.handle.isNone) = some o → ∃ t, exec (.tileMove cl) s = .next t ∧ (t.clu cl).matq = [o] ∧ t.slots = s.slots ∧ t.mem = s.mem)) ∧
  (∀ n m d key q i e v, s.deliverable n = some m → m.body = .tsRelease d key false → s.walking (dieAgent d) = false → s.tsFind d m.ctx key = .ok (some (q, i), u) →
    let a := u.opBase (coreOf q.k) q.rcd
    u.need (viewOf q.k q.ctx) [(a, 64)] = .ok v → let w := (List.range 8).map fun j => nat (v.num (a + 8 * j) 8); let r := groupTile (v.parkedReq q) q.walk q.rcd w
    (v.recordBad q.cl r w = false → v.expertOf q.key.toNat = some e → exec (.turnstileRelease n) s = .next ((v.tsTake d q i).dispatchTile q.cl (v.expertB q.cl r e))) ∧
    (v.recordBad q.cl r w = true → ∀ e, (v.tsTake d q i).expertOf q.key.toNat = some e →
      exec (.turnstileRelease n) s = .next (((v.tsTake d q i).exSetRefs e q.key.toNat (· - 1)).tsStop q 268 q.rcd)))

/-- The copy and indirect engines and the streams (R160, R161, R222 to R235): a block is written whole, with the bytes of every row that lies in it; from another package all of its parts are asked for, to one it goes in
one message; the lists of an indirect operation and its next planned block; and the steps of a stream. -/
def Sys2Proof.Rules.EngineSteps : Prop := ∀ (s : State) (e j : Nat) (o : EngOp),
  ((s.engOps e)[j]? = some o → o.done = false → s.walking (.eng e o.id) = false → s.engMayRun o = true →
    (o.req.kind = 0 ∨ o.req.kind ≤ 2 ∧ o.plan ≠ none → exec (.engineBlockWrite e j) s = .next ((s.moveBlock e o).getD s)) ∧
    (∀ bs, 2 < o.req.kind → o.plan = some bs → exec (.engineBlockWrite e j) s = .next ((s.planBlock e o bs).getD s)) ∧
    (o.req.kind ≠ 0 → o.plan = none →
      (∀ ws u, o.got.length < o.req.listLen → s.listRead o = .ok (ws, u) → exec (.engineBlockWrite e j) s = .next (u.modEng e o.id fun o => { o with got := o.got ++ ws })) ∧
      (∀ c, o.req.listLen ≤ o.got.length → o.listFault = some c → exec (.engineBlockWrite e j) s = .next (s.engStop e o.id c)) ∧
      (o.req.listLen ≤ o.got.length → o.listFault = none → exec (.engineBlockWrite e j) s = .next (s.modEng e o.id fun p => { p with plan := some (s.enginePlan o) })))) ∧
  (let r := o.req; let src := s.opBase (coreOf r.k) (r.g 0); let dst := s.opBase (coreOf r.k) (r.g 1)
    let go (q : Pos) (s : State) (rem : List Remote) : State := s.modEng e o.id fun p =>
      { p with plane := q.1, row := q.2.1, byte := q.2.2, done := decide (r.planeCount ≤ q.1), remote := p.remote ++ rem }
    r.kind ≤ 2 → (o.rowDst dst o.plane o.row = none → s.moveBlock e o = some ((go (r.nextRow (o.plane, o.row, o.byte)) s []).engLast e o.id)) ∧
    ∀ a, o.rowDst dst o.plane o.row = some a → let blk := (a + o.byte).toNat / 64; let stop := (64 * blk + 64 - a).toNat
      let q := if stop < r.rb then (o.plane, o.row, stop) else r.nextRow (o.plane, o.row, o.byte)
      let ps := o.blockParts src dst blk; let l := ps.flatMap (·.2); let pkg := r.f 4 50 12; let g := fld ((s.granted r.ctx pkg).getD 0#64) 0 24
      (∀ p ps', ps = p :: ps' → p.1 ≠ (o.plane, o.row, o.byte) → s.moveBlock e o = some ((go q s []).engLast e o.id)) ∧
      (r.kind = 0 → r.xp = true → r.xd = false → ∀ p ps' u, ps = p :: ps' → p.1 = (o.plane, o.row, o.byte) → s.reachAll r.view (l.map (·.dst)) false true = .ok u →
        let parts := (ps.map (·.2)).filter (!·.isEmpty)
        s.moveBlock e o = some (go q (parts.foldl (fun s m => s.toPackage pkg (.get pkg e o.id g (glbVa (((m.head?).map fun b => b.src.getD 0).getD 0)) m.length)) u)
          (parts.map fun m => { place := ((m.head?).map (·.dst)).getD 0, n := m.length }))) ∧
      (r.kind ≠ 0 ∨ r.xp = false ∨ r.xd = true →
        (∀ p ps' bs u, ps = p :: ps' → p.1 = (o.plane, o.row, o.byte) → s.engRead r.view (l.filterMap (·.src)) = .ok (bs, u) →
          let w := l.foldl (fun (t : Tbl Byte) m => t.put m.dst (u.movedByte m)) []; let rs := runsOf w
          (r.kind = 0 → r.xp = true → s.moveBlock e o =
            some (go q (u.toPackage pkg (.put pkg e o.id g (rs.map fun (b, d) => (glbVa b, d)))) [{ place := 64 * blk, n := w.length }])) ∧
          (r.kind ≠ 0 ∨ r.xp = false → ∀ w, u.reachAll r.view (l.map (·.dst)) false true = .ok w → (w.mustWait none (64 * blk) 1 = true → s.moveBlock e o = none) ∧
            (w.mustWait none (64 * blk) 1 = false → s.moveBlock e o = some (((go q (w.engWrites false rs) []).sendCredit e o.id l.length).engEnd e o.id)))))) ∧
  (∀ src dst p n b a, p < o.req.planeCount → n < o.req.rows → b < o.req.rb → o.rowDst dst p n = some a → 0 ≤ a + b →
    ∃ part ∈ o.blockParts src dst ((a + b).toNat / 64), part.1.1 = p ∧ part.1.2.1 = n ∧ ⟨(o.rowSrc src p n b).1, (o.rowSrc src p n b).2, (a + b).toNat⟩ ∈ part.2) ∧
  (∀ cl st qs qd, (s.clu cl).streams.find j = some st → s.walking (.stream cl j) = false → (s.ctx st.x).frz < 2 → s.findQueue st.x st.hs = some qs → s.findQueue st.x st.hd = some qd →
    (s.queue qd).prod = [] → (s.queue qd).inbox = [] → st.fin = false →
    (∀ i last u, st.out = some (i, last) → s.inOrder (s.qcore qd) st.vtid = true → (s.stamp (s.qcore qd) st.vtid).qPush qd (16384 + cl * 4 + j) i = (.done, u) →
      exec (.streamItem cl j) s = .next (if last || st.stop then u.streamEnd cl j st else u.modStream cl j fun st => { st with out := none })) ∧
    (∀ i r u, st.out = none → st.idx = some i → s.streamItem st i = .ok (r, u) → exec (.streamItem cl j) s = .next (u.modStream cl j fun st => { st with idx := none, out := some r })) ∧
    (∀ v u, st.out = none → st.idx = none → st.stop = false → 0 < (s.queue qs).avail → s.inOrder (s.qcore qs) st.vtid = true →
      (s.stamp (s.qcore qs) st.vtid).qPop qs (16384 + cl * 4 + j) st.qs false = (.item v, u) → let i := Item.dec v
      exec (.streamItem cl j) s = .next (u.modStream cl j fun st => if i.tok then { st with out := some (i, i == endToken) } else { st with idx := some i.w.toNat })) ∧
    (st.out = none → st.idx = none → st.stop = true → exec (.streamItem cl j) s = .next (s.streamEnd cl j st)))

/-- The steps of the matrix, copy and indirect engines. Of the model: logs 11, 14, 26, 37, 39, 43, 68, 74 and 89. -/
def Obligations.EngineRules : Prop := Rules.MatrixEngine ∧ Rules.GroupedTiles ∧ Rules.EngineSteps

/-- Parades and the watch on stuck queues (R265, R266, R328): a visit that is not the last adds the interface's count and colour and clears the colour; a last one of a group
whose counts add up to nothing, with no colour and nothing in flight, ends the wait of every slot, and so does a circuit without an interface (log 7); a queue stuck for 4,096 cycles starts its context's watch. -/
def Sys2Proof.Rules.ParadeResults : Prop := ∀ (s : State) (x j i : Nat) (p : Parade) (r : List Nat), (s.ctx x).parades[j]? = some p →
  (p.todo = [] → p.kind = 0 → p.sum = 0 → p.black = false → p.joined = [] → ∃ t, exec (.paradeVisit x j) s = .next t ∧ (t.ctx x).parades = (s.ctx x).parades.eraseIdx j ∧
    ∀ k ∈ p.waiters, (s.slot k).wait = .parade → (t.slot k).st = .run ∧ (t.slot k).latch.res = some 0#512) ∧
  (p.todo = i :: r → p.kind = 0 → r ≠ [] → ∃ t, exec (.paradeVisit x j) s = .next t ∧ t.slots = s.slots ∧ t.net = s.net ∧
    (t.ctx x).parades = (s.ctx x).parades.set j { p with todo := r, sum := p.sum + Tbl.get 0 (s.ctx x).counts (counterIx p.scope p.inst i), black := p.black || Tbl.get false (s.ctx x).blacks (counterIx p.scope p.inst i) }) ∧
  (p.todo = i :: r → p.kind = 0 → r = [] → p.sum + Tbl.get 0 (s.ctx x).counts (counterIx p.scope p.inst i) = 0 → p.black = false → Tbl.get false (s.ctx x).blacks (counterIx p.scope p.inst i) = false → p.joined = [] →
    ∃ t, exec (.paradeVisit x j) s = .next t ∧ (t.ctx x).parades = (s.ctx x).parades.eraseIdx j ∧
      ∀ k ∈ p.waiters, (s.slot k).wait = .parade → (t.slot k).st = .run ∧ (t.slot k).latch.res = some 0#512) ∧
  (∀ cl q t, (s.queue (cl * 64 + q)).stuckAt = some t → q < 64 → t + 4096 ≤ (s.core (s.qcore (cl * 64 + q))).cyc → (∀ p ∈ (s.ctx (s.qctx (cl * 64 + q))).parades, p.kind ≠ 1) →
    ∃ u, exec (.queueStuckTimeout cl q) s = .next u ∧ u.slots = s.slots ∧ (u.ctx (s.qctx (cl * 64 + q))).parades.length = (s.ctx (s.qctx (cl * 64 + q))).parades.length + 1)

/-- What ends a wait: answers, time-outs, parades. Of the model: logs 12, 14, 68, 77 and 87. -/
def Obligations.WaitsAndParades : Prop := Rules.WaitsEnd ∧ Rules.ParadeResults

/-- Freezing (R330 to R332): a stopped context is saved, its slots are FROZEN and rd gets 0, or it resumes and rd gets 46 where its safety net does not lie in HBM; THAW brings
it back and clears VALID. -/
def Sys2Proof.Rules.FreezeCompletion : Prop := ∀ (s u v : State) (x k : Nat) (ps : List (Nat × Parked)),
  ((s.ctx x).frz ≠ 2 ∨ s.drained x = false → exec (.freezeCompletion x) s = .next s) ∧
  ((s.ctx x).frz = 2 → s.drained x = true → (s.ctx x).frzSlot = some k → (s.ovReady x = .error v → exec (.freezeCompletion x) s = .next v) ∧
    (s.ovReady x = .ok v → v.freezeLast x = (ps, u) →
      ((u.keepImage x ps).netFits x = true → exec (.freezeCompletion x) s = .next (((((u.keepImage x ps).writeNet x).vacate x).modCtx x fun cx => { cx with frz := 3, frzSlot := none }).completeW k 0#64)) ∧
      ((u.keepImage x ps).netFits x = false → exec (.freezeCompletion x) s = .next ((((((u.keepImage x ps).netFails x).vacate x).restore x none).hostResume x).completeW k 46#64)))) ∧
  (∀ w, (s.ctx x).frz = 4 → (s.ctx x).frzSlot = some k → w = (s.restore x (some (s.netAt x))).hostResume x →
    exec (.thawCompletion x) s = .next ((w.putBytes (s.netAt x + 7) [BitVec.ofNat 8 (w.num (s.netAt x + 7) 1 % 128)]).completeW k 0#64)) ∧
  ((s.ctx x).frz ≠ 4 → exec (.thawCompletion x) s = .next s)

/-- FREEZE, THAW, NUDGE and TINV, and the completions of the first two. Of the model: logs 5, 44, 51, 62 and 63. -/
def Obligations.FreezingInstructions : Prop := Rules.FirmwareResults ∧ Rules.FreezeCompletion

/-- Fault records reach the queue of 256 of their die, and the ones dropped are counted (R320); a soft error in a register of a slot in use takes cause 132, in a FREE slot it only
loses the value, and one in a row of a live B-store handle makes the handle stale (R325); the records of one cycle arrive in the order of their slots, clusters and
sources (R320); a scrubber poisons the word it cannot correct and reports it (R326). -/
def Sys2Proof.Rules.ErrorResults : Prop := ∀ (s : State) (n d k b i : Nat) (r : FRec),
  (s.frFlight[n]? = some (d, r) → s.inOrder (portRecords d) r.rank = false → exec (.faultRecordArrival n) s = .next s) ∧
  (s.frFlight[n]? = some (d, r) → s.inOrder (portRecords d) r.rank = true → (s.die d).lostSince = 0 → ∃ t, exec (.faultRecordArrival n) s = .next t ∧ t.frFlight = s.frFlight.eraseIdx n ∧
    ((s.die d).frq.length < 256 → (t.die d).frq = (s.die d).frq ++ [r]) ∧ (256 ≤ (s.die d).frq.length → (t.die d).frq = (s.die d).frq ∧ (t.die d).lostSince = 1)) ∧
  (s.frFlight[n]? = some (d, r) → s.inOrder (portRecords d) r.rank = true → 0 < (s.die d).lostSince → (s.die d).frq.length < 255 → ∃ t, exec (.faultRecordArrival n) s = .next t ∧ (t.die d).lostSince = 0 ∧
    (t.die d).frq = (s.die d).frq ++ [lostRecord d (s.die d).lostSince, r]) ∧
  (b ≤ 4 → i < bankSize b → (s.slot k).st = .free → exec (.registerSoftError k b i) s = .next (s.modSlot k fun sl => (sl.lose b i).loseSnap b i)) ∧
  (b ≤ 4 → i < bankSize b → (s.slot k).st ≠ .free → exec (.registerSoftError k b i) s =
    .next ((((s.modSlot k fun sl => (sl.lose b i).loseSnap b i).abandon k).modSlot k fun sl => { sl with wait := .none, st := .run, pend := none, latch := {} }).raiseAt k 132 (nat (b * 32 + i)))) ∧
  (i < 32 → ∃ t, exec (.registerSoftError k 5 i) s = .next t ∧ ∀ j < 16, (t.slot (16 * k + j)).err = if (s.slot (16 * k + j)).st = .free then (s.slot (16 * k + j)).err else some (nat (160 + i))) ∧
  (i < 2048 → exec (.registerSoftError k 7 i) s = .next (s.rowError k i)) ∧
  (∀ j h, 512 ≤ i → i < 2048 → (s.clu k).handles = [(j, h)] → h.live = true → h.taken = false → h.row ≤ i → i < h.row + h.rows → (s.clu k).matq = [] → (∀ r ∈ (s.clu k).matPort, r.handle ≠ some j) →
    ∃ t, exec (.registerSoftError k 7 i) s = .next t ∧ (t.handleAt k j).live = false ∧ (t.handleAt k j).gen = nextGen h.gen ∧ t.net = s.net.map (·.lost k j s.free.1)) ∧
  (∀ b, (s.clu k).kept = some b → ∃ t, exec (.registerSoftError k 9 i) s = .next t ∧ (t.clu k).kept = some { b with bad := true }) ∧
  (∀ lv, (lv = 0 ∨ lv = 1 ∨ lv = 4 ∨ lv = 5 ∨ lv = 7) → levelHas lv k = true → exec (.scrub lv 0 k) s =
    .next ((s.setPoison (k / 8 * 8) true).scrubRecord (s.scrubAddr k).2 lv 0 (s.scrubAddr k).1)) ∧
  (k < 128 * 2 ^ 23 → ∃ t, exec (.scrub 6 0 k) s = .next t ∧ Tbl.get false (t.clu (k / 2 ^ 23)).bpoison (k % 2 ^ 23 / 8) = true ∧ SameMemory s t) ∧
  (∀ lv, levelHas lv k = true → lv ≠ 2 → lv ≠ 3 → (s.die (s.scrubAddr k).2).eccthr = 0#64 → ∃ t, exec (.scrub lv 1 k) s = .next t ∧ t.frFlight = s.frFlight ∧ SameMemory s t) ∧
  (∀ lv l, (lv = 2 ∨ lv = 3) → (s.lines.map (·.1)).Pairwise (· < ·) → glb0 ≤ k → s.lines.find (lineOf k) = some l → ∃ t, exec (.scrub lv 2 k) s = .next t ∧ t.lines.find (lineOf k) = none ∧ t.mem = s.mem)

/-- The windows of host queues (R342 to R344): a write that names no mapped window is discarded, one to a queue with room is pushed, one without room sets OVF, ACK clears it, CTL
keeps IRQEN; a read pops the oldest item and POPST says what it got, or waits while only spilled items stand there (log 65); accesses of a frozen context are kept, 1,024 writes for each VF (log 78). -/
def Sys2Proof.Rules.HostQueues : Prop := ∀ (s : State) (vf win x q : Nat) (w h : W),
  (s.window vf win = none → exec (.push vf win w) s = .next s ∧ exec (.pusht vf win w) s = .next s ∧ exec (.ack vf win w) s = .next s ∧
    exec (.pop vf win) s = .next (s.modLinks fun l => { l with readData := BitVec.allOnes 64 }) ∧
    ∀ n o v, o < 4096 → s.barAccess vf (4096 * win + o) n (some v) = .next s ∧ s.barAccess vf (4096 * win + o) n none = .next (s.modLinks fun l => { l with readData := BitVec.allOnes 64 })) ∧
  (s.window vf win = some (x, h) → (s.ctx x).frz < 2 → s.barAccess vf (4096 * win + 0x28) 8 (some w) =
    .next (s.modLinks fun l => { l with irqen := Tbl.set false l.irqen (winOf vf win) (w.getLsbD 0) })) ∧
  (s.window vf win = some (x, h) → (s.ctx x).frz < 2 → s.findQueue x h = some q →
    ((s.queue q).takesNow = true → exec (.push vf win w) s = .next ((s.stamp (s.qcore q) (2 ^ 30)).qPush q (32768 + vf) ⟨w, false⟩).2 ∧
      exec (.pusht vf win w) s = .next ((s.stamp (s.qcore q) (2 ^ 30)).qPush q (32768 + vf) ⟨w, true⟩).2) ∧
    ((s.queue q).takesNow = false → exec (.push vf win w) s = .next (s.modLinks fun l => { l with ovf := l.ovf.put (winOf vf win) true }) ∧
      exec (.pusht vf win w) s = .next (s.modLinks fun l => { l with ovf := l.ovf.put (winOf vf win) true })) ∧
    (w.getLsbD 62 = true → exec (.ack vf win w) s = .next (s.modLinks fun l => { l with ovf := l.ovf.del (winOf vf win) })) ∧ (w.getLsbD 62 = false → exec (.ack vf win w) s = .next s) ∧
    ((∀ e ∈ s.links.hostq, e.kind ≠ 4) →
      (0 < (s.queue q).avail → ∀ j i t, s.ringTake q = (j, i, t) → ∃ u, exec (.pop vf win) s = .next u ∧ u.links.readData = i.w ∧
        Tbl.get 0#64 u.links.popst (winOf vf win) = nat (2 ^ 63 + if i.tok then 2 ^ 62 else 0)) ∧
      ((s.queue q).isEmpty = true → (s.queue q).closed = false → exec (.pop vf win) s = .next (s.modLinks fun l => { l with readData := 0#64, popst := l.popst.put (winOf vf win) 0#64 })) ∧
      ((s.queue q).isEmpty = true → (s.queue q).closed = true → exec (.pop vf win) s =
        .next (s.modLinks fun l => { l with readData := endToken.w, popst := l.popst.put (winOf vf win) (nat (2 ^ 63 + 2 ^ 62)) })) ∧
      ((s.queue q).avail = 0 → (s.queue q).isEmpty = false → exec (.pop vf win) s = .next (s.modLinks fun l => { l with hostq := l.hostq ++ [⟨vf, win, 4, 0#64, x⟩] })))) ∧
  (s.window vf win = some (x, h) → 2 ≤ (s.ctx x).frz →
    (s.hostFull vf = false → exec (.push vf win w) s = .next (s.modLinks fun l => { l with hostq := l.hostq ++ [⟨vf, win, 0, w, x⟩] })) ∧
    (s.hostFull vf = true → exec (.push vf win w) s = .next s) ∧
    exec (.pop vf win) s = .next (s.modLinks fun l => { l with hostq := l.hostq ++ [⟨vf, win, 4, 0#64, x⟩] }))

/-- Checkpoint, scale-up ports, forwarders and what arrives from other packages (R228, R236, R333, R346 to R350). A checkpoint leaves the bytes of HBM in the safe tier behind its header; a restore
brings them back. -/
def Sys2Proof.Rules.LinkResults : Prop := ∀ (s : State) (p : BitVec 4) (b : Bool),
  (s.memWf = true → s.links.ckst = 1 → s.links.ckres = false → ∃ t, exec .checkpointDone s = .next t ∧ t.links.ckst = 2 ∧ t.links.ckbytes = 4096 + 2 ^ 40 + 2 ^ 35 ∧
    ∀ a < 2 ^ 40, t.byteAt (s.safeAt + 4096 + a) = s.byteAt a ∧ t.byteAt a = s.byteAt a) ∧
  (s.memWf = true → s.links.ckst = 1 → s.links.ckres = true → ∃ t, exec .checkpointRestoreDone s = .next t ∧ t.links.ckst = 2 ∧ ∀ a < 2 ^ 40, t.byteAt a = s.byteAt (s.safeAt + 4096 + a)) ∧
  (s.links.ckst ≠ 1 → exec .checkpointDone s = .next s ∧ exec .checkpointRestoreDone s = .next s) ∧
  (∀ c, s.links.xpcmd = some (p.toNat, c) → (c = 2 → b = false) → ∃ t, exec (.scaleUpPortCommandDone p b) s = .next t ∧ t.links.xpcmd = none ∧
    ∀ i < 16, t.links.xpup.getLsbD i = if i = p.toNat then b else s.links.xpup.getLsbD i) ∧
  (∀ x j g q n i u, let m := Tbl.get 0#64 (s.ctx x).xqmap j
    s.granted x (fld m 50 12) = some g → s.findQueue x (low m 35) = some q → m.getLsbD 63 = true → (s.ctx x).frz < 2 → 0 < (s.queue q).avail → (s.queue q).scope = 3 → s.ringTake q = (n, i, u) →
    (Tbl.get false (s.ctx x).xqbusy j = true → exec (.xqForward x j) s = .next s) ∧
    (Tbl.get false (s.ctx x).xqbusy j = false → exec (.xqForward x j) s = .next (((u.modCtx x fun c => { c with xqbusy := c.xqbusy.put j true }).qChanged q).toPackage (fld m 50 12)
      (.push (fld m 50 12) (x * 64 + j) (fld g 0 24) (Tbl.get 0#64 (s.ctx x).xqrem j) i.w i.tok)))) ∧
  (∀ n, exec (.crossPackageArrival (.taken n)) s = .next (s.modCtx (n / 64) fun c => { c with xqbusy := c.xqbusy.del (n % 64) })) ∧
  (∀ k e o x runs t u, let blk := ((runs.head?).map (·.1 / 64)).getD 0
    (s.ctx x).frz < 2 → inBlock blk runs = true → s.remoteReach x (64 * blk) 64 true = (.ok t, u) → t.mustWait none (glbAt x (64 * blk)) 64 = false →
    exec (.crossPackageArrival (.put k e o x runs)) s = .next ((t.engWrites false (runs.map fun (va, d) => (glbAt x va, d))).toPackage k (.answer e o [] 0))) ∧
  (∀ k e o x va n t u, (s.ctx x).frz < 2 → 0 < n → va + n ≤ 2 ^ 52 → s.remoteReach x va n false = (.ok t, u) → t.anyPoison (glbAt x va) n = false →
    exec (.crossPackageArrival (.get k e o x va n)) s = .next (t.toPackage k (.answer e o (t.bytes (glbAt x va) n) 0))) ∧
  (∀ x t d c, (s.ctx x).frz < 2 → s.coreAt x (fld t 4 10) = some c → (s.core c).mail.length < 64 → exec (.crossPackageArrival (.sendm x t d)) s = .next (s.mailAccept c (mailOf t d))) ∧
  (∀ k n x h w tok, (s.ctx x).frz < 2 → (s.findQueue x h = none → exec (.crossPackageArrival (.push k n x h w tok)) s = .next ((s.remoteRecord x 197 h).toPackage k (.taken n))) ∧
    ∀ q, s.findQueue x h = some q → ((s.queue q).takesNow = true → exec (.crossPackageArrival (.push k n x h w tok)) s = .next ((s.qPush q 40000 ⟨w, tok⟩).2.toPackage k (.taken n))) ∧
      ((s.queue q).closed = true → exec (.crossPackageArrival (.push k n x h w tok)) s = .next ((s.remoteRecord x 198 h).toPackage k (.taken n))) ∧
      ((s.queue q).closed = false → (s.queue q).takesNow = false → exec (.crossPackageArrival (.push k n x h w tok)) s = .next s)) ∧
  (∀ e o l c, s.engOp e o = none → exec (.crossPackageArrival (.answer e o l c)) s = .next s) ∧
  (∀ e o p m l c, s.engOp e o = some p → p.remote.find? (·.data.isNone) = some m → let mine := (p.answered l).1; let rest := (p.answered l).2
    (c ≠ 0 → exec (.crossPackageArrival (.answer e o l c)) s = .next (s.engStop e o c)) ∧
    (p.req.xd = true → exec (.crossPackageArrival (.answer e o l 0)) s = .next ((s.modEng e o fun o => { o with remote := o.remote.drop 1 }).engLast e o)) ∧
    (p.req.xd = false → l.length = m.n → mine.any (·.data.isNone) = true → exec (.crossPackageArrival (.answer e o l 0)) s = .next (s.modEng e o fun o => { o with remote := mine ++ rest })) ∧
    (p.req.xd = false → l.length = m.n → mine.any (·.data.isNone) = false → ∀ t, s.reachAll p.req.view (mine.flatMap fun m => placesFrom m.place m.n) false true = .ok t → t.mustWait none (m.place / 64 * 64) 64 = false →
      exec (.crossPackageArrival (.answer e o l 0)) s = .next ((((t.engWrites false (runsOf (mine.foldl (fun (t : Tbl Byte) m => (m.data.getD []).zipIdx.foldl (fun t (b, i) => Tbl.put t (m.place + i) b) t) []))).modEng e o
        fun o => { o with remote := rest }).sendCredit e o (mine.foldl (fun n m => n + m.n) 0)).engEnd e o))) ∧
  (∀ k n x h w tok, 2 ≤ (s.ctx x).frz → exec (.crossPackageArrival (.push k n x h w tok)) s = .next s)

/-- Host queues, checkpoints, ports and other packages. Of the model: logs 58, 61, 64, 65, 66, 68 and 78. -/
def Obligations.LinkRules : Prop := Rules.HostQueues ∧ Rules.LinkResults

/-- The security controller (R338, R352 to R360): power-on keeps the attached tier and the host's memory; a load boots an image that passes every check and reports the first that fails; a reload loses every context; STAGE takes
writes in WAIT only; requests, service, watchdogs and alarms. Of the model: logs 6, 20, 29, 56, 57, 59, 60, 67, 68, 73, 75, 92 and 101. -/
def Obligations.SecurityResults : Prop := ∀ (s : State) (w : W) (n d : Nat),
  (s.memWf = true → ∃ t, exec .powerOn s = .next t ∧ t.sec = { State.reset.sec with erased := s.sec.erased } ∧ t.slots = State.reset.slots ∧ t.cores = State.reset.cores ∧ t.ctxs = State.reset.ctxs ∧ t.net = [] ∧
    (∀ a, tier2Base ≤ a → a < 2 ^ 60 → t.byteAt a = s.byteAt a) ∧ ∀ a, a < tier2Base ∨ 2 ^ 60 ≤ a → t.byteAt a = 0#8) ∧
  (∃ t, exec .joinFailure s = .next t ∧ t.slots = [] ∧ t.ctxs = [] ∧ t.net = [] ∧ t.sec.st = 4 ∧ t.links.aer = s.links.aer + 1 ∧ ∀ c, (t.core c).cyc = (s.core c).cyc) ∧
  (s.sec.st ≠ 1 → exec .doorbellLoad s = .next s) ∧
  (s.sec.st = 1 → (n = s.sec.failedCheck → n ≠ 0 → exec .doorbellLoad s = .next (s.modSec fun c => { c with step_ := n, cause := 369 })) ∧
    (s.sec.failedCheck = 0 → ∃ t, exec .doorbellLoad s = .next t ∧ t.sec.st = 3 ∧ t.sec.svn = s.sec.field 8 2 ∧ t.sec.mlock = true ∧
      ∀ d < 4, (t.die d).wdtAt = (s.core (ringOf d)).cyc ∧ (t.slot (16 * ringOf d)).st = .run ∧ (t.slot (16 * ringOf d)).pc = nat (s.sec.field 28 4) ∧ t.xget (16 * ringOf d) 1 = nat d)) ∧
  (s.sec.st = 5 → exec .doorbellReload s = .next s) ∧
  (s.sec.st ≠ 5 → ∃ t, exec .doorbellReload s = .next t ∧ t.sec.st = 1 ∧ t.sec.reloads = s.sec.reloads + 1 ∧ t.sec.m = [] ∧ t.slots = [] ∧ t.ctxs = [] ∧ (∀ c, (t.core c).cyc = (s.core c).cyc) ∧ SameMemory s { t with lines := s.lines }) ∧
  (exec (.stageAccess true 8 1#64) s = exec .doorbellLoad s ∧ exec (.stageAccess true 8 2#64) s = exec .doorbellReload s ∧ (w ≠ 1#64 → w ≠ 2#64 → exec (.stageAccess true 8 w) s = .next s)) ∧
  (s.sec.st = 1 → n % 8 = 0 → stage0 ≤ n → n < 2 ^ 26 → Tbl.wf 0#8 s.sec.stage = true →
    ∃ t, exec (.stageAccess true n w) s = .next t ∧ t.sec.field (n - stage0) 8 = w.toNat ∧ ∀ o, o < n - stage0 ∨ n - stage0 + 8 ≤ o → Tbl.get 0#8 t.sec.stage o = Tbl.get 0#8 s.sec.stage o) ∧
  (s.sec.st ≠ 1 → n % 8 = 0 → stage0 ≤ n → n < 2 ^ 26 → exec (.stageAccess true n w) s = .next (s.modSec fun c => { c with cause := 380 }) ∧
    exec (.stageAccess false n w) s = .next (s.modLinks fun l => { l with readData := BitVec.allOnes 64 })) ∧
  (w.getLsbD 63 = false → exec (.stageAccess true 0x100 w) s = .next (s.modSec fun c => { c with acmd := low w 8 })) ∧
  (w.getLsbD 63 = true → s.sec.abusy = true → exec (.stageAccess true 0x100 w) s = .next s) ∧
  (fld w 0 8 ≠ 2 → exec (.acmdReport w) s = .next (s.modSec fun c => c.hostRequest w)) ∧ (fld w 0 8 = 2 → exec (.acmdCertificate w) s = .next (s.modSec fun c => c.hostRequest w)) ∧
  (∀ f nonce a r, s.sec.queue = (256, f, nonce, a) :: r → s.pfWrite a.toNat (s.response 256 f nonce).2 = none → exec .attestationService s = .next s) ∧
  (∀ f nonce a r, s.sec.queue = (256, f, nonce, a) :: r → s.links.pfAts = false → ∃ t, exec .attestationService s = .next t ∧ t.sec.queue = r ∧ t.sec.abusy = false ∧
    (f = 0 → fld t.sec.astat 0 16 = 371 ∧ t.sec.alen = 0#64 ∧ SameMemory s t) ∧ (f ≠ 0 → s.sec.erased = true → fld t.sec.astat 0 16 = 382 ∧ SameMemory s t) ∧
    (f = 1 → s.sec.erased = false → nonce.length = 4 → t.sec.alen = 768#64 ∧ fld t.sec.astat 0 16 = 0)) ∧
  (∀ f nonce a r, s.sec.queue = (d, f, nonce, a) :: r → d < 4 → ∃ t, exec .attestationService s = .next t ∧ t.sec.queue = r ∧ (t.die d).attBusy = false ∧ (f = 0 → (t.die d).attStatus = 371)) ∧
  (d < 4 → s.sec.st = 3 → (s.die d).wdtAt + 2 ^ (s.die d).wdtLog ≤ (s.core (ringOf d)).cyc → exec (.watchdogExpired d) s = .next (s.failDevice 379)) ∧
  ((s.core (ringOf d)).cyc < (s.die d).wdtAt + 2 ^ (s.die d).wdtLog → exec (.watchdogExpired d) s = .next s) ∧
  (372 ≤ n → n ≤ 376 → ∃ t, exec (.securityAlarm n) s = .next t ∧ t.sec.st = 5 ∧ t.sec.alarm = n ∧ (t.sec.erased = true ↔ s.sec.erased = true ∨ Config.fusePolicy.getLsbD (16 + (n - 372)) = true)) ∧
  (Config.fusePolicy.getLsbD 24 = false → exec .debugAccessRefused s = .next (s.modSec fun c => { c with noted := c.noted ++ [377] })) ∧
  (Config.fusePolicy.getLsbD 24 = true → exec .debugAccessRefused s = .next s)

/-- The commands of firmware (Tables 12-9 to 12-13, 13-1 to 13-3, 14-2 to 14-5, 15-5, 15-6): each is a read or a write of the register it is named for, by a slot of firmware. -/
def Sys2Proof.Rules.FirmwareRows : Prop := ∀ (d : R6) (i : BitVec 7) (j : BitVec 2) (w : W) (id : BitVec 6) (key : BitVec 36) (port : BitVec 4),
  Commands (.pmapWrite i w) (fun s => s.writePmap i.toNat w) ∧ Commands (.dsrwinWrite j w) (fun s => s.writeDsrwin j.toNat w) ∧
  Commands (.dharv w) (fun s => s.harvest w) ∧ Commands (.ptrootWrite w) (fun s => s.writePtroot w) ∧ Commands (.fltinfo d) (fun s => s.fltPop.2.wr d s.fltPop.1) ∧
  Commands (.fltdoneRetry id) (fun s => s.fltDone 0 id.toNat) ∧ Commands (.fltdoneReject id) (fun s => s.fltDone 1 id.toNat) ∧
  Commands (.exreq d) (fun s => s.exReq.2.wr d s.exReq.1) ∧ Commands (.exdonePageInDone key) (fun s => s.exDone 0 key.toNat) ∧ Commands (.exdonePageInFailed key) (fun s => s.exDone 1 key.toNat) ∧
  Commands (.exdoneEvictionDone key) (fun s => s.exDone 2 key.toNat) ∧ Commands (.exdoneRefused key) (fun s => s.raiseOpen 329) ∧ Commands (.exevict w) (fun s => s.exEvict w) ∧
  Commands (.frpop d) (fun s => s.frPop.2.wr d s.frPop.1) ∧ Commands (.finject w) (fun s => s.finject w) ∧ Commands (.slotpc w) (fun s => s.slotPc w) ∧ Commands (.slotkill w) (fun s => s.slotKill w) ∧
  Commands (.hqmapWrite w) (fun s => s.writeHqmap w) ∧ Commands .ckctlCheckpoint State.checkpoint ∧ Commands .ckctlRestore State.ckRestore ∧
  Commands (.xpcmdEnable port) (fun s => s.portCommand 1 port.toNat) ∧ Commands (.xpcmdDisable port) (fun s => s.portCommand 2 port.toNat) ∧ Commands (.xpcmdRetrain port) (fun s => s.portCommand 3 port.toNat) ∧
  Commands (.measurementExtend w) (fun s => s.measure w) ∧ Commands (.attcmd w) (fun s => s.attRequest w) ∧ Commands (.wdtKick w) (fun s => s.writeWdt w)

/-- What the registers of firmware do (R295, R299, R307, R318 to R322, R347, R355 to R357): queues pop their oldest entry, a resolved fault leaves its table with a wake, PTROOT is refused for a context in use, a killed slot is FREE, a port takes one command at a time,
a measurement register below 4 is not extended, a kick restarts the watchdog. -/
def Sys2Proof.Rules.FirmwareTable : Prop := ∀ (s : State) (w : W) (i : Nat),
  (∀ r rs, (s.die (dieOf s.cur)).frq = r :: rs → s.frPop.1 = r.w0 ∧ (s.frPop.2.die (dieOf s.cur)).frq = rs ∧ (s.frPop.2.die (dieOf s.cur)).frw = [r.w1, r.w2, r.w3]) ∧
  ((s.die (dieOf s.cur)).frq = [] → s.frPop = (0#64, s)) ∧
  (∀ x xs, (s.die (dieOf s.cur)).exreq = x :: xs → s.exReq.1 = x ∧ (s.exReq.2.die (dieOf s.cur)).exreq = xs) ∧ ((s.die (dieOf s.cur)).exreq = [] → s.exReq = (0#64, s)) ∧
  ((s.die (dieOf s.cur)).faults = [] → s.fltPop = (0#64, s) ∧ s.fltDone 0 i = s) ∧
  (∀ e, (s.die (dieOf s.cur)).faults = [(i, e)] → i < 64 → e.popped = false → e.rep < 8 → e.key < 2 ^ 64 → s.fltPop.1.getLsbD 63 = true ∧ fld s.fltPop.1 40 6 = i ∧ fld s.fltPop.1 0 24 = e.key / 2 ^ 40 ∧
    (s.fltPop.2.die (dieOf s.cur)).fltva = nat (e.key % 2 ^ 40 * 4096) ∧ s.fltDone 0 i = s ∧
    ∀ a < 2, (s.fltPop.2.fltDone a i).net = s.net ++ [⟨fltPort (128 + dieOf s.cur), fltPort (32 * dieOf s.cur), .wake e.key (32 * dieOf s.cur) a, 0, none⟩]) ∧
  (s.busy s.selCtx = true → s.writePtroot w = s.raiseOpen 36) ∧
  (s.busy s.selCtx = false → w.getLsbD 0 = true → s.links.asidtab.getLsbD 0 = false → s.writePtroot w = s.raiseOpen 37) ∧
  ((s.slot s.tgtSlot).st = .faulted → (s.slotPc w).slot s.tgtSlot = { s.slot s.tgtSlot with pc := low w 16 } ∧ s.slotKill 1#64 = s.freeSlot s.tgtSlot ∧ (w ≠ 1#64 → s.slotKill w = s)) ∧
  ((s.slot s.tgtSlot).st ≠ .faulted → s.slotPc w = s ∧ s.slotKill w = s) ∧
  ((s.slot s.tgtSlot).st = .run → isRing (coreOf s.tgtSlot) = false → 32 ≤ fld w 0 9 → fld w 0 9 < 384 → fld w 0 9 ≠ 133 →
    ((s.finject w).slot s.tgtSlot).inj = some (fld w 0 9, (s.die (dieOf s.cur)).finjval, 6)) ∧
  (fld w 0 9 < 32 ∨ fld w 0 9 = 133 ∨ 384 ≤ fld w 0 9 → s.finject w = s.raiseOpen 44) ∧
  (∀ c, s.links.xpcmd = none → (s.portCommand c i).links.xpcmd = some (i, c)) ∧ (∀ c p, s.links.xpcmd = some p → s.portCommand c i = s.raiseOpen (48 + i)) ∧
  (w.toNat < 4 ∨ 7 < w.toNat → s.measure w = s.raiseOpen 370) ∧
  (w.getLsbD 63 = true → ((s.writeWdt w).die (dieOf s.cur)).wdtAt = (s.core (ringOf (dieOf s.cur))).cyc) ∧
  (fld w 0 6 < 20 ∨ 36 < fld w 0 6 → ((s.writeWdt w).die (dieOf s.cur)).wdtLog = (s.die (dieOf s.cur)).wdtLog)

/-- The placement map and the DSR windows (R27, R36, R37, R48, R50): a refused write is cause 36; any other is read back, moves no other entry, discards the queues of a cluster that the context gives up (R154), and empties the memories and the
slots of a cluster that the context gets. -/
def Sys2Proof.Rules.FirmwarePlacement : Prop := ∀ (s : State) (w : W) (n : Nat),
  let x := s.selCtx; let p := fld w 0 7; let base := fld w 16 9; let size := fld w 32 10
  let other := ∃ e ∈ s.ctxs, ∃ f ∈ e.2.pmap, f.2.getLsbD 15 = true ∧ fld f.2 0 7 = p ∧ (e.1 ≠ x ∨ f.1 ≠ n)
  (s.busy x = true → s.writePmap n w = s.raiseOpen 36 ∧ s.writeDsrwin n w = s.raiseOpen 36) ∧
  (w.getLsbD 15 = true → other → s.writePmap n w = s.raiseOpen 36) ∧ (512 < base + size → s.writeDsrwin n w = s.raiseOpen 36) ∧
  (n < 128 → s.busy x = false → w.getLsbD 15 = false ∨ ¬ other → Tbl.wf 0#64 (s.ctx x).pmap = true → let t := s.writePmap n w
    t.place x n = (if w.getLsbD 15 then some p else none) ∧ (∀ y m, y ≠ x ∨ m ≠ n → t.place y m = s.place y m) ∧
    (t.readHigh (0x900 + n)).1 = nat ((if w.getLsbD 15 then 2 ^ 15 else 0) + p) ∧
    (w.getLsbD 15 = false ∨ s.place x n = some p → t.slots = s.slots ∧ t.mem = s.mem) ∧
    (∀ o, s.place x n = some o → w.getLsbD 15 = false ∨ o ≠ p → Unqueued s t o) ∧
    (w.getLsbD 15 = true → s.place x n ≠ some p → (∀ k, cluOf k = p → isRing (coreOf k) = false → t.slot k = {}) ∧ (∀ a, spdBase p ≤ a → a < spdBase p + 2 ^ 21 → t.byteAt a = 0#8) ∧
      (∀ c a, c / 8 = p → isRing c = false → tcmBase c ≤ a → a < tcmBase c + 2 ^ 18 → t.byteAt a = 0#8) ∧
      ∀ q < 64, (t.queue (64 * p + q)).alloc = false ∧ (t.queue (64 * p + q)).gen = ((s.queue (64 * p + q)).gen + 1) % 65536)) ∧
  (n < 4 → s.busy x = false → base + size ≤ 512 → Tbl.wf 0#64 (s.ctx x).dsrwin = true → let t := s.writeDsrwin n w
    (∀ d, s.homeDie x n = some d → t.winSize x n = size * 65536 ∧ t.windowAt x n = dsrBase d + base * 65536 ∧ (t.readHigh (0x980 + n)).1 = nat (size * 2 ^ 32 + base * 65536)) ∧
    (s.homeDie x n = none → t.winSize x n = 0 ∧ (t.readHigh (0x980 + n)).1 = nat (base * 65536)) ∧
    (∀ m, m ≠ n → t.winSize x m = s.winSize x m ∧ t.windowAt x m = s.windowAt x m) ∧ t.mem = s.mem ∧ t.slots = s.slots ∧
    ∀ a, a % 8 = 0 → t.windowAt x n ≤ a → a < t.windowAt x n + t.winSize x n → t.fullAt a = true)

/-- The residency queue's commands (Table 12-9, Table 12-13, R307, R309), HQMAP (R342) and CKCTL (R346): the state of the entry, its references and the messages that go out; the mapping that HQMAP
reads back; a checkpoint that starts, or is refused while a context runs. -/
def Sys2Proof.Rules.FirmwareTables : Prop := ∀ (s : State) (w : W) (key : Nat),
  (∀ e, s.expertOf key = some e → s.memWf = true → Tbl.wf (0, 0) s.exCnt = true → s.exWait = [] →
    (s.exSt e.at_ = 1 → let t := s.exDone 0 key
      t.exSt e.at_ = (if s.exPins e.at_ = 0 then 2 else 3) ∧ t.exLoc e.at_ = (s.die (dieOf s.cur)).exloc ∧ t.exRefs e.at_ = s.exRefs e.at_ + s.exTurn e.at_ ∧ t.exTurn e.at_ = s.exTurn e.at_ ∧
      ∀ d < 4, ⟨portSlice e.sl, portSlice (32 * d), .tsRelease d (nat key) false, ownerOf e.rcd, none⟩ ∈ t.net) ∧
    (s.exSt e.at_ = 1 → let t := s.exDone 1 key
      t.exSt e.at_ = 0 ∧ ∀ d < 4, ⟨portSlice e.sl, portSlice (32 * d), .tsRelease d (nat key) true, ownerOf e.rcd, none⟩ ∈ t.net) ∧
    (s.exSt e.at_ = 4 → let t := s.exDone 2 key
      ((s.exW3 e.at_).getLsbD 60 = false → t.exSt e.at_ = 0) ∧
      ((s.exW3 e.at_).getLsbD 60 = true → t.exSt e.at_ = 1 ∧ (t.die (e.sl / 32)).exreq = (s.die (e.sl / 32)).exreq ++ [exreqWord false key])) ∧
    (s.exSt e.at_ = 2 → s.exPins e.at_ = 0 → fld w 0 36 = key → let t := s.exEvict w
      t.exSt e.at_ = 4 ∧ (s.exRefs e.at_ = 0 → (t.die (e.sl / 32)).exreq = (s.die (e.sl / 32)).exreq ++ [exreqWord true key]) ∧
      (s.exRefs e.at_ ≠ 0 → (t.die (e.sl / 32)).exreq = (s.die (e.sl / 32)).exreq)) ∧
    (s.exSt e.at_ ≠ 1 → s.exDone 0 key = s.raiseOpen 329 ∧ s.exDone 1 key = s.raiseOpen 329) ∧ (s.exSt e.at_ ≠ 4 → s.exDone 2 key = s.raiseOpen 329) ∧
    (s.exSt e.at_ ≠ 2 ∨ s.exPins e.at_ ≠ 0 → fld w 0 36 = key → s.exEvict w = s.raiseOpen 329)) ∧
  (s.expertOf key = none → ∀ a, s.exDone a key = s.raiseOpen 329) ∧ (∀ a, 3 ≤ a → s.exDone a key = s.raiseOpen 329) ∧
  (let i := s.selWin; let h := low w 35; let t := s.writeHqmap w
    (w.getLsbD 63 = false → (t.readHigh 0xE01).1 = h ∧ t.window (i / 64) (i % 64) = none) ∧
    (w.getLsbD 63 = true → (∀ x q, s.vfCtx (i / 64) = some x → s.findQueue x h = some q → (s.queue q).scope ≠ 4) → (t.readHigh 0xE01).1 = 0#64 ∧ t.window (i / 64) (i % 64) = none) ∧
    (w.getLsbD 63 = true → ∀ x q, s.vfCtx (i / 64) = some x → s.findQueue x h = some q → (s.queue q).scope = 4 →
      (t.readHigh 0xE01).1 = nat (2 ^ 63) ||| h ∧ t.window (i / 64) (i % 64) = some (x, h) ∧ ((Tbl.get 0#64 s.links.hqmap i).getLsbD 63 = false → (t.queue q).hostEnds = (s.queue q).hostEnds + 1))) ∧
  (s.links.ckst = 1 ∨ (∃ e ∈ s.ctxs, e.2.active = true ∧ e.2.frz ≠ 3) → s.checkpoint = s.modLinks (fun l => { l with ckerr := true }) ∧ (s.checkpoint.readHigh 0xE23).1.getLsbD 61 = true) ∧
  (s.links.ckst ≠ 1 → (∀ e ∈ s.ctxs, e.2.active = true → e.2.frz = 3) → (s.checkpoint.readHigh 0xE23).1 = nat (2 ^ 62)) ∧
  (s.links.ckst = 1 ∨ (∃ e ∈ s.ctxs, e.2.active = true) → s.ckRestore = s.modLinks (fun l => { l with ckerr := true })) ∧
  (s.links.ckst ≠ 1 → (∀ e ∈ s.ctxs, e.2.active = false) → (s.ckRestore.readHigh 0xE23).1 = nat (2 ^ 62))

/-- The registers of firmware, what they read afterwards, and the errors they report. Of the model: logs 5, 20, 49, 54, 55, 57, 66, 68 and 69. -/
def Obligations.FirmwareRegisters : Prop := Rules.FirmwareRows ∧ Rules.FirmwareTable ∧ Rules.ErrorResults ∧ Rules.FirmwarePlacement ∧ Rules.FirmwareTables

/-! Rounding, by real numbers -/

namespace Sys2Proof.Machine

/-- Every format of Table 02-2. -/
def formats : List Fmt := [fp64, fp32, fp16, bf16, e4m3, e5m2, e3m2, e2m3, e2m1]

/-- The magnitude of code k: its exponent and mantissa fields, read with an unbounded exponent (R53). -/
noncomputable def Fmt.mag (f : Fmt) (k : Nat) : ℝ :=
  if k < 2 ^ f.mb then k * (2 : ℝ) ^ (1 - (f.bias : ℤ) - f.mb) else ((2 ^ f.mb + k % 2 ^ f.mb : Nat) : ℝ) * (2 : ℝ) ^ (((k / 2 ^ f.mb : Nat) : ℤ) - f.bias - f.mb)

/-- The modes of R64 round the magnitude x, which lies from code k up to the next, to the next; r is the hash of R65. -/
def Fmt.RoundsUp (f : Fmt) (mode : Nat) (neg : Bool) (x : ℝ) (k r : Nat) : Prop :=
  let rest := x - f.mag k; let ulp := f.mag (k + 1) - f.mag k
  mode = 2 ∧ neg = false ∧ 0 < rest ∨ mode = 3 ∧ neg = true ∧ 0 < rest ∨ mode = 4 ∧ k ≤ f.maxCode ∧ (r + 1) * ulp ≤ rest * 2 ^ 16 ∨
    mode = 0 ∧ (ulp < 2 * rest ∨ ulp = 2 * rest ∧ k % 2 = 1)

/-- Encoding b and flags fl are the magnitude x > 0, with a sign, rounded in a mode (R64 to R66); sat: RoundSat. -/
def Fmt.RoundsTo (f : Fmt) (mode : Nat) (neg : Bool) (x : ℝ) (r : Nat) (sat : Bool) (b fl : Nat) : Prop :=
  ∀ k c, f.mag k ≤ x → x < f.mag (k + 1) → (f.RoundsUp mode neg x k r → c = k + 1) → (¬ f.RoundsUp mode neg x k r → c = k) →
    (c ≤ f.maxCode → b = signed f neg c ∧ (x = f.mag k → fl = 0) ∧ (x ≠ f.mag k → x < f.mag (2 ^ f.mb) → fl = 3) ∧ (x ≠ f.mag k → f.mag (2 ^ f.mb) ≤ x → fl = 1)) ∧
    (f.maxCode < c → fl = 5 ∧ b = signed f neg (if f.inf = true ∧ sat = false ∧ (mode = 0 ∨ mode = 4 ∨ mode = 2 ∧ neg = false ∨ mode = 3 ∧ neg = true)
      then (2 ^ f.eb - 1) * 2 ^ f.mb else f.maxCode))

/-- Encoding b and flags fl are the non-zero result x, rounded, or flushed where FTZ applies and x is tiny (R64 to R67). -/
def Fmt.Gives (f : Fmt) (mode : Nat) (ftz : Bool) (x : ℝ) (r b fl : Nat) : Prop := ∀ neg : Bool, (neg = true ↔ x < 0) →
  (ftz = true → f.wide = true → |x| < f.mag (2 ^ f.mb) → b = signed f neg 0 ∧ fl = 3) ∧
  (ftz = false ∨ f.wide = false ∨ f.mag (2 ^ f.mb) ≤ |x| → f.RoundsTo mode neg |x| r false b fl)

/-- The sign of an encoding. -/
def Fmt.minus (f : Fmt) (b : Nat) : Bool := decide (2 ^ (f.eb + f.mb) ≤ b)
/-- An encoding of a finite number. -/
abbrev Fmt.Finite (f : Fmt) (b : Nat) : Prop := b < 2 ^ f.bits ∧ b % 2 ^ (f.eb + f.mb) ≤ f.maxCode
/-- The number of a finite encoding, as FTZ reads it (R53, R67). -/
noncomputable def Fmt.real (f : Fmt) (ftz : Bool) (b : Nat) : ℝ :=
  if ftz && f.wide && f.subnormal b then 0 else (if f.minus b then -1 else 1) * f.mag (b % 2 ^ (f.eb + f.mb))
/-- An encoding of an infinity. -/
abbrev Fmt.Inf (f : Fmt) (b : Nat) : Prop := f.inf = true ∧ b < 2 ^ f.bits ∧ b % 2 ^ (f.eb + f.mb) = (2 ^ f.eb - 1) * 2 ^ f.mb
/-- A result that is exact, or the canonical NaN of an invalid operation. -/
abbrev FRes.Is (y : FRes) (b fl : Nat) : Prop := y.bits = b ∧ y.flags = fl

end Sys2Proof.Machine

/-- RoundFP (R53, R54, R64 to R66) on exact values: the number of a finite encoding, the rounding of ±m · 2^e, zeros, infinities and NaN, and d of R65. -/
def Sys2Proof.Rules.RoundExact : Prop := ∀ (f : Fmt) (mode m r b : Nat) (neg sat sig : Bool) (e : Int), f ∈ formats → mode ≤ 4 →
  let x : ℝ := m * (2 : ℝ) ^ e
  (f.Finite b → ∃ m e, f.value b = .fin (f.minus b) m e ∧ (m : ℝ) * (2 : ℝ) ^ e = f.mag (b % 2 ^ (f.eb + f.mb))) ∧
  (0 < m → f.RoundsTo mode neg x r sat (f.round mode (.fin neg m e) r sat).bits (f.round mode (.fin neg m e) r sat).flags) ∧
  ((f.round mode (.fin neg 0 e) r sat).bits = signed f neg 0 ∧ (f.round mode (.fin neg 0 e) r sat).flags = 0) ∧
  ((f.round mode (.nan sig) r sat).bits = f.canon ∧ (f.round mode (.nan sig) r sat).flags = if sig then 16 else 0) ∧
  (f.inf = true → (f.round mode (.inf neg) r sat).bits = signed f neg ((2 ^ f.eb - 1) * 2 ^ f.mb) ∧ (f.round mode (.inf neg) r sat).flags = 0) ∧
  (f = e4m3 → (f.round mode (.inf neg) r sat).bits = 127 ∧ (f.round mode (.inf neg) r sat).flags = 16) ∧
  (∀ k, 0 < m → f.mag k ≤ x → x < f.mag (k + 1) → let ulp := f.mag (k + 1) - f.mag k; let d := f.d (.fin neg m e)
    (f.maxCode < k → d = 0) ∧ (k ≤ f.maxCode → d * ulp ≤ (x - f.mag k) * 2 ^ 16 ∧ (x - f.mag k) * 2 ^ 16 < (d + 1) * ulp))

/-- The arithmetic of Table 04-5 (R64, R66, R67, R108) on encodings of FP64, FP32, FP16 and BF16: the exact result rounded once; mode 4 rounds to nearest; the signs of zeros; infinities, NaN, invalid
operations and division by zero. -/
def Sys2Proof.Rules.RoundArithmetic : Prop := ∀ (f : Fmt) (rm a b c : Nat) (ftz : Bool), f = fp64 ∨ f = fp32 ∨ f = fp16 ∨ f = bf16 → rm ≤ 4 → a < 2 ^ f.bits → b < 2 ^ f.bits → c < 2 ^ f.bits →
  let x := f.real ftz a; let y := f.real ftz b; let z := f.real ftz c; let mode := if rm = 4 then 0 else rm; let zero (n : Bool) : Nat := signed f n 0
  let sa := f.minus a; let sb := f.minus b; let sc := f.minus c; let add := f.fadd rm ftz a b; let sub := f.fsub rm ftz a b; let mul := f.fmul rm ftz a b; let div := f.fdiv rm ftz a b
  let sqrt := f.fsqrt rm ftz a; let fma := f.fma rm ftz a b c
  (f.Finite a → f.Finite b →
    (x + y ≠ 0 → f.Gives mode ftz (x + y) 0 add.bits add.flags) ∧ (x + y = 0 → x = 0 → sa = sb → add.Is (zero sa) 0) ∧ (x + y = 0 → x ≠ 0 ∨ sa ≠ sb → add.Is (zero (rm == 3)) 0) ∧
    (x - y ≠ 0 → f.Gives mode ftz (x - y) 0 sub.bits sub.flags) ∧ (x - y = 0 → x = 0 → sa ≠ sb → sub.Is (zero sa) 0) ∧ (x - y = 0 → x ≠ 0 ∨ sa = sb → sub.Is (zero (rm == 3)) 0) ∧
    (x * y ≠ 0 → f.Gives mode ftz (x * y) 0 mul.bits mul.flags) ∧ (x * y = 0 → mul.Is (zero (sa != sb)) 0) ∧
    (x ≠ 0 → y ≠ 0 → f.Gives mode ftz (x / y) 0 div.bits div.flags) ∧ (x = 0 → y ≠ 0 → div.Is (zero (sa != sb)) 0) ∧
    (x ≠ 0 → y = 0 → div.Is (f.infCode (sa != sb)) 8) ∧ (x = 0 → y = 0 → div.Is f.canon 16) ∧
    (0 < x → f.Gives mode ftz (Real.sqrt x) 0 sqrt.bits sqrt.flags) ∧ (x = 0 → sqrt.Is (zero sa) 0) ∧ (x < 0 → sqrt.Is f.canon 16) ∧
    (f.Finite c → (x * y + z ≠ 0 → f.Gives mode ftz (x * y + z) 0 fma.bits fma.flags) ∧ (x * y + z = 0 → x * y = 0 → (sa != sb) = sc → fma.Is (zero sc) 0) ∧
      (x * y + z = 0 → x * y ≠ 0 ∨ (sa != sb) ≠ sc → fma.Is (zero (rm == 3)) 0))) ∧
  (f.Inf a → sqrt.Is (if sa then f.canon else a) (if sa then 16 else 0) ∧
    (f.Finite b → add.Is a 0 ∧ sub.Is a 0 ∧ div.Is (f.infCode (sa != sb)) 0 ∧ (y = 0 → mul.Is f.canon 16) ∧ (y ≠ 0 → mul.Is (f.infCode (sa != sb)) 0)) ∧
    (f.Inf b → (sa = sb → add.Is a 0 ∧ sub.Is f.canon 16) ∧ (sa ≠ sb → add.Is f.canon 16 ∧ sub.Is a 0) ∧ mul.Is (f.infCode (sa != sb)) 0 ∧ div.Is f.canon 16)) ∧
  (f.Finite a → f.Inf b → add.Is b 0 ∧ sub.Is (f.infCode (!sb)) 0 ∧ div.Is (zero (sa != sb)) 0 ∧ (x = 0 → mul.Is f.canon 16) ∧ (x ≠ 0 → mul.Is (f.infCode (sa != sb)) 0)) ∧
  ((f.value a).isNan = true ∨ (f.value b).isNan = true → let fl := if (f.value a).isSnan || (f.value b).isSnan then 16 else 0
    add.Is f.canon fl ∧ sub.Is f.canon fl ∧ mul.Is f.canon fl ∧ div.Is f.canon fl ∧ fma.bits = f.canon) ∧
  ((f.value a).isNan = true → sqrt.Is f.canon (if (f.value a).isSnan then 16 else 0)) ∧ ((f.value c).isNan = true → fma.bits = f.canon) ∧
  (f.Inf a → f.Finite b → y = 0 → fma.Is f.canon 16)

/-- Conversions (R64 to R68, R110): between formats, from and to integers, in a group of eight; from a format to itself only NaN and a subnormal under FTZ change (log 17). -/
def Sys2Proof.Rules.RoundConversions : Prop := ∀ (q t : Fmt) (mode b : Nat) (ftz : Bool), q ∈ formats → t ∈ formats → mode ≤ 4 → b < 2 ^ q.bits →
  let x := q.real ftz b; let y := convert q t mode ftz b; let nv := if (q.value b).isSnan then 16 else 0
  (q.Finite b → (x ≠ 0 → t.Gives mode ftz x 0 y.bits y.flags) ∧ (x = 0 → y.Is (signed t (q.minus b) 0) 0)) ∧
  ((q.value b).isNan = true → y.Is t.canon nv) ∧ (q.Inf b → (t.inf = true → y.Is (t.infCode (q.minus b)) 0) ∧ (t = e4m3 → y.Is 127 16)) ∧
  (q.wide = true → (q.Finite b ∨ q.Inf b → ftz = false ∨ q.subnormal b = false → (sameFormat q ftz b).Is b 0) ∧ (q.subnormal b = true → ftz = true → (sameFormat q ftz b).Is (signed q (q.minus b) 0) 0) ∧
    ((q.value b).isNan = true → (sameFormat q ftz b).Is q.canon nv)) ∧
  (∀ i : Int, let v := t.round mode (FV.ofInt i) (scalarHash (t.d (FV.ofInt i)))
    (i ≠ 0 → ∀ neg : Bool, (neg = true ↔ i < 0) → t.RoundsTo mode neg (i.natAbs : ℝ) 0 false v.bits v.flags) ∧ (i = 0 → v.bits = 0 ∧ v.flags = 0)) ∧
  (∀ (n : Bool) (m : Nat) (e : Int), let z : ℝ := (if n then -1 else 1) * (m * (2 : ℝ) ^ e); let p := roundInt mode n m e
    (p.2 = true ↔ z ≠ p.1) ∧ (mode = 1 → p.1 = if n then ⌈z⌉ else ⌊z⌋) ∧ (mode = 2 → p.1 = ⌈z⌉) ∧ (mode = 3 → p.1 = ⌊z⌋) ∧ (mode = 0 ∨ mode = 4 → |z - p.1| ≤ 1 / 2 ∧ (|z - p.1| = 1 / 2 → Even p.1))) ∧
  (∀ (xs : List (FV × Bool)) (i m : Nat) (n sub : Bool) (e : Int), xs[i]? = some (.fin n m e, sub) → 0 < m →
    let ds := (List.range 8).map fun j => ((xs[i / 8 * 8 + j]?).map fun p => t.d p.1).getD 0; let rotl5 (v : Nat) : Nat := v % 2 ^ 11 * 2 ^ 5 + v / 2 ^ 11
    ∃ y, (convGroup t mode ftz xs)[i]? = some y ∧ t.Gives mode ftz ((if n then -1 else 1) * (m * (2 : ℝ) ^ e))
      (((ds.getD ((i % 8 + 1) % 8) 0 ^^^ rotl5 (ds.getD ((i % 8 + 7) % 8) 0)) * 0x6F4B + 0x3A91 * (i % 8)) % 2 ^ 16) y.bits y.flags)

/-- Rounding by the real number that an operation yields: of exact values, in the arithmetic, and in the conversions.
Of the model: logs 17 and 81. -/
def Obligations.FpRounding : Prop := Rules.RoundExact ∧ Rules.RoundArithmetic ∧ Rules.RoundConversions
end

