-- ==== Sys2Proof/Laws/Access.lean ====
section
/-! SUPPORT. What the judging of an access can find (R132), and what an instruction leaves with and without a refused push (R13): one lemma for
each shared operation, which proofs cite in place of its definition. -/

namespace Sys2Proof.Machine

/-- The first element beyond those of `takeWhile` is the first that fails its test. -/
theorem drop_takeWhile {α : Type} (f : α → Bool) (l : List α) : (l.drop (l.takeWhile f).length).head? = l.find? (!f ·) ∧
    l[(l.takeWhile f).length]? = l.find? (!f ·) := by
  induction l with
  | nil => simp
  | cons a l ih => by_cases h : f a = true <;> simp [h]; simpa using ih

/-- The pieces before the first that stops. -/
theorem State.judge_ok (s : State) (wr : Bool) (ps : List Piece) (err : Option (Nat × W)) :
    (s.judge wr ps err).ok = ps.takeWhile fun p => s.holds p && (s.pieceErr wr ps p).isNone := by
  simp only [State.judge]; split <;> [rfl; split <;> rfl]

/-- No piece stops: the fault after them all. -/
theorem State.judge_all {s : State} {wr : Bool} {ps : List Piece} {err : Option (Nat × W)} (h : (s.judge wr ps err).ok = ps) :
    (s.judge wr ps err).bring = [] ∧ (s.judge wr ps err).bad = err := by
  rw [State.judge_ok] at h
  simp only [State.judge]
  rw [h, List.drop_length]
  exact ⟨rfl, rfl⟩

/-- The first piece that stops: its fault where its lines are held, else its lines and those before it. -/
theorem State.judge_stop {s : State} {wr : Bool} {ps : List Piece} {err : Option (Nat × W)} {p : Piece}
    (h : ps[(s.judge wr ps err).ok.length]? = some p) :
    (s.holds p = true → (s.pieceErr wr ps p).isSome = true ∧ (s.judge wr ps err).bring = [] ∧ (s.judge wr ps err).bad = s.pieceErr wr ps p) ∧
    (s.holds p = false → (s.judge wr ps err).bring = ((s.judge wr ps err).ok ++ [p]).flatMap (·.places) ∧ (s.judge wr ps err).bad = none) := by
  set f : Piece → Bool := fun p => s.holds p && (s.pieceErr wr ps p).isNone with hf
  have hd := drop_takeWhile f ps
  rw [State.judge_ok, ← hf, hd.2] at h
  have hj : s.judge wr ps err = if s.holds p then { ok := ps.takeWhile f, bad := s.pieceErr wr ps p }
      else { ok := ps.takeWhile f, bring := (ps.takeWhile f ++ [p]).flatMap (·.places) } := by
    simp only [State.judge]; rw [← hf, hd.1, h]
  have hp := List.find?_some h
  refine ⟨fun hh => ?_, fun hh => ?_⟩
  · rw [hj, if_pos hh]
    exact ⟨by simpa [f, hh, Option.isSome_iff_ne_none] using hp, rfl, rfl⟩
  · rw [hj, if_neg (by simp [hh])]
    exact ⟨rfl, rfl⟩

/-- Every piece before the first that stops can be accessed. -/
theorem State.judge_fine {s : State} {wr : Bool} {ps : List Piece} {err : Option (Nat × W)} {p : Piece} (h : p ∈ (s.judge wr ps err).ok) :
    s.holds p = true ∧ s.pieceErr wr ps p = none := by
  rw [State.judge_ok] at h
  simpa using List.all_eq_true.1 List.all_takeWhile p h

/-- Without a refused push an instruction leaves what it has done. -/
theorem State.kept_done {s t : State} {dst : Option R6} (h : dst.any isQ = false ∨ (t.slot s.cur).latch.refusal = none) : s.kept dst t = t := by
  rcases h with h | h <;> simp [State.kept, h]

/-- With one it has done nothing but fault. -/
theorem State.kept_refused {s t : State} {dst : Option R6} {c : Nat × Option W} (h : dst.any isQ = true) (hr : (t.slot s.cur).latch.refusal = some c) :
    s.kept dst t = s.raiseWith c := by
  simp [State.kept, h, hr]

end Sys2Proof.Machine
end

