-- ==== Sys2Proof/Laws/Tbl.lean ====
section
/-! SUPPORT. The laws of sparse tables: reading after a write, and the canonical form. -/

namespace Sys2Proof

theorem Tbl.get_put {α : Type} (d : α) (t : Tbl α) (k : Nat) (v : α) (j : Nat) :
    Tbl.get d (Tbl.put t k v) j = if j = k then v else Tbl.get d t j := by
  induction t with
  | nil => simp only [Tbl.put, Tbl.get]; split <;> simp
  | cons p r ih =>
    obtain ⟨i, w⟩ := p
    simp only [Tbl.put]
    split
    · subst_vars; simp only [Tbl.get]; split <;> simp
    · split
      · simp only [Tbl.get]
        split
        · rfl
        · split
          · rw [if_neg (by omega), if_pos (by omega)]
          · rfl
      · simp only [Tbl.get, ih]
        split
        · rw [if_neg (by omega)]
        · split
          · rw [if_neg (by omega)]
          · rfl

/-- Keys at or above n and rising: what `wfFrom` says without the default. -/
theorem Tbl.wfFrom_mono {α : Type} [DecidableEq α] {d : α} {n m : Nat} {t : Tbl α} (h : Tbl.wfFrom d n t) (hm : m ≤ n) :
    Tbl.wfFrom d m t := by
  cases t with
  | nil => rfl
  | cons p r => obtain ⟨i, v⟩ := p; simp only [Tbl.wfFrom, Bool.and_eq_true, decide_eq_true_eq] at h ⊢; exact ⟨⟨by omega, h.1.2⟩, h.2⟩

theorem Tbl.get_lt {α : Type} [DecidableEq α] {d : α} {n : Nat} {t : Tbl α} (h : Tbl.wfFrom d n t) {k : Nat} (hk : k < n) :
    Tbl.get d t k = d := by
  cases t with
  | nil => rfl
  | cons p r =>
    obtain ⟨i, v⟩ := p
    simp only [Tbl.wfFrom, Bool.and_eq_true, decide_eq_true_eq] at h
    simp only [Tbl.get]
    rw [if_neg (by omega), if_pos (by omega)]

theorem Tbl.wfFrom_put {α : Type} [DecidableEq α] {d : α} {n : Nat} {t : Tbl α} {k : Nat} {v : α} (h : Tbl.wfFrom d n t)
    (hk : n ≤ k) (hv : v ≠ d) : Tbl.wfFrom d n (Tbl.put t k v) := by
  induction t generalizing n with
  | nil => simp [Tbl.put, Tbl.wfFrom, hk, hv]
  | cons p r ih =>
    obtain ⟨i, w⟩ := p
    simp only [Tbl.wfFrom, Bool.and_eq_true, decide_eq_true_eq] at h
    simp only [Tbl.put]
    split
    · subst_vars; simp [Tbl.wfFrom, hk, hv, h.2]
    · split
      · simp only [Tbl.wfFrom, Bool.and_eq_true, decide_eq_true_eq]; exact ⟨⟨hk, hv⟩, ⟨by omega, h.1.2⟩, h.2⟩
      · simp only [Tbl.wfFrom, Bool.and_eq_true, decide_eq_true_eq]; exact ⟨h.1, ih h.2 (by omega)⟩

theorem Tbl.wfFrom_del {α : Type} [DecidableEq α] {d : α} {n : Nat} {t : Tbl α} {k : Nat} (h : Tbl.wfFrom d n t) :
    Tbl.wfFrom d n (Tbl.del t k) := by
  induction t generalizing n with
  | nil => rfl
  | cons p r ih =>
    obtain ⟨i, w⟩ := p
    have h0 := h
    simp only [Tbl.wfFrom, Bool.and_eq_true, decide_eq_true_eq] at h
    simp only [Tbl.del]
    split
    · exact Tbl.wfFrom_mono h.2 (by omega)
    · split
      · exact h0
      · simp only [Tbl.wfFrom, Bool.and_eq_true, decide_eq_true_eq]; exact ⟨h.1, ih h.2⟩

/-- A write keeps the canonical form. -/
theorem Tbl.wf_set {α : Type} [DecidableEq α] {d : α} {t : Tbl α} (k : Nat) (v : α) (h : Tbl.wf d t) : Tbl.wf d (Tbl.set d t k v) := by
  unfold Tbl.set
  split
  · exact Tbl.wfFrom_del h
  · exact Tbl.wfFrom_put h (Nat.zero_le k) (by assumption)

theorem Tbl.get_del {α : Type} [DecidableEq α] {d : α} {n : Nat} {t : Tbl α} (h : Tbl.wfFrom d n t) (k j : Nat) :
    Tbl.get d (Tbl.del t k) j = if j = k then d else Tbl.get d t j := by
  induction t generalizing n with
  | nil => simp [Tbl.del, Tbl.get]
  | cons p r ih =>
    obtain ⟨i, w⟩ := p
    simp only [Tbl.wfFrom, Bool.and_eq_true, decide_eq_true_eq] at h
    simp only [Tbl.del]
    split
    · subst_vars
      simp only [Tbl.get]
      by_cases hj : j = i
      · subst hj; rw [if_pos rfl]; exact Tbl.get_lt h.2 (by omega)
      · rw [if_neg hj, if_neg hj]
        split
        · exact Tbl.get_lt h.2 (by omega)
        · rfl
    · split
      · simp only [Tbl.get]
        by_cases hj : j = k
        · subst hj; rw [if_neg (by omega), if_pos (by omega), if_pos rfl]
        · rw [if_neg hj]
      · simp only [Tbl.get, ih h.2]
        split
        · rw [if_neg (by omega)]
        · split
          · by_cases hj : j = k
            · rw [if_pos hj]
            · rw [if_neg hj]
          · rfl

/-- A canonical table reads what was last written. -/
theorem Tbl.get_set {α : Type} [DecidableEq α] {d : α} {t : Tbl α} (h : Tbl.wf d t) (k : Nat) (v : α) (j : Nat) :
    Tbl.get d (Tbl.set d t k v) j = if j = k then v else Tbl.get d t j := by
  unfold Tbl.set
  split
  · subst_vars; exact Tbl.get_del h k j
  · exact Tbl.get_put d t k v j

/-- Dropping entries keeps the canonical form. -/
theorem Tbl.wfFrom_filter {α : Type} [DecidableEq α] {d : α} {n : Nat} {t : Tbl α} (p : Nat × α → Bool) (h : Tbl.wfFrom d n t) :
    Tbl.wfFrom d n (t.filter p) := by
  induction t generalizing n with
  | nil => rfl
  | cons q r ih =>
    obtain ⟨i, w⟩ := q
    simp only [Tbl.wfFrom, Bool.and_eq_true, decide_eq_true_eq] at h
    by_cases hp : p (i, w)
    · simp only [List.filter_cons, hp, if_true, Tbl.wfFrom, Bool.and_eq_true, decide_eq_true_eq]; exact ⟨h.1, ih h.2⟩
    · simp only [List.filter_cons, hp]; exact Tbl.wfFrom_mono (ih h.2) (by omega)

end Sys2Proof
end

