-- ==== Sys2Proof/Laws/State.lean ====
section
/-! SUPPORT. What each update of the state leaves as it is, and what reading a unit gives after an update of one. -/

namespace Sys2Proof.Machine

/-! modSlot -/

@[simp] theorem State.modSlot_cur (s : State) (k : Nat) (f : Slot → Slot) : (s.modSlot k f).cur = s.cur := rfl
@[simp] theorem State.modSlot_agenda (s : State) (k : Nat) (f : Slot → Slot) : (s.modSlot k f).agenda = s.agenda := rfl
@[simp] theorem State.modSlot_tick (s : State) (k : Nat) (f : Slot → Slot) : (s.modSlot k f).tick = s.tick := rfl
@[simp] theorem State.modSlot_cores (s : State) (k : Nat) (f : Slot → Slot) : (s.modSlot k f).cores = s.cores := rfl
@[simp] theorem State.modSlot_clusters (s : State) (k : Nat) (f : Slot → Slot) : (s.modSlot k f).clusters = s.clusters := rfl
@[simp] theorem State.modSlot_dies (s : State) (k : Nat) (f : Slot → Slot) : (s.modSlot k f).dies = s.dies := rfl
@[simp] theorem State.modSlot_ctxs (s : State) (k : Nat) (f : Slot → Slot) : (s.modSlot k f).ctxs = s.ctxs := rfl
@[simp] theorem State.modSlot_mem (s : State) (k : Nat) (f : Slot → Slot) : (s.modSlot k f).mem = s.mem := rfl
@[simp] theorem State.modSlot_empty (s : State) (k : Nat) (f : Slot → Slot) : (s.modSlot k f).empty = s.empty := rfl
@[simp] theorem State.modSlot_poison (s : State) (k : Nat) (f : Slot → Slot) : (s.modSlot k f).poison = s.poison := rfl
@[simp] theorem State.modSlot_lines (s : State) (k : Nat) (f : Slot → Slot) : (s.modSlot k f).lines = s.lines := rfl
@[simp] theorem State.modSlot_l1d (s : State) (k : Nat) (f : Slot → Slot) : (s.modSlot k f).l1d = s.l1d := rfl
@[simp] theorem State.modSlot_net (s : State) (k : Nat) (f : Slot → Slot) : (s.modSlot k f).net = s.net := rfl
@[simp] theorem State.modSlot_resv (s : State) (k : Nat) (f : Slot → Slot) : (s.modSlot k f).resv = s.resv := rfl
@[simp] theorem State.modSlot_walks (s : State) (k : Nat) (f : Slot → Slot) : (s.modSlot k f).walks = s.walks := rfl
@[simp] theorem State.modSlot_misses (s : State) (k : Nat) (f : Slot → Slot) : (s.modSlot k f).misses = s.misses := rfl
@[simp] theorem State.modSlot_feWait (s : State) (k : Nat) (f : Slot → Slot) : (s.modSlot k f).feWait = s.feWait := rfl
@[simp] theorem State.modSlot_bbWait (s : State) (k : Nat) (f : Slot → Slot) : (s.modSlot k f).bbWait = s.bbWait := rfl
@[simp] theorem State.modSlot_exWait (s : State) (k : Nat) (f : Slot → Slot) : (s.modSlot k f).exWait = s.exWait := rfl
@[simp] theorem State.modSlot_exCnt (s : State) (k : Nat) (f : Slot → Slot) : (s.modSlot k f).exCnt = s.exCnt := rfl
@[simp] theorem State.modSlot_frFlight (s : State) (k : Nat) (f : Slot → Slot) : (s.modSlot k f).frFlight = s.frFlight := rfl
@[simp] theorem State.modSlot_soloQ (s : State) (k : Nat) (f : Slot → Slot) : (s.modSlot k f).soloQ = s.soloQ := rfl
@[simp] theorem State.modSlot_soloHolder (s : State) (k : Nat) (f : Slot → Slot) : (s.modSlot k f).soloHolder = s.soloHolder := rfl
@[simp] theorem State.modSlot_replay (s : State) (k : Nat) (f : Slot → Slot) : (s.modSlot k f).replay = s.replay := rfl
@[simp] theorem State.modSlot_serial (s : State) (k : Nat) (f : Slot → Slot) : (s.modSlot k f).serial = s.serial := rfl
@[simp] theorem State.modSlot_pkgArb (s : State) (k : Nat) (f : Slot → Slot) : (s.modSlot k f).pkgArb = s.pkgArb := rfl
@[simp] theorem State.modSlot_stamps (s : State) (k : Nat) (f : Slot → Slot) : (s.modSlot k f).stamps = s.stamps := rfl
@[simp] theorem State.modSlot_ending (s : State) (k : Nat) (f : Slot → Slot) : (s.modSlot k f).ending = s.ending := rfl
@[simp] theorem State.modSlot_sec (s : State) (k : Nat) (f : Slot → Slot) : (s.modSlot k f).sec = s.sec := rfl
@[simp] theorem State.modSlot_links (s : State) (k : Nat) (f : Slot → Slot) : (s.modSlot k f).links = s.links := rfl

@[simp] theorem State.slot_modSlot (s : State) (k : Nat) (f : Slot → Slot) (j : Nat) : (s.modSlot k f).slot j = if j = k then f (s.slot k) else s.slot j :=
  Tbl.get_put _ _ _ _ _
@[simp] theorem State.core_modSlot (s : State) (k : Nat) (f : Slot → Slot) (j : Nat) : (s.modSlot k f).core j = s.core j := rfl
@[simp] theorem State.clu_modSlot (s : State) (k : Nat) (f : Slot → Slot) (j : Nat) : (s.modSlot k f).clu j = s.clu j := rfl
@[simp] theorem State.die_modSlot (s : State) (k : Nat) (f : Slot → Slot) (j : Nat) : (s.modSlot k f).die j = s.die j := rfl
@[simp] theorem State.ctx_modSlot (s : State) (k : Nat) (f : Slot → Slot) (j : Nat) : (s.modSlot k f).ctx j = s.ctx j := rfl

/-! modCore -/

@[simp] theorem State.modCore_cur (s : State) (k : Nat) (f : Core → Core) : (s.modCore k f).cur = s.cur := rfl
@[simp] theorem State.modCore_agenda (s : State) (k : Nat) (f : Core → Core) : (s.modCore k f).agenda = s.agenda := rfl
@[simp] theorem State.modCore_tick (s : State) (k : Nat) (f : Core → Core) : (s.modCore k f).tick = s.tick := rfl
@[simp] theorem State.modCore_slots (s : State) (k : Nat) (f : Core → Core) : (s.modCore k f).slots = s.slots := rfl
@[simp] theorem State.modCore_clusters (s : State) (k : Nat) (f : Core → Core) : (s.modCore k f).clusters = s.clusters := rfl
@[simp] theorem State.modCore_dies (s : State) (k : Nat) (f : Core → Core) : (s.modCore k f).dies = s.dies := rfl
@[simp] theorem State.modCore_ctxs (s : State) (k : Nat) (f : Core → Core) : (s.modCore k f).ctxs = s.ctxs := rfl
@[simp] theorem State.modCore_mem (s : State) (k : Nat) (f : Core → Core) : (s.modCore k f).mem = s.mem := rfl
@[simp] theorem State.modCore_empty (s : State) (k : Nat) (f : Core → Core) : (s.modCore k f).empty = s.empty := rfl
@[simp] theorem State.modCore_poison (s : State) (k : Nat) (f : Core → Core) : (s.modCore k f).poison = s.poison := rfl
@[simp] theorem State.modCore_lines (s : State) (k : Nat) (f : Core → Core) : (s.modCore k f).lines = s.lines := rfl
@[simp] theorem State.modCore_l1d (s : State) (k : Nat) (f : Core → Core) : (s.modCore k f).l1d = s.l1d := rfl
@[simp] theorem State.modCore_net (s : State) (k : Nat) (f : Core → Core) : (s.modCore k f).net = s.net := rfl
@[simp] theorem State.modCore_resv (s : State) (k : Nat) (f : Core → Core) : (s.modCore k f).resv = s.resv := rfl
@[simp] theorem State.modCore_walks (s : State) (k : Nat) (f : Core → Core) : (s.modCore k f).walks = s.walks := rfl
@[simp] theorem State.modCore_misses (s : State) (k : Nat) (f : Core → Core) : (s.modCore k f).misses = s.misses := rfl
@[simp] theorem State.modCore_feWait (s : State) (k : Nat) (f : Core → Core) : (s.modCore k f).feWait = s.feWait := rfl
@[simp] theorem State.modCore_bbWait (s : State) (k : Nat) (f : Core → Core) : (s.modCore k f).bbWait = s.bbWait := rfl
@[simp] theorem State.modCore_exWait (s : State) (k : Nat) (f : Core → Core) : (s.modCore k f).exWait = s.exWait := rfl
@[simp] theorem State.modCore_exCnt (s : State) (k : Nat) (f : Core → Core) : (s.modCore k f).exCnt = s.exCnt := rfl
@[simp] theorem State.modCore_frFlight (s : State) (k : Nat) (f : Core → Core) : (s.modCore k f).frFlight = s.frFlight := rfl
@[simp] theorem State.modCore_soloQ (s : State) (k : Nat) (f : Core → Core) : (s.modCore k f).soloQ = s.soloQ := rfl
@[simp] theorem State.modCore_soloHolder (s : State) (k : Nat) (f : Core → Core) : (s.modCore k f).soloHolder = s.soloHolder := rfl
@[simp] theorem State.modCore_replay (s : State) (k : Nat) (f : Core → Core) : (s.modCore k f).replay = s.replay := rfl
@[simp] theorem State.modCore_serial (s : State) (k : Nat) (f : Core → Core) : (s.modCore k f).serial = s.serial := rfl
@[simp] theorem State.modCore_pkgArb (s : State) (k : Nat) (f : Core → Core) : (s.modCore k f).pkgArb = s.pkgArb := rfl
@[simp] theorem State.modCore_stamps (s : State) (k : Nat) (f : Core → Core) : (s.modCore k f).stamps = s.stamps := rfl
@[simp] theorem State.modCore_ending (s : State) (k : Nat) (f : Core → Core) : (s.modCore k f).ending = s.ending := rfl
@[simp] theorem State.modCore_sec (s : State) (k : Nat) (f : Core → Core) : (s.modCore k f).sec = s.sec := rfl
@[simp] theorem State.modCore_links (s : State) (k : Nat) (f : Core → Core) : (s.modCore k f).links = s.links := rfl

@[simp] theorem State.core_modCore (s : State) (k : Nat) (f : Core → Core) (j : Nat) : (s.modCore k f).core j = if j = k then f (s.core k) else s.core j :=
  Tbl.get_put _ _ _ _ _
@[simp] theorem State.slot_modCore (s : State) (k : Nat) (f : Core → Core) (j : Nat) : (s.modCore k f).slot j = s.slot j := rfl
@[simp] theorem State.clu_modCore (s : State) (k : Nat) (f : Core → Core) (j : Nat) : (s.modCore k f).clu j = s.clu j := rfl
@[simp] theorem State.die_modCore (s : State) (k : Nat) (f : Core → Core) (j : Nat) : (s.modCore k f).die j = s.die j := rfl
@[simp] theorem State.ctx_modCore (s : State) (k : Nat) (f : Core → Core) (j : Nat) : (s.modCore k f).ctx j = s.ctx j := rfl

/-! modClu -/

@[simp] theorem State.modClu_cur (s : State) (k : Nat) (f : Cluster → Cluster) : (s.modClu k f).cur = s.cur := rfl
@[simp] theorem State.modClu_agenda (s : State) (k : Nat) (f : Cluster → Cluster) : (s.modClu k f).agenda = s.agenda := rfl
@[simp] theorem State.modClu_tick (s : State) (k : Nat) (f : Cluster → Cluster) : (s.modClu k f).tick = s.tick := rfl
@[simp] theorem State.modClu_slots (s : State) (k : Nat) (f : Cluster → Cluster) : (s.modClu k f).slots = s.slots := rfl
@[simp] theorem State.modClu_cores (s : State) (k : Nat) (f : Cluster → Cluster) : (s.modClu k f).cores = s.cores := rfl
@[simp] theorem State.modClu_dies (s : State) (k : Nat) (f : Cluster → Cluster) : (s.modClu k f).dies = s.dies := rfl
@[simp] theorem State.modClu_ctxs (s : State) (k : Nat) (f : Cluster → Cluster) : (s.modClu k f).ctxs = s.ctxs := rfl
@[simp] theorem State.modClu_mem (s : State) (k : Nat) (f : Cluster → Cluster) : (s.modClu k f).mem = s.mem := rfl
@[simp] theorem State.modClu_empty (s : State) (k : Nat) (f : Cluster → Cluster) : (s.modClu k f).empty = s.empty := rfl
@[simp] theorem State.modClu_poison (s : State) (k : Nat) (f : Cluster → Cluster) : (s.modClu k f).poison = s.poison := rfl
@[simp] theorem State.modClu_lines (s : State) (k : Nat) (f : Cluster → Cluster) : (s.modClu k f).lines = s.lines := rfl
@[simp] theorem State.modClu_l1d (s : State) (k : Nat) (f : Cluster → Cluster) : (s.modClu k f).l1d = s.l1d := rfl
@[simp] theorem State.modClu_net (s : State) (k : Nat) (f : Cluster → Cluster) : (s.modClu k f).net = s.net := rfl
@[simp] theorem State.modClu_resv (s : State) (k : Nat) (f : Cluster → Cluster) : (s.modClu k f).resv = s.resv := rfl
@[simp] theorem State.modClu_walks (s : State) (k : Nat) (f : Cluster → Cluster) : (s.modClu k f).walks = s.walks := rfl
@[simp] theorem State.modClu_misses (s : State) (k : Nat) (f : Cluster → Cluster) : (s.modClu k f).misses = s.misses := rfl
@[simp] theorem State.modClu_feWait (s : State) (k : Nat) (f : Cluster → Cluster) : (s.modClu k f).feWait = s.feWait := rfl
@[simp] theorem State.modClu_bbWait (s : State) (k : Nat) (f : Cluster → Cluster) : (s.modClu k f).bbWait = s.bbWait := rfl
@[simp] theorem State.modClu_exWait (s : State) (k : Nat) (f : Cluster → Cluster) : (s.modClu k f).exWait = s.exWait := rfl
@[simp] theorem State.modClu_exCnt (s : State) (k : Nat) (f : Cluster → Cluster) : (s.modClu k f).exCnt = s.exCnt := rfl
@[simp] theorem State.modClu_frFlight (s : State) (k : Nat) (f : Cluster → Cluster) : (s.modClu k f).frFlight = s.frFlight := rfl
@[simp] theorem State.modClu_soloQ (s : State) (k : Nat) (f : Cluster → Cluster) : (s.modClu k f).soloQ = s.soloQ := rfl
@[simp] theorem State.modClu_soloHolder (s : State) (k : Nat) (f : Cluster → Cluster) : (s.modClu k f).soloHolder = s.soloHolder := rfl
@[simp] theorem State.modClu_replay (s : State) (k : Nat) (f : Cluster → Cluster) : (s.modClu k f).replay = s.replay := rfl
@[simp] theorem State.modClu_serial (s : State) (k : Nat) (f : Cluster → Cluster) : (s.modClu k f).serial = s.serial := rfl
@[simp] theorem State.modClu_pkgArb (s : State) (k : Nat) (f : Cluster → Cluster) : (s.modClu k f).pkgArb = s.pkgArb := rfl
@[simp] theorem State.modClu_stamps (s : State) (k : Nat) (f : Cluster → Cluster) : (s.modClu k f).stamps = s.stamps := rfl
@[simp] theorem State.modClu_ending (s : State) (k : Nat) (f : Cluster → Cluster) : (s.modClu k f).ending = s.ending := rfl
@[simp] theorem State.modClu_sec (s : State) (k : Nat) (f : Cluster → Cluster) : (s.modClu k f).sec = s.sec := rfl
@[simp] theorem State.modClu_links (s : State) (k : Nat) (f : Cluster → Cluster) : (s.modClu k f).links = s.links := rfl

@[simp] theorem State.clu_modClu (s : State) (k : Nat) (f : Cluster → Cluster) (j : Nat) : (s.modClu k f).clu j = if j = k then f (s.clu k) else s.clu j :=
  Tbl.get_put _ _ _ _ _
@[simp] theorem State.slot_modClu (s : State) (k : Nat) (f : Cluster → Cluster) (j : Nat) : (s.modClu k f).slot j = s.slot j := rfl
@[simp] theorem State.core_modClu (s : State) (k : Nat) (f : Cluster → Cluster) (j : Nat) : (s.modClu k f).core j = s.core j := rfl
@[simp] theorem State.die_modClu (s : State) (k : Nat) (f : Cluster → Cluster) (j : Nat) : (s.modClu k f).die j = s.die j := rfl
@[simp] theorem State.ctx_modClu (s : State) (k : Nat) (f : Cluster → Cluster) (j : Nat) : (s.modClu k f).ctx j = s.ctx j := rfl

/-! modDie -/

@[simp] theorem State.modDie_cur (s : State) (k : Nat) (f : Die → Die) : (s.modDie k f).cur = s.cur := rfl
@[simp] theorem State.modDie_agenda (s : State) (k : Nat) (f : Die → Die) : (s.modDie k f).agenda = s.agenda := rfl
@[simp] theorem State.modDie_tick (s : State) (k : Nat) (f : Die → Die) : (s.modDie k f).tick = s.tick := rfl
@[simp] theorem State.modDie_slots (s : State) (k : Nat) (f : Die → Die) : (s.modDie k f).slots = s.slots := rfl
@[simp] theorem State.modDie_cores (s : State) (k : Nat) (f : Die → Die) : (s.modDie k f).cores = s.cores := rfl
@[simp] theorem State.modDie_clusters (s : State) (k : Nat) (f : Die → Die) : (s.modDie k f).clusters = s.clusters := rfl
@[simp] theorem State.modDie_ctxs (s : State) (k : Nat) (f : Die → Die) : (s.modDie k f).ctxs = s.ctxs := rfl
@[simp] theorem State.modDie_mem (s : State) (k : Nat) (f : Die → Die) : (s.modDie k f).mem = s.mem := rfl
@[simp] theorem State.modDie_empty (s : State) (k : Nat) (f : Die → Die) : (s.modDie k f).empty = s.empty := rfl
@[simp] theorem State.modDie_poison (s : State) (k : Nat) (f : Die → Die) : (s.modDie k f).poison = s.poison := rfl
@[simp] theorem State.modDie_lines (s : State) (k : Nat) (f : Die → Die) : (s.modDie k f).lines = s.lines := rfl
@[simp] theorem State.modDie_l1d (s : State) (k : Nat) (f : Die → Die) : (s.modDie k f).l1d = s.l1d := rfl
@[simp] theorem State.modDie_net (s : State) (k : Nat) (f : Die → Die) : (s.modDie k f).net = s.net := rfl
@[simp] theorem State.modDie_resv (s : State) (k : Nat) (f : Die → Die) : (s.modDie k f).resv = s.resv := rfl
@[simp] theorem State.modDie_walks (s : State) (k : Nat) (f : Die → Die) : (s.modDie k f).walks = s.walks := rfl
@[simp] theorem State.modDie_misses (s : State) (k : Nat) (f : Die → Die) : (s.modDie k f).misses = s.misses := rfl
@[simp] theorem State.modDie_feWait (s : State) (k : Nat) (f : Die → Die) : (s.modDie k f).feWait = s.feWait := rfl
@[simp] theorem State.modDie_bbWait (s : State) (k : Nat) (f : Die → Die) : (s.modDie k f).bbWait = s.bbWait := rfl
@[simp] theorem State.modDie_exWait (s : State) (k : Nat) (f : Die → Die) : (s.modDie k f).exWait = s.exWait := rfl
@[simp] theorem State.modDie_exCnt (s : State) (k : Nat) (f : Die → Die) : (s.modDie k f).exCnt = s.exCnt := rfl
@[simp] theorem State.modDie_frFlight (s : State) (k : Nat) (f : Die → Die) : (s.modDie k f).frFlight = s.frFlight := rfl
@[simp] theorem State.modDie_soloQ (s : State) (k : Nat) (f : Die → Die) : (s.modDie k f).soloQ = s.soloQ := rfl
@[simp] theorem State.modDie_soloHolder (s : State) (k : Nat) (f : Die → Die) : (s.modDie k f).soloHolder = s.soloHolder := rfl
@[simp] theorem State.modDie_replay (s : State) (k : Nat) (f : Die → Die) : (s.modDie k f).replay = s.replay := rfl
@[simp] theorem State.modDie_serial (s : State) (k : Nat) (f : Die → Die) : (s.modDie k f).serial = s.serial := rfl
@[simp] theorem State.modDie_pkgArb (s : State) (k : Nat) (f : Die → Die) : (s.modDie k f).pkgArb = s.pkgArb := rfl
@[simp] theorem State.modDie_stamps (s : State) (k : Nat) (f : Die → Die) : (s.modDie k f).stamps = s.stamps := rfl
@[simp] theorem State.modDie_ending (s : State) (k : Nat) (f : Die → Die) : (s.modDie k f).ending = s.ending := rfl
@[simp] theorem State.modDie_sec (s : State) (k : Nat) (f : Die → Die) : (s.modDie k f).sec = s.sec := rfl
@[simp] theorem State.modDie_links (s : State) (k : Nat) (f : Die → Die) : (s.modDie k f).links = s.links := rfl

@[simp] theorem State.die_modDie (s : State) (k : Nat) (f : Die → Die) (j : Nat) : (s.modDie k f).die j = if j = k then f (s.die k) else s.die j :=
  Tbl.get_put _ _ _ _ _
@[simp] theorem State.slot_modDie (s : State) (k : Nat) (f : Die → Die) (j : Nat) : (s.modDie k f).slot j = s.slot j := rfl
@[simp] theorem State.core_modDie (s : State) (k : Nat) (f : Die → Die) (j : Nat) : (s.modDie k f).core j = s.core j := rfl
@[simp] theorem State.clu_modDie (s : State) (k : Nat) (f : Die → Die) (j : Nat) : (s.modDie k f).clu j = s.clu j := rfl
@[simp] theorem State.ctx_modDie (s : State) (k : Nat) (f : Die → Die) (j : Nat) : (s.modDie k f).ctx j = s.ctx j := rfl

/-! modCtx -/

@[simp] theorem State.modCtx_cur (s : State) (k : Nat) (f : Ctx → Ctx) : (s.modCtx k f).cur = s.cur := rfl
@[simp] theorem State.modCtx_agenda (s : State) (k : Nat) (f : Ctx → Ctx) : (s.modCtx k f).agenda = s.agenda := rfl
@[simp] theorem State.modCtx_tick (s : State) (k : Nat) (f : Ctx → Ctx) : (s.modCtx k f).tick = s.tick := rfl
@[simp] theorem State.modCtx_slots (s : State) (k : Nat) (f : Ctx → Ctx) : (s.modCtx k f).slots = s.slots := rfl
@[simp] theorem State.modCtx_cores (s : State) (k : Nat) (f : Ctx → Ctx) : (s.modCtx k f).cores = s.cores := rfl
@[simp] theorem State.modCtx_clusters (s : State) (k : Nat) (f : Ctx → Ctx) : (s.modCtx k f).clusters = s.clusters := rfl
@[simp] theorem State.modCtx_dies (s : State) (k : Nat) (f : Ctx → Ctx) : (s.modCtx k f).dies = s.dies := rfl
@[simp] theorem State.modCtx_mem (s : State) (k : Nat) (f : Ctx → Ctx) : (s.modCtx k f).mem = s.mem := rfl
@[simp] theorem State.modCtx_empty (s : State) (k : Nat) (f : Ctx → Ctx) : (s.modCtx k f).empty = s.empty := rfl
@[simp] theorem State.modCtx_poison (s : State) (k : Nat) (f : Ctx → Ctx) : (s.modCtx k f).poison = s.poison := rfl
@[simp] theorem State.modCtx_lines (s : State) (k : Nat) (f : Ctx → Ctx) : (s.modCtx k f).lines = s.lines := rfl
@[simp] theorem State.modCtx_l1d (s : State) (k : Nat) (f : Ctx → Ctx) : (s.modCtx k f).l1d = s.l1d := rfl
@[simp] theorem State.modCtx_net (s : State) (k : Nat) (f : Ctx → Ctx) : (s.modCtx k f).net = s.net := rfl
@[simp] theorem State.modCtx_resv (s : State) (k : Nat) (f : Ctx → Ctx) : (s.modCtx k f).resv = s.resv := rfl
@[simp] theorem State.modCtx_walks (s : State) (k : Nat) (f : Ctx → Ctx) : (s.modCtx k f).walks = s.walks := rfl
@[simp] theorem State.modCtx_misses (s : State) (k : Nat) (f : Ctx → Ctx) : (s.modCtx k f).misses = s.misses := rfl
@[simp] theorem State.modCtx_feWait (s : State) (k : Nat) (f : Ctx → Ctx) : (s.modCtx k f).feWait = s.feWait := rfl
@[simp] theorem State.modCtx_bbWait (s : State) (k : Nat) (f : Ctx → Ctx) : (s.modCtx k f).bbWait = s.bbWait := rfl
@[simp] theorem State.modCtx_exWait (s : State) (k : Nat) (f : Ctx → Ctx) : (s.modCtx k f).exWait = s.exWait := rfl
@[simp] theorem State.modCtx_exCnt (s : State) (k : Nat) (f : Ctx → Ctx) : (s.modCtx k f).exCnt = s.exCnt := rfl
@[simp] theorem State.modCtx_frFlight (s : State) (k : Nat) (f : Ctx → Ctx) : (s.modCtx k f).frFlight = s.frFlight := rfl
@[simp] theorem State.modCtx_soloQ (s : State) (k : Nat) (f : Ctx → Ctx) : (s.modCtx k f).soloQ = s.soloQ := rfl
@[simp] theorem State.modCtx_soloHolder (s : State) (k : Nat) (f : Ctx → Ctx) : (s.modCtx k f).soloHolder = s.soloHolder := rfl
@[simp] theorem State.modCtx_replay (s : State) (k : Nat) (f : Ctx → Ctx) : (s.modCtx k f).replay = s.replay := rfl
@[simp] theorem State.modCtx_serial (s : State) (k : Nat) (f : Ctx → Ctx) : (s.modCtx k f).serial = s.serial := rfl
@[simp] theorem State.modCtx_pkgArb (s : State) (k : Nat) (f : Ctx → Ctx) : (s.modCtx k f).pkgArb = s.pkgArb := rfl
@[simp] theorem State.modCtx_stamps (s : State) (k : Nat) (f : Ctx → Ctx) : (s.modCtx k f).stamps = s.stamps := rfl
@[simp] theorem State.modCtx_ending (s : State) (k : Nat) (f : Ctx → Ctx) : (s.modCtx k f).ending = s.ending := rfl
@[simp] theorem State.modCtx_sec (s : State) (k : Nat) (f : Ctx → Ctx) : (s.modCtx k f).sec = s.sec := rfl
@[simp] theorem State.modCtx_links (s : State) (k : Nat) (f : Ctx → Ctx) : (s.modCtx k f).links = s.links := rfl

@[simp] theorem State.ctx_modCtx (s : State) (k : Nat) (f : Ctx → Ctx) (j : Nat) : (s.modCtx k f).ctx j = if j = k then f (s.ctx k) else s.ctx j :=
  Tbl.get_put _ _ _ _ _
@[simp] theorem State.slot_modCtx (s : State) (k : Nat) (f : Ctx → Ctx) (j : Nat) : (s.modCtx k f).slot j = s.slot j := rfl
@[simp] theorem State.core_modCtx (s : State) (k : Nat) (f : Ctx → Ctx) (j : Nat) : (s.modCtx k f).core j = s.core j := rfl
@[simp] theorem State.clu_modCtx (s : State) (k : Nat) (f : Ctx → Ctx) (j : Nat) : (s.modCtx k f).clu j = s.clu j := rfl
@[simp] theorem State.die_modCtx (s : State) (k : Nat) (f : Ctx → Ctx) (j : Nat) : (s.modCtx k f).die j = s.die j := rfl

/-! upd -/

@[simp] theorem State.upd_cur (s : State) (f : Slot → Slot) : (s.upd f).cur = s.cur := rfl
@[simp] theorem State.upd_agenda (s : State) (f : Slot → Slot) : (s.upd f).agenda = s.agenda := rfl
@[simp] theorem State.upd_tick (s : State) (f : Slot → Slot) : (s.upd f).tick = s.tick := rfl
@[simp] theorem State.upd_cores (s : State) (f : Slot → Slot) : (s.upd f).cores = s.cores := rfl
@[simp] theorem State.upd_clusters (s : State) (f : Slot → Slot) : (s.upd f).clusters = s.clusters := rfl
@[simp] theorem State.upd_dies (s : State) (f : Slot → Slot) : (s.upd f).dies = s.dies := rfl
@[simp] theorem State.upd_ctxs (s : State) (f : Slot → Slot) : (s.upd f).ctxs = s.ctxs := rfl
@[simp] theorem State.upd_mem (s : State) (f : Slot → Slot) : (s.upd f).mem = s.mem := rfl
@[simp] theorem State.upd_empty (s : State) (f : Slot → Slot) : (s.upd f).empty = s.empty := rfl
@[simp] theorem State.upd_poison (s : State) (f : Slot → Slot) : (s.upd f).poison = s.poison := rfl
@[simp] theorem State.upd_lines (s : State) (f : Slot → Slot) : (s.upd f).lines = s.lines := rfl
@[simp] theorem State.upd_l1d (s : State) (f : Slot → Slot) : (s.upd f).l1d = s.l1d := rfl
@[simp] theorem State.upd_net (s : State) (f : Slot → Slot) : (s.upd f).net = s.net := rfl
@[simp] theorem State.upd_resv (s : State) (f : Slot → Slot) : (s.upd f).resv = s.resv := rfl
@[simp] theorem State.upd_walks (s : State) (f : Slot → Slot) : (s.upd f).walks = s.walks := rfl
@[simp] theorem State.upd_misses (s : State) (f : Slot → Slot) : (s.upd f).misses = s.misses := rfl
@[simp] theorem State.upd_feWait (s : State) (f : Slot → Slot) : (s.upd f).feWait = s.feWait := rfl
@[simp] theorem State.upd_bbWait (s : State) (f : Slot → Slot) : (s.upd f).bbWait = s.bbWait := rfl
@[simp] theorem State.upd_exWait (s : State) (f : Slot → Slot) : (s.upd f).exWait = s.exWait := rfl
@[simp] theorem State.upd_exCnt (s : State) (f : Slot → Slot) : (s.upd f).exCnt = s.exCnt := rfl
@[simp] theorem State.upd_frFlight (s : State) (f : Slot → Slot) : (s.upd f).frFlight = s.frFlight := rfl
@[simp] theorem State.upd_soloQ (s : State) (f : Slot → Slot) : (s.upd f).soloQ = s.soloQ := rfl
@[simp] theorem State.upd_soloHolder (s : State) (f : Slot → Slot) : (s.upd f).soloHolder = s.soloHolder := rfl
@[simp] theorem State.upd_replay (s : State) (f : Slot → Slot) : (s.upd f).replay = s.replay := rfl
@[simp] theorem State.upd_serial (s : State) (f : Slot → Slot) : (s.upd f).serial = s.serial := rfl
@[simp] theorem State.upd_pkgArb (s : State) (f : Slot → Slot) : (s.upd f).pkgArb = s.pkgArb := rfl
@[simp] theorem State.upd_stamps (s : State) (f : Slot → Slot) : (s.upd f).stamps = s.stamps := rfl
@[simp] theorem State.upd_ending (s : State) (f : Slot → Slot) : (s.upd f).ending = s.ending := rfl
@[simp] theorem State.upd_sec (s : State) (f : Slot → Slot) : (s.upd f).sec = s.sec := rfl
@[simp] theorem State.upd_links (s : State) (f : Slot → Slot) : (s.upd f).links = s.links := rfl

@[simp] theorem State.me_upd (s : State) (f : Slot → Slot) : (s.upd f).me = f s.me := by simp [State.me, State.upd]
theorem State.slot_upd (s : State) (f : Slot → Slot) (j : Nat) : (s.upd f).slot j = if j = s.cur then f s.me else s.slot j := by
  simp [State.upd, State.me]

@[simp] theorem State.core_upd (s : State) (f : Slot → Slot) (j : Nat) : (s.upd f).core j = s.core j := rfl
@[simp] theorem State.clu_upd (s : State) (f : Slot → Slot) (j : Nat) : (s.upd f).clu j = s.clu j := rfl
@[simp] theorem State.die_upd (s : State) (f : Slot → Slot) (j : Nat) : (s.upd f).die j = s.die j := rfl
@[simp] theorem State.ctx_upd (s : State) (f : Slot → Slot) (j : Nat) : (s.upd f).ctx j = s.ctx j := rfl
@[simp] theorem State.myCore_upd (s : State) (f : Slot → Slot) : (s.upd f).myCore = s.myCore := rfl

/-! stamp -/

@[simp] theorem State.stamp_cur (s : State) (d v : Nat) : (s.stamp d v).cur = s.cur := rfl
@[simp] theorem State.stamp_agenda (s : State) (d v : Nat) : (s.stamp d v).agenda = s.agenda := rfl
@[simp] theorem State.stamp_tick (s : State) (d v : Nat) : (s.stamp d v).tick = s.tick := rfl
@[simp] theorem State.stamp_slots (s : State) (d v : Nat) : (s.stamp d v).slots = s.slots := rfl
@[simp] theorem State.stamp_cores (s : State) (d v : Nat) : (s.stamp d v).cores = s.cores := rfl
@[simp] theorem State.stamp_clusters (s : State) (d v : Nat) : (s.stamp d v).clusters = s.clusters := rfl
@[simp] theorem State.stamp_dies (s : State) (d v : Nat) : (s.stamp d v).dies = s.dies := rfl
@[simp] theorem State.stamp_ctxs (s : State) (d v : Nat) : (s.stamp d v).ctxs = s.ctxs := rfl
@[simp] theorem State.stamp_mem (s : State) (d v : Nat) : (s.stamp d v).mem = s.mem := rfl
@[simp] theorem State.stamp_empty (s : State) (d v : Nat) : (s.stamp d v).empty = s.empty := rfl
@[simp] theorem State.stamp_poison (s : State) (d v : Nat) : (s.stamp d v).poison = s.poison := rfl
@[simp] theorem State.stamp_lines (s : State) (d v : Nat) : (s.stamp d v).lines = s.lines := rfl
@[simp] theorem State.stamp_l1d (s : State) (d v : Nat) : (s.stamp d v).l1d = s.l1d := rfl
@[simp] theorem State.stamp_net (s : State) (d v : Nat) : (s.stamp d v).net = s.net := rfl
@[simp] theorem State.stamp_resv (s : State) (d v : Nat) : (s.stamp d v).resv = s.resv := rfl
@[simp] theorem State.stamp_walks (s : State) (d v : Nat) : (s.stamp d v).walks = s.walks := rfl
@[simp] theorem State.stamp_misses (s : State) (d v : Nat) : (s.stamp d v).misses = s.misses := rfl
@[simp] theorem State.stamp_feWait (s : State) (d v : Nat) : (s.stamp d v).feWait = s.feWait := rfl
@[simp] theorem State.stamp_bbWait (s : State) (d v : Nat) : (s.stamp d v).bbWait = s.bbWait := rfl
@[simp] theorem State.stamp_exWait (s : State) (d v : Nat) : (s.stamp d v).exWait = s.exWait := rfl
@[simp] theorem State.stamp_exCnt (s : State) (d v : Nat) : (s.stamp d v).exCnt = s.exCnt := rfl
@[simp] theorem State.stamp_frFlight (s : State) (d v : Nat) : (s.stamp d v).frFlight = s.frFlight := rfl
@[simp] theorem State.stamp_soloQ (s : State) (d v : Nat) : (s.stamp d v).soloQ = s.soloQ := rfl
@[simp] theorem State.stamp_soloHolder (s : State) (d v : Nat) : (s.stamp d v).soloHolder = s.soloHolder := rfl
@[simp] theorem State.stamp_pkgArb (s : State) (d v : Nat) : (s.stamp d v).pkgArb = s.pkgArb := rfl
@[simp] theorem State.stamp_replay (s : State) (d v : Nat) : (s.stamp d v).replay = s.replay := rfl
@[simp] theorem State.stamp_serial (s : State) (d v : Nat) : (s.stamp d v).serial = s.serial := rfl
@[simp] theorem State.stamp_ending (s : State) (d v : Nat) : (s.stamp d v).ending = s.ending := rfl
@[simp] theorem State.stamp_sec (s : State) (d v : Nat) : (s.stamp d v).sec = s.sec := rfl
@[simp] theorem State.stamp_links (s : State) (d v : Nat) : (s.stamp d v).links = s.links := rfl

@[simp] theorem State.slot_stamp (s : State) (d v j : Nat) : (s.stamp d v).slot j = s.slot j := rfl
@[simp] theorem State.core_stamp (s : State) (d v j : Nat) : (s.stamp d v).core j = s.core j := rfl
@[simp] theorem State.clu_stamp (s : State) (d v j : Nat) : (s.stamp d v).clu j = s.clu j := rfl
@[simp] theorem State.die_stamp (s : State) (d v j : Nat) : (s.stamp d v).die j = s.die j := rfl
@[simp] theorem State.ctx_stamp (s : State) (d v j : Nat) : (s.stamp d v).ctx j = s.ctx j := rfl

end Sys2Proof.Machine
end

