-- ==== Sys2Proof/Laws/Memory.lean ====
section
/-! SUPPORT. Memory: every operation on it keeps the canonical form, and a byte reads what was last written. -/

namespace Sys2Proof.Machine

theorem State.memWf_iff (s : State) :
    s.memWf = true ↔ Tbl.wf unlisted s.mem = true ∧ Tbl.wf false s.empty = true ∧ Tbl.wf false s.poison = true := by
  simp [State.memWf, and_assoc]

/-- Only the three tables matter. -/
theorem State.memWf_congr {s t : State} (h1 : t.mem = s.mem) (h2 : t.empty = s.empty) (h3 : t.poison = s.poison) :
    t.memWf = s.memWf := by simp [State.memWf, h1, h2, h3]

@[simp] theorem State.memWf_modSlot (s : State) (k : Nat) (f : Slot → Slot) : (s.modSlot k f).memWf = s.memWf := rfl
@[simp] theorem State.memWf_modCore (s : State) (k : Nat) (f : Core → Core) : (s.modCore k f).memWf = s.memWf := rfl
@[simp] theorem State.memWf_modClu (s : State) (k : Nat) (f : Cluster → Cluster) : (s.modClu k f).memWf = s.memWf := rfl
@[simp] theorem State.memWf_modDie (s : State) (k : Nat) (f : Die → Die) : (s.modDie k f).memWf = s.memWf := rfl
@[simp] theorem State.memWf_modCtx (s : State) (k : Nat) (f : Ctx → Ctx) : (s.modCtx k f).memWf = s.memWf := rfl
@[simp] theorem State.memWf_upd (s : State) (f : Slot → Slot) : (s.upd f).memWf = s.memWf := rfl

/-- A fold of steps that keep a property keeps it. -/
theorem foldl_keeps {α β : Type} {P : β → Prop} {f : β → α → β} (hf : ∀ b a, P b → P (f b a)) (l : List α) (b : β) (h : P b) :
    P (l.foldl f b) := by
  induction l generalizing b with
  | nil => exact h
  | cons a r ih => exact ih _ (hf b a h)

theorem State.memWf_putByte {s : State} (h : s.memWf = true) (a : Nat) (b : Byte) : (s.putByte a b).memWf = true := by
  unfold State.putByte
  split
  · rw [State.memWf_iff] at h ⊢; exact ⟨Tbl.wf_set _ _ h.1, h.2⟩
  · split <;> exact h

theorem State.memWf_putBytes {s : State} (h : s.memWf = true) (a : Nat) (l : List Byte) : (s.putBytes a l).memWf = true := by
  induction l generalizing s a with
  | nil => exact h
  | cons b r ih => exact ih (State.memWf_putByte h a b) (a + 1)

theorem State.memWf_setFull {s : State} (h : s.memWf = true) (a : Nat) (b : Bool) : (s.setFull a b).memWf = true := by
  unfold State.setFull
  split
  · rw [State.memWf_iff] at h ⊢; exact ⟨h.1, Tbl.wf_set _ _ h.2.1, h.2.2⟩
  · split <;> exact h

theorem State.memWf_setPoison {s : State} (h : s.memWf = true) (a : Nat) (b : Bool) : (s.setPoison a b).memWf = true := by
  unfold State.setPoison
  split
  · rw [State.memWf_iff] at h ⊢; exact ⟨h.1, h.2.1, Tbl.wf_set _ _ h.2.2⟩
  · split <;> exact h

theorem State.memWf_healPoison {s : State} (h : s.memWf = true) (a n : Nat) : (s.healPoison a n).memWf = true := by
  refine foldl_keeps (P := fun s : State => s.memWf = true) (fun s w h => ?_) _ _ h
  split
  · exact State.memWf_setPoison h _ _
  · exact h

theorem State.memWf_setMarks {s : State} (h : s.memWf = true) (p : Prop) [Decidable p] (a : Nat) (f q : Bool) :
    ((if p then s.setFull a f else s).setPoison a q).memWf = true := by
  refine State.memWf_setPoison ?_ _ _
  split
  · exact State.memWf_setFull h _ _
  · exact h

theorem State.memWf_lines {s : State} (h : s.memWf = true) (l : Tbl CLine) : ({ s with lines := l } : State).memWf = true := h

theorem State.memWf_writeBack {s : State} (h : s.memWf = true) (l : Nat) : (s.writeBack l).memWf = true := by
  unfold State.writeBack
  generalize leBytes = g
  split
  · exact h
  · split
    · apply State.memWf_lines
      apply foldl_keeps (P := fun s : State => s.memWf = true)
      · intro s i h
        exact State.memWf_setMarks h _ _ _ _
      · exact State.memWf_putBytes h _ _
    · exact h

theorem State.memWf_clearMarks {s : State} (h : s.memWf = true) (a n : Nat) : (s.clearMarks a n).memWf = true := by
  rw [State.memWf_iff] at h ⊢
  exact ⟨h.1, Tbl.wfFrom_filter _ h.2.1, Tbl.wfFrom_filter _ h.2.2⟩

theorem State.memWf_zeroRange {s : State} (h : s.memWf = true) (a n : Nat) : (s.zeroRange a n).memWf = true := by
  have h' := State.memWf_clearMarks h a n
  rw [State.memWf_iff] at h' ⊢
  exact ⟨Tbl.wfFrom_filter _ h'.1, h'.2⟩

theorem wf_copyMem {m : List Host.Cell} (h : Tbl.wf unlisted m = true) (a b n : Nat) : Tbl.wf unlisted (copyMem m a b n) = true :=
  foldl_keeps (P := fun m : List Host.Cell => Tbl.wf unlisted m = true) (fun _ _ h => Tbl.wf_set _ _ h) _ _ (Tbl.wfFrom_filter _ h)

theorem wf_putBitmap {m : List Host.Cell} (h : Tbl.wf unlisted m = true) (a : Nat) (t : Tbl Bool) :
    Tbl.wf unlisted (putBitmap m a t) = true :=
  foldl_keeps (P := fun m : List Host.Cell => Tbl.wf unlisted m = true) (fun _ _ h => Tbl.wf_set _ _ h) _ _ (Tbl.wfFrom_filter _ h)

/-! What a write reads as -/

/-- A byte of a local or physical place after a write of one. -/
theorem State.byteAt_putByte {s : State} (h : s.memWf = true) (a : Nat) (v : Byte) (ha : a < glb0) (j : Nat) :
    (s.putByte a v).byteAt j = if j = a then v else s.byteAt j := by
  rw [State.memWf_iff] at h
  unfold State.putByte
  rw [if_pos ha]
  unfold State.byteAt
  by_cases hj : j < glb0
  · simp only [hj, if_true]; exact Tbl.get_set h.1 a v j
  · simp only [hj, if_false]
    rw [if_neg (by omega)]

/-- A run of bytes of a local or physical place after they are written. -/
theorem State.byteAt_putBytes {s : State} (h : s.memWf = true) (a : Nat) (l : List Byte) (ha : a + l.length ≤ glb0) (j : Nat) :
    (s.putBytes a l).byteAt j = if a ≤ j then (l[j - a]?).getD (s.byteAt j) else s.byteAt j := by
  induction l generalizing s a with
  | nil => simp [State.putBytes]
  | cons b r ih =>
    simp only [List.length_cons] at ha
    simp only [State.putBytes]
    rw [ih (State.memWf_putByte h a b) (a + 1) (by omega), State.byteAt_putByte h a b (by omega)]
    rcases Nat.lt_trichotomy j a with hj | hj | hj
    · rw [if_neg (by omega), if_neg (by omega), if_neg (by omega)]
    · subst hj; simp
    · rw [if_pos (by omega), if_neg (by omega), if_pos (by omega)]
      have : j - a = (j - (a + 1)) + 1 := by omega
      rw [this, List.getElem?_cons_succ]

end Sys2Proof.Machine
end

