-- ==== Sys2Proof/Tests/Slice0.lean ====
section
/-! SUPPORT. Tests of the model: ill-formed terms, words written out from the spec's encodings, single steps with values from the spec's tables
and examples, and for each statement with hypotheses concrete states and operands that meet them. -/

namespace Sys2Proof.Machine

set_option Elab.async false

/-! Ill-formed terms: the checks of Table 03-5 on the fields of an instruction (R82), one for each -/

theorem test_illformed_fp_precision : fieldErr (.fadd 1#6 2#6 3#6 2#2) = some 13 ∧ (Instr.fadd 1#6 2#6 3#6 2#2).wf = false := by decide
theorem test_illformed_ty : fieldErr (.vfadd 1#5 2#5 3#5 0#3 3#2) = some 16 ∧ (Instr.vfadd 1#5 2#5 3#5 0#3 3#2).wf = false := by decide
theorem test_illformed_rounding : fieldErr (.vquant 1#5 2#5 0#5 5#3) = some 17 ∧ (Instr.vquant 1#5 2#5 0#5 5#3).wf = false := by decide
theorem test_illformed_rd_bank : fieldErr (.darm 32#6 2#6 3#6) = some 22 ∧ (Instr.darm 32#6 2#6 3#6).wf = false := by decide
theorem test_illformed_ra_bank : fieldErr (.lb 1#6 32#6 0#13) = some 23 ∧ (Instr.lb 1#6 32#6 0#13).wf = false := by decide
theorem test_illformed_vmem_base : fieldErr (.vld 1#5 32#6 0#3) = some 25 ∧ (Instr.vld 1#5 32#6 0#3).wf = false := by decide
theorem test_illformed_queue_end : fieldErr (.btok 1#6 0#13) = some 29 ∧ (Instr.btok 1#6 0#13).wf = false := by decide
theorem test_illformed_register_range : fieldErr (.spawn 29#6 2#6) = some 30 ∧ (Instr.spawn 29#6 2#6).wf = false := by decide
theorem test_illformed_combination : fieldErr (.fence 4#6) = some 31 ∧ (Instr.fence 4#6).wf = false := by decide
/-- Each has a legal neighbour. -/
theorem test_wellformed : [Instr.fadd 1#6 2#6 3#6 1#2, .vfadd 1#5 2#5 3#5 0#3 2#2, .vquant 1#5 2#5 0#5 4#3, .darm 1#6 2#6 3#6, .lb 32#6 1#6 0#13,
    .vld 1#5 31#6 0#3, .btok 48#6 0#13, .spawn 28#6 2#6, .fence 3#6].all Instr.wf = true := by decide

/-- The checks that no term of Instr can fail, on words: an unused compact bit, a shift count above 63, an unused scalar field, a mask where none governs,
an index vector above v31, e8, and the unassigned functions and majors. -/
theorem test_illformed_words :
    [decodeEnc (.half 0b0_0011_00010_00011_1#16), decodeEnc (.word 0b1_000110_000011_000100_10_00001_000000#32),
     decodeEnc (.word 0b1_000001_000001_000010_000001_0011000#32), decodeEnc (.half 0b0_1110_00000000000#16),
     decodeEnc (.word 0b1_000000_0000000000000000000000000#32), decodeEnc (.half 0x0000#16)].map (fun r => match r with | .ok _ => none | .error j => some j) =
    [some 3, some 19, some 20, some 1, some 4, some 0] := by rfl

/-! Decoding: a word of each family, written out from Tables 03-1 to 03-4 -/

theorem test_decode_div : decodeEnc (.word 0b1_000001_000011_000100_000101_0000101#32) = .ok (.div 3#6 4#6 5#6) := by rfl
theorem test_decode_srai : decodeEnc (.word 0b1_000110_000100_000100_10_00000_111111#32) = .ok (.srai 4#6 4#6 63#6) := by rfl
theorem test_decode_lih : decodeEnc (.word 0b1_001001_000101_1111111111111111111#32) = .ok (.lih 5#6 (-1)) := by rfl
theorem test_decode_pdiff : decodeEnc (.word 0x96084182#32) = .ok (.pdiff 1#6 2#6 3#6) := by rfl
theorem test_decode_next : decodeEnc (.word 0xCE001FFA#32) = .ok (.next (-6)) := by rfl
theorem test_decode_fma : decodeEnc (.word 0xDA516625#32) = .ok (.fma 10#6 11#6 12#6 1#2) := by rfl
theorem test_decode_fcvtf : decodeEnc (.word 0xDA30E071#32) = .ok (.fcvtf 6#6 7#6 0#2 3#2) := by rfl
theorem test_decode_hsift : decodeEnc (.word 0xDC390480#32) = .ok (.hsift 7#6 8#6 9#6) := by rfl
theorem test_decode_spawnl : decodeEnc (.word 0b1_101011_000001_000100_000011_0000001#32) = .ok (.spawnl 1#6 4#6 3#6) := by rfl
theorem test_decode_qnew : decodeEnc (.word 0b1_101100_000101_000000_000000_0000000#32) = .ok (.qnew 5#6) := by rfl
theorem test_decode_fence : decodeEnc (.word 0b1_011101_000000_000000_000010_0000000#32) = .ok (.fence 2#6) := by rfl
theorem test_decode_emov : decodeEnc (.word 0b1_011111_000011_000000_001001_0000010#32) = .ok (.emov 3#3 9#6) := by rfl
theorem test_decode_ldf : decodeEnc (.word 0b1_011011_000010_000011_000000_0000000#32) = .ok (.ldf 2#6 3#6) := by rfl
theorem test_decode_amoadd : decodeEnc (.word 0b1_011100_000010_000011_000100_0_11_0000#32) = .ok (.amoadd 2#6 3#6 4#6 3#2) := by rfl
theorem test_decode_vldb : decodeEnc (.word 0b1_011110_00001_000010_0_00011_100_00110#32) = .ok (.vldb 1#5 2#6 3#5 4#3) := by rfl
theorem test_decode_vand : decodeEnc (.word 0b1_110001_00001_00010_00011_001_00000_11#32) = .ok (.vand 1#5 2#5 3#5 1#3 3#2) := by rfl
theorem test_decode_vceq : decodeEnc (.word 0b1_110011_00001_00010_00011_001_00000_10#32) = .ok (.vceq 1#3 2#5 3#5 1#3 2#2) := by rfl
theorem test_decode_vbcast : decodeEnc (.word 0b1_110100_00001_00010_00000_001_00000_11#32) = .ok (.vbcast 1#5 2#5 1#3 3#2) := by rfl
theorem test_decode_vcvt : decodeEnc (.word 0b1_110101_00001_00010_00001_111_00000_00#32) = .ok (.vcvt 1#5 2#5 1#5 7#3 0#2) := by rfl
theorem test_decode_mma : decodeEnc (.word 0b1_110111_000011_000000_000000_0000000#32) = .ok (.mma 3#6) := by rfl
theorem test_decode_copy : decodeEnc (.word 0b1_111000_000011_000000_000000_0000000#32) = .ok (.copy 3#6) := by rfl
theorem test_decode_route : decodeEnc (.word 0b1_111001_000001_000010_000011_0000101#32) = .ok (.route 1#6 2#6 3#6) := by rfl
theorem test_decode_sysrd : decodeEnc (.word 0b1_111011_000001_000100_000101_0000010#32) = .ok (.sysrd 1#6 4#6 5#6) := by rfl
theorem test_decode_trap : decodeEnc (.word 0b1_111011_000000_000100_001111_0000000#32) = .ok (.trap 4#6 15#6) := by rfl
theorem test_decode_sd_negative : decodeEnc (.word 0b1_011010_000110_000101_1111111111000#32) = .ok (.sd 6#6 5#6 (-8)) := by rfl
theorem test_decode_jalr : decodeEnc (.word 0b1_101010_000001_011100_0000000000100#32) = .ok (.jalr 1#6 28#6 4#13) := by rfl

/-! Witnesses: concrete states and operands that meet the hypotheses of the statements -/

/-- A running device whose context 1 holds physical cluster 0 as virtual cluster 0; slot 0 runs with scalar registers x. -/
def demo (x : Tbl W := []) : State :=
  { State.reset with
    sec := { State.reset.sec with st := 3 }
    ctxs := [(1, { pmap := [(0, 0x8000#64)], active := true })]
    slots := [(0, { st := .run, x := x })] }

/-- The release has nothing to wait for, as a Bool. -/
def relOk (s : State) (rel : Option Nat) : Bool := match rel with | none => true | some n => released s.me (s.vcl s.myCore) n

/-- The state that register operands leave, after the chunk where it ends first. -/
def opened (s : State) (srcs : List R6) (dst : Option R6) (irr : Bool) : State :=
  let s' := if irr || dst.any isG then s.chunkDone s.cur else s
  s'.hold (srcs.map s'.rd)

/-- Slot state, operands and values fit the register forms of Operands. -/
def fits (s : State) (srcs : List R6) (dst : Option R6) (irr : Bool) (rel : Option Nat) (vs : List W) : Bool :=
  let s' := if irr || dst.any isG then s.chunkDone s.cur else s
  (s.me.latch == {}) && srcs.all plainR && dst.all plainR && (!(irr || dst.any isG) || (!s.me.chunk.global && relOk s' rel)) && vs == srcs.map s'.rd

/-- Operands of these values exist in s, and the state they leave meets c. -/
abbrev Meets (s : State) (srcs : List R6) (dst : Option R6) (irr : Bool) (rel : Option Nat) (vs : List W) (c : State → Prop) : Prop :=
  ∃ s1, Operands s srcs dst irr rel vs s1 ∧ c s1

theorem meets {s srcs dst irr rel vs} {c : State → Prop} [DecidablePred c]
    (h : (fits s srcs dst irr rel vs && decide (c (opened s srcs dst irr))) = true) : Meets s srcs dst irr rel vs c := by
  simp only [fits, Bool.and_eq_true, beq_iff_eq, decide_eq_true_eq] at h
  obtain ⟨⟨⟨⟨⟨hl, hs⟩, hd⟩, hr⟩, rfl⟩, hc⟩ := h
  refine ⟨_, ?_, hc⟩
  unfold opened
  by_cases hi : (irr || dst.any isG) = true
  · simp only [hi, if_true, Bool.not_true, Bool.false_or, Bool.and_eq_true, Bool.not_eq_true'] at hr ⊢
    refine .apart _ hl hs hd hi hr.1 rfl ?_
    have hr := hr.2
    unfold relOk at hr; unfold State.relDone; cases rel <;> simp_all
  · obtain ⟨rfl, h2⟩ : irr = false ∧ dst.any isG = false := by simpa using hi
    simpa [h2] using Operands.inChunk hl hs hd rfl h2

theorem witness_any : Meets (demo [(1, 5#64), (2, 7#64)]) [1#6, 2#6] (some 3#6) false none [5#64, 7#64] (fun _ => True) ∧
    Meets (demo [(1, 5#64), (2, 7#64)]) [1#6, 2#6] (some 33#6) true (some 3) [5#64, 7#64] (fun s => s.me.chunk.global = false) := by
  refine ⟨meets ?_, meets ?_⟩ <;> decide +kernel

/-- The demo device with one open queue of four places homed at core 0, ends q0 and q1 bound for both directions, two items and a message. -/
def demoQ (x : Tbl W := []) (q : Queue := { alloc := true, depth := 4, n := 2 }) : State :=
  let s := { demo x with clusters := [(0, { queues := [(0, q)] })] }
  { s with cores := [(0, { q := [(0, { h := s.handle 0, dir := 3 }), (1, { h := s.handle 0, dir := 3 })], mail := [⟨none, 9#64, 0⟩] })] }

/-- Bytes at the start of the code of core 0. -/
def code (l : List Byte) (pc : W := 0#64) : State :=
  (({ demo with agenda := [.cycle 0] } : State).modSlot 0 fun sl => { sl with pc := pc }).putBytes (tcmBase 0 + pc.toNat) l

/-- A slot inside a chunk that has read a line. -/
def inChunk (s : State) : State := s.upd fun sl => { sl with chunk := { reads := [(0, true)] } }

theorem witness_DecodeEncode : ∃ e, encode (.add 63#6 0#6 59#6) = some e ∧ (Instr.add 63#6 0#6 59#6).wf = true := ⟨_, rfl, rfl⟩
theorem witness_RegisterBanks : (demo.ctxs.map (·.1)).Pairwise (· < ·) ∧ (∀ x ∈ [0, 1], ((demo.ctx x).pmap.map (·.1)).Pairwise (· < ·)) ∧ (demo.ctx 1).pmap = [(0, 0x8000#64)] := by
  decide +kernel
theorem witness_EncodeDecode : decodeHalves 0x8218#16 0x8280#16 = .ok (.add 3#6 4#6 5#6) ∧ decodeHalves 0x127F#16 0#16 = .ok (.cAddi 9#5 (-1)) := ⟨rfl, rfl⟩
theorem witness_StoppedDevice : ({ State.reset with agenda := [.cycle 1023] } : State).sec.st ≠ 3 ∧
    ∃ t, step { State.reset with agenda := [.event .soloGrant] } = .next t := ⟨by decide, _, rfl⟩
theorem witness_SecurityLasts : (∃ t, step { State.reset with sec := { st := 4 }, agenda := [.cycle 0] } = .next t) ∧
    ∃ t, step { State.reset with sec := { st := 5 }, agenda := [.event .doorbellReload] } = .next t := ⟨⟨_, rfl⟩, _, rfl⟩
theorem witness_StepRunsDecoded : (code [0x18, 0x82, 0x80, 0x82]).runs 0 = true ∧ (code [0x18, 0x82, 0x80, 0x82]).issues 0 = true ∧
    ((code [0x18, 0x82, 0x80, 0x82]).slot ((code [0x18, 0x82, 0x80, 0x82]).turnOwner 0)).inj = none ∧
    (code [0x18, 0x82, 0x80, 0x82]).fetch ((code [0x18, 0x82, 0x80, 0x82]).turnOwner 0) = .ok (.add 3#6 4#6 5#6) := ⟨by decide +kernel, by decide +kernel, by decide +kernel, rfl⟩
theorem witness_FetchedInstruction :
    ((code [0x7F, 0x12] 65534#64).codeHalf 0 65534 = 0x127F#16 ∧ decodeHalf 0x127F#16 = .ok (.cAddi 9#5 (-1))) ∧
    ((code [0x18, 0x82, 0x80, 0x82] 65532#64).codeHalf 0 65532 = 0x8218#16 ∧ decodeWord 0x82188280#32 = .ok (.add 3#6 4#6 5#6)) ∧
    ((code [0x18, 0x82] 65534#64).codeHalf 0 65534).getLsbD 15 = true ∧ ((code []).codeHalf 0 0 = 0#16 ∧ decodeHalf 0#16 = .error 0) ∧
    ((code [0x00, 0x80]).codeHalf 0 0 = 0x8000#16 ∧ decodeWord 0x80000000#32 = .error 4) ∧
    ((code [] 1#64).slot 0).pc.toNat % 2 = 1 ∧ ((code [] 65536#64).slot 0).pc.toNat ≥ 65536 ∧ ((code []).setPoison (tcmBase 0) true).poisonAt (tcmBase 0) = true ∧
    (let s := (code [0x18, 0x82, 0x80, 0x82] 6#64).setPoison (tcmBase 0 + 8) true; s.poisonAt (tcmBase 0 + 6) = false ∧ s.poisonAt (tcmBase 0 + 6 + 2) = true ∧ (s.codeHalf 0 6).getLsbD 15 = true) := by
  refine ⟨⟨?_, rfl⟩, ⟨?_, rfl⟩, ?_, ⟨?_, rfl⟩, ⟨?_, rfl⟩, ?_, ?_, ?_, ?_⟩ <;> decide +kernel

/-- The state and the values after the pops of an instruction under R91. -/
def nearQ : State := demoQ.chunkDone 0
def nearPop : Popped × State := nearQ.stampMe.popAll [48#6, 60#6]
/-- An instruction whose reservations are granted, one of them at another core's queue: one that pushes there, or at stage 5 one whose two pops
are confirmed. -/
def farQ (stage : Nat := 0) : State :=
  (demoQ.modCore 0 fun co => { co with q := co.q.put 1 { h := nat (2 ^ 25 + 1), dir := 3 } }).upd fun sl =>
    { sl with latch := { partials := if stage = 0 then [none] else [none, none], res := some 0#512, stage := stage, parts := [(0, 6#512), (1, 7#512)]
                         ends := if stage = 0 then [⟨0, 0, false, demoQ.handle 0⟩, ⟨1, 9, true, nat (2 ^ 25 + 1)⟩] else [] } }

theorem near_serves : nearQ.serves [48#6, 60#6] (some 49#6) := by
  have h : nearQ.endQueue 48#6 = some 0 ∧ nearQ.endQueue 49#6 = some 0 := by decide +kernel
  refine ⟨fun r hr hq => ?_, ?_, by decide +kernel⟩
  · have hr : r = 48#6 ∨ r = 60#6 := by simpa [isQ, isMb] using hr
    rcases hr with rfl | rfl
    · refine ⟨by decide +kernel, fun q e => ?_⟩
      rw [h.1] at e; obtain rfl := Option.some.inj e; decide +kernel
    · exact absurd hq (by decide)
  · rintro d ⟨⟩ -
    refine ⟨by decide +kernel, fun q e => ?_⟩
    rw [h.2] at e; obtain rfl := Option.some.inj e; decide +kernel

theorem queue_form : ∃ vs s1, Operands demoQ [48#6, 1#6] (some 3#6) false none vs s1 ∧ vs = [0#64, 0#64] := by
  have hv : fillIn (nearQ.peek [48#6, 1#6]) [asW (Item.enc ⟨0#64, false⟩ (some 0))] = [0#64, 0#64] := by decide +kernel
  have hp : nearQ.stampMe.qPop 0 nearQ.cur (qIx 48#6) false = (.item (Item.enc ⟨0#64, false⟩ (some 0)), (nearQ.stampMe.qPop 0 nearQ.cur (qIx 48#6) false).2) := Prod.ext (by decide +kernel) rfl
  exact ⟨_, _, .fromQueue nearQ _ 48#6 0 _ (by decide +kernel) (by decide +kernel) (by decide +kernel) (by decide +kernel) (by decide +kernel)
      (by decide +kernel) rfl trivial (by decide +kernel) (by decide +kernel) hp, hv⟩

theorem mail_form : ∃ s1, Operands demoQ [1#6, 60#6] (some 3#6) false none [0#64, 9#64] s1 := by
  have hv : fillIn (nearQ.peek [1#6, 60#6]) ([⟨none, 9#64, 0⟩].map fun m : Mail => m.data) = [0#64, 9#64] := by decide +kernel
  have hp : nearQ.mailTake nearQ.cur 1 = ([⟨none, 9#64, 0⟩], (nearQ.mailTake nearQ.cur 1).2) := Prod.ext (by decide +kernel) rfl
  refine ⟨_, by rw [← hv]; exact .fromMail nearQ _ 1 _ (by decide +kernel) (by decide +kernel) (by decide +kernel) rfl (by decide +kernel) (by decide +kernel) rfl trivial hp rfl⟩

/-- An instruction that names mb twice, parked, whose two messages have come. -/
def twoMails : State := demo.upd fun sl => { sl with latch := { partials := [none, none], res := some 0#512, mails := [⟨none, 4#64, 0⟩, ⟨none, 5#64, 0⟩] } }
theorem mailed_form : ∃ vs s1, Operands twoMails [60#6, 60#6] (some 3#6) false none vs s1 ∧ vs = [4#64, 5#64] :=
  ⟨_, _, .mailed 0#512 (by decide +kernel) (by decide +kernel) (by decide +kernel) (by decide +kernel) (by decide +kernel) (by decide +kernel) (by decide +kernel), by decide +kernel⟩

theorem near_form : ∃ vs s1, Operands demoQ [48#6, 60#6] (some 49#6) false none vs s1 ∧ vs = [0#64, 9#64] := by
  have hp : nearQ.stampMe.popAll ([48#6, 60#6].filter fun r => isQ r || isMb r) = (nearPop.1, nearPop.2) := rfl
  have hv : fillIn (nearQ.peek [48#6, 60#6]) nearPop.1.vals = [0#64, 9#64] := by decide +kernel
  refine ⟨_, _, .near nearQ nearPop.2 nearPop.1 (by decide +kernel) (by decide +kernel) ⟨by decide +kernel, ?_⟩ (by decide +kernel) rfl
    (by decide +kernel : released _ _ _ = true) near_serves hp, hv⟩
  rintro d ⟨⟩ -; decide +kernel

theorem far_push : ∃ s1, Operands farQ [48#6] (some 49#6) false none [6#64] s1 :=
  ⟨_, .far 0#512 [6#64] (by decide +kernel) (by decide +kernel) (by decide +kernel) (by decide +kernel) (by decide +kernel) ⟨49#6, by decide +kernel⟩
    (.inr (by decide +kernel)) (by decide +kernel)⟩

theorem far_pops : ∃ s1, Operands (farQ 5) [48#6, 49#6] (some 60#6) false none [6#64, 7#64] s1 :=
  ⟨_, .far 0#512 [6#64, 7#64] (by decide +kernel) (by decide +kernel) (by decide +kernel) (by decide +kernel) (by decide +kernel) ⟨49#6, by decide +kernel⟩
    (.inl (by decide +kernel)) (by decide +kernel)⟩

/-- The forms of Operands beyond registers: values held, a queue end as destination and as source, mb, the item delivered after a park, and two ends
near and far; and where an instruction parks. -/
theorem witness_OperandForms :
    (∃ s1, Operands (demo.hold [5#64]) [1#6] (some 3#6) false none [5#64] s1) ∧ (∃ s1, Operands (demoQ [(1, 5#64)]) [1#6] (some 48#6) false none [5#64] s1) ∧
    (∃ vs s1, Operands demoQ [48#6, 1#6] (some 3#6) false none vs s1 ∧ vs = [0#64, 0#64]) ∧ (∃ s1, Operands demoQ [1#6, 60#6] (some 3#6) false none [0#64, 9#64] s1) ∧
    (∃ vs s1, Operands twoMails [60#6, 60#6] (some 3#6) false none vs s1 ∧ vs = [4#64, 5#64]) ∧
    (∃ vs s1, Operands (demo.upd fun sl => { sl with latch := { partials := [none], res := some 6#512 } }) [48#6] (some 3#6) false none vs s1 ∧ vs = [6#64]) ∧
    (∃ vs s1, Operands demoQ [48#6, 60#6] (some 49#6) false none vs s1 ∧ vs = [0#64, 9#64]) ∧ (∃ s1, Operands farQ [48#6] (some 49#6) false none [6#64] s1) ∧
    (∃ s1, Operands (farQ 5) [48#6, 49#6] (some 60#6) false none [6#64, 7#64] s1) ∧
    demo.endCheck 1 48#6 = some (192, none) ∧ demo.endCheck 2 59#6 = some (192, none) ∧ (inChunk demo).me.chunk.global = true := by
  refine ⟨⟨_, .held _ (by decide +kernel) (by decide +kernel) (by decide +kernel)⟩,
    ⟨_, .toQueue _ 48#6 (by decide +kernel) rfl rfl rfl (by decide +kernel) (by decide +kernel) rfl (by decide +kernel : released _ _ _ = true)⟩,
    queue_form,
    mail_form, mailed_form,
    ⟨_, _, .delivered 48#6 6#512 (by decide +kernel) (by decide +kernel) (by decide +kernel) (by decide +kernel) (by decide +kernel) (by decide +kernel) rfl (by decide +kernel), by decide +kernel⟩,
    near_form, far_push, far_pops, ?_⟩
  decide +kernel

/-- The parks: a release, an end whose queue is empty or elsewhere, mb without a message, and the rounds of R91 that wait or are refused. -/
theorem witness_OperandsPark :
    (¬ ((demo.upd fun sl => { sl with acks := [0] }).chunkDone 0).relDone (some 3)) ∧
    (let s := demoQ [] { alloc := true, depth := 4 }; let t := s.chunkDone 0; t.endLocal 48#6 = true ∧ t.endQueue 48#6 = some 0 ∧ (t.stampMe.qPop 0 0 0 false).1 = .wait ∧ t.canPop 0 1 [] = false) ∧
    (farQ.endCheck 1 49#6 = none ∧ farQ.endLocal 49#6 = false ∧ (farQ.qend 49#6).isSome = true) ∧ (demo.chunkDone 0).mailPop 0 = none ∧ (demo.chunkDone 0).mailCount 0 < 1 ∧
    twoEnds [48#6, 60#6] (some 49#6) = true ∧ twoEnds [48#6] (some 60#6) = true ∧
    ((farQ.chunkDone 0).mailCount 0 ≥ 1 ∧ (nearQ.mailCount 0 < 2 ∧ nearQ.canPop 0 1 [0] = true ∧ nearQ.canPush 0 1 = true)) ∧
    (farQ.me.latch.fault = none ∧ farQ.me.latch.refused = false ∧ farQ.me.latch.nomail = false ∧ (farQ.upd fun sl => { sl with latch := { sl.latch with nomail := true, moved := true } }).me.latch.nomail = true) ∧
    ((demoQ [] { alloc := true, depth := 4, closed := true }).queue 0).closed = true := by
  refine ⟨?_, ?_⟩
  · change ¬ (released _ _ _ = true); decide +kernel
  · decide +kernel

theorem witness_ResultFields : (isG 3#6 = false ∧ demo.me.latch.stage = 0 ∧ demo.me.fpTrap 0 = none) ∧ (isG 33#6 = true ∧ isQ 33#6 = false) ∧ (isG 61#6 = true ∧ isQ 61#6 = false) ∧
    (let s := demo.upd fun sl => { sl with latch := { stage := 1, took := [⟨1#64, 0, ⟨2#64, false⟩, none⟩] } }; s.me.latch.stage ≠ 0 ∧ s.me.fpTrap 0 = none) ∧
    (let s : State := { (demo.upd fun sl => { sl with hold := 3 }) with agenda := [.cycle 0] }; s.runs 0 = true ∧ s.inStep 0 = true ∧ (s.slot (s.turnOwner 0)).err = none ∧ (s.slot (s.turnOwner 0)).hold ≠ 0) := by decide +kernel
theorem witness_ResultQueue : let s := demoQ
    s.me.latch.stage ≠ 3 ∧ s.me.fpTrap 0 = none ∧ s.endQueue 48#6 = some 0 ∧ s.qcore 0 = s.myCore ∧ (s.queue 0).closed = false ∧ (s.queue 0).cons = [] ∧ (s.queue 0).ringRoom = true ∧
    ((demoQ [] { alloc := true, depth := 4, closed := true }).queue 0).closed = true ∧ (demoQ [] { alloc := true, depth := 4, closed := true }).endQueue 48#6 = some 0 ∧
    ((demoQ [] { alloc := true, depth := 1, n := 1 }).stampMe.qPush 0 0 ⟨1#64, false⟩).1 = .wait ∧
    (let t : State := { s with cores := [(8, { q := [(0, { h := s.handle 0, dir := 3 })] })], cur := 128, ctxs := [(1, { pmap := [(0, 0x8000#64), (1, 0x8001#64)], active := true })] };
      t.endQueue 48#6 = some 0 ∧ t.qcore 0 ≠ t.myCore ∧ t.homeCore (t.ctxOf t.myCore) (s.handle 0) = some 0 ∧ 0 ≠ t.myCore) ∧
    (let t := s.upd fun sl => { sl with latch := { stage := 3, ends := [⟨0, 9, true, s.handle 0⟩] } }; t.me.latch.stage = 3 ∧ 
      t.homeCore (t.ctxOf t.myCore) (s.handle 0) = some t.myCore) := by decide +kernel
theorem witness_FpTrapTaken : (demo.upd fun sl => { sl with tstat := 1#64, ftrap := 31#64 }).me.fpTrap 16 = some 160 ∧
    (demo.upd fun sl => { sl with tstat := 1#64, ftrap := 1#64 }).me.fpTrap 17 = some 164 := by decide +kernel
theorem witness_TrapEntry : let s := demo.upd fun sl => { sl with tstat := 1#64 }
    s.me.chunk.global = false ∧ s.me.tstat.getLsbD 0 = true ∧ modeF s.cur = false ∧ modeF ({ s with cur := 112 } : State).cur = true ∧
    (160 / 32 ∈ [5, 6, 7, 9, 10] ∧ 351 / 32 ∈ [5, 6, 7, 9, 10]) ∧ 351 / 32 = 10 := by decide +kernel
theorem witness_FaultDelivery : demo.me.chunk.global = false ∧ modeF demo.cur = false ∧ demo.me.tstat.getLsbD 0 = false ∧ inSlotCause 159 = false ∧ inSlotCause 369 = false ∧
    modeF ({ demo with cur := 112 } : State).cur = true ∧ ({ demo with cur := 112 } : State).me.tstat.getLsbD 0 = false ∧ (inChunk demo).me.chunk.global = true ∧
    (let s := demoQ.upd fun sl => { sl with latch := { took := [⟨demoQ.handle 0, 7, ⟨5#64, false⟩, none⟩] } }; s.me.chunk.global = false ∧ s.links.hostq = [] ∧
      s.homeCore (s.ctxOf s.myCore) (demoQ.handle 0) = some s.myCore ∧ s.findQueue (s.ctxOf s.myCore) (demoQ.handle 0) = some 0 ∧ (s.queue 0).cons = [] ∧ (s.queue 0).prod = []) ∧
    (let s := demo.upd fun sl => { sl with latch := { mails := [⟨none, 9#64, 0⟩] } }; s.me.latch.took = [] ∧ s.me.latch.mails = [⟨none, 9#64, 0⟩] ∧ (s.slots.map (·.1)).Pairwise (· < ·) ∧ ∀ k ∈ [0, 1], (s.slot k).wait = .none) := by
  decide +kernel

/-- A fat pointer by space, format and offset. -/
def ptr (sp fmt off : Nat) : W := nat (fmt * 2 ^ 58 + sp * 2 ^ 52 + off)

/-- Two registers hold any two values, and one instruction reads them. -/
theorem any_two (x y : W) (d : R6) (h : plainR d = true ∧ isG d = false) :
    ∃ s1, Operands (demo [(1, x), (2, y)]) [1#6, 2#6] (some d) false none [x, y] s1 ∧ Operands (demo [(1, x), (2, y)]) [1#6, 2#6] none false none [x, y] s1 :=
  ⟨_, .inChunk rfl rfl (by simpa using h.1) rfl (by simpa using h.2), .inChunk rfl rfl rfl rfl rfl⟩

/-- Statements that ask only for operands: integer, compact, branch and FP instructions. -/
theorem witness_IntegerResults : Meets (demo [(1, 5#64), (2, 0#64)]) [1#6, 2#6] (some 3#6) false none [5#64, 0#64] (fun _ => True) ∧
    Meets (demo [(1, 1#64 <<< 63), (2, BitVec.allOnes 64)]) [1#6, 2#6] (some 3#6) false none [1#64 <<< 63, BitVec.allOnes 64] (fun _ => True) ∧
    Meets (demo [(1, 5#64)]) [1#6] (some 3#6) false none [5#64] (fun _ => True) ∧ Meets demo [] (some 3#6) false none [] (fun _ => True) := by
  refine ⟨meets ?_, meets ?_, meets ?_, meets ?_⟩ <;> decide +kernel
theorem witness_BitFieldResults : Meets (demo [(1, 5#64)]) [1#6] (some 3#6) false none [5#64] (fun _ => True) ∧
    Meets (demo [(1, 5#64), (2, 0x3F3F#64), (3, 7#64)]) [1#6, 2#6, 3#6] (some 3#6) false none [5#64, 0x3F3F#64, 7#64] (fun _ => True) := by
  refine ⟨meets ?_, meets ?_⟩ <;> decide +kernel
theorem witness_BranchResults : Meets (demo [(1, 5#64), (2, 5#64)]) [1#6, 2#6] none false none [5#64, 5#64] (fun _ => True) ∧ Meets demo [] (some 28#6) false none [] (fun _ => True) ∧
    Meets demo [] none false none [] (fun _ => True) ∧ Meets (demo [(28, 8#64)]) [28#6] (some 28#6) false none [8#64] (fun _ => True) := by
  refine ⟨meets ?_, meets ?_, meets ?_, meets ?_⟩ <;> decide +kernel
theorem witness_CompactResults : Meets (demo [(8, 5#64)]) [8#6, 0#6] none false none [5#64, 0#64] (fun _ => True) ∧ Meets (demo [(28, 8#64)]) [28#6] (some 0#6) false none [8#64] (fun _ => True) ∧
    Meets (demo [(31, 9#64)]) [31#6, 0#6] (some 31#6) false none [0#64, 0#64] (fun _ => True) := by
  refine ⟨meets ?_, meets ?_, meets ?_⟩ <;> decide +kernel
theorem witness_FpResults : Meets (demo [(1, 0x7FF0000000000001#64), (2, 1#64), (3, 0#64)]) [1#6, 2#6, 3#6] (some 3#6) false none [0x7FF0000000000001#64, 1#64, 0#64] (fun _ => True) := by
  refine meets ?_; decide +kernel
theorem witness_FpClasses : (fp32.value 0x7F800001).isNan = true ∧ (fp32.value 0x7F800001).isSnan = true ∧ (fp64.value 0x7FF8000000000000).isNan = true ∧ (fp64.value 1).isNan = false ∧
    0x7F800001 < 2 ^ fp32.bits ∧ (fp32.value 0x80000000).isNan = false ∧ (fp32.value 0xFF800000).isNan = false ∧ fpPlace fp32 0x80000000 = fpPlace fp32 0 ∧
    fpPlace fp32 0xFF800000 < fpPlace fp32 0x80000001 ∧ flushed fp32 0x80000001 = 0x80000000 ∧ 0x7FF0000000000001 < 2 ^ fp64.bits := by decide +kernel

/-- The clauses of the pointer statements, at the ends of the low field and of the formats; `any_two` gives the operands. -/
theorem witness_PointerResults :
    (spc (ptr 7 0 0) = 7 ∧ ptrAdd (ptr 0 4 0) 0 ≠ none ∧ ptrAdd (ptr 0 4 0) (-1) = none ∧ ptrAdd (ptr 3 4 (2 ^ 18 - 1)) 0 ≠ none ∧ ptrAdd (ptr 3 4 (2 ^ 18 - 1)) 1 = none) ∧
    (fmtOf (ptr 0 22 8) = 22 ∧ ptrAdd (ptr 0 22 8) (-2 / 2) ≠ none ∧ (3#64).toInt % 2 ≠ 0 ∧ fmtOf (ptr 0 23 0) > 22 ∧ fmtOf (ptr 0 12 0) = 12 ∧ fmtOf (ptr 0 20 0) = 20 ∧ fmtOf (ptr 0 21 0) = 21 ∧
      fmtOf (ptr 0 11 0) = 11 ∧ ptrAdd (ptr 0 11 0) (1 * elemStep 11) ≠ none ∧ ptrAdd (ptr 0 21 0) (1 * elemStep 21) ≠ none) ∧
    (spc (ptr 3 0 8) = spc (ptr 3 4 16) ∧ upper (ptr 3 4 8) = upper (ptr 3 4 16) ∧ spc (ptr 3 4 8) ≠ spc (ptr 1 4 8) ∧ upper (ptr 2 4 8) ≠ upper (ptr 2 4 (2 ^ 21 + 8))) ∧ ptrAdd (ptr 3 8 (2 ^ 18 - 4)) (1 * elemStep 8) = none ∧
    demo.vcl demo.myCore < 128 := by decide +kernel
theorem witness_PointerForms : (∃ e f, pabs 3 2 (ptr 1 4 8) = .ok e ∧ prel 3 2 e.val = .ok f) ∧ (∃ e f, pabs 3 2 (ptr 5 4 (2 ^ 21 - 1)) = .ok e ∧ prel 3 2 e.val = .ok f) ∧
    ptrAdd (ptr 0 0 (2 ^ 52 - 1)) 0 = some (ptr 0 0 (2 ^ 52 - 1)) := by
  refine ⟨⟨_, _, rfl, rfl⟩, ⟨_, _, rfl, rfl⟩, ?_⟩; decide +kernel

/-- A state with n as the eight bytes at an address of the TCM of core 0. -/
def word (s : State) (off n : Nat) : State := s.putBytes (tcmBase 0 + off) (leBytes n 8)

theorem witness_HeapResults :
    Meets (demo [(1, ptr 3 4 0x10000), (2, 16#64)]) [1#6, 2#6] none true none [ptr 3 4 0x10000, 16#64] (fun s => s.heapAt (ptr 3 4 0x10000) = .ok (tcmBase 0 + 0x10000) ∧ 16 ≤ 16) ∧
    Meets (demo [(1, ptr 3 4 0x3FF78), (2, 17#64)]) [1#6, 2#6] none true none [ptr 3 4 0x3FF78, 17#64] (fun s => s.heapAt (ptr 3 4 0x3FF78) = .ok (tcmBase 0 + 0x3FF78)) ∧
    Meets (word (demo [(1, ptr 3 4 0x10000), (2, 0x7FC0000000000001#64)]) 0x10000 0x100) [1#6, 2#6] (some 3#6) true none [ptr 3 4 0x10000, 0x7FC0000000000001#64]
      (fun s => s.num (tcmBase 0 + 0x10000) 8 = 0x100 ∧ s.anyPoison (tcmBase 0 + 0x10000) 136 = false ∧ (score 0x7FC0000000000001).isNan = true) ∧
    Meets (word (word (demo [(1, ptr 3 4 0x10000), (2, 0x4000000000000001#64)]) 0x10000 0x101) 0x10008 0x3F80000000000007) [1#6, 2#6] (some 3#6) true none [ptr 3 4 0x10000, 0x4000000000000001#64]
      (fun s => bitsOf (s.num (tcmBase 0 + 0x10000) 8) 8 5 = 1 ∧ bitsOf (s.num (tcmBase 0 + 0x10000) 8) 0 5 = 1 ∧
        (score (s.num (tcmBase 0 + 0x10008) 8)).lt (score 0x4000000000000001) = true ∧ (score 0x4000000000000001).isNan = false ∧ (score (s.num (tcmBase 0 + 0x10008) 8)).lt (score 0x3F80000000000001) = false) ∧
    Meets (demo [(1, ptr 3 4 0x10000), (2, 1#64)]) [1#6, 2#6] (some 3#6) true none [ptr 3 4 0x10000, 1#64] (fun s => s.heapAt (ptr 3 4 0x10000) = .ok (tcmBase 0 + 0x10000) ∧
      s.anyPoison (tcmBase 0 + 0x10000) 136 = false ∧ bitsOf (s.num (tcmBase 0 + 0x10000) 8) 8 5 < 1) ∧
    Meets (demo [(1, ptr 7 4 0)]) [1#6, 2#6] (some 3#6) true none [ptr 7 4 0, 0#64] (fun s => s.resolve s.myCore (ptr 7 4 0) = .error 64 ∧ s.heapAt (ptr 7 4 0) = .error 64) ∧
    Meets (demo [(1, ptr 3 4 (2 ^ 18 - 128))]) [1#6, 2#6] none true none [ptr 3 4 (2 ^ 18 - 128), 0#64] (fun s =>
      s.resolve s.myCore (ptr 3 4 (2 ^ 18 - 128)) = .ok ⟨tcmBase 0, 2 ^ 18 - 128, 18, 2 ^ 18, false, 0⟩ ∧ s.heapAt (ptr 3 4 (2 ^ 18 - 128)) = .error 78) := by
  refine ⟨meets ?_, meets ?_, meets ?_, meets ?_, meets ?_, meets ?_, meets ?_⟩ <;> decide +kernel

/-- The translation of the first page of context 1's GLB view, and the demo device holding its first line. -/
def page0 : Trans := { ctx := some 1, va := 0, size := 4096, code := 0, place := 0, kind := 0, r := true, w := true, u := true, fe := true, watch := none, dirty := false }
def demoG (x : Tbl W := []) (t : Trans := page0) (poison : BitVec 8 := 0#8) : State :=
  { demo x with lines := [(lineOf (glbAt 1 0), { data := 0#512, fe := 255#8, poison := poison, dirty := false, tr := t })], l1d := [(0, lineOf (glbAt 1 0))] }

/-- The piece that a pointer names. -/
def pieceOf (s : State) (p : W) (n : Nat) (data : List Byte := []) : List Piece :=
  match s.access s.myCore p n n with | .ok t => [⟨0, p, t, n, data⟩] | .error _ => []

/-- Every piece can be accessed, as a Bool; and what stops the first that cannot, which State.judge names. -/
def can (s : State) (wr : Bool) (ps : List Piece) : Bool := ps.all fun p => s.holds p && (s.pieceErr wr ps p).isNone
def errOf (s : State) (wr : Bool) (ps : List Piece) : Option (Nat × W) := (s.judge wr ps none).bad
theorem allows_of {s : State} {wr ps} (h : can s wr ps = true) : s.allows wr ps := by
  intro p hp; have := List.all_eq_true.1 h p hp; simpa [State.fine] using this

/-- The places where an access stops are those that State.judge gives. -/
theorem stopsAt_judge (s : State) (wr : Bool) (ps : List Piece) (err : Option (Nat × W)) :
    StopsAt s wr ps err (s.judge wr ps err).ok (s.judge wr ps err).bring (s.judge wr ps err).bad := by
  refine ⟨State.judge_ok s wr ps err ▸ List.takeWhile_prefix _, fun p hp => State.judge_fine hp, State.judge_all, fun p hp hh => ?_, fun p hp hh => (State.judge_stop hp).2 hh⟩
  obtain ⟨h, hb, he⟩ := (State.judge_stop hp).1 hh
  obtain ⟨c, hc⟩ := Option.isSome_iff_exists.1 h
  exact ⟨c, hc, hb, he.trans hc⟩

/-- Loads: SPC 7, the borrow, each check, a line to be filled, permission and poison, a remote piece before and after its reply, and places at hand. -/
theorem witness_LoadInstructions :
    Meets (demo [(1, ptr 7 0 0)]) [1#6] (some 3#6) false none [ptr 7 0 0] (fun _ => spc (ptr 7 0 0) = 7) ∧
    Meets (demo [(1, ptr 3 8 0)]) [1#6] (some 3#6) false none [ptr 3 8 0] (fun s => ptrAdd (ptr 3 8 0) (-1) = none ∧ s.access s.myCore (ptr 3 8 1) 8 8 = .error 79) ∧
    Meets (demo [(1, ptr 0 8 0)]) [1#6] (some 3#6) false none [ptr 0 8 0] (fun s => (s.judge false (pieceOf s (ptr 0 8 0) 8) none).bring ≠ []) ∧
    Meets (demoG [(1, ptr 0 8 0)] { page0 with r := false }) [1#6] (some 3#6) false none [ptr 0 8 0]
      (fun s => errOf s false (pieceOf s (ptr 0 8 0) 8) = some (96, ptr 0 8 0)) ∧
    Meets (demoG [(1, ptr 0 8 0)] page0 1#8) [1#6] (some 3#6) false none [ptr 0 8 0]
      (fun s => errOf s false (pieceOf s (ptr 0 8 0) 8) = some (128, ptr 0 8 0) ∧ can s false (pieceOf s (ptr 0 8 8) 8) = true) ∧
    Meets (demo [(1, ptr 4 8 (2 ^ 18))]) [1#6] (some 3#6) false none [ptr 4 8 (2 ^ 18)] (fun s => can s false (pieceOf s (ptr 4 8 (2 ^ 18)) 8) = true ∧ (pieceOf s (ptr 4 8 (2 ^ 18)) 8).map (·.tgt.remote) = [true] ∧ s.me.latch.parts.find 0 = none) ∧
    Meets (demo [(1, ptr 3 8 (2 ^ 18 - 8))]) [1#6] (some 3#6) false none [ptr 3 8 (2 ^ 18 - 8)] (fun s => can s false (pieceOf s (ptr 3 8 (2 ^ 18 - 8)) 8) = true ∧ (pieceOf s (ptr 3 8 (2 ^ 18 - 8)) 8).map (·.tgt.remote) = [false]) ∧
    Operands ((demo [(1, ptr 4 8 (2 ^ 18))]).upd fun sl => { sl with latch := { vals := some [ptr 4 8 (2 ^ 18)], parts := [(0, 5#512)] } }) [1#6] (some 3#6) false none [ptr 4 8 (2 ^ 18)]
      ((demo [(1, ptr 4 8 (2 ^ 18))]).upd fun sl => { sl with latch := { vals := some [ptr 4 8 (2 ^ 18)], parts := [(0, 5#512)] } }) := by
  refine ⟨meets ?_, meets ?_, meets ?_, meets ?_, meets ?_, meets ?_, meets ?_, .held _ ?_ ?_ ?_⟩ <;> decide +kernel

/-- Speculative stores to 512 lines. -/
def fullStores : Tbl Byte := (List.range 512).map fun i => (glbAt 1 (64 * (i + 1)), 1#8)

theorem eraseDups_of_nodup : ∀ {l : List Nat}, l.Nodup → l.eraseDups = l := by
  intro l
  induction l with
  | nil => intro _; rfl
  | cons a l ih =>
    intro h
    obtain ⟨ha, hn⟩ := List.nodup_cons.1 h
    rw [List.eraseDups_cons, List.filter_eq_self.2, ih hn]
    intro b hb
    have : b ≠ a := by rintro rfl; exact ha hb
    simpa using this

/-- With a line of its own a store needs a 513th. -/
theorem fullStores_lines {c : Chunk} {ls : List Nat} (hc : c.stores = fullStores) (hl : ls = [lineOf (glbAt 1 0)]) : ¬ (c.storeLines ++ ls).eraseDups.length ≤ 512 := by
  have h : (c.stores.map fun (a, _) => lineOf a) = (List.range 512).map fun i => lineOf (glbAt 1 (64 * (i + 1))) := by
    rw [hc, fullStores, List.map_map]; rfl
  have inj : ∀ i j, lineOf (glbAt 1 (64 * i)) = lineOf (glbAt 1 (64 * j)) → i = j := by
    intro i j; simp only [lineOf, glbAt, glb0]; omega
  have n1 : ((List.range 512).map fun i => lineOf (glbAt 1 (64 * (i + 1)))).Nodup :=
    List.nodup_range.map fun i j e => by have := inj _ _ e; omega
  have n2 : (((List.range 512).map fun i => lineOf (glbAt 1 (64 * (i + 1)))) ++ [lineOf (glbAt 1 0)]).Nodup := by
    refine n1.append (List.nodup_singleton _) ?_
    rintro a ha hb
    obtain ⟨i, -, rfl⟩ := List.mem_map.1 ha
    have := inj (i + 1) 0 (List.mem_singleton.1 hb)
    omega
  rw [Chunk.storeLines, h, eraseDups_of_nodup n1, hl, eraseDups_of_nodup n2]
  simp

/-- Stores: the same, a chunk whose 512 lines are full, a store after a pop, one to a local space inside and outside a chunk, and one to another core. -/
theorem witness_StoreInstructions :
    Meets (demoG [(1, ptr 0 8 0), (2, 5#64)]) [1#6, 2#6] none false none [ptr 0 8 0, 5#64] (fun s => can s true (pieceOf s (ptr 0 8 0) 8) = true ∧
      s.me.latch.stage = 0 ∧ s.me.latch.parts.find nearDone = none ∧ ((s.me.chunk.storeLines ++ ((pieceOf s (ptr 0 8 0) 8).flatMap (·.lines)).eraseDups).eraseDups).length ≤ 512) ∧
    Meets ((demoG [(1, ptr 0 8 0), (2, 5#64)]).upd fun sl => { sl with chunk := { stores := fullStores } }) [1#6, 2#6] none false none [ptr 0 8 0, 5#64]
      (fun s => ¬ ((s.me.chunk.storeLines ++ ((pieceOf s (ptr 0 8 0) 8).flatMap (·.lines)).eraseDups).eraseDups).length ≤ 512) ∧
    Meets (demoG [(1, ptr 0 8 0), (2, 5#64)] { page0 with w := false }) [1#6, 2#6] none false none [ptr 0 8 0, 5#64] (fun s => errOf s true (pieceOf s (ptr 0 8 0) 8) = some (97, ptr 0 8 0)) ∧
    Meets (demoG [(1, ptr 0 8 0), (2, 5#64)] page0 1#8) [1#6, 2#6] none false none [ptr 0 8 0, 5#64] (fun s => errOf s true (pieceOf s (ptr 0 8 0) 4) = some (129, ptr 0 8 0) ∧
      can s true (pieceOf s (ptr 0 8 0) 8) = true) ∧
    Meets (demo [(1, ptr 3 8 0), (2, 5#64)]) [1#6, 2#6] none false none [ptr 3 8 0, 5#64] (fun s => s.memWf = true ∧ s.access s.myCore (ptr 3 8 0) 8 8 = .ok ⟨tcmBase 0, 0, 18, 2 ^ 18, false, 0⟩ ∧
      s.me.chunk.global = false ∧ can s true (pieceOf s (ptr 3 8 0) 8) = true ∧ s.me.latch.parts.find nearDone = none ∧ s.soloHolds (some 0) [] = false) ∧
    Meets (inChunk (demo [(1, ptr 3 8 0), (2, 5#64)])) [1#6, 2#6] none false none [ptr 3 8 0, 5#64] (fun s => s.me.chunk.global = true) ∧
    Meets (demo [(1, ptr 4 8 (2 ^ 18)), (2, 5#64)]) [1#6, 2#6] none false none [ptr 4 8 (2 ^ 18), 5#64] (fun s => (pieceOf s (ptr 4 8 (2 ^ 18)) 8).map (·.tgt.remote) = [true] ∧
      can s true (pieceOf s (ptr 4 8 (2 ^ 18)) 8) = true ∧ s.me.acks.length < 8 ∧ s.me.latch.parts.find 0 = none) ∧
    (∃ vs s1, Operands ((demoG [(1, ptr 0 8 0)]).upd fun sl => { sl with latch := { partials := [some (ptr 0 8 0), none], res := some 6#512 } }) [1#6, 48#6] none false none vs s1 ∧
      vs = [ptr 0 8 0, 6#64] ∧ s1.me.latch.stage = 1 ∧ s1.soloHolds (some s1.cur) [lineOf (glbAt 1 0)] = false) := by
  refine ⟨meets ?_, ⟨_, .inChunk ?_ ?_ ?_ rfl ?_, fullStores_lines ?_ ?_⟩, meets ?_, meets ?_, meets ?_, meets ?_, meets ?_,
    _, _, .delivered 48#6 6#512 (by decide +kernel) (by decide +kernel) (by decide +kernel) (by decide +kernel) (by decide +kernel) (by decide +kernel) rfl (by decide +kernel), ?_⟩ <;> decide +kernel

/-- A global access outside a chunk with a no-return AMO on its way and without one, and a store that waits as other writes do. -/
theorem witness_LoadInstructions_behind :
    (let s := (demoG [(1, ptr 0 8 0)]).upd fun sl => { sl with reds := 1 }; s.behind true (pieceOf s (ptr 0 8 0) 8) = true ∧ s.behind false (pieceOf s (ptr 0 8 0) 8) = false) ∧
    (demoG [(1, ptr 0 8 0)]).behind true (pieceOf demo (ptr 0 8 0) 8) = false ∧ (demoG []).heldUp (pieceOf demo (ptr 0 8 0) 8) = false ∧
    (let s : State := { (demoG []).modSlot 16 (fun sl => { sl with solo := true, chunk := { reads := [(lineOf (glbAt 1 0), true)] } }) with soloHolder := some 16 }; s.heldUp (pieceOf s (ptr 0 8 0) 8) = true) := by
  decide +kernel

theorem witness_PointerChecks : spc (ptr 7 0 0) = 7 ∧ offOf (ptr 3 0 (2 ^ 18)) / 2 ^ fieldsWidth 3 ≠ 0 ∧ offOf (ptr 1 0 (2 ^ 21)) / 2 ^ fieldsWidth 1 ≠ 0 ∧
    demo.access 0 (ptr 3 0 (2 ^ 18 - 8)) 8 8 = .ok ⟨tcmBase 0, 2 ^ 18 - 8, 18, 2 ^ 18, false, 0⟩ ∧ demo.access 0 (ptr 0 0 (2 ^ 52 - 8)) 8 8 = .ok ⟨glbAt 1 0, 2 ^ 52 - 8, 52, 2 ^ 52, false, 0⟩ ∧
    demo.access 0 (ptr 1 0 (2 ^ 21)) 8 8 = .error 65 ∧ (fld (ptr 5 0 (127 * 2 ^ 21)) 21 7 = 127 ∧ demo.access 0 (ptr 5 0 (127 * 2 ^ 21)) 8 8 = .error 67) ∧ demo.place 1 1 = none ∧ demo.access 0 (ptr 2 0 (2 ^ 21)) 8 8 = .error 66 ∧
    (let s := demo.modCtx 1 fun cx => { cx with pmap := [(0, 0x8000#64), (1, 0x800E#64)] }; s.place 1 1 = some 14 ∧ s.access 0 (ptr 4 0 (2 ^ 21 + 7 * 2 ^ 18)) 8 8 = .ok ⟨tcmBase 119, 0, 18, 2 ^ 18, true, 1⟩) ∧
    (let s := demo.modCtx 1 fun cx => { cx with pmap := [(0, 0x8000#64)] }; isRing (0 * 8 + 7) = true ∧ s.access 0 (ptr 4 0 (7 * 2 ^ 18)) 8 8 = .error 66) ∧ demo.access 0 (ptr 6 0 0) 8 8 = .error 68 ∧
    (let s := demo.modCtx 1 fun cx => { cx with dsrwin := [(0, nat (2 ^ 32))] }; 0 < s.winSize 1 0 ∧ s.access 0 (ptr 6 0 (s.winSize 1 0 - 4)) 4 8 = .error 68) ∧
    demo.access 0 (ptr 0 0 (2 ^ 52 - 4)) 4 8 = .error 80 ∧ demo.access 0 (ptr 3 0 (2 ^ 18 - 4)) 4 8 = .error 80 ∧ demo.access 0 (ptr 3 0 (2 ^ 18 - 4)) 8 8 = .error 79 := by decide +kernel

/-- A word made empty. -/
def emptyAt (s : State) (off : Nat) : State := s.setFull (tcmBase 0 + off) false

theorem witness_FullEmptyInstructions :
    Meets (demo [(1, ptr 3 4 4)]) [1#6] (some 3#6) true none [ptr 3 4 4] (fun s => s.access s.myCore (ptr 3 4 4) 8 8 = .error 79) ∧
    Meets (demo [(1, ptr 3 4 8), (2, 5#64)]) [1#6, 2#6] none true (some 3) [ptr 3 4 8, 5#64] (fun s => s.access s.myCore (ptr 3 4 8) 8 8 = .ok ⟨tcmBase 0, 8, 18, 2 ^ 18, false, 0⟩ ∧
      s.me.latch.res = none ∧ isGlobal (tcmBase 0 + 8) = false ∧ (s.homeStep s.cur false (tcmBase 0 + 8) (.fe .ste 5#64)).1 = .wait ∧ s.memWf = true) ∧
    Meets (emptyAt (demo [(1, ptr 3 4 8), (2, 5#64)]) 8) [1#6, 2#6] none true (some 3) [ptr 3 4 8, 5#64] (fun s => (s.homeStep s.cur false (tcmBase 0 + 8) (.fe .ste 5#64)).1 = .val 0#512 ∧
      s.fullAt (tcmBase 0 + 8) = false ∧ s.memWf = true) ∧
    Meets (demo [(1, ptr 0 4 8)]) [1#6] (some 3#6) true none [ptr 0 4 8] (fun s => s.access s.myCore (ptr 0 4 8) 8 8 = .ok ⟨glbAt 1 0, 8, 52, 2 ^ 52, false, 0⟩ ∧ isGlobal (glbAt 1 0 + 8) = true) ∧
    Meets (demo [(1, ptr 4 4 (2 ^ 18))]) [1#6] (some 3#6) true none [ptr 4 4 (2 ^ 18)] (fun s => s.access s.myCore (ptr 4 4 (2 ^ 18)) 8 8 = .ok ⟨tcmBase 1, 0, 18, 2 ^ 18, true, 0⟩) ∧
    Meets (demo.setPoison (tcmBase 0 + 8) true) [] none true none [] (fun s => s.memWf = true ∧ s.poisonAt (tcmBase 0 + 8) = true ∧ s.fullAt (tcmBase 0 + 8) = true ∧
      s.homeStep 0 false (tcmBase 0 + 8) (.fe .ldf 0#64) = (.fault 128 none, s)) ∧
    (let t : Trans := { page0 with fe := false }; let r : Resv := ⟨0, false, glbAt 1 8, .fe .ldf 0#64, 1, ptr 0 4 8, false, 0⟩
      let s : State := { (demo.modClu (sliceOf 0) fun c => { c with tlb := [t] }) with resv := [r] }; let g := s.haveLine (glbCtx r.place) (glbVa r.place)
      glb0 ≤ r.place ∧ s.mirrorHolds r = false ∧ s.walking r.who = false ∧ s.resvMissing r = [] ∧ g.tlb (glbCtx r.place) (glbVa r.place) = some t ∧ g.mustWait (some r.k) r.place 8 = false ∧
        t.deny true true (!modeF r.k) = none) := by
  refine ⟨meets ?_, meets ?_, meets ?_, meets ?_, meets ?_, meets ?_, ?_⟩ <;> decide +kernel

theorem witness_AtomicInstructions :
    Meets (demo [(1, ptr 3 4 8), (2, 5#64)]) [1#6, 2#6] (some 3#6) true (some 3) [ptr 3 4 8, 5#64] (fun s => s.amoCheck (ptr 3 4 8) true = .error 81 ∧
      s.amoCheck (ptr 3 4 8) false = .ok (⟨tcmBase 0, 8, 18, 2 ^ 18, false, 0⟩, 32) ∧ s.memWf = true ∧ s.poisonAt (tcmBase 0 + 8) = false ∧ s.me.latch.res = none) ∧
    Meets (demo [(1, ptr 3 9 (2 ^ 18 - 8)), (2, 5#64)]) [1#6, 2#6] none true (some 3) [ptr 3 9 (2 ^ 18 - 8), 5#64]
      (fun s => s.amoCheck (ptr 3 9 (2 ^ 18 - 8)) true = .ok (⟨tcmBase 0, 2 ^ 18 - 8, 18, 2 ^ 18, false, 0⟩, 64)) ∧
    Meets (demo [(1, ptr 0 9 0), (2, 5#64)]) [1#6, 2#6] none true none [ptr 0 9 0, 5#64] (fun s => s.amoCheck (ptr 0 9 0) false = .ok (⟨glbAt 1 0, 0, 52, 2 ^ 52, false, 0⟩, 64) ∧
      isGlobal (glbAt 1 0) = true) ∧
    (demo.memWf = true ∧ (tcmBase 0 + 4) % (32 / 8) = 0 ∧ demo.poisonAt (tcmBase 0 + 4) = false ∧ (demo.homeStep 0 false (tcmBase 0 + 4) (.amo .fadd 32 0x3F800000#64 0#64 0 false)).1 = .w 0#64) := by
  refine ⟨meets ?_, meets ?_, meets ?_, ?_⟩ <;> decide +kernel

/-- A vector access whose mask enables lanes 0 and 7 of eight, one with no lane enabled, one of an unassigned width, and one whose second lane fails. -/
theorem witness_LaneInstructions :
    Meets ((demo [(1, ptr 3 9 0)]).mset 0 1 0x81#64) [1#6] none false none [ptr 3 9 0] (fun s => ∃ ps, s.lanePieces (ptr 3 9 0) 1#3 true 0#512 (fun L j => (L * j : Nat)) = .ok (8, ps, none) ∧
      ps.map (·.part) = [0, 7] ∧ can s false ps = true ∧ ∀ p ∈ ps, p.tgt.remote = false) ∧
    Meets (demo [(1, ptr 3 9 0)]) [1#6] none false none [ptr 3 9 0] (fun s => s.lanePieces (ptr 3 9 0) 1#3 true 0#512 (fun L j => (L * j : Nat)) = .ok (8, [], none)) ∧
    Meets (demo [(1, ptr 3 9 (2 ^ 18 - 56))]) [1#6] none false none [ptr 3 9 (2 ^ 18 - 56)] (fun s => ∃ e, s.lanePieces (ptr 3 9 (2 ^ 18 - 56)) 0#3 true 0#512 (fun L j => (L * j : Nat)) = .error e) ∧
    Meets (demo [(1, ptr 3 9 0), (2, BitVec.ofInt 64 (-8))]) [1#6, 2#6] none false none [ptr 3 9 0, BitVec.ofInt 64 (-8)] (fun s => ∃ ps, s.lanePieces (ptr 3 9 0) 0#3 false 0#512 (fun _ j => -8 * j) =
      .ok (8, ps, some (71, ptr 3 9 0)) ∧ ps.length = 1 ∧ can s false ps = true ∧ (s.judge false ps (some (71, ptr 3 9 0))).bad = some (71, ptr 3 9 0)) := by
  refine ⟨⟨_, .inChunk rfl rfl rfl rfl rfl, _, rfl, ?_⟩, ⟨_, .inChunk rfl rfl rfl rfl rfl, ?_⟩, ⟨_, .inChunk rfl rfl rfl rfl rfl, _, rfl⟩, ⟨_, .inChunk rfl rfl rfl rfl rfl, _, rfl, ?_⟩⟩ <;> decide +kernel

theorem tcmHolds_iff {s : State} {p : W} {n : Nat} : s.tcmHolds p n ↔ spc p = 3 ∧ offOf p / 2 ^ 18 = 0 ∧ fld p 0 18 + n ≤ 2 ^ 18 ∧
    ∀ w ∈ wordsOf (tcmBase s.myCore + fld p 0 18) n, s.poisonSeen s.cur w = false := Iff.rfl

theorem witness_BlockInstructions :
    Meets (demo [(1, ptr 3 0 64)]) [1#6] none false none [ptr 3 0 64] (fun s => ∃ ps, s.extPieces (ptr 3 0 64) (fun _ => []) = .ok ps ∧ can s false ps = true ∧
      ∀ p ∈ ps, p.tgt.remote = false) ∧
    Meets (demo [(1, ptr 3 0 (2 ^ 18 - 56))]) [1#6] none false none [ptr 3 0 (2 ^ 18 - 56)] (fun s => ∃ e, s.extPieces (ptr 3 0 (2 ^ 18 - 56)) (fun _ => []) = .error e) ∧
    (demo.vldbCheck (ptr 3 12 0) 0#64 0 = none ∧ demo.vldbCheck (ptr 3 12 0) 0#64 4 = some (84, ptr 3 12 0) ∧ demo.vldbCheck (ptr 3 4 0) 0#64 0 = some (83, ptr 3 4 0)) ∧
    (∃ ps, allPieces (demo.rangePieces (ptr 3 22 0) 0#64 0 [(false, 0, 8)]) = .ok ps ∧ can demo false ps = true ∧ ∀ p ∈ ps, p.tgt.remote = false) ∧
    (∃ ps, allPieces (demo.rangePieces (ptr 3 12 0) 0#64 0 ([0, 1].flatMap fun q => [(false, mxScale 12 q, 1), (false, mxData 12 q, (mxFmt 12).bits)])) = .ok ps ∧ can demo false ps = true) ∧
    (demo.tcmHolds (ptr 3 17 0) (2 ^ 18) ∧ demo.me.latch.parts = [] ∧ spBad (spNibble (demo.tcmNum (ptr 3 0 0)) 0) = true ∧
      (let s := word demo 0 (2 ^ 64 - 1); demo.tcmNum (ptr 3 17 0) 0 4 % 4 = 0 ∧ (kefLength (demo.tcmNum (ptr 3 17 0) 0 4)).isNone = true ∧ (s.tcmNum (ptr 3 17 0) 0 4) % 4 ≠ 0) ∧
      (let s := word demo 0 0x4444444444444444; ∀ i < 4, spBad (spNibble (s.tcmNum (ptr 3 0 0)) i) = false) ∧
      unitAt (demo.tcmNum (ptr 3 20 0)) 2 ≤ 2 ^ 18) ∧
    (let s := demo.putBytes (tcmBase 0 + 0x10000) [0x10, 0x00, 0x01, 0x00, 0x7F, 0x80, 0x92, 0x8C, 0x1C, 0x03, 0xC1, 0x00, 0x4F, 0x00, 0x00, 0x00]; let rd := s.tcmNum (ptr 3 17 0x10000)
      ∃ len, kefLength (rd 0 4) = some len ∧ len ≤ 16 ∧ (kefStrip (rd 0 4) ((List.range (rd 0 2 - 4)).map fun i => rd (0 + 4 + i) 1)).isSome = true) := by
  refine ⟨⟨_, .inChunk rfl rfl rfl rfl rfl, _, rfl, ?_⟩, ⟨_, .inChunk rfl rfl rfl rfl rfl, _, rfl⟩, ?_, ⟨_, rfl, ?_⟩, ⟨_, rfl, ?_⟩, ⟨tcmHolds_iff.2 ⟨?_, ?_, ?_, ?_⟩, ?_⟩, ?_⟩
  · decide +kernel
  · decide +kernel
  · decide +kernel
  · decide +kernel
  · decide +kernel
  · decide +kernel
  · decide +kernel
  · intro w _; simp [State.poisonSeen, State.poisonAt, demo, State.reset, Tbl.get, Tbl.find]
  · decide +kernel
  · exact ⟨_, rfl, by decide +kernel, by decide +kernel⟩

theorem witness_SyncInstructions :
    (inChunk demo).me.chunk.global = true ∧ demo.me.chunk.global = false ∧ released (demo.chunkDone 0).me 0 4 = true ∧
    released ((demo.upd fun sl => { sl with acks := [33] }).chunkDone 0).me 0 3 = false ∧ released ((demo.upd fun sl => { sl with acks := [33] }).chunkDone 0).me 0 2 = true ∧
    (Meets (demo [(1, ptr 3 0 64)]) [1#6] (some 3#6) true none [ptr 3 0 64] fun s => s.access s.myCore (ptr 3 0 64) 1 1 = .ok ⟨tcmBase 0, 64, 18, 2 ^ 18, false, 0⟩ ∧ s.me.monFree = some 0) ∧
    (Meets ((demo [(1, ptr 4 0 (2 ^ 18))]).upd fun sl => { sl with mons := (List.range 8).map fun i => (i, { block := i }) }) [1#6] (some 3#6) true none [ptr 4 0 (2 ^ 18)] fun s =>
      s.access s.myCore (ptr 4 0 (2 ^ 18)) 1 1 = .ok ⟨tcmBase 1, 0, 18, 2 ^ 18, true, 0⟩ ∧ s.me.monFree = none ∧ s.me.monHits = 0 ∧ s.me.mons ≠ []) ∧
    (Meets demo [0#6] none true none [0#64] fun _ => True) ∧ (Meets demo [] (some 3#6) true none [] fun s => s.me.mons = [] ∧ s.mailCount s.cur = 0 ∧ s.me.latch.res = none) ∧
    (Meets demoQ [] (some 3#6) true none [] fun s => s.mailCount s.cur ≠ 0) ∧
    (let s := demo.upd (fun sl => { sl with mons := [(1, { block := lineOf (tcmBase 0) })] });
      (s.slots.map (·.1)).Pairwise (· < ·) ∧ (s.slot 0).mons.find 1 = some { block := lineOf (tcmBase 0) } ∧ (linesOf (tcmBase 0 + 63) 2).contains (lineOf (tcmBase 0)) = true) := by
  refine ⟨?_, ?_, ?_, ?_, ?_, meets ?_, meets ?_, meets ?_, meets ?_, meets ?_, ?_⟩ <;> decide +kernel

/-- A quiet slot, a slot that meets a subnormal, and one whose trap is enabled. -/
theorem witness_VectorFp : (demo.upd fun sl => { sl with frm := 8#64 }).quiet ∧ (demo.me.ftz = false ∧ demo.me.latch.res = none ∧ (fp32.fadd 0 false 1 0).sub = true) ∧
    (demo.upd fun sl => { sl with tstat := 1#64, ftrap := 31#64 }).me.fpTrap 16 = some 160 ∧ (fp32.fadd 0 false 0x7F800001 0).flags = 16 := by
  refine ⟨⟨.inl ?_, ?_⟩, ?_⟩ <;> decide +kernel
theorem witness_MaskInstructions : (demo.upd fun sl => { sl with frm := 8#64 }).quiet ∧ (31#5 : BitVec 5) ≠ 0#5 ∧ demo.on 0#3 63 = true ∧ demo.on 1#3 0 = false := by
  refine ⟨⟨.inl ?_, ?_⟩, ?_⟩ <;> decide +kernel
theorem witness_ReductionInstructions : (demo.upd fun sl => { sl with latch := { res := some 0#512 } }).quiet ∧ (∀ j < 8, demo.on 1#3 j = false) ∧ demo.on 0#3 7 = true := by
  refine ⟨⟨.inr ?_, ?_⟩, ?_⟩ <;> decide +kernel
theorem witness_VectorConversions : (demo.upd fun sl => { sl with frm := 8#64 }).quiet ∧ (0#5).toNat ≤ 1 ∧ (1#5).toNat ≤ 1 := by
  refine ⟨⟨.inl ?_, ?_⟩, ?_⟩ <;> decide +kernel

/-- A slot whose e registers hold the listed values. -/
def eregs (l : List (Nat × W)) (s : State := demo) : State := l.foldl (fun s (i, v) => s.eset 0 i v) s

theorem witness_TaskInstructions :
    (Meets (demo [(2, 0#64)]) [2#6] none true (some 3) [0#64] fun s => s.targetFault (s.ctxOf s.myCore) (s.spawnRec 4#6 0#64 none).w0 0#64 = none ∧ s.niqLen s.myCore < 8 ∧
      s.coreAt (s.ctxOf s.myCore) 0 = some s.myCore ∧ (s.arrive s.myCore (s.spawnRec 4#6 0#64 none)).isSome = true ∧ (s.unreserved 0).length = 15 ∧ s.me.latch.res = none) ∧
    (Meets (demo [(2, nat (2 ^ 32))]) [2#6] (some 5#6) true (some 3) [nat (2 ^ 32)] fun s => s.targetFault (s.ctxOf s.myCore) 0#64 (nat (2 ^ 32)) = none ∧
      s.coreAt (s.ctxOf s.myCore) (fld (nat (2 ^ 32)) 32 10) = some 1) ∧
    (Meets (demo [(2, nat (2 ^ 42))]) [2#6] none true (some 3) [nat (2 ^ 42)] fun s => s.targetFault (s.ctxOf s.myCore) 0#64 (nat (2 ^ 42)) = some (224, nat (2 ^ 42)) ∧
      s.targetFault (s.ctxOf s.myCore) 1#64 0#64 = some (224, 1#64)) ∧
    (Meets { demo [(2, 0#64)] with net := List.replicate 8 ⟨0, 1, .task {}, 1, none⟩ } [2#6] none true (some 3) [0#64] fun s => s.niqLen s.myCore ≥ 8) ∧
    (inChunk demo).me.chunk.global = true ∧ released ((demo.upd fun sl => { sl with acks := [0] }).chunkDone 0).me 0 3 = false ∧
    (let s := demo.modCore 0 fun co => { co with deque := List.replicate 64 {}, reserved := (List.range 15).map (· + 1) }; s.unreserved 0 = [] ∧ s.arrive 0 {} = none) ∧
    (let s := demo.modCore 0 fun co => { co with reserved := (List.range 15).map (· + 1) }; s.unreserved 0 = [] ∧ (s.core 0).deque.length < 64) ∧ demo.unreserved 0 ≠ [] ∧
    (demoQ.core (coreOf 1)).mail ≠ [] ∧ ∀ m ∈ (demoQ.core (coreOf 1)).mail, m.dest ≠ some (1 % 16) := by
  refine ⟨meets ?_, meets ?_, meets ?_, meets ?_, ?_⟩ <;> decide +kernel

/-- Counters: the name's fields, another cluster's bank, and each step of the own one. -/
theorem witness_CounterInstructions :
    (Meets (demo [(1, nat (2 ^ 17)), (2, 1#64)]) [1#6, 2#6] none true (some 3) [nat (2 ^ 17), 1#64] fun s => fld (nat (2 ^ 17)) 17 47 ≠ 0 ∧ s.place (s.ctxOf s.myCore) 1 = none) ∧
    (Meets (demo [(1, 1023#64), (2, 0xFFFFFFFF#64)]) [1#6, 2#6] none true (some 3) [1023#64, 0xFFFFFFFF#64] fun s => s.place (s.ctxOf s.myCore) 0 = some (cluOf s.cur) ∧ s.me.latch.res = none ∧
      (s.bankStep 0 1 0 1023 (.dinit (fld 0xFFFFFFFF#64 0 32))).1 = .ok 0#512) ∧
    (Meets (demo [(1, 0#64)]) [1#6] none true (some 3) [0#64] fun s => (s.bankStep 0 1 0 0 .ddec).1 = .error 226 ∧ Tbl.wf {} (s.clu 0).bank = true) ∧
    (let s := demo.modClu 0 fun c => { c with bank := [(0, { st := 2, count := 1 }), (1, { st := 1, count := 1 }), (2, { st := 2, count := 2 }), (3, { st := 3 })] };
      Tbl.wf {} (s.clu 0).bank = true ∧ s.targetFault 1 0#64 0#64 = none ∧ s.coreAt 1 0 = some 0 ∧ (s.bankStep 0 1 0 0 .ddec).1 = .ok 0#512 ∧ (s.bankStep 0 1 0 1 .ddec).1 = .ok 0#512 ∧
      (s.bankStep 0 1 0 2 .ddec).1 = .ok 0#512 ∧ (s.bankStep 0 1 0 3 .ddec).1 = .error 227 ∧ (s.bankStep 0 1 0 1 (.dbind {} 0#64)).1 = .ok 0#512 ∧ (s.bankStep 0 1 0 2 (.dbind {} 0#64)).1 = .ok 0#512 ∧
      (s.bankStep 0 1 0 4 (.darm {} 1#64)).1 = .ok 0#512 ∧ (s.bankStep 0 1 0 3 (.dbind {} 0#64)).1 = .ok 0#512 ∧ (s.bankStep 0 1 0 4 (.darm {} 0#64)).1 = .ok 0#512 ∧
      s.targetFault 1 0#64 (nat (2 ^ 42)) ≠ none) ∧
    (let s := demo.modCtx 1 fun cx => { cx with groups := [(0, { members := [0] })] }; s.targetFault 1 0#64 (nat (2 ^ 47)) = none ∧ (nat (2 ^ 47)).getLsbD 47 = true) := by
  refine ⟨meets ?_, meets ?_, meets ?_, ?_⟩ <;> decide +kernel

theorem witness_GroupInstructions :
    (Meets demo [] (some 3#6) true none [] fun s => s.me.latch.res = none) ∧ (Meets (demo [(1, 1023#64)]) [1#6] (some 3#6) true (some 3) [1023#64] fun s => fld 1023#64 10 54 = 0 ∧ s.me.latch.res = none) ∧
    (Meets (demo [(1, 1024#64)]) [1#6] none true none [1024#64] fun _ => fld 1024#64 10 54 ≠ 0) ∧
    (let s := demo.modCtx 1 fun cx => { cx with groups := [(0, { members := [0, 1] }), (1, { members := [0, 1], arrived := [1], parked := [1] })] };
      (s.groupStep 0 1 0 .gbar).1 = none ∧ (s.groupStep 0 1 1 .gbar).1 = none ∧ (s.groupStep 0 1 2 .gbar).1 = some (.error 228) ∧ (s.groupStep 16 1 0 .gbar).1 = some (.error 231) ∧
      (s.groupStep 0 1 0 .gnew).1 = some (.ok 2#512) ∧ (s.groupStep 0 1 0 .gjoin).1 = some (.error 230) ∧ (s.groupStep 16 1 0 .gjoin).1 = some (.ok 0#512) ∧
      (s.groupStep 0 1 0 .gleave).1 = some (.ok 0#512) ∧ (s.groupStep 16 1 0 .gleave).1 = some (.error 231) ∧ (s.groupStep 0 1 0 .gfree).1 = some (.error 232)) ∧
    (let s := demo.modCtx 1 fun cx => { cx with groups := (List.range 256).map fun i => (i, { pending := [16 * i] }) }; (s.groupStep 0 1 0 .gnew).1 = some (.error 229) ∧
      (s.groupStep 16 1 1 .gbar).1 = none) ∧
    (let s := demo.modCtx 1 fun cx => { cx with groups := [(0, {}), (1, {})] }; ((s.ctx 1).groups.map (·.1)).Pairwise (· < ·) ∧ (s.groupStep 0 1 0 .gfree).1 = some (.ok 0#512)) ∧
    (let g : Group := { members := [0], arrived := [0], pending := [16], early := [16] }; (∀ m ∈ g.members, m ∈ g.arrived) ∧
      ∃ m ∈ (g.members ++ g.pending).filter fun j => j ∉ g.leavers, m ∉ g.early) ∧
    (let g : Group := { pending := [16], early := [16] }; g.members = [] ∧ g.pending ≠ [] ∧ ∀ m ∈ (g.members ++ g.pending).filter fun j => j ∉ g.leavers, m ∈ g.early) := by
  refine ⟨meets ?_, meets ?_, meets ?_, ?_⟩ <;> decide +kernel

/-- A nest descriptor of one iteration at offset 0x100 of the TCM is refused for its space; one in the scratchpad binds. -/
theorem witness_NestInstructions :
    (Meets demo [0#6] none true none [0#64] fun _ => True) ∧ (Meets (demo [(1, ptr 3 0 0x100)]) [1#6] none true none [ptr 3 0 0x100] fun s => 3 ≤ spc (ptr 3 0 0x100) ∧
      s.access s.myCore (ptr 3 0 0x100) 64 64 = .ok ⟨tcmBase 0, 0x100, 18, 2 ^ 18, false, 0⟩) ∧
    (Meets (demo [(1, ptr 1 0 0)]) [1#6] none true none [ptr 1 0 0] fun s => s.access s.myCore (ptr 1 0 0) 64 64 = .ok ⟨spdBase 0, 0, 21, 2 ^ 21, false, 0⟩ ∧
      can s false [⟨0, ptr 1 0 0, ⟨spdBase 0, 8, 21, 2 ^ 21, false, 0⟩, 48, []⟩] = true ∧ nestOf [1, 65537, 1, 1, 1, 1] = some ⟨1, 1, 1, 1, 1, 1, 1⟩ ∧ nestOf [2, 65537, 1, 1, 1, 1] = none) ∧
    demo.me.nestp = 0#64 ∧ (let s := demo.upd fun sl => { sl with nestp := ptr 1 0 0, nestc := nat (2 ^ 40), iter := some ⟨1, 1, 1, 1, 1, 1, 1⟩ }; s.me.nestp ≠ 0#64 ∧ fld s.me.nestc 40 24 = 1) ∧
    (let s := demo.upd fun sl => { sl with nestp := ptr 1 0 0, iter := some ⟨1, 1, 1, 1, 1, 1, 1⟩ }; fld s.me.nestc 40 24 = 0 ∧ s.me.chunk.global = false ∧
      (s.chunkDone 0).access 0 (ptr 1 0 0) 64 64 = .ok ⟨spdBase 0, 0, 21, 2 ^ 21, false, 0⟩ ∧ isGlobal (spdBase 0) = false) ∧
    ((word demo 8 1).num (tcmBase 0 + 8) 5 ≠ 0 ∧ demo.num (tcmBase 0 + 8) 5 = 0 ∧ demo.memWf = true ∧ (word demo 8 1).poisonAt (tcmBase 0 + 8) = false) := by
  refine ⟨meets ?_, meets ?_, meets ?_, ?_⟩ <;> decide +kernel

theorem witness_QueueInstructions :
    (Meets demo [] (some 3#6) true none [] fun s => qnewCheck (s.eget 0 0) (s.eget 0 1) (s.eget 0 2) (s.eget 0 3) = none) ∧
    (Meets (eregs [(0, ptr 1 0 0), (1, 4096#64)]) [] (some 3#6) true none [] fun s => (qnewCheck (s.eget 0 0) (s.eget 0 1) (s.eget 0 2) (s.eget 0 3)).isSome = true ∧ (s.queue 0).alloc = false) ∧
    (Meets (eregs [(0, ptr 1 0 0), (1, 1#64)] { demo with clusters := [(0, { queues := (List.range 64).map fun j => (j, { alloc := true }) })] }) [] (some 3#6) true none [] fun s =>
      ∀ j < 64, (s.queue (cluOf s.cur * 64 + j)).alloc = true) ∧
    (Meets (demoQ [(1, demoQ.handle 0), (2, 3#64)]) [1#6, 2#6] none true none [demoQ.handle 0, 3#64] fun s => s.qend 50#6 = none ∧ s.qend 48#6 ≠ none ∧ s.me.latch.res = none ∧
      s.homeCore (s.ctxOf s.myCore) (demoQ.handle 0) = some s.myCore ∧ (s.qCtlStep 0 (demoQ.handle 0) (.bind 2 3)).1 = .ok 0#512) ∧
    (Meets (demoQ [(2, 4#64)]) [2#6] none true none [4#64] fun s => (4#64).toNat > 3 ∧ s.qend 48#6 ≠ none ∧ s.qend 59#6 = none) ∧
    (demoQ.endCheck 1 48#6 = none ∧ (demoQ.chunkDone 0).endLocal 48#6 = true ∧ (demoQ.chunkDone 0).endQueue 48#6 = some 0 ∧ ((demoQ.chunkDone 0).stampMe.qPop 0 0 (qIx 48#6) true).1 = .item (Item.enc ⟨0#64, false⟩) ∧
      (((demoQ [] { alloc := true, depth := 4 }).chunkDone 0).stampMe.qPop 0 0 (qIx 48#6) true).1 = .wait) ∧
    (Meets (demoQ [(2, ptr 3 0 0x100)]) [2#6] none true none [ptr 3 0 0x100] fun s => s.endCheck 1 48#6 = none ∧ s.endCheck 2 49#6 = none ∧ s.endCheck 2 50#6 = some (192, none) ∧
      s.access s.myCore (ptr 3 0 0x100) 8 32 = .ok ⟨tcmBase 0, 0x100, 18, 2 ^ 18, false, 0⟩ ∧ can s false [⟨0, ptr 3 0 0x100, ⟨tcmBase 0, 0x100, 18, 2 ^ 18, false, 0⟩, 32, []⟩] = true ∧
      (s.clu (cluOf s.cur)).streams.find 0 = none ∧ (qrefRecord [0, 0, 0, 0]).isSome = true ∧ qrefRecord [2 ^ 52, 0, 0, 0] = none) := by
  refine ⟨meets ?_, meets ?_, meets ?_, meets ?_, meets ?_, ?_, meets ?_⟩ <;> decide +kernel

theorem witness_QueueSteps :
    (demoQ.memWf = true ∧ (demoQ.queue 0).ring % 8 = 0 ∧ (demoQ.queue 0).head < (demoQ.queue 0).depth ∧ (demoQ.queue 0).n < (demoQ.queue 0).depth ∧ 0 < (demoQ.queue 0).n) ∧
    (let s := demoQ [] { alloc := true, depth := 4096, ring := 2 ^ 21 - 8 * 4096 - 512, head := 4095, n := 4096 }; (s.queue 0).ring + 8 * 4096 + 8 * ceilDiv 4096 64 = 2 ^ 21 ∧ (s.queue 0).ringRoom = false ∧
      (s.queue 0).spillRoom = false) ∧
    (let s := demoQ [] { alloc := true, depth := 4, closed := true }; (s.queue 0).isEmpty = true ∧ (s.queue 0).closed = true) ∧
    (let s := demoQ [] { alloc := true, depth := 1, n := 1, spill := 1 }; (s.queue 0).ringRoom = false ∧ (s.queue 0).spillRoom = true ∧ (s.queue 0).handOver = false ∧ (s.queue 0).prod = []) ∧
    (let s := demoQ [] { alloc := true, depth := 4, cons := [(5, none)] }; (s.queue 0).handOver = true ∧ (s.queue 0).prod = []) ∧
    (let s := demoQ [] { alloc := true, depth := 4, held := [{ k := 3, e := 1, seq := 7, it := ⟨5#64, false⟩ }], back := [(2, ⟨9#64, true⟩)] }; ((s.queue 0).held.find? (·.of 3 1)).isSome = true ∧ (s.queue 0).held.find? (·.of 3 2) = none ∧ (s.queue 0).held.find? (·.of 0 1) = none) ∧
    ((demoQ [] { alloc := true, depth := 4 }).queue 0).avail = 0 ∧ demoQ.links.hostq = [] ∧
    (let s := demoQ [] { alloc := true, depth := 4, n := 4, head := 2, cons := [(5, none)], prod := [(6, ⟨1#64, false⟩)], inbox := [(7, ⟨1#64, false⟩)] }; s.findQueue (s.ctxOf (coreOf 0)) (s.handle 0) = some 0 ∧
      (∀ e ∈ (s.queue 0).cons, e.1 < 16384) ∧ (∀ e ∈ (s.queue 0).prod, e.1 < 16384) ∧ (∀ e ∈ (s.queue 0).inbox, e.1 < 16384) ∧ (s.queue 0).sn < 2 ^ 24 ∧ ((s.modSlot 6 fun sl => { sl with wait := .queue }).slot 6).wait = .queue ∧
      ∀ k ∈ [5, 6, 7], ((s.modSlot 6 fun sl => { sl with wait := .queue }).slot k).latch.undo = []) ∧
    (let s := demoQ; ((s.core 0).q.find 1).isSome = true ∧ (s.core 0).q.find 5 = none ∧ s.qInScope 0 0 = true ∧ s.qBound (s.ctxOf 0) (s.handle 0) = true) ∧
    (let s := demoQ [] { alloc := true, depth := 4, hostEnds := 1 }; (s.queue 0).hostEnds > 0) ∧
    (let s := demoQ.modCore 0 fun co => { co with q := [] }; s.qBound (s.ctxOf 0) (s.handle 0) = false ∧ (s.queue 0).hostEnds = 0 ∧ s.findQueue (s.ctxOf 0) (s.handle 0) = some 0) ∧
    (let s := demoQ [] { alloc := true, depth := 4, scope := 0 }; s.qInScope 0 9 = false) := by decide +kernel

theorem witness_SystemInstructions :
    (Meets (demo [(1, 7#64)]) [1#6] none true none [7#64] fun _ => (15#6).toNat < 16) ∧ (inChunk demo).me.chunk.global = true ∧ demo.me.chunk.global = false ∧
    (Meets (demo [(1, ptr 7 0 0), (2, 0#64)]) [1#6, 2#6] none true none [ptr 7 0 0, 0#64] fun s => s.resolve s.myCore (ptr 7 0 0) = .error 64) ∧
    (Meets (demo [(1, ptr 3 0 0), (2, 0#64)]) [1#6, 2#6] none true none [ptr 3 0 0, 0#64] fun s => s.resolve s.myCore (ptr 3 0 0) = .ok ⟨tcmBase 0, 0, 18, 2 ^ 18, false, 0⟩ ∧ s.me.latch.res = none) ∧
    (Meets (demo [(1, ptr 0 0 (2 ^ 52 - 64)), (2, 64#64)]) [1#6, 2#6] none true none [ptr 0 0 (2 ^ 52 - 64), 64#64] fun s =>
      s.resolve s.myCore (ptr 0 0 (2 ^ 52 - 64)) = .ok ⟨glbAt 1 0, 2 ^ 52 - 64, 52, 2 ^ 52, false, 0⟩) := by
  refine ⟨meets ?_, ?_, ?_, meets ?_, meets ?_, meets ?_⟩ <;> decide +kernel
theorem witness_ModeRules : modeF demo.cur = false ∧ modeF 112 = true ∧ 0x800 ≤ (32#6).toNat * 64 + (0#6).toNat ∧ (lowIndex 15 || highIndex 15) = false ∧ (4#6).toNat * 64 + (7#6).toNat = 0x107 ∧
    ({ demo with cur := 112 } : State).farSlot 0xA00 = some 0 ∧ ({ demo with cur := 112 } : State).farSlot 0x9FF = none ∧ ({ demo with cur := 112 } : State).farSlot 0xC00 = none ∧
    sysCheck false 0x10 false = some 34 ∧ sysCheck false 14 false = none ∧ sysCheck false 14 true = none ∧ (Meets demo [] (some 3#6) true none [] fun _ => True) ∧
    (Meets (demo [(1, 7#64)]) [1#6] none true none [7#64] fun s => ((s.upd fun sl => { sl with pend := some (.and 0#6 0#6 0#6) }).sysWrite 14 7#64).me.pend.isSome = true) := by
  refine ⟨?_, ?_, ?_, ?_, ?_, ?_, ?_, ?_, ?_, ?_, ?_, meets ?_, meets ?_⟩ <;> decide +kernel

/-- A multiply of one element with A and B of the given formats. -/
def launchMat (fa fb : Nat) (e6 e7 : W) (ld : Nat := 1) : State :=
  eregs [(0, ptr 3 fa 0x10000), (1, ptr 3 fb 0x10400), (2, ptr 3 8 0x10800), (3, nat (1 + 2 ^ 9 + 2 ^ 18)), (4, nat (ld + 2 ^ 24)), (5, 1#64), (6, e6), (7, e7)]

/-- Launches that pass every check, one per MAT operation, and one that does not. -/
theorem witness_MatrixResults :
    (Meets (launchMat 6 6 0#64 0#64) [] (some 3#6) true (some 3) [] fun s => s.mulCheck s.myCore (cluOf s.cur) (s.matReq 0) = none ∧ s.me.latch.res = none) ∧
    (Meets (launchMat 18 10 (ptr 3 0 0x11000) 0#64 64) [] (some 3#6) true (some 3) [] fun s => s.mulCheck s.myCore (cluOf s.cur) (s.matReq 1) = none) ∧
    (Meets (launchMat 10 10 (ptr 3 0 0x11000) 1#64) [] (some 3#6) true (some 3) [] fun s => s.mulCheck s.myCore (cluOf s.cur) (s.matReq 2) = none) ∧
    (Meets (launchMat 8 10 (ptr 0 0 0) 0#64) [] (some 3#6) true (some 3) [] fun s => s.mulCheck s.myCore (cluOf s.cur) (s.matReq 3) = none ∧ s.mulCheck s.myCore (cluOf s.cur) (s.matReq 4) = none) ∧
    (Meets (eregs [(1, ptr 3 6 0x10400), (3, nat (2 ^ 9 + 2 ^ 18)), (4, nat (2 ^ 24))]) [] (some 3#6) true (some 3) [] fun s => s.loadbCheck s.myCore (s.matReq 6) = none) ∧
    (Meets (eregs [(2, ptr 3 8 0x10800), (3, nat (1 + 2 ^ 9)), (5, 1#64)] { demo with clusters := [(0, { kept := some ⟨0, 1, 1, [0#32], false⟩ })] }) [] (some 3#6) true (some 3) [] fun s =>
      s.mstcCheck s.myCore (cluOf s.cur) (s.matReq 8) = none) ∧
    (Meets (eregs [(6, ptr 0 0 0), (7, 1#64)]) [] (some 3#6) true (some 3) [] fun s => s.mgroupCheck s.myCore (s.matReq 9) = none) ∧
    (Meets demo [] (some 3#6) true (some 3) [] fun s => s.mulCheck s.myCore (cluOf s.cur) (s.matReq 0) = some (258, 0)) ∧
    (Meets (demo [(1, ptr 0 0 128)]) [1#6] (some 3#6) true (some 3) [ptr 0 0 128] fun s => s.matPtr s.myCore (ptr 0 0 128) 1 = none ∧ offOf (ptr 0 0 128) % 128 = 0) ∧
    (Meets (demo [(1, 0#64)]) [1#6] none true none [0#64] fun s => s.handleOf (cluOf s.cur) 0#64 = none) ∧
    (Meets { demo [(1, nat (1 * 64))] with clusters := [(0, { handles := [(0, { live := true })] })] } [1#6] none true none [nat (1 * 64)] fun s =>
      s.handleOf (cluOf s.cur) (nat (1 * 64)) = some 0) ∧
    (Meets (demo [(1, 0x3FFF#64), (2, 3#64)]) [1#6, 2#6] (some 3#6) true none [0x3FFF#64, 3#64] fun _ => fld 0x3FFF#64 14 50 = 0 ∧ fld 3#64 2 62 = 0 ∧ fld 4#64 2 62 ≠ 0) ∧
    (Meets (demo [(1, 10#64)]) [1#6] (some 3#6) true none [10#64] fun _ => (10#64).toNat < 11) := by
  refine ⟨meets ?_, meets ?_, meets ?_, meets ?_, meets ?_, meets ?_, meets ?_, meets ?_, meets ?_, meets ?_, meets ?_, meets ?_, meets ?_⟩ <;> decide +kernel

theorem witness_TransferInstructions :
    (Meets (eregs [(0, ptr 3 0 0x10000), (1, ptr 3 0 0x10400), (2, nat (2 ^ 24 + 64))]) [] (some 3#6) true (some 3) [] fun s => s.engCheck s.myCore (s.engReq 0) = none ∧
      (s.engReq 0).ticket ∉ (s.core s.myCore).live ∧ s.niqLen s.myCore < 8) ∧
    (Meets (eregs [(0, ptr 3 0 0x10000), (1, ptr 1 0 0), (2, nat (2 ^ 24 + 64)), (6, ptr 3 0 0x11000), (7, 1#64)]) [] (some 3#6) true (some 3) [] fun s => s.engCheck s.myCore (s.engReq 1) = none) ∧
    (Meets (eregs [(1, ptr 3 0 0x10000), (0, ptr 1 0 0), (2, nat (2 ^ 24 + 64)), (6, ptr 3 0 0x11000), (7, 1#64)]) [] (some 3#6) true (some 3) [] fun s => s.engCheck s.myCore (s.engReq 2) = none) ∧
    (Meets (eregs [(0, ptr 3 0 0x10000), (1, ptr 3 0 0x10100), (3, ptr 3 0 0x10200), (6, ptr 3 0 0x11000)]) [] (some 3#6) true (some 3) [] fun s => s.engCheck s.myCore (s.engReq 3) = none) ∧
    (Meets (eregs [(0, ptr 3 0 0x10000), (1, ptr 3 0 0x10100), (2, 1#64), (3, ptr 3 0 0x10200)]) [] (some 3#6) true (some 3) [] fun s => s.engCheck s.myCore (s.engReq 4) = none) ∧
    (Meets (demo [(1, ptr 1 0 8), (2, nat (2 ^ 31 - 1))]) [1#6, 2#6] none true (some 3) [ptr 1 0 8, nat (2 ^ 31 - 1)] fun s => s.access s.myCore (ptr 1 0 8) 8 8 = .ok ⟨spdBase 0, 8, 21, 2 ^ 21, false, 0⟩ ∧
      1 ≤ (nat (2 ^ 31 - 1)).toNat ∧ spc (ptr 1 0 8) = 1 ∧ ¬ (1 ≤ (0#64).toNat)) ∧
    (Meets (demo [(1, ptr 2 0 8), (2, 1#64)]) [1#6, 2#6] (some 3#6) true (some 3) [ptr 2 0 8, 1#64] fun s => s.access s.myCore (ptr 2 0 8) 8 8 = .ok ⟨spdBase 0, 8, 21, 2 ^ 21, false, 0⟩) ∧
    (Meets (demo [(1, 16#64), (2, 5#64)]) [1#6, 2#6] none true (some 3) [16#64, 5#64] fun s => sendmBad 16#64 = false ∧ s.coreAt (s.ctxOf s.myCore) (fld 16#64 4 10) = some 1 ∧
      sendmBad 15#64 = true ∧ s.coreAt (s.ctxOf s.myCore) (fld 128#64 4 10) = none ∧ sendmBad 128#64 = false) ∧
    (Meets (({ demo [(1, nat (2 ^ 63 + 5 * 2 ^ 50))] with net := [] } : State).modCtx 1 fun cx => { cx with xgrant := [(0, nat (2 ^ 63 + 5 * 2 ^ 50))] }) [1#6, 2#6] none true (some 3)
      [nat (2 ^ 63 + 5 * 2 ^ 50), 0#64] fun s => sendmBad (nat (2 ^ 63 + 5 * 2 ^ 50)) = false ∧ (s.granted (s.ctxOf s.myCore) 5).isSome = true ∧ s.granted (s.ctxOf s.myCore) 6 = none) ∧
    (demo.num (tcmBase 0 + 8) 4 + (nat (2 ^ 32 - 1)).toNat < 2 ^ 32 ∧ 2 ^ 32 ≤ (word demo 8 1).num (tcmBase 0 + 8) 4 + (nat (2 ^ 32 - 1)).toNat ∧
      (demo.num (tcmBase 0 + 8) 8).testBit 63 = (0#64).getLsbD 0 ∧ (demo.num (tcmBase 0 + 8) 8).testBit 63 ≠ (1#64).getLsbD 0 ∧ 0x40000000400 % 2 ^ 32 ≠ 0 ∧ bitsOf 0x40000000400 32 31 ≠ 0) := by
  refine ⟨meets ?_, meets ?_, meets ?_, meets ?_, meets ?_, meets ?_, meets ?_, meets ?_, meets ?_, ?_⟩ <;> decide +kernel

theorem witness_ExpertInstructions :
    (Meets (demo [(1, nat (2 ^ 36 - 1))]) [1#6] (some 3#6) true (some 3) [nat (2 ^ 36 - 1)] fun s => fld (nat (2 ^ 36 - 1)) 36 28 = 0 ∧ fld (nat (2 ^ 36)) 36 28 ≠ 0 ∧ s.me.latch.res = none) ∧
    (Meets (demo [(1, 1#64), (2, 1#64)]) [1#6, 2#6] (some 3#6) true (some 3) [1#64, 1#64] fun s => (1#64).toNat ≤ 1 ∧ s.heapAt 1#64 = .error 78) ∧
    (Meets (word (word (demo [(1, ptr 3 0 0x10000), (2, ptr 1 0 0)]) 0x10000 0x101) 0x10008 5) [1#6, 2#6] (some 3#6) true (some 3) [ptr 3 0 0x10000, ptr 1 0 0] fun s =>
      s.heapAt (ptr 3 0 0x10000) = .ok (tcmBase 0 + 0x10000) ∧ s.anyPoison (tcmBase 0 + 0x10000) 136 = false ∧ s.num (tcmBase 0 + 0x10000) 8 = 0x101 ∧
      s.resolve s.myCore (ptr 1 0 0) = .ok ⟨spdBase 0, 0, 21, 2 ^ 21, false, 0⟩) ∧
    (Meets (demo [(1, 1#64), (2, 3#64)]) [1#6, 2#6] none true (some 3) [1#64, 3#64] fun s => (3#64).toNat ≤ 3 ∧ s.niqLen s.myCore < 8) ∧
    (let s := (word (word demo 0x100 2) 0x108 (2 ^ 32 + 1)).putBytes (tcmBase 0 + 0x110) (leBytes (2 ^ 32) 8); s.num (tcmBase 0 + 0x100) 8 % 65536 = 2 ∧ bitsOf (s.num (tcmBase 0 + 0x100) 8) 16 16 = 0 ∧
      s.memWf = true ∧ s.poisonAt (tcmBase 0 + 0x100) = false ∧ s.num (tcmBase 0 + 0x108 + 4) 4 ≤ s.num (tcmBase 0 + 0x108) 4 ∧ s.num (tcmBase 0 + 0x110) 4 < s.num (tcmBase 0 + 0x110 + 4) 4 ∧
      8 + 8 * (s.num (tcmBase 0 + 0x100) 8 % 65536) ≤ s.roomAt 0 (tcmBase 0 + 0x100)) := by
  refine ⟨meets ?_, meets ?_, meets ?_, meets ?_, ?_⟩ <;> decide +kernel

theorem witness_FreezingInstructions :
    (Meets ({ demo with cur := 112 } : State) [1#6] (some 3#6) true none [0#64] fun s => s.freezeRefusal 0#64 = some 39 ∧ s.thawRefusal 0#64 = some 40 ∧ modeF s.cur = true ∧ s.me.latch.res = none) ∧
    (Meets (({ demo with cur := 112 } : State).modCtx 1 (fun cx => { cx with snbase := 1#64 }) |>.xset 112 1 1#64) [1#6] (some 3#6) true none [1#64] fun s => s.freezeRefusal 1#64 = none) ∧
    (Meets (({ demo with cur := 112 } : State).modCtx 1 (fun cx => { cx with snbase := 1#64, frz := 3 }) |>.xset 112 1 1#64 |>.putBytes 0 (leBytes (2 ^ 63 + 1) 8)) [1#6] (some 3#6) true none [1#64] fun s =>
      s.thawRefusal 1#64 = none) ∧
    (Meets ({ demo with cur := 112 } : State) [1#6, 2#6] none true none [0#64, 0#64] fun _ => coreOf (fld 0#64 0 14) ≠ 112 / 16 ∧ coreOf (fld (nat 112) 0 14) = 7 ∧ demo.place 1 0 = some 0 ∧ tinvForm 0#64 = some (.page 0 (codeBytes 0)) ∧ tinvForm 16#64 = none ∧ tinvForm 12#64 = none) ∧
    (demo.ctx 1).frz ≠ 2 ∧ (let s := demo.modCtx 1 fun cx => { cx with frz := 2, frzSlot := some 112, snbase := 1#64, parades := [{ scope := 3, inst := 0, route := [], todo := [], kind := 2 }] };
      s.drained 1 = true ∧ (s.freezeLast 1).2.netFits 1 = true) ∧
    (let s := demo.modCtx 1 fun cx => { cx with frz := 2, frzSlot := some 112, snbase := nat (2 ^ 40 - 4096 + 1), parades := [{ scope := 3, inst := 0, route := [], todo := [], kind := 2 }] };
      s.drained 1 = true ∧ (s.freezeLast 1).2.netFits 1 = false) := by
  refine ⟨meets ?_, meets ?_, meets ?_, meets ?_, ?_⟩ <;> decide +kernel

/-- The demo device with one message from core 1. -/
def mailbag (dst : Nat) (b : Body) (s : State := demo) : State := { s with net := [⟨1, dst, b, 1, none⟩] }

theorem mailbag_deliverable (b : Body) : (mailbag 0 b).deliverable 0 = some ⟨1, 0, b, 1, none⟩ := by
  have h : ∀ v, (mailbag 0 b).inOrder 0 v = true := fun v => rfl
  have g : ((mailbag 0 b).srcTid ⟨1, 0, b, 1, none⟩).all ((mailbag 0 b).inOrder 0) = true := by
    cases (mailbag 0 b).srcTid ⟨1, 0, b, 1, none⟩ <;> simp [h]
  unfold State.deliverable
  simp [mailbag] at g ⊢
  exact g

theorem witness_NetworkArrivals :
    (∀ b : Body, (mailbag 0 b).deliverable 0 = some ⟨1, 0, b, 1, none⟩) ∧
    ((mailbag 0 (.access 16 0 (tcmBase 0) (.load 8) true 0 0#64)).homeStep 16 true (tcmBase 0) (.load 8)).1 = .val 0#512 ∧
    (demo.homeStep 16 true (tcmBase 0) (.fe .ste 0#64)).1 = .wait ∧ ((demo.setPoison (tcmBase 0) true).homeStep 16 true (tcmBase 0) (.load 8)).1 = .fault 128 none ∧
    (demo.core 0).mail.length < 64 ∧ ((demo.modCore 0 fun co => { co with mail := List.replicate 64 ⟨none, 0#64, 0⟩ }).core 0).mail.length ≥ 64 ∧
    (demo.engOps (({ kind := 1, e := [], k := 0, ticket := 1, ctx := 1, vtid := 0 } : EngReq).engine 1024)).length < 8 ∧ (demo.arrive 0 {}).isSome = true ∧
    (let o : EngOp := { id := 0, req := { kind := 1, e := [], k := 0, ticket := 1, ctx := 1, vtid := 0 } }; 8 ≤ ((demo.setEngOps (o.req.engine 1024) (List.replicate 8 o)).engOps (o.req.engine 1024)).length) ∧
    ((demo.modCore 0 fun co => { co with reserved := (List.range 15).map (· + 1), deque := List.replicate 64 {} }).arrive 0 {}) = none ∧
    (let s := demo.modCore 0 fun co => { co with deque := [{}] }; (s.core 0).reserved = [] ∧ (s.core 0).stealLevel = some 0 ∧ ((s.core 0).level 0).head? = some {}) ∧
    ((demo.modCore 0 fun co => { co with reserved := [1] }).core 0).reserved ≠ [] ∧
    (creditWords 0x40000000400 1024).1.getLastD 0 = 0x8000040000000400 ∧ (demo.bankStep 0 1 0 0 .ddec).1 = .error 226 ∧ (demo.groupStep 0 1 0 .gnew).1.isSome = true ∧
    demo.expertOf 0 = none ∧ demoQ.findQueue 1 (demoQ.handle 0) = some 0 ∧ (demoQ.qPush 0 16 ⟨7#64, false⟩).1 = .done ∧
    ((demoQ [] { alloc := true, depth := 1, n := 1 }).qPush 0 16 ⟨7#64, false⟩).1 = .wait ∧ ((demoQ [] { alloc := true, depth := 4, closed := true }).qPush 0 16 ⟨7#64, false⟩).1 = .fault 198 ∧
    (demoQ.qCtlStep 16 (demoQ.handle 0) .stat).1.isOk = true ∧ (demoQ.qCtlStep 16 3#64 .stat).1 = .error 197 ∧ (demoQ.qReserve 0 16 0 0 false).1 ≠ (demoQ [] { alloc := true, depth := 4 } |>.qReserve 0 16 0 0 false).1 ∧
    (let s := { demo with ctxs := [(1, { pmap := [(0, 0x8000#64)], active := true, tsctl := [(0, nat (2 ^ 16))] })] }; (s.ovf 1 0).len = 0 ∧ s.tsFree 0 1 = true) ∧
    (let s := { demo with ctxs := [(1, { pmap := [(0, 0x8000#64)], active := true, tsctl := [(0, nat 4)] })] }; let t := s.modClu (sliceOf 0) fun c => { c with tlb := [page0] }; let a := t.ovPlace 1 0 ((t.ovf 1 0).head + (t.ovf 1 0).len)
      (t.ovf 1 0).len < fld (Tbl.get 0#64 (t.ctx 1).tsctl 0) 0 16 ∧ t.tsFree 0 1 = false ∧ (t.ovf 1 0).bad = false ∧ t.walking (dieAgent 0) = false ∧ (t.reachAll 1 (placesFrom a 32) false true).isOk = true ∧
        (s.reachAll 1 (placesFrom a 32) false true).isOk = false ∧ ((t.reachAll 1 (placesFrom a 32) false true).toOption.getD s).mustWait none a 32 = false) ∧
    ((demo.tsFind 0 1 0#64).toOption.map (·.1)) = some none := by
  refine ⟨mailbag_deliverable, ?_⟩; decide +kernel

/-- Chunks at their arbiters: alone, with a line at home on another die, behind one that overlaps; lines, the solo grant and a reservation. -/
theorem witness_CommitRules :
    (let s := demo.upd fun sl => { sl with wait := .commit }; (s.slot 0).wantsCommit = true ∧ (s.slot 0).commitReq = false ∧ s.inOrder (portArb (dieOf 0)) (s.tid 0) = true) ∧
    (let s := (demo.upd fun sl => { sl with chunk := { stores := [(tcmBase 0, 1#8), (tcmBase 0 + 1, 2#8)] } }).modDie 0 fun d => { d with arb := [0] };
      s.arbGrants (s.die (dieOf 0)).arb 0 = true ∧ s.crossDie 0 = false ∧ (s.slot 0).reds = 0 ∧ s.mustWait (some 0) (tcmBase 0) 1 = false ∧ s.memWf = true ∧ s.logOver [tcmBase 0] = false ∧
        ((s.slot 0).chunk.stores.map (·.1)).Pairwise (· < ·) ∧ (s.lines.map (·.1)).Pairwise (· < ·) ∧ tcmBase 0 + 1 < glb0 ∧ ((s.upd fun sl => { sl with reds := 1 }).slot 0).reds ≠ 0) ∧
    (∃ a : Nat, let s := (demo.upd fun sl => { sl with chunk := { stores := [(glbAt 1 (64 * a), 1#8)] } }).modDie 0 fun d => { d with arb := [0] };
      s.arbGrants (s.die (dieOf 0)).arb 0 = true ∧ s.crossDie 0 = true ∧ 0 ∉ s.pkgArb ∧ s.inOrder (portArb 4) (s.tid 0) = true ∧ ({ s with pkgArb := [0] } : State).arbGrants [0] 0 = true) ∧
    (let s := (demo.modSlot 16 fun sl => { sl with chunk := { stores := [(tcmBase 0, 1#8)] } }).upd fun sl => { sl with chunk := { reads := [(lineOf (tcmBase 0), true)] } };
      16 ∈ [16, 0].takeWhile (· ≠ 0) ∧ (s.slot 0).chunk.overlap (s.slot 16).chunk = true ∧ 0 ∉ ([] : List Nat)) ∧
    (let s := demoG [] ; s.lines.find (lineOf (glbAt 1 0)) = some { data := 0#512, fe := 255#8, poison := 0#8, dirty := false, tr := page0 } ∧ s.lineMarked (lineOf (glbAt 1 0)) = false ∧
      (s.upd fun sl => { sl with chunk := { reads := [(lineOf (glbAt 1 0), true)] } }).lineMarked (lineOf (glbAt 1 0)) = true ∧ page0.watch = none) ∧
    (let s : State := { (demo.upd fun sl => { sl with wait := .solo }) with soloQ := [0] }; s.soloHolder = none ∧ (s.slot 0).wait = .solo ∧ (s.slot 0).reds = 0 ∧ ((s.upd fun sl => { sl with reds := 1 }).slot 0).reds ≠ 0) ∧
    (let r : Resv := ⟨0, false, spdBase 0, .load 8, 1, 0#64, false, 0⟩; let s : State := { demo with resv := [r] }; spdBase 0 < glb0 ∧ s.mirrorHolds r = false ∧ s.walking (.slot 0) = false ∧ s.mustWait (some 0) (spdBase 0) 8 = false ∧
      r.who = .slot 0) := by
  refine ⟨?_, ?_, ⟨32, ?_⟩, ?_⟩ <;> decide +kernel

/-- Slot 0, whose turn it is, parked; and core 0 able to do job j in a vacant turn. -/
def idle (s : State) : State := s.modSlot 0 fun sl => { sl with st := .parkMem, wait := .reply }
def canServe (s : State) (j : Job) : Bool := s.vacant 0 && (s.beginCycle 0).job 0 == some j && (s.turnBegun 0).job 0 == some j

/-- Every job of a vacant turn, and the end of the delay. -/
theorem witness_SequencerResults :
    canServe (demo.upd fun sl => { sl with st := .parkMem, wait := .reissue }) (.reissue 0) = true ∧ canServe (idle (demo.modCore 0 fun co => { co with arrived := [{}] })) (.landArrived 1) = true ∧
    canServe (idle (demo.modCore 0 fun co => { co with deque := [{}], reserved := [1] })) (.landPop 1) = true ∧ canServe (idle demo) (.steal 1) = true ∧
    canServe (idle (demoQ [] { alloc := true, depth := 4, spill := 4, sparea := ptr 1 0 0, sn := 1 })) (.refill 0) = true ∧ (idle demoQ).qcore 0 = 0 ∧
    canServe (idle (demoQ [] { alloc := true, depth := 1, n := 1, spill := 4, sparea := ptr 1 0 0, inbox := [(3, ⟨1#64, false⟩)] })) (.spill 0) = true ∧
    (let s : State := { (demo.modClu (sliceOf 0) fun c => { c with tlb := [page0] }) with slots := (List.range 16).map fun k => (k, { st := .parkMem, wait := .reply }) };
      canServe (s.modCore 0 fun co => { co with deqspill := ptr 0 4 0, deque := List.replicate 60 {}, spill := [(0, (0, 1))] }) (.dequeOut 0) = true ∧
      canServe (s.modCore 0 fun co => { co with deqspill := ptr 0 4 0, deque := List.replicate 30 {}, spill := [(0, (0, 1))] }) (.dequeBack 0) = true) ∧
    (let s := demo.modCore 0 fun co => { co with rest := some 0, cyc := 256 }; (s.core 0).rest = some 0 ∧ 0 + 256 ≤ (s.core 0).cyc) ∧
    (let s := demo.modCore 0 fun co => { co with rest := some 0, cyc := 255 }; (s.core 0).cyc < 0 + 256) := by decide +kernel

/-- A table whose root is empty, one with a leaf at level 0, an open miss, and the messages of the fault network. -/
theorem witness_TranslationSteps :
    (let w : Walk := ⟨.slot 0, sliceOf 0, 1, 0, false, false, 0, none⟩; let s : State := { demo with walks := [w] };
      s.walks[0]? = some w ∧ s.tlb 1 0 = none ∧ s.walkTable 1 0 = .miss ∧ s.missOf w.sl 1 0 = none ∧ (s.misses.filter fun m => m.sl == w.sl && m.open_).length < 32 ∧
      (s.modClu (sliceOf 0) fun c => { c with tlb := [page0] }).tlb 1 0 = some page0 ∧ ((s.modCtx 1 fun cx => { cx with ptroot := nat (2 ^ 40 + 1) }).walkTable 1 0) = .fault 126) ∧
    (let m : Miss := ⟨0, 1, 0, 3, true, false, false, false, false⟩; let s : State := { demo with misses := [m], net := [⟨fltPort 0, fltPort 256, .wake (2 ^ 40) 256 0, 0, none⟩] };
      s.missOf 0 1 0 = some m ∧ s.fltReady 0 = some ⟨fltPort 0, fltPort 256, .wake (1 * 2 ^ 40 + 0) (256 + m.sl) 0, 0, none⟩) ∧
    (let s : State := { demo with net := [⟨fltPort 256, fltPort 0, .faultMsg 5 0 256 false false 0, 0, none⟩] }; (s.fltReady 0).isSome = true ∧ (s.clu 0).merge = [] ∧ (s.die 0).faults = []) ∧
    (let s : State := { demo with net := [⟨fltPort 128, fltPort 0, .wake 5 0 1, 0, none⟩] }.modClu 0 fun c => { c with merge := [(5, 0, [256])] }; (s.fltReady 0).isSome = true ∧
      (s.clu 0).merge.find? (·.1 == 5) = some (5, 0, [256])) ∧
    (let t : Trans := { page0 with kind := 2 }; (0 % t.size = 0 ∧ 0 + t.size ≤ 2 ^ 52)) ∧
    (let s : State := { demo with links := { vfctx := [(3, nat (2 ^ 63 + 1))], noPri := [(3, true)], priAlloc := [(3, 1)] } }; s.vfOf 1 = some 3 ∧ Tbl.get false s.links.noPri 3 = true ∧ 0 < Tbl.get 0 s.links.priAlloc 3 ∧
      Tbl.get false ({ demo with links := { vfctx := [(3, nat (2 ^ 63 + 1))] } } : State).links.noPri 3 = false ∧ Tbl.get 0 demo.links.priAlloc 3 = 0) ∧
    (let m : Miss := ⟨0, 1, 0, 4, false, true, false, false, true⟩; let w : Walk := ⟨.slot 0, 0, 1, 0, false, false, 0, none⟩; let s : State := { demo with misses := [m], walks := [w] };
      s.misses[0]? = some m ∧ m.asked = true ∧ ({ m with open_ := true } : Miss).open_ = true ∧ s.missOf w.sl w.x w.va = some m ∧ m.open_ = false ∧ 4 ≤ m.rep) ∧
    (let ms : List Miss := (List.range 32).map fun i => ⟨0, 1, i + 1, 0, true, false, false, false, false⟩; 32 ≤ (ms.filter fun m => m.sl == 0 && m.open_).length) ∧
    ((demo.modClu 0 fun c => { c with dlog := (List.range 128).map fun i => (1, i, 0) }).clu 0).dlog.length = 128 := by decide +kernel

/-- One model of one layer and one expert, whose entry has the state code st (0 absent, 2 resident). -/
def demoX (st : Nat) (s : State := demo) : State :=
  (({ s with links := { s.links with extab := 1#64 } } : State).putBytes 0 (leBytes (2 ^ 63 + 1) 8 ++ leBytes 0x1000 8 ++ leBytes (2 ^ 32 + 1) 8)).putBytes 0x1000 (leBytes (st * 2 ^ 61) 8 ++ leBytes 0x2000 8)

theorem witness_expert : ∃ e, (demoX 2).expertOf 0 = some e ∧ ownerOf e.rcd = 1 ∧ ((demoX 2).cacheModel e).exHere e = true ∧ ((demoX 0).cacheModel e).exHere e = false ∧
    ((demoX 2).exStep 0 e 0#64 0 0).1.isSome = true ∧ ((demoX 0).exStep 0 e 0#64 2 1#64).1 = none ∧ (demoX 2).exImage e.at_ ≠ 0#64 := by
  refine ⟨_, rfl, ?_⟩; decide +kernel

/-- The operation of the request in the e registers of s, and cluster 0 with a queue of operations. -/
def matOpOf (s : State) (kind st : Nat) (base : Nat := 0) : MatOp := { id := base, req := s.matReq kind, base := base, st := st }
def withQueue (s : State) (l : List MatOp) : State := { s with clusters := [(0, { matq := l })] }

/-- A matrix engine: an idle array, a running operation before, at and after its last k-block, a better one behind it, a mirror operation and a fault. -/
theorem witness_EngineRules :
    (let m := launchMat 6 6 0#64 0#64; let q := matOpOf m 0 0; let r := matOpOf m 0 1; let b := matOpOf m 0 0 1; let t := withQueue m [r];
      (withQueue m [q]).matRun 0 = none ∧ bestOp (((withQueue m [q]).clu 0).matq.filter fun o => (withQueue m [q]).canStart 0 o && ((withQueue m [q]).ctx o.req.ctx).frz < 2) = some q ∧
      t.matRun 0 = some r ∧ r.kb < r.req.kblocks ∧ r.req.mirror = false ∧ t.walking (.mat 0 r.id) = false ∧ t.tileFault 0 r = none ∧ (t.kTake 0 r).isOk = true ∧
      r.eff < b.eff ∧ (withQueue m [r, b]).banksUsed 0 < 2 ∧ (∀ p ∈ [r, b], p.st ≠ 2) ∧ r.id ≠ b.id ∧ q.aged < 3 ∧ q.req.kind ≠ 9) ∧
    (let q : KStep := ⟨{ matOpOf (launchMat 6 6 0#64 0#64) 0 1 with accs := some [[0]] }, [(0, [0])], [(0, [0])], []⟩; (q.o.accs.getD [])[0]? = some [0] ∧ q.a[0]? = some (0, [0]) ∧ q.b[0]? = some (0, [0])) ∧
    (let m := launchMat 6 6 0#64 0#64; let o := { matOpOf m 0 1 with kb := 1, accs := some [[0]] }; let s := withQueue m [o]; s.matRun 0 = some o ∧ o.req.kblocks ≤ o.kb ∧ s.walking (.mat 0 o.id) = false ∧
      (s.matResult 0 o).isOk = true ∧ (match s.matResult 0 o with
        | .ok (res, u) => (match u.reachOuts o.req.view res.outs with | .ok w => !w.outsWait res.outs | .error _ => false)
        | .error _ => false) = true) ∧
    (let m := eregs [(2, ptr 3 8 0x10800), (3, nat (1 + 2 ^ 9)), (5, 1#64)]; let o := matOpOf m 8 1;
      let s : State := { m with clusters := [(0, { matq := [o], kept := some ⟨0, 1, 1, [0#32], true⟩ })] }; s.matRun 0 = some o ∧ o.req.kblocks ≤ o.kb ∧ 5 < o.req.kind ∧ (s.matResult 0 o).isOk = false) ∧
    (let s0 := eregs [(6, ptr 6 0 0)] (demo.modCtx 1 fun cx => { cx with dsrwin := [(0, nat (2 ^ 32))] }); let o := matOpOf s0 5 1;
      let s := (withQueue s0 [o]).putBytes (s0.opBase 0 (o.req.g 6)) ([0, 1, 0, 0, 0, 0, (ptr 1 8 0).toNat, (ptr 1 8 0).toNat, 1 + 2 ^ 9 + 2 ^ 18].flatMap (leBytes · 8)); s.matRun 0 = some o ∧ o.granted = false ∧ s.walking (.mirror 0 o.id) = false ∧ s.resv = [] ∧
      (s.recordWords o.req (s0.opBase 0 (o.req.g 6))).isOk = true ∧ (s.need o.req.view [(s0.opBase 0 (o.req.g 6) + 8, 8)]).isOk = true ∧ fld (s.mrec (s0.opBase 0 (o.req.g 6)) 1) 0 24 ≠ o.req.ctx + 1 ∧ s.mirrorCheck o.req (s0.opBase 0 (o.req.g 6)) = none ∧
      (let a : MatOp := { o with id := 1, granted := true }; (withQueue s0 [o, a]).recordTaken (s0.opBase 0 (o.req.g 6)) o.id o.seq = true)) := by decide +kernel

/-- Grouped tiles: a record that stops its walk, tiles without and with an expert, here and away, with room and without, a move between engines, and a release. -/
theorem witness_EngineRules_groups :
    (let s0 := eregs [(6, ptr 1 0 0), (7, 1#64)]; let o := matOpOf s0 9 0; let s := withQueue s0 [o];
      ((s.clu 0).matq.find? fun o => o.req.kind == 9 && !o.walkDone) = some o ∧ s.walking (.mat 0 o.id) = false ∧ (s.need o.req.ctx [(s.opBase 0 (o.req.g 6), 64)]).isOk = true ∧
      s.recordBad 0 (groupTile o.req o.id (o.req.g 6) (List.replicate 8 0#64)) (List.replicate 8 0#64) = true) ∧
    (let w := [ptr 3 6 0x10000, ptr 3 6 0x10400, ptr 3 8 0x10800, nat (1 + 2 ^ 9 + 2 ^ 18), nat (1 + 2 ^ 24), 1#64, 0#64, 0#64]; let o := matOpOf (eregs [(6, ptr 1 0 0), (7, 1#64)]) 9 0;
      demo.recordBad 0 (groupTile o.req 0 (ptr 1 0 0) w) w = false ∧ (groupTile o.req 0 (ptr 1 0 0) w).expert = none) ∧
    (let w := [ptr 3 6 0x10000, 0#64, ptr 3 8 0x10800, nat (1 + 2 ^ 9 + 2 ^ 18), nat (1 + 2 ^ 24), nat (2 ^ 24 + 1), 0#64, 0#64]; let o := matOpOf (eregs [(6, ptr 1 0 0), (7, 1#64)]) 9 0;
      demo.recordBad 0 (groupTile o.req 0 (ptr 1 0 0) w) w = false ∧ (groupTile o.req 0 (ptr 1 0 0) w).expert = some 0#64 ∧ demo.tsRoom 0 1 = false ∧ o.stalled = false ∧
      ({ demo with ctxs := [(1, { tsctl := [(0, nat (2 ^ 16))] })] } : State).tsRoom 0 1 = true) ∧
    (let t := { matOpOf (launchMat 6 6 0#64 0#64) 0 0 with req := { (launchMat 6 6 0#64 0#64).matReq 0 with tile := some (ptr 1 0 0) } };
      let s : State := { demo with ctxs := [(1, { pmap := [(0, 0x8000#64), (1, 0x8001#64)], active := true })], clusters := [(1, { matq := [t, { t with id := 1 }] })] };
      (s.owner 0).isSome = true ∧ (s.clu 0).matq = [] ∧ (s.clu 0).matPort = [] ∧
      ((List.range 128).filterMap fun v => (s.place 1 v).filter fun p => p / 32 == 0 / 32 && p ≠ 0 && ((s.clu p).matq.filter fun o => o.st == 0 && o.req.tile.isSome).length > 1) = [1] ∧ t.req.handle = none) ∧
    (let q : Parked := ⟨0#64, ptr 1 0 0, 1, 0, 0, 0#64, 0, 0, false, false⟩; let s := (mailbag 0 (.tsRelease 0 0#64 false)).modDie 0 fun d => { d with turnstile := [q] };
      s.walking (dieAgent 0) = false ∧ (s.tsFind 0 1 0#64).isOk = true ∧ (s.need q.ctx [(s.opBase (coreOf q.k) q.rcd, 64)]).isOk = true ∧
      s.recordBad q.cl (groupTile (s.parkedReq q) q.walk q.rcd (List.replicate 8 0#64)) (List.replicate 8 0#64) = true) := by decide +kernel

/-- Copies, lists and their plans, and a stream that takes an index, reads its record and pushes it. -/
theorem witness_EngineRules_copies :
    (let s := eregs [(0, ptr 3 0 0x10000), (1, ptr 3 0 0x10400), (2, nat (2 ^ 24 + 64))]; let o : EngOp := { id := 0, req := s.engReq 0 }; let t := s.setEngOps 0 [o];
      let a := (o.rowDst (t.opBase 0 (o.req.g 1)) 0 0).getD 0; let ps := o.blockParts (t.opBase 0 (o.req.g 0)) (t.opBase 0 (o.req.g 1)) (a.toNat / 64); let l := ps.flatMap (·.2);
      (t.engOps 0)[0]? = some o ∧ o.done = false ∧ t.walking (.eng 0 0) = false ∧ t.engMayRun o = true ∧ o.req.xp = false ∧ l.length = 64 ∧ (t.engRead 1 (l.filterMap (·.src))).isOk = true ∧
      (t.reachAll 1 (l.map (·.dst)) false true).isOk = true ∧ t.mustWait none (((l.head?).map (·.dst)).getD 0) 1 = false ∧ (t.moveBlock 0 o).isSome = true) ∧
    (let s := eregs [(0, ptr 3 0 0x10000), (1, ptr 1 0 0), (2, nat (2 ^ 24 + 64)), (6, ptr 3 0 0x11000), (7, nat (2 ^ 32 + 1))]; let o : EngOp := { id := 0, req := s.engReq 1 };
      o.req.kind ≠ 0 ∧ o.got.length < o.req.listLen ∧ (s.listRead o).isOk = true ∧ ({ o with got := [0] } : EngOp).listFault = none ∧ ({ o with got := [9] } : EngOp).listFault = some 291 ∧ o.req.listLen ≤ [0].length) ∧
    (let o : EngOp := { id := 0, req := (eregs [(0, ptr 3 0 0x10000), (1, ptr 3 0 0x10100), (2, 1#64), (3, ptr 3 0 0x10200)]).engReq 4, plan := some [] }; 2 < o.req.kind ∧ o.plan = some []) ∧
    (let st : Stream := { c := 0, qs := 0, qd := 1, x := 1, base := ptr 0 8 0, sm := false, bound := 4, sentinel := 0#64, fill := 0#64, vtid := 0, hs := demoQ.handle 0, hd := demoQ.handle 0 };
      let s := demoQ.modClu 0 fun c => { c with streams := [(0, st)] };
      (s.clu 0).streams.find 0 = some st ∧ s.walking (.stream 0 0) = false ∧ s.findQueue 1 st.hs = some 0 ∧ (s.queue 0).prod = [] ∧ (s.queue 0).inbox = [] ∧ st.fin = false ∧ 0 < (s.queue 0).avail ∧
      s.inOrder (s.qcore 0) 0 = true ∧ st.out = none ∧ st.idx = none ∧ st.stop = false ∧ (s.streamItem { st with idx := some 9 } 9).isOk = true ∧
      ((s.stamp (s.qcore 0) 0).qPush 0 16384 ⟨1#64, false⟩).1 = .done ∧ ({ st with stop := true } : Stream).stop = true) := by decide +kernel

theorem witness_WaitsAndParades :
    (let s : State := { (demo.upd fun sl => { sl with st := .parkFe, wait := .fe }) with net := [⟨1, 0, .reply 0 0 (.val 5#512), 1, none⟩] };
      s.net[0]? = some ⟨1, 0, .reply 0 0 (.val 5#512), 1, none⟩ ∧ (s.slot 0).wait ∈ [.queue, .group, .system, .engine, .fe, .bbar, .resv]) ∧
    (let m : Msg := ⟨1, 0, .ack 0 3, 1, some 16⟩; let s : State := { demo with net := [m] }; s.net[0]? = some m ∧ m.back = some 16 ∧ s.senderCyc m < 16 ∧ 16 ≤ (s.modCore 1 fun co => { co with cyc := 16 }).senderCyc m) ∧
    (let s := (demo.upd fun sl => { sl with st := .parkMon, wait := .monitor 5, monto := 10#64 }).modCore 0 fun co => { co with cyc := 15 }; 5 + (s.slot 0).monto.toNat ≤ (s.core (coreOf 0)).cyc ∧
      ((s.modCore 0 fun co => { co with cyc := 14 }).core 0).cyc < 5 + (s.slot 0).monto.toNat ∧ (s.slot 0).monto ≠ 0#64) ∧
    (let s := (demo.upd fun sl => { sl with st := .parkNorm, wait := .norm (some 1) }).modCore 0 fun co => { co with normQ := [0], cyc := 33 }; (s.core 0).normQ = [0] ∧ 1 + 32 ≤ (s.core 0).cyc) ∧
    (let s := demo.upd fun sl => { sl with inj := some (32, 0#64, 6) }; (s.slot 0).inj = some (32, 0#64, 6) ∧ (s.slot 0).err = none ∧ coreOf 0 < 1024 ∧ s.inStep (coreOf 0) = true ∧ s.runs (coreOf 0) = true ∧ s.turnOwner (coreOf 0) = 0 ∧ s.issues (coreOf 0) = true) ∧
    (let s := (demo.upd fun sl => { sl with st := .parkMem, wait := .parade }).modCtx 1 fun cx => { cx with parades := [{ scope := 1, inst := 0, route := [0, 1], todo := [1], waiters := [0], sum := 1 }], counts := [(counterIx 1 0 1, -1)] };
      ∃ p, (s.ctx 1).parades[0]? = some p ∧ p.todo = [1] ∧ p.kind = 0 ∧ p.sum + Tbl.get 0 (s.ctx 1).counts (counterIx p.scope p.inst 1) = 0 ∧ p.black = false ∧
        Tbl.get false (s.ctx 1).blacks (counterIx p.scope p.inst 1) = false ∧ p.joined = [] ∧ p.waiters = [0] ∧ (s.slot 0).wait = .parade) ∧
    (let s := demo.modCtx 1 fun cx => { cx with parades := [{ scope := 1, inst := 0, route := [0, 1], todo := [0, 1] }] }; ((s.ctx 1).parades[0]?).map (fun p => (p.kind, p.todo)) = some (0, [0, 1])) ∧
    (let s : State := ({ demo with cur := 112, slots := [(112, { st := .run })] } : State).joinParade 0; ∃ p, (s.ctx 0).parades[0]? = some p ∧ p.todo = [] ∧ p.kind = 0 ∧ p.sum = 0 ∧ p.black = false ∧ p.joined = [] ∧
      p.waiters = [112] ∧ (s.slot 112).wait = .parade) ∧
    (let s := demoQ [] { alloc := true, depth := 4, stuckAt := some 0 } |>.modCore 0 fun co => { co with cyc := 4096 }; (s.queue 0).stuckAt = some 0 ∧ 0 + 4096 ≤ (s.core (s.qcore 0)).cyc ∧ (s.ctx (s.qctx 0)).parades = []) := by
  refine ⟨?_, ?_, ?_, ?_, ?_, ⟨_, rfl, ?_⟩, ?_, ⟨_, rfl, ?_⟩, ?_⟩ <;> decide +kernel

/-- Window 5 of function 3, mapped to the demo queue with record q. -/
def demoW (q : Queue := { alloc := true, depth := 4, n := 2 }) : State :=
  { demoQ [] q with links := { hqmap := [(winOf 3 5, nat (2 ^ 63) + demoQ.handle 0)], hqctx := [(winOf 3 5, 1)], vfctx := [(3, nat (2 ^ 63 + 1))] } }

theorem witness_LinkRules :
    (demoW.window 3 5 = some (1, demoQ.handle 0) ∧ demoW.window 64 5 = none ∧ (demoW.ctx 1).frz < 2 ∧ demoW.findQueue 1 (demoQ.handle 0) = some 0 ∧ (demoW.queue 0).takesNow = true ∧ 0 < (demoW.queue 0).avail ∧
      ((demoW { alloc := true, depth := 1, n := 1 }).queue 0).takesNow = false ∧ ((demoW { alloc := true, depth := 4 }).queue 0).isEmpty = true ∧ (∀ e ∈ demoW.links.hostq, e.kind ≠ 4) ∧
      (let q := (demoW { alloc := true, depth := 4, closed := true }).queue 0; q.isEmpty = true ∧ q.closed = true) ∧ (let q := (demoW { alloc := true, depth := 4, spill := 4, sn := 1 }).queue 0; q.avail = 0 ∧ q.isEmpty = false) ∧
      ((demoW.modCtx 1 fun cx => { cx with frz := 2 }).ctx 1).frz ≥ 2 ∧ (nat (2 ^ 62)).getLsbD 62 = true) ∧
    (({ demo with links := { ckst := 1 } } : State).links.ckst = 1 ∧ demo.links.ckst ≠ 1 ∧ ({ demo with links := { ckst := 1, ckres := true } } : State).memWf = true) ∧
    (({ demo with links := { xpcmd := some (15, 2) } } : State).links.xpcmd = some ((15#4).toNat, 2)) ∧
    (let d := demoQ [] { alloc := true, depth := 4, n := 2, scope := 3 }; let s := d.modCtx 1 fun cx => { cx with xgrant := [(0, nat (2 ^ 63 + 5 * 2 ^ 50))], xqmap := [(0, nat (2 ^ 63 + 5 * 2 ^ 50) + d.handle 0)] };
      (s.granted 1 5).isSome = true ∧ s.findQueue 1 (low (Tbl.get 0#64 (s.ctx 1).xqmap 0) 35) = some 0 ∧ 0 < (s.queue 0).avail ∧ (s.queue 0).takesNow = true ∧ (Tbl.get 0#64 (s.ctx 1).xqmap 0).getLsbD 63 = true) ∧
    (let s := demo.modClu (sliceOf 0) fun c => { c with tlb := [page0] }; (s.remoteReach 1 0 8 true).1.isOk = true ∧ (s.remoteReach 1 0 8 false).1.isOk = true ∧ (s.remoteReach 1 0 8 true).2.mustWait none (glbAt 1 0) 8 = false ∧
      (s.remoteReach 1 0 8 false).2.anyPoison (glbAt 1 0) 8 = false) ∧
    (demoW.hostFull 3 = false ∧ ({ demo with links := { hostq := List.replicate 1024 ⟨3, 5, 0, 0#64, 1⟩ } } : State).hostFull 3 = true) ∧
    (inBlock 0 [(0, [1#8]), (63, [2#8])] = true ∧ inBlock 0 [] = false ∧ inBlock 0 [(63, [1#8, 2#8])] = false ∧ inBlock (2 ^ 46) [(2 ^ 52, [1#8])] = false ∧
      (let s := demo.modClu (sliceOf 0) fun c => { c with tlb := [page0] }; (s.remoteReach 1 0 64 true).1.isOk = true ∧ (s.remoteReach 1 0 64 true).2.mustWait none (glbAt 1 0) 64 = false)) ∧
    (let p : EngOp := { id := 0, req := { kind := 0, e := [], k := 0, ticket := 0, ctx := 1, vtid := 0 }, remote := [{ place := tcmBase 0, n := 4 }, { place := tcmBase 0 + 4, n := 4 }] }; let s := demo.setEngOps 0 [p]; s.engOp 0 0 = some p ∧ p.req.xd = false ∧
      p.remote.find? (·.data.isNone) = some { place := tcmBase 0, n := 4 } ∧ (p.answered [1#8, 2#8, 3#8, 4#8]).1.any (·.data.isNone) = true ∧
      (let o := { p with remote := (p.answered [1#8, 2#8, 3#8, 4#8]).1 }; o.remote.find? (·.data.isNone) = some { place := tcmBase 0 + 4, n := 4 } ∧ (o.answered [5#8, 6#8, 7#8, 8#8]).1.any (·.data.isNone) = false ∧
        (s.reachAll o.req.view ((o.answered [5#8, 6#8, 7#8, 8#8]).1.flatMap fun m => placesFrom m.place m.n) false true).isOk = true ∧ s.mustWait none (tcmBase 0) 64 = false)) ∧
    (demo.coreAt 1 (fld 16#64 4 10) = some 1 ∧ demo.engOp 0 0 = none ∧ (demo.core 1).mail.length < 64) := by decide +kernel

/-- The clause of a load that boots has no witness here: whether an image passes depends on the root key that Config leaves open. -/
theorem witness_SecurityResults :
    demo.sec.st ≠ 1 ∧ State.reset.sec.st = 1 ∧ State.reset.memWf = true ∧ State.reset.sec.failedCheck = 1 ∧ ({ State.reset with sec := { st := 5 } } : State).sec.st = 5 ∧
    (stage0 % 8 = 0 ∧ stage0 < 2 ^ 26 ∧ (2 ^ 26 - 8) % 8 = 0 ∧ stage0 ≤ 2 ^ 26 - 8 ∧ Tbl.wf 0#8 State.reset.sec.stage = true) ∧
    (let s : State := { demo with sec := { st := 3, queue := [(256, 1, [0#64, 0#64, 0#64, 0#64], 0#64), (3, 0, [], 0#64)] } };
      s.sec.queue = (256, 1, [0#64, 0#64, 0#64, 0#64], 0#64) :: [(3, 0, [], 0#64)] ∧ s.sec.erased = false) ∧
    (let s : State := { demo with sec := { st := 3 }, links := { pfAts := true } }; demo.links.pfAts = false ∧ s.pfWrite 4096 (s.response 256 1 [0#64, 0#64, 0#64, 0#64]).2 = none) ∧
    (let s := demo.modCore (ringOf 3) fun co => { co with cyc := 2 ^ 36 }; (s.die 3).wdtAt + 2 ^ (s.die 3).wdtLog ≤ (s.core (ringOf 3)).cyc ∧ (demo.core (ringOf 3)).cyc < (demo.die 3).wdtAt + 2 ^ (demo.die 3).wdtLog) := by
  decide +kernel

theorem witness_FirmwareRegisters :
    modeF 112 = true ∧ modeF 0 = false ∧
    (let s : State := { (demo.modDie 0 fun d => { d with frq := [⟨1#64, 2#64, 3#64, 4#64⟩], exreq := [5#64], tgt := 0#64, ctxsel := 1#64, faults := [(63, ⟨0, 2 ^ 40, false, false, 7, false⟩)] }) with cur := 112 };
      (s.die (dieOf s.cur)).frq = [⟨1#64, 2#64, 3#64, 4#64⟩] ∧ (s.die (dieOf s.cur)).exreq = [5#64] ∧ (s.die (dieOf s.cur)).faults = [(63, ⟨0, 2 ^ 40, false, false, 7, false⟩)] ∧
      s.busy s.selCtx = true ∧ (s.slot s.tgtSlot).st = .run ∧ isRing (coreOf s.tgtSlot) = false) ∧
    (let s : State := { State.reset with cur := 112 }; s.busy s.selCtx = false ∧ s.links.asidtab.getLsbD 0 = false ∧ (s.die 0).frq = [] ∧ (s.die 0).exreq = [] ∧ (s.die 0).faults = [] ∧ (s.slot s.tgtSlot).st ≠ .faulted) ∧
    ((demo.upd fun sl => { sl with st := .faulted }).slot 0).st = .faulted ∧
    (let s : State := { demo with frFlight := [(0, ⟨1#64, 2#64, 3#64, 4#64⟩)] }; s.frFlight[0]? = some (0, ⟨1#64, 2#64, 3#64, 4#64⟩) ∧ (s.die 0).lostSince = 0 ∧ (s.die 0).frq.length < 256 ∧
      256 ≤ ((s.modDie 0 fun d => { d with frq := List.replicate 256 ⟨1#64, 2#64, 3#64, 4#64⟩ }).die 0).frq.length ∧ 0 < ((s.modDie 0 fun d => { d with lostSince := 1 }).die 0).lostSince) ∧
    (31 < bankSize 0 ∧ (demo.slot 0).wait = .none ∧ (demo.slot 1).st = .free ∧ levelHas 0 (2 ^ 61) = true ∧ levelHas 7 tier2Base = true ∧ levelHas 5 (2 ^ 40) = false ∧
      (demo.die (demo.scrubAddr (2 ^ 61)).2).eccthr = 0#64 ∧ 8 < 128 * 2 ^ 23 ∧ (({ demo with clusters := [(0, { kept := some ⟨0, 1, 1, [0#32], false⟩ })] } : State).clu 0).kept.isSome = true ∧ ((demoG []).lines.find (lineOf (glbAt 1 0))).isSome = true) := by decide +kernel

/-- A context that is not running in the pmap and window of firmware, and the entries of the residency queue in each state. -/
theorem witness_FirmwarePlacement :
    (let s : State := { State.reset with cur := 112 }; s.busy s.selCtx = false ∧ Tbl.wf 0#64 (s.ctx s.selCtx).pmap = true ∧ Tbl.wf 0#64 (s.ctx s.selCtx).dsrwin = true ∧
      (∀ e ∈ s.ctxs, ∀ f ∈ e.2.pmap, f.2.getLsbD 15 = false) ∧ s.homeDie s.selCtx 0 = none ∧ s.place s.selCtx 0 ≠ some 5 ∧
      let t := s.writePmap 0 0x8005#64; t.place t.selCtx 0 = some 5 ∧ t.homeDie t.selCtx 0 = some 0 ∧ (t.readHigh 0x900).1 = 0x8005#64 ∧ (∃ e ∈ t.ctxs, ∃ f ∈ e.2.pmap, f.2.getLsbD 15 = true ∧ fld f.2 0 7 = 5)) ∧
    (let s : State := { (demo.modDie 0 fun d => { d with ctxsel := 1#64 }) with cur := 112 }; s.busy s.selCtx = true) ∧ 512 < fld (nat (2 ^ 32 + 511 * 2 ^ 16 + 2 ^ 33)) 16 9 + fld (nat (2 ^ 32 + 511 * 2 ^ 16 + 2 ^ 33)) 32 10 := by decide +kernel

/-- Two records of one cycle for one die, a row of a live handle, a reservation whose line its own slot has read, a full turnstile, and a forwarder whose
item is on its way. -/
theorem witness_ArrivalOrders :
    (let s : State := { demo with frFlight := [(0, ⟨0#64, 2#64, 3#64, 0#64⟩), (0, ⟨0#64, 2#64, 3#64, 16#64⟩)] }; s.inOrder (portRecords 0) (FRec.rank ⟨0#64, 2#64, 3#64, 0#64⟩) = true) ∧
    (let s : State := { demo with clusters := [(0, { handles := [(0, { live := true, row := 512, rows := 8 })] })] }; (s.clu 0).handles = [(0, { live := true, row := 512, rows := 8 })] ∧ (s.clu 0).matq = [] ∧
      ∀ r ∈ (s.clu 0).matPort, r.handle ≠ some 0) ∧ (((demoG []).lines.map (·.1)).Pairwise (· < ·)) ∧
    (let r : Resv := { k := 0, red := true, place := spdBase 0, op := .amo .add 64 1#64 0#64 0 false, ctx := 1, ptr := 0#64 }
      let s : State := { (demo.upd fun sl => { sl with reds := 1, chunk := { reads := [(lineOf (spdBase 0), true)] } }) with resv := [r] }; s.mirrorHolds r = false ∧ r.place < glb0 ∧
      s.walking r.who = false ∧ s.mustWait (some r.k) r.place 8 = false ∧ (match (({ s with resv := [] } : State).homeStep r.k false r.place r.op).1 with | .val _ => true | _ => false) = true ∧
      ((s.slot 0).chunk.reads.find (lineOf r.place)).isSome = true) ∧
    (let r : MatReq := { kind := 0, e := [], k := 0, ctx := 1, vtid := 0, rm := 0, bad := some 7#64 }; (mailbag 1024 (.mat r)).deliverable 0 = some ⟨1, 1024, .mat r, 1, none⟩) ∧
    (let q : Parked := ⟨0#64, ptr 1 0 0, 1, 0, 0, 0#64, 0, 0, false, false⟩; let s : State := { demo with net := [⟨1, 0, .tsPark 0 q, 1, none⟩, ⟨1, 0, .tsRelease 0 0#64 false, 1, none⟩], ctxs := [(1, { overflow := [(0, { len := 1, bad := true })] })] };
      (s.ovf 1 0).bad = true ∧ s.tsFree 0 1 = false ∧ s.net.drop 1 = [⟨1, 0, .tsRelease 0 0#64 false, 1, none⟩] ∧ s.net.drop 2 = []) ∧
    (let s := mailbag 0 (.slotReg 112 0 0xD05 (some 133#64) 0#64); s.deliverable 0 = some ⟨1, 0, .slotReg 112 0 0xD05 (some 133#64) 0#64, 1, none⟩ ∧ (s.slotAccess 0 0xD05 (some 133#64) 0#64).isNone = true ∧
      (s.slotAccess 0 0xA01 none 0#64).isSome = true) ∧
    (1024 ≤ ((demo.modDie 0 fun d => { d with turnstile := List.replicate 1024 ⟨0#64, ptr 1 0 0, 1, 0, 0, 0#64, 0, 0, false, false⟩ }).die 0).turnstile.length) ∧
    (let d := demoQ [] { alloc := true, depth := 4, n := 2, scope := 3 }; let s := d.modCtx 1 fun cx => { cx with xqbusy := [(0, true)], xgrant := [(0, nat (2 ^ 63 + 5 * 2 ^ 50))], xqmap := [(0, nat (2 ^ 63 + 5 * 2 ^ 50) + d.handle 0)] };
      Tbl.get false (s.ctx 1).xqbusy 0 = true ∧ (s.queue 0).scope = 3 ∧ Tbl.get false (demoQ.ctx 1).xqbusy 0 = false) := by decide +kernel

theorem witness_FirmwareTables :
    (∃ e, (demoX 1).expertOf 0 = some e ∧ (demoX 1).memWf = true ∧ Tbl.wf (0, 0) (demoX 1).exCnt = true ∧ (demoX 1).exWait = [] ∧ (demoX 1).exSt e.at_ = 1) ∧
    (∃ e, (demoX 4).expertOf 0 = some e ∧ (demoX 4).exSt e.at_ = 4 ∧ ((demoX 4).exW3 e.at_).getLsbD 60 = false) ∧
    (∃ e, (demoX 2).expertOf 0 = some e ∧ (demoX 2).exSt e.at_ = 2 ∧ (demoX 2).exPins e.at_ = 0 ∧ fld 0#64 0 36 = 0 ∧ (demoX 2).exRefs e.at_ = 0) ∧ demo.expertOf 0 = none ∧
    (let s : State := { (demoQ [] { alloc := true, depth := 4, scope := 4 }) with links := { vfctx := [(0, nat (2 ^ 63 + 1))] } }; s.vfCtx (s.selWin / 64) = some 1 ∧
      s.findQueue 1 (low (nat (2 ^ 63) + s.handle 0) 35) = some 0 ∧ (s.queue 0).scope = 4) ∧
    (demo.links.ckst ≠ 1 ∧ ∃ e ∈ demo.ctxs, e.2.active = true ∧ e.2.frz ≠ 3) ∧ (State.reset.links.ckst ≠ 1 ∧ ∀ e ∈ State.reset.ctxs, e.2.active = false) ∧
    (let s := demo.modCtx 1 fun cx => { cx with frz := 3 }; ∀ e ∈ s.ctxs, e.2.active = true → e.2.frz = 3) := by
  refine ⟨⟨_, rfl, ?_⟩, ⟨_, rfl, ?_⟩, ⟨_, rfl, ?_⟩, ?_⟩ <;> decide +kernel

/-- Encodings of every kind, and a number between two codes: 1 + 2^-12 lies above code 0x3C00 of FP16 and below the next. -/
theorem witness_FpRounding : fp16 ∈ formats ∧ 0x3C00 < 2 ^ fp16.bits ∧ fp16.Finite 0x3C00 ∧ fp16.Inf 0xFC00 ∧ (fp16.value 0x7C01).isSnan = true ∧ fp16.subnormal 1 = true ∧ fp16.Finite 1 ∧
    fp16.mag 0x3C00 ≤ ((4097 : Nat) : ℝ) * (2 : ℝ) ^ (-12 : ℤ) ∧ ((4097 : Nat) : ℝ) * (2 : ℝ) ^ (-12 : ℤ) < fp16.mag (0x3C00 + 1) := by
  refine ⟨by decide, by decide, by decide, by decide, by decide +kernel, by decide, by decide, ?_, ?_⟩ <;> norm_num [Fmt.mag, fp16, Fmt.bias]

/-! Single steps with values from the spec's tables and examples -/

/-- The next state of exec. -/
def after (i : Instr) (s : State) : State := match exec i s with | .next t => t | _ => s

theorem test_reset_memWf : State.reset.memWf = true := by decide

/-- Table 04-2. -/
theorem test_division_borders :
    (after (.div 3#6 1#6 2#6) (demo [(1, BitVec.ofInt 64 (-7)), (2, 2#64)])).xget 0 3 = BitVec.ofInt 64 (-3) ∧ (after (.rem 3#6 1#6 2#6) (demo [(1, BitVec.ofInt 64 (-7)), (2, 2#64)])).xget 0 3 = BitVec.ofInt 64 (-1) ∧
    (after (.div 3#6 1#6 2#6) (demo [(1, 1#64 <<< 63), (2, BitVec.allOnes 64)])).xget 0 3 = 1#64 <<< 63 ∧ (after (.remu 3#6 1#6 2#6) (demo [(1, 9#64)])).xget 0 3 = 9#64 := by decide +kernel

/-- The first step with the ADD of Table 03-6 at the pc, x5 = x6 + g3: the device runs it as the first instruction after reset. -/
theorem test_first_instruction : (match step (State.reset.withFetchWord 32 0x8228D180) with | .next t => (t.slot 112).pc | _ => 0#64) = 4#64 := by decide +kernel

/-- Table 04-8, steps 4 and 5. -/
theorem test_heap :
    let s := ((((demo [(1, 0x404000000000000D#64), (2, 0x3F8000000000000E#64), (8, ptr 3 0 0x10000)]) |> (word · 0x10000 0x303)) |> (word · 0x10008 0x3F0000000000000A)) |> (word · 0x10010 0x400000000000000B)) |> (word · 0x10018 0x3F8000000000000C)
    let t := after (.hsift 3#6 8#6 1#6) s
    let u := after (.hsift 4#6 8#6 2#6) (t.upd fun sl => { sl with latch := {} })
    t.xget 0 3 = 0x3F0000000000000A#64 ∧ u.xget 0 4 = 0x3F8000000000000E#64 ∧
      (List.range 4).map (fun j => u.num (tcmBase 0 + 0x10000 + 8 * j) 8) = [0x303, 0x3F8000000000000C, 0x400000000000000B, 0x404000000000000D] := by decide +kernel

/-- Table 02-8. -/
theorem test_stochastic : (convGroup bf16 4 false ([0x8000, 0, 0x4000, 0xC000, 1, 0xFFFF, 0x2000, 0x6000].map fun d => (fp32.value (0x3F800000 + d), false))).map (·.bits) =
    [0x3F81, 0x3F80, 0x3F80, 0x3F81, 0x3F80, 0x3F81, 0x3F80, 0x3F80] := by decide +kernel

/-- Table 07-8, the first scan: lanes 0 to 4, and lane 5, where the second segment starts. -/
theorem test_segmented_scan :
    let s := ((demo.vset 0 7 (vecOf 32 ((List.range 16).map (· + 1)))).mset 0 3 0x21#64)
    ((List.range 6).map fun j => lane ((after (.vsegscan 6#5 7#5 30#5 3#3 0#2) s).vget 0 6) 32 j) = [1, 3, 6, 10, 15, 6] := by decide +kernel

/-- Table 09-5. -/
theorem test_credits : (creditWords 0x40000000400 1024).1.getLastD 0 = 0x8000040000000400 ∧ (creditWords 0x40000000400 2048).1.getLastD 0 = 0x40000000400 ∧
    (creditWords 0x40000000400 2560).1.getLastD 0 = 0x40000000200 := by decide +kernel

/-- Tables 02-6 and 02-7: the example strip decodes to its eight values. -/
theorem test_entropy_block :
    let s := ((demo [(1, ptr 3 17 0x10000)]).putBytes (tcmBase 0 + 0x10000) [0x10, 0x00, 0x01, 0x00, 0x7F, 0x80, 0x92, 0x8C, 0x1C, 0x03, 0xC1, 0x00, 0x4F, 0x00, 0x00, 0x00]).vset 0 2 (vecOf 64 [0, 3 * 2 ^ 52 + 0x11000])
    let t := after (.vldb 4#5 1#6 2#5 1#3) (s.mset 0 1 0xFF#64)
    (List.range 8).map (fun j => lane (t.vget 0 4) 32 j) = [0x3F800000, 0x3FC00000, 0xBF000000, 0x3E800000, 0, 0x40400000, 0x40000000, 0x3C000000] := by decide +kernel

/-- Table 09-11, grants 1 and 4 for the ranking 2, 5, 1, 3. -/
theorem test_route :
    let tab (c : Nat → Nat) (s : State) : State := (List.range 8).foldl (fun s e => s.putBytes (spdBase 0 + 8 + 8 * e) (leBytes (c e + 3 * 2 ^ 32) 8)) (s.putBytes (spdBase 0) (leBytes 8 8))
    ((tab (fun e => if e = 2 ∨ e = 1 then 3 else if e = 5 then 1 else 2) demo).homeStep 0 false (spdBase 0) (.route [2, 5, 1, 3] 0 0x11 (ptr 1 0 0))).1 = .w 0x0000000100000005#64 ∧
    ((tab (fun _ => 3) demo).homeStep 0 false (spdBase 0) (.route [2, 5, 1, 3] 2 0x12 (ptr 1 0 0))).1 = .w (BitVec.allOnes 64) ∧
    (((tab (fun _ => 3) demo).homeStep 0 false (spdBase 0) (.route [2, 5, 1, 3] 2 0x12 (ptr 1 0 0))).2.num (spdBase 0) 8) = 0x100000008 := by decide +kernel

/-- R162: TRAP 15 of a slot in mode U whose UE is set is taken at TVEC with cause 367. -/
theorem test_trap : let t := after (.trap 1#6 15#6) ((demo [(1, 7#64)]).upd fun sl => { sl with tstat := 1#64, tvec := 0x101#64, pc := 8#64 })
    (t.me.tcause, t.me.tval, t.me.txpc, t.me.pc, t.me.tstat) = (367#64, 7#64, 8#64, 0x100#64, 2#64) := by decide +kernel

/-- Records that FREEZE writes come back from their bytes as they were (log 63), with what stands after them. -/
theorem test_codec :
    (let q : Queue := { alloc := true, gen := 300, ring := 0x12345, n := 2, sparea := 0x8000000000000001#64, held := [⟨5, 1, 0, 9, ⟨7#64, true⟩, none⟩], cons := [(17, some 3), (4, none)], stuckAt := some 12 }
     queueCodec.get (queueCodec.put q ++ [0xAB]) = (q, [0xAB])) ∧
    (let sl : Slot := { st := .parkQ, streak := 3, wait := .queue, mons := [(1, ⟨0x77, true⟩)], latch := { vals := some [1#64, 0xFFFFFFFFFFFFFFFF#64], stage := 2, out := some ⟨9#64, true⟩, undo := [.bytes 0x40 [1, 2], .group 5 7] }
                        inj := some (132, 6#64, 6), err := some 0#64 }
     slotCodec.get (slotCodec.put sl ++ [0xAB]) = (sl, [0xAB])) := by decide +kernel

end Sys2Proof.Machine
end

section
/-! SUPPORT. Fat pointers: where `State.resolve` leads by space, and what `State.access` adds (R5, R40, R41, R114). -/

namespace Sys2Proof.Machine

theorem fld_lt (w : W) (lo n : Nat) : fld w lo n < 2 ^ n := Nat.mod_lt _ (Nat.two_pow_pos n)

/-! Places of the spaces, and their ordering class (Table 01-18) -/

theorem isGlobal_iff {a : Nat} : isGlobal a = true ↔ 2 ^ 62 ≤ a := decide_eq_true_iff

theorem isGlobal_glbAt (x o : Nat) : isGlobal (glbAt x 0 + o) = true := by
  rw [isGlobal_iff, glbAt, glb0]; omega

theorem isGlobal_dsrBase (d o : Nat) : isGlobal (dsrBase d + o) = true := by
  rw [isGlobal_iff, dsrBase]; omega

theorem isGlobal_spdBase {q o : Nat} (hq : q < 128) (ho : o < 2 ^ 21) : isGlobal (spdBase q + o) = false := by
  rw [Bool.eq_false_iff, Ne, isGlobal_iff, spdBase]; omega

theorem isGlobal_tcmBase {c o : Nat} (hc : c < 1024) (ho : o < 2 ^ 18) : isGlobal (tcmBase c + o) = false := by
  rw [Bool.eq_false_iff, Ne, isGlobal_iff, tcmBase]; omega

/-! Placed clusters and cores -/

/-- The device has 128 clusters (R1). -/
theorem State.place_lt {s : State} {x v q : Nat} (h : s.place x v = some q) : q < 128 := by
  simp only [State.place] at h
  split at h
  · cases h; exact fld_lt _ 0 7
  · cases h

theorem State.coreAt_of_place {s : State} {x v i q : Nat} (hi : i < 8) (hp : s.place x v = some q) (hr : isRing (q * 8 + i) = false) :
    s.coreAt x (v * 8 + i) = some (q * 8 + i) := by
  have hv : (v * 8 + i) / 8 = v := by omega
  have hm : (v * 8 + i) % 8 = i := by omega
  simp [State.coreAt, hv, hm, hp, hr]

/-- A core that is not placed, or is a ringmaster, is absent (R5). -/
theorem State.coreAt_none {s : State} {x v i : Nat} (hi : i < 8)
    (h : s.place x v = none ∨ ∃ q, s.place x v = some q ∧ isRing (q * 8 + i) = true) : s.coreAt x (v * 8 + i) = none := by
  have hv : (v * 8 + i) / 8 = v := by omega
  have hm : (v * 8 + i) % 8 = i := by omega
  rcases h with hp | ⟨q, hp, hr⟩
  · simp [State.coreAt, hv, hp]
  · simp [State.coreAt, hv, hm, hp, hr]

theorem State.coreAt_lt {s : State} {x t c : Nat} (h : s.coreAt x t = some c) : c < 1024 := by
  obtain ⟨q, hq, hc⟩ := Option.bind_eq_some_iff.1 h
  have := State.place_lt hq
  split at hc
  · cases hc
  · cases hc; omega

/-! The checks of R40, one space at a time -/

/-- No OFFSET bit above the fields of the pointer's space is set (R40). -/
def Fits (p : W) : Prop := offOf p / 2 ^ fieldsWidth (spc p) = 0

/-- The virtual cluster that a pointer used by core c names: for TCR relative to the core's own (R39). -/
def State.namedCluster (s : State) (c : Nat) (p : W) : Int :=
  if spc p = 5 then (s.vcl c : Int) + sInt (fld p 21 7) 7 else (fld p 21 7 : Nat)

section
variable {s : State} {c : Nat} {p : W}

theorem State.namedCluster_absolute (h : spc p ≠ 5) : s.namedCluster c p = (fld p 21 7 : Nat) := if_neg h
theorem State.namedCluster_relative (h : spc p = 5) : s.namedCluster c p = (s.vcl c : Int) + sInt (fld p 21 7) 7 := if_pos h

theorem State.resolve_reserved (h : spc p = 7) : s.resolve c p = .error 64 := by
  simp [State.resolve, h]

theorem State.resolve_unfit (h : spc p ≠ 7) (hf : ¬ Fits p) : s.resolve c p = .error 65 := by
  simp only [State.resolve, if_neg h, if_pos (show offOf p / 2 ^ fieldsWidth (spc p) ≠ 0 from hf)]

theorem State.resolve_outOfRange (h : spc p = 5) (hf : Fits p) (hv : s.namedCluster c p < 0 ∨ s.namedCluster c p > 127) :
    s.resolve c p = .error 67 := by
  simp only [Fits, h] at hf
  rw [State.namedCluster_relative h] at hv
  simp [State.resolve, h, hf, hv]

theorem State.resolve_glb (h : spc p = 0) (hf : Fits p) :
    s.resolve c p = .ok ⟨glbAt (s.ctxOf c) 0, fld p 0 (offWidth (spc p)), 52, 2 ^ 52, false, s.vcl c⟩ := by
  simp only [Fits, h] at hf
  simp [State.resolve, h, hf, offWidth]

theorem State.resolve_spd (h : spc p = 1) (hf : Fits p) :
    s.resolve c p = .ok ⟨spdBase (c / 8), fld p 0 (offWidth (spc p)), 21, 2 ^ 21, false, s.vcl c⟩ := by
  simp only [Fits, h] at hf
  simp [State.resolve, h, hf, offWidth]

theorem State.resolve_tcm (h : spc p = 3) (hf : Fits p) :
    s.resolve c p = .ok ⟨tcmBase c, fld p 0 (offWidth (spc p)), 18, 2 ^ 18, false, s.vcl c⟩ := by
  simp only [Fits, h] at hf
  simp [State.resolve, h, hf, offWidth]

theorem State.resolve_spx_absent (h : spc p = 2) (hf : Fits p) (hq : s.place (s.ctxOf c) (s.namedCluster c p).toNat = none) :
    s.resolve c p = .error 66 := by
  simp only [Fits, h] at hf
  rw [State.namedCluster_absolute (by omega), Int.toNat_natCast] at hq
  simp [State.resolve, h, hf, hq]

theorem State.resolve_spx {q : Nat} (h : spc p = 2) (hf : Fits p) (hq : s.place (s.ctxOf c) (s.namedCluster c p).toNat = some q) :
    s.resolve c p = .ok ⟨spdBase q, fld p 0 (offWidth (spc p)), 21, 2 ^ 21, decide ((s.namedCluster c p).toNat ≠ s.vcl c), (s.namedCluster c p).toNat⟩ := by
  simp only [Fits, h] at hf
  rw [State.namedCluster_absolute (by omega), Int.toNat_natCast] at hq ⊢
  simp [State.resolve, h, hf, hq, offWidth]

/-- A TCX pointer, or a TCR pointer whose cluster is in range: it names a core (Table 01-18). -/
def State.NamesCore (s : State) (c : Nat) (p : W) : Prop :=
  spc p = 4 ∨ (spc p = 5 ∧ 0 ≤ s.namedCluster c p ∧ s.namedCluster c p ≤ 127)

theorem State.resolve_core_absent (h : s.NamesCore c p) (hf : Fits p)
    (hq : s.coreAt (s.ctxOf c) ((s.namedCluster c p).toNat * 8 + fld p 18 3) = none) : s.resolve c p = .error 66 := by
  rcases h with h | ⟨h, hv⟩ <;> simp only [Fits, h] at hf
  · rw [State.namedCluster_absolute (by omega), Int.toNat_natCast] at hq
    simp [State.resolve, h, hf, hq]
  · rw [State.namedCluster_relative h] at hq hv
    have hin : ¬ ((s.vcl c : Int) + sInt (fld p 21 7) 7 < 0 ∨ 127 < (s.vcl c : Int) + sInt (fld p 21 7) 7) := by omega
    simp [State.resolve, h, hf, hq, hin]

theorem State.resolve_core {q : Nat} (h : s.NamesCore c p) (hf : Fits p)
    (hq : s.coreAt (s.ctxOf c) ((s.namedCluster c p).toNat * 8 + fld p 18 3) = some q) :
    s.resolve c p = .ok ⟨tcmBase q, fld p 0 (offWidth (spc p)), 18, 2 ^ 18, decide (q ≠ c), (s.namedCluster c p).toNat⟩ := by
  rcases h with h | ⟨h, hv⟩ <;> simp only [Fits, h] at hf
  · rw [State.namedCluster_absolute (by omega), Int.toNat_natCast] at hq ⊢
    simp [State.resolve, h, hf, hq, offWidth]
  · rw [State.namedCluster_relative h] at hq hv ⊢
    have hin : ¬ ((s.vcl c : Int) + sInt (fld p 21 7) 7 < 0 ∨ 127 < (s.vcl c : Int) + sInt (fld p 21 7) 7) := by omega
    simp [State.resolve, h, hf, hq, hin, offWidth]

theorem State.resolve_beyondWindow (h : spc p = 6) (hf : Fits p) (hw : s.winSize (s.ctxOf c) (s.vcl c / 32) ≤ fld p 0 (offWidth (spc p))) :
    s.resolve c p = .error 68 := by
  simp only [Fits, h, offWidth] at hf hw
  simp [State.resolve, h, hf, offWidth, hw]

theorem State.resolve_dsr (h : spc p = 6) (hf : Fits p) (hw : fld p 0 (offWidth (spc p)) < s.winSize (s.ctxOf c) (s.vcl c / 32)) :
    s.resolve c p = .ok ⟨s.windowAt (s.ctxOf c) (s.vcl c / 32), fld p 0 (offWidth (spc p)), 25, s.winSize (s.ctxOf c) (s.vcl c / 32), false, s.vcl c⟩ := by
  simp only [Fits, h, offWidth] at hf hw
  simp [State.resolve, h, hf, offWidth, hw, State.windowAt]

end
end Sys2Proof.Machine
end

section
/-! SUPPORT. What an accepted pointer is, and the checks of an access (R40, R114). -/

namespace Sys2Proof.Machine

/-- What R40 and R41 say of a pointer that core c may use and of the target that it leads to. -/
structure Resolved (s : State) (c : Nat) (p : W) (a : Tgt) : Prop where
  unreserved : spc p ≠ 7
  fits : Fits p
  off : a.off = fld p 0 (offWidth (spc p))
  width : a.width = offWidth (spc p)
  limit : a.limit = if spc p = 6 then s.winSize (s.ctxOf c) (s.vcl c / 32) else 2 ^ offWidth (spc p)
  global_iff : isGlobal a.at_ = true ↔ spc p = 0 ∨ spc p = 6
  near : spc p = 0 ∨ spc p = 1 ∨ spc p = 3 ∨ spc p = 6 → a.remote = false

section
variable {s : State} {c : Nat} {p : W} {a : Tgt}

theorem low_lt {w : Nat} (hw : offWidth (spc p) = w) : fld p 0 (offWidth (spc p)) < 2 ^ w := hw ▸ fld_lt p 0 _

/-- The target of a pointer to a scratchpad or a TCM. -/
theorem Resolved.of_local {b w vc : Nat} {r : Bool} (hf : Fits p) (hw : offWidth (spc p) = w) (hs : 1 ≤ spc p ∧ spc p ≤ 5)
    (hg : isGlobal (b + fld p 0 (offWidth (spc p))) = false) (hr : spc p = 1 ∨ spc p = 3 → r = false) :
    Resolved s c p ⟨b, fld p 0 (offWidth (spc p)), w, 2 ^ w, r, vc⟩ where
  unreserved := by omega
  fits := hf
  off := rfl
  width := hw.symm
  limit := by rw [if_neg (by omega), hw]
  global_iff := iff_of_false (Bool.eq_false_iff.1 hg) (by omega)
  near := fun h => hr (by omega)

theorem State.resolved_core (hk : s.NamesCore c p) (hf : Fits p) (h : s.resolve c p = .ok a) : Resolved s c p a := by
  have hs : spc p = 4 ∨ spc p = 5 := hk.imp_right And.left
  have hw : offWidth (spc p) = 18 := by rcases hs with e | e <;> rw [e] <;> rfl
  cases hq : s.coreAt (s.ctxOf c) ((s.namedCluster c p).toNat * 8 + fld p 18 3) with
  | none => simp [State.resolve_core_absent hk hf hq] at h
  | some q =>
    rw [State.resolve_core hk hf hq] at h
    cases h
    exact .of_local hf hw (by omega) (isGlobal_tcmBase (State.coreAt_lt hq) (low_lt hw)) (by omega)

theorem State.resolved (hc : c < 1024) (h : s.resolve c p = .ok a) : Resolved s c p a := by
  have h7 : spc p ≠ 7 := fun h7 => by simp [State.resolve_reserved h7] at h
  have hf : Fits p := by
    by_contra hf
    simp [State.resolve_unfit h7 hf] at h
  have h8 : spc p < 8 := fld_lt p 52 3
  obtain e | e | e | e | e | e | e : spc p = 0 ∨ spc p = 1 ∨ spc p = 2 ∨ spc p = 3 ∨ spc p = 4 ∨ spc p = 5 ∨ spc p = 6 := by omega
  case inl =>
    rw [State.resolve_glb e hf] at h
    cases h
    exact ⟨h7, hf, rfl, by rw [e]; rfl, by rw [e]; rfl, iff_of_true (isGlobal_glbAt _ _) (.inl e), fun _ => rfl⟩
  case inr.inl =>
    have hw : offWidth (spc p) = 21 := by rw [e]; rfl
    rw [State.resolve_spd e hf] at h
    cases h
    exact .of_local hf hw (by omega) (isGlobal_spdBase (by omega) (low_lt hw)) fun _ => rfl
  case inr.inr.inl =>
    have hw : offWidth (spc p) = 21 := by rw [e]; rfl
    cases hq : s.place (s.ctxOf c) (s.namedCluster c p).toNat with
    | none => simp [State.resolve_spx_absent e hf hq] at h
    | some q =>
      rw [State.resolve_spx e hf hq] at h
      cases h
      exact .of_local hf hw (by omega) (isGlobal_spdBase (State.place_lt hq) (low_lt hw)) (by omega)
  case inr.inr.inr.inl =>
    have hw : offWidth (spc p) = 18 := by rw [e]; rfl
    rw [State.resolve_tcm e hf] at h
    cases h
    exact .of_local hf hw (by omega) (isGlobal_tcmBase hc (low_lt hw)) fun _ => rfl
  case inr.inr.inr.inr.inl => exact State.resolved_core (.inl e) hf h
  case inr.inr.inr.inr.inr.inl =>
    by_cases hv : s.namedCluster c p < 0 ∨ s.namedCluster c p > 127
    · simp [State.resolve_outOfRange e hf hv] at h
    · exact State.resolved_core (.inr ⟨e, by omega, by omega⟩) hf h
  case inr.inr.inr.inr.inr.inr =>
    rcases Nat.lt_or_ge (fld p 0 (offWidth (spc p))) (s.winSize (s.ctxOf c) (s.vcl c / 32)) with hw | hw
    · rw [State.resolve_dsr e hf hw] at h
      cases h
      have hg : isGlobal (s.windowAt (s.ctxOf c) (s.vcl c / 32) + fld p 0 (offWidth (spc p))) = true := by
        rw [State.windowAt, Nat.add_assoc]; exact isGlobal_dsrBase _ _
      exact ⟨h7, hf, rfl, by rw [e]; rfl, by rw [e]; rfl, iff_of_true hg (.inr e), fun _ => rfl⟩
    · simp [State.resolve_beyondWindow e hf hw] at h

/-! The access of R114 -/

theorem State.access_error {al n e : Nat} (h : s.resolve c p = .error e) : s.access c p al n = .error e := by
  simp [State.access, h]

theorem State.access_misaligned {al n : Nat} (h : s.resolve c p = .ok a) (ha : a.off % al ≠ 0) : s.access c p al n = .error 79 := by
  simp [State.access, h, ha]

theorem State.access_aligned {al n : Nat} (h : s.resolve c p = .ok a) (ha : a.off % al = 0) : s.access c p al n = a.extent n := by
  simp [State.access, h, ha]

theorem Tgt.extent_beyond {n : Nat} (h : a.off + n > 2 ^ a.width) : a.extent n = .error 80 := if_pos h

theorem Tgt.extent_limit {n : Nat} (h : a.off + n ≤ 2 ^ a.width) (hl : a.off + n > a.limit) : a.extent n = .error 68 := by
  rw [Tgt.extent, if_neg (Nat.not_lt.2 h), if_pos hl]

theorem Tgt.extent_within {n : Nat} (h : a.off + n ≤ 2 ^ a.width) (hl : a.off + n ≤ a.limit) : a.extent n = .ok a := by
  rw [Tgt.extent, if_neg (Nat.not_lt.2 h), if_neg (Nat.not_lt.2 hl)]

theorem State.access_ok {al n : Nat} (h : s.access c p al n = .ok a) :
    s.resolve c p = .ok a ∧ a.off % al = 0 ∧ a.off + n ≤ 2 ^ a.width ∧ a.off + n ≤ a.limit := by
  cases hr : s.resolve c p with
  | error e => simp [State.access_error hr] at h
  | ok t =>
    by_cases ha : t.off % al = 0
    · rw [State.access_aligned hr ha] at h
      rcases Nat.lt_or_ge (2 ^ t.width) (t.off + n) with hb | hb
      · simp [Tgt.extent_beyond hb] at h
      · rcases Nat.lt_or_ge t.limit (t.off + n) with hl | hl
        · simp [Tgt.extent_limit hb hl] at h
        · rw [Tgt.extent_within hb hl] at h
          cases h
          exact ⟨rfl, ha, hb, hl⟩
    · simp [State.access_misaligned hr ha] at h

end

/-- Settles O28, one check of R40 and R114 after the other. -/
theorem pointerChecks : Obligations.PointerChecks := by
  intro s c p al n hc _ x v low fits vd
  have hi : fld p 18 3 < 8 := fld_lt p 18 3
  refine ⟨fun h => State.access_error (State.resolve_reserved h), fun h hf => State.access_error (State.resolve_unfit h hf),
    fun h hf hv => State.access_error (State.resolve_outOfRange h hf hv), fun h hf hq => State.access_error (State.resolve_spx_absent h hf hq),
    fun h hf hq => State.access_error (State.resolve_core_absent h hf (State.coreAt_none hi hq)),
    fun h hf hw => State.access_error (State.resolve_beyondWindow h hf hw), fun a ha => ?accepted, fun a ha => ?resolved,
    fun hf => ⟨fun h => State.resolve_glb h hf, fun h => State.resolve_spd h hf, fun h => State.resolve_tcm h hf, fun q h hq => State.resolve_spx h hf hq,
      fun q h hq hr => State.resolve_core h hf (State.coreAt_of_place hi hq hr)⟩⟩
  case accepted =>
    obtain ⟨hr, hal, hb, hl⟩ := State.access_ok ha
    have r := State.resolved hc hr
    exact ⟨r.unreserved, r.fits, r.off, hal, r.width ▸ hb, fun h => by simpa [r.limit, h] using hl, r.global_iff, r.near⟩
  case resolved =>
    have r := State.resolved hc ha
    have ho : a.off = low := r.off
    rw [← ho, ← r.width]
    refine ⟨rfl, rfl, State.access_misaligned ha, fun hal hb => ?_, fun hal hb hl => ⟨?_, ?_⟩, fun hal hb hl => ?_⟩
    · rw [State.access_aligned ha hal, Tgt.extent_beyond hb]
    · by_contra h6
      rw [r.limit, if_neg h6, ← r.width] at hl
      omega
    · rw [State.access_aligned ha hal, Tgt.extent_limit hb hl]
    · rw [State.access_aligned ha hal, Tgt.extent_within hb hl]

end Sys2Proof.Machine
end

section
/-! SUPPORT. The device right after reset (R3, R16, R353). -/

namespace Sys2Proof.Machine

theorem State.byteAt_reset (a : Nat) : State.reset.byteAt a = 0#8 := by
  simp [State.byteAt, State.reset, Tbl.get, Tbl.find, unlisted]

theorem State.poisonAt_reset (a : Nat) : State.reset.poisonAt a = false := by
  simp [State.poisonAt, State.reset, Tbl.get, Tbl.find]

theorem State.slot_reset (k : Nat) : State.reset.slot k = {} := rfl
theorem State.core_reset (c : Nat) : State.reset.core c = {} := rfl
theorem State.die_reset (d : Nat) : State.reset.die d = {} := rfl

/-- Mode F is the mode of the slots of core 7 of cluster (0, 0) of each die (R3, R6). -/
theorem modeF_iff (k : Nat) : modeF k = true ↔ k / 16 % 256 = 7 := by simp [modeF, isRing, coreOf]

/-- Settles O4: every unit that reset leaves unlisted reads as its default. -/
theorem resetState : Obligations.ResetState :=
  ⟨rfl, test_reset_memWf, rfl, fun k => by rw [State.slot_reset]; exact ⟨rfl, rfl⟩, fun a => ⟨State.byteAt_reset a, State.poisonAt_reset a⟩,
    fun c => by rw [State.core_reset]; exact ⟨rfl, rfl⟩, fun d => by rw [State.die_reset], modeF_iff⟩

end Sys2Proof.Machine
end

section
/-! SUPPORT. What the ends of chunks and the delivery of a fault leave as it was (R252, R316, R317). -/

namespace Sys2Proof.Machine

/-! What is read of only a part of the state -/

theorem SameMemory.of_eq {s t : State} (hm : t.mem = s.mem) (he : t.empty = s.empty) (hp : t.poison = s.poison) (hl : t.lines = s.lines) : SameMemory s t where
  bytes a := by simp only [State.byteAt, hm, hl]
  full a := by simp only [State.fullAt, he, hl]
  poison a := by simp only [State.poisonAt, hp, hl]

theorem State.owner_congr {s t : State} (h : t.ctxs = s.ctxs) (p : Nat) : t.owner p = s.owner p := by simp only [State.owner, h]
theorem State.ctxOf_congr {s t : State} (h : t.ctxs = s.ctxs) (c : Nat) : t.ctxOf c = s.ctxOf c := by simp only [State.ctxOf, State.owner_congr h]
theorem State.vcl_congr {s t : State} (h : t.ctxs = s.ctxs) (c : Nat) : t.vcl c = s.vcl c := by simp only [State.vcl, State.owner_congr h]
theorem State.tid_congr {s t : State} (h : t.ctxs = s.ctxs) (k : Nat) : t.tid k = s.tid k := by simp only [State.tid, State.vcl_congr h]

/-! The end of a chunk -/

/-- The end of a chunk touches slots, cores and the solo grant alone. -/
theorem State.chunkDone_eq (s : State) (k : Nat) : s.chunkDone k =
    { s with slots := (s.chunkDone k).slots, cores := (s.chunkDone k).cores, soloHolder := (s.chunkDone k).soloHolder } := by
  simp only [State.chunkDone, State.endSolo]
  split <;> split <;> rfl

section
variable (s : State) (k : Nat)

@[simp] theorem State.chunkDone_cur : (s.chunkDone k).cur = s.cur := (congrArg State.cur (s.chunkDone_eq k) :)
@[simp] theorem State.chunkDone_tick : (s.chunkDone k).tick = s.tick := (congrArg State.tick (s.chunkDone_eq k) :)
@[simp] theorem State.chunkDone_clusters : (s.chunkDone k).clusters = s.clusters := (congrArg State.clusters (s.chunkDone_eq k) :)
@[simp] theorem State.chunkDone_dies : (s.chunkDone k).dies = s.dies := (congrArg State.dies (s.chunkDone_eq k) :)
@[simp] theorem State.chunkDone_ctxs : (s.chunkDone k).ctxs = s.ctxs := (congrArg State.ctxs (s.chunkDone_eq k) :)
@[simp] theorem State.chunkDone_mem : (s.chunkDone k).mem = s.mem := (congrArg State.mem (s.chunkDone_eq k) :)
@[simp] theorem State.chunkDone_empty : (s.chunkDone k).empty = s.empty := (congrArg State.empty (s.chunkDone_eq k) :)
@[simp] theorem State.chunkDone_poison : (s.chunkDone k).poison = s.poison := (congrArg State.poison (s.chunkDone_eq k) :)
@[simp] theorem State.chunkDone_lines : (s.chunkDone k).lines = s.lines := (congrArg State.lines (s.chunkDone_eq k) :)
@[simp] theorem State.chunkDone_l1d : (s.chunkDone k).l1d = s.l1d := (congrArg State.l1d (s.chunkDone_eq k) :)
@[simp] theorem State.chunkDone_net : (s.chunkDone k).net = s.net := (congrArg State.net (s.chunkDone_eq k) :)
@[simp] theorem State.chunkDone_replay : (s.chunkDone k).replay = s.replay := (congrArg State.replay (s.chunkDone_eq k) :)
@[simp] theorem State.chunkDone_frFlight : (s.chunkDone k).frFlight = s.frFlight := (congrArg State.frFlight (s.chunkDone_eq k) :)
@[simp] theorem State.chunkDone_sec : (s.chunkDone k).sec = s.sec := (congrArg State.sec (s.chunkDone_eq k) :)
@[simp] theorem State.chunkDone_links : (s.chunkDone k).links = s.links := (congrArg State.links (s.chunkDone_eq k) :)

theorem State.slot_endSolo (j : Nat) :
    (s.endSolo k).slot j = if s.soloHolder = some k ∧ j = k then { s.slot k with solo := false } else s.slot j := by
  by_cases h : s.soloHolder = some k
  · have hs : (s.endSolo k).slot j = (s.modSlot k fun sl => { sl with solo := false }).slot j := by rw [State.endSolo, if_pos h]; rfl
    simp [hs, h]
  · simp [State.endSolo, h]

theorem State.core_endSolo (c : Nat) : (s.endSolo k).core c = s.core c := by
  rw [State.endSolo]
  split <;> rfl

/-- The slot whose chunk has ended keeps all but its chunk, its streak, its commit request and the solo grant (R253, R254). -/
theorem State.slot_chunkDone : (s.chunkDone k).slot k =
    { s.slot k with chunk := {}, streak := if (s.slot k).chunk.count = 0 then (s.slot k).streak else 0, commitReq := false
                    solo := if s.soloHolder = some k then false else (s.slot k).solo } := by
  rw [State.chunkDone, State.slot_endSolo]
  by_cases h : s.soloHolder = some k <;> by_cases hn : (s.slot k).chunk.count = 0 <;> simp [h, hn]

theorem State.slot_chunkDone_ne {j : Nat} (h : j ≠ k) : (s.chunkDone k).slot j = s.slot j := by
  rw [State.chunkDone, State.slot_endSolo, if_neg (fun hj => h hj.2)]
  split <;> simp [h]

/-- Of the cores the end of a chunk changes CMCNT alone. -/
theorem State.core_chunkDone (c : Nat) : ∃ n, (s.chunkDone k).core c = { s.core c with cmcnt := n } := by
  rw [State.chunkDone, State.core_endSolo]
  split
  · exact ⟨_, rfl⟩
  · simp only [State.core_modCore, State.core_modSlot]
    split
    · subst_vars; exact ⟨_, rfl⟩
    · exact ⟨_, rfl⟩

end
end Sys2Proof.Machine
end

section
/-! SUPPORT. How a fault is taken when it is not taken in the slot (R315, R317). -/

namespace Sys2Proof.Machine

/-- The slot that has taken a fault outside the slot. -/
abbrev Slot.stopped (sl : Slot) : Slot := { sl with st := .faulted, wait := .none, pend := none, latch := {} }

@[simp] theorem State.slot_record (s : State) (d : Nat) (r : FRec) (j : Nat) : (s.record d r).slot j = s.slot j := rfl
@[simp] theorem State.slot_dropKept (s : State) (k j : Nat) : (s.dropKept k).slot j = s.slot j := rfl
@[simp] theorem State.slot_failDevice (s : State) (c j : Nat) : (s.failDevice c).slot j = s.slot j := rfl

/-- The delivery of a fault touches slots, the kept bank, fault records, the completions of the step, the controller and the links alone. -/
theorem State.deliver_eq (s : State) (k c : Nat) (v : W) (src : Nat) : s.deliver k c v src =
    { s with slots := (s.deliver k c v src).slots, clusters := (s.deliver k c v src).clusters, frFlight := (s.deliver k c v src).frFlight
             replay := (s.deliver k c v src).replay, sec := (s.deliver k c v src).sec, links := (s.deliver k c v src).links } := by
  simp only [State.deliver]
  split_ifs <;> rfl

theorem State.sameMemory_deliver (s : State) (k c : Nat) (v : W) (src : Nat) : SameMemory s (s.deliver k c v src) :=
  .of_eq (congrArg State.mem (s.deliver_eq k c v src) :) (congrArg State.empty (s.deliver_eq k c v src) :)
    (congrArg State.poison (s.deliver_eq k c v src) :) (congrArg State.lines (s.deliver_eq k c v src) :)

theorem State.deliver_cur (s : State) (k c : Nat) (v : W) (src : Nat) : (s.deliver k c v src).cur = s.cur :=
  (congrArg State.cur (s.deliver_eq k c v src) :)

theorem State.sameMemory_chunkDone (s : State) (k : Nat) : SameMemory s (s.chunkDone k) := .of_eq (by simp) (by simp) (by simp) (by simp)

theorem SameMemory.trans {s t u : State} (h : SameMemory s t) (g : SameMemory t u) : SameMemory s u where
  bytes a := (g.bytes a).trans (h.bytes a)
  full a := (g.full a).trans (h.full a)
  poison a := (g.poison a).trans (h.poison a)

section
variable {s : State} {k c : Nat} {v : W} {src : Nat}

/-- In mode U the slot is FAULTED, and a record goes to the ringmaster of its die (R317, R319). -/
theorem State.deliver_record (hU : modeF k = false) (h : (s.slot k).tstat.getLsbD 0 = false ∨ inSlotCause c = false) :
    s.deliver k c v src = ((({ s with replay := s.replay.filter (· ≠ k) } : State).modSlot k fun sl => { sl.stopped with commitReq := false }).dropKept k).record
      (dieOf k) ⟨recWord0 src ((s.slot k).tstat.getLsbD 1) true c (s.tid k) (s.ctxOf (coreOf k)), v, nat ((s.slot k).pc.toNat % 65536), nat k⟩ := by
  have hs : ((s.slot k).tstat.getLsbD 0 && inSlotCause c) = false := Bool.and_eq_false_iff.2 h
  simp only [State.deliver, hU, hs, Bool.false_eq_true, if_false]
  rfl

/-- In mode F the device fails with cause 378 (R317, R356). -/
theorem State.deliver_fails (hF : modeF k = true) (h : (s.slot k).tstat.getLsbD 0 = false ∨ c = 132) :
    s.deliver k c v src = (({ s with replay := s.replay.filter (· ≠ k) } : State).modSlot k Slot.stopped).failDevice 378 := by
  have hs : ((s.slot k).tstat.getLsbD 0 && decide (c ≠ 132)) = false := Bool.and_eq_false_iff.2 (h.imp_right fun h => by simp [h])
  simp only [State.deliver, hF, if_true, hs, Bool.false_eq_true, if_false]

theorem State.slot_deliver_record (hU : modeF k = false) (h : (s.slot k).tstat.getLsbD 0 = false ∨ inSlotCause c = false) :
    (s.deliver k c v src).slot k = { (s.slot k).stopped with commitReq := false } := by
  rw [State.deliver_record hU h, State.slot_record, State.slot_dropKept, State.slot_modSlot, if_pos rfl]
  rfl

theorem State.slot_deliver_fails (hF : modeF k = true) (h : (s.slot k).tstat.getLsbD 0 = false ∨ c = 132) :
    (s.deliver k c v src).slot k = (s.slot k).stopped := by
  rw [State.deliver_fails hF h, State.slot_failDevice, State.slot_modSlot, if_pos rfl]
  rfl

/-! A fault of an instruction that has nothing to give back -/

theorem State.unpop_of_empty (h : (s.slot k).latch.empty) : s.unpop k = s := by
  obtain ⟨htook, hmails, hends, hundo⟩ := h
  simp only [State.unpop, htook, hmails, hends, hundo]
  split <;> rfl

theorem State.raise_delivers (h : s.me.latch.empty) (hg : s.me.chunk.global = false) : s.raise c v = (s.chunkDone s.cur).deliver s.cur c v 0 := by
  have hu : s.unpop s.cur = s := State.unpop_of_empty h
  have hc : (s.slot s.cur).chunk.global = false := hg
  simp only [State.raise, State.raiseAt, hu, hc, Bool.false_eq_true, if_false]

/-- With global state in its chunk the slot waits for the commit first (R315). -/
theorem State.raise_waits (h : s.me.latch.empty) (hg : s.me.chunk.global = true) :
    s.raise c v = s.upd fun sl => { sl with st := .parkMem, wait := .commitFault c v 0, latch := {}, commitReq := false } := by
  have hu : s.unpop s.cur = s := State.unpop_of_empty h
  have hc : (s.slot s.cur).chunk.global = true := hg
  simp only [State.raise, State.raiseAt, hu, hc, if_true, State.upd]

end

theorem State.sameMemory_raise {s : State} {c : Nat} {v : W} (hl : s.me.latch.empty) (hg : s.me.chunk.global = false) : SameMemory s (s.raise c v) := by
  rw [State.raise_delivers hl hg]
  exact (s.sameMemory_chunkDone s.cur).trans (State.sameMemory_deliver ..)

theorem State.raise_me {s : State} {c : Nat} {v : W} (hl : s.me.latch.empty) (hg : s.me.chunk.global = false) :
    (s.raise c v).me = ((s.chunkDone s.cur).deliver s.cur c v 0).slot s.cur := by
  rw [State.raise_delivers hl hg, State.me, State.deliver_cur, State.chunkDone_cur]

theorem faultedRecord : Rules.FaultedRecord := by
  rintro s t c v hl hg hU h rfl
  have hsl := s.slot_chunkDone s.cur
  have hs : ((s.chunkDone s.cur).slot s.cur).tstat.getLsbD 0 = false ∨ inSlotCause c = false := by rw [hsl]; exact h
  have hme := State.raise_me (c := c) (v := v) hl hg
  rw [State.slot_deliver_record hU hs, hsl] at hme
  have hfr : (s.raise c v).frFlight = s.frFlight ++ [(dieOf s.cur, ⟨recWord0 0 (s.me.tstat.getLsbD 1) true c (s.tid s.cur) (s.ctxOf s.myCore), v,
      nat (s.me.pc.toNat % 65536), nat s.cur⟩)] := by
    rw [State.raise_delivers hl hg, State.deliver_record hU hs, hsl, State.tid_congr (s.chunkDone_ctxs s.cur), State.ctxOf_congr (s.chunkDone_ctxs s.cur)]
    exact congrArg (· ++ _) (s.chunkDone_frFlight s.cur)
  rw [hme]
  exact ⟨rfl, rfl, rfl, rfl, rfl, rfl, rfl, rfl, rfl, rfl, State.sameMemory_raise hl hg, hfr⟩

theorem doubleFault : Rules.DoubleFault := by
  rintro s t c v hl hg hF h rfl
  have hsl := s.slot_chunkDone s.cur
  have hs : ((s.chunkDone s.cur).slot s.cur).tstat.getLsbD 0 = false ∨ c = 132 := by rw [hsl]; exact h
  have hme := State.raise_me (c := c) (v := v) hl hg
  rw [State.slot_deliver_fails hF hs, hsl] at hme
  have hd : s.raise c v = _ := (State.raise_delivers hl hg).trans (State.deliver_fails hF hs)
  refine ⟨?_, ?_, ?_, ?_, ?_, ?_, State.sameMemory_raise hl hg⟩
  · rw [hd]; rfl
  · rw [hd]; rfl
  · rw [hme]
  · rw [hme]; rfl
  · rw [hd]; exact s.chunkDone_frFlight s.cur
  · rw [hd]; exact congrArg (fun l : Links => l.msix ++ [(64, 0)]) (s.chunkDone_links s.cur)

theorem faultAfterCommit : Rules.FaultAfterCommit := by
  rintro s t c v hl hg rfl
  rw [State.raise_waits hl hg]
  refine ⟨by simp, by simp, by simp, by simp, fun k hk => by simp [State.slot_upd, hk], .of_eq rfl rfl rfl rfl, ⟨rfl, rfl, rfl, rfl, rfl, rfl, rfl, rfl⟩⟩

end Sys2Proof.Machine
end

section
/-! SUPPORT. Steps that touch nothing but slots, and what a change of a queue leaves of its items (R281). -/

namespace Sys2Proof

theorem Tbl.mem_put {α : Type} {t : Tbl α} {k : Nat} {v : α} {e : Nat × α} (h : e ∈ Tbl.put t k v) : e = (k, v) ∨ e ∈ t := by
  induction t with
  | nil => simpa [Tbl.put] using h
  | cons p r ih =>
    obtain ⟨i, w⟩ := p
    simp only [Tbl.put] at h
    split at h
    · simp only [List.mem_cons] at h ⊢
      exact h.imp_right .inr
    · split at h
      · simpa only [List.mem_cons] using h
      · simp only [List.mem_cons] at h ⊢
        rcases h with h | h
        · exact .inr (.inl h)
        · exact (ih h).imp_right .inr

/-- A table whose keys rise reads at each listed key what is listed there. -/
theorem Tbl.get_of_mem {α : Type} {d : α} {t : Tbl α} (ht : (t.map (·.1)).Pairwise (· < ·)) {k : Nat} {v : α} (h : (k, v) ∈ t) : Tbl.get d t k = v := by
  induction t with
  | nil => cases h
  | cons p r ih =>
    obtain ⟨i, w⟩ := p
    simp only [List.map_cons, List.pairwise_cons] at ht
    obtain ⟨hlt, hr⟩ := ht
    simp only [Tbl.get]
    rcases List.mem_cons.1 h with h | h
    · cases h
      rw [if_pos rfl]
    · have hik : i < k := hlt k (List.mem_map_of_mem h)
      rw [if_neg (by omega), if_neg (by omega), ih hr h]

end Sys2Proof

namespace Sys2Proof.Machine

/-- t differs from s in its slots alone. -/
def SlotsOnly (s t : State) : Prop := t = { s with slots := t.slots }

theorem SlotsOnly.refl (s : State) : SlotsOnly s s := rfl

theorem SlotsOnly.trans {s t u : State} (h : SlotsOnly s t) (g : SlotsOnly t u) : SlotsOnly s u := by
  rw [SlotsOnly, g, h]

theorem SlotsOnly.clusters {s t : State} (h : SlotsOnly s t) : t.clusters = s.clusters := (congrArg State.clusters h :)
theorem SlotsOnly.cores {s t : State} (h : SlotsOnly s t) : t.cores = s.cores := (congrArg State.cores h :)

theorem slotsOnly_modSlot (s : State) (k : Nat) (f : Slot → Slot) : SlotsOnly s (s.modSlot k f) := rfl

theorem slotsOnly_foldl {α : Type} {f : State → α → State} (hf : ∀ t e, SlotsOnly t (f t e)) (l : List α) (s : State) : SlotsOnly s (l.foldl f s) :=
  foldl_keeps (P := SlotsOnly s) (fun t e h => h.trans (hf t e)) l s (.refl s)

theorem slotsOnly_wakeAll (s : State) (f : Nat → Slot → Bool) : SlotsOnly s (s.wakeAll f) :=
  slotsOnly_foldl (fun t e => by dsimp only; split <;> rfl) _ s

theorem slotsOnly_noteMoved (s : State) (f : Nat → Slot → Bool) : SlotsOnly s (s.noteMoved f) :=
  slotsOnly_foldl (fun t e => by dsimp only; split <;> rfl) _ s

/-! Queues -/

theorem State.queue_congr {s t : State} (h : t.clusters = s.clusters) (q : Nat) : t.queue q = s.queue q := by simp only [State.queue, State.clu, h]

theorem State.place_congr {s t : State} (h : t.ctxs = s.ctxs) (x v : Nat) : t.place x v = s.place x v := by
  rw [State.place, State.place, State.ctx, State.ctx, h]

theorem State.homeCore_congr {s t : State} (h : t.ctxs = s.ctxs) (x : Nat) (w : W) : t.homeCore x w = s.homeCore x w := by
  rw [State.homeCore, State.homeCore, State.coreAt, State.coreAt, State.place_congr h]

theorem State.handle_congr {s t : State} (h : t.ctxs = s.ctxs) (hc : t.clusters = s.clusters) (q : Nat) : t.handle q = s.handle q := by
  rw [State.handle, State.handle, State.queue_congr hc, State.owner_congr h]

theorem State.findQueue_congr {s t : State} (h : t.ctxs = s.ctxs) (hc : t.clusters = s.clusters) (x : Nat) (w : W) : t.findQueue x w = s.findQueue x w := by
  rw [State.findQueue, State.findQueue, State.homeCore_congr h]
  cases s.homeCore x w with
  | none => rfl
  | some c =>
    dsimp only
    rw [State.queue_congr hc, State.handle_congr h hc]

@[simp] theorem State.queue_modQueue (s : State) (q : Nat) (f : Queue → Queue) : (s.modQueue q f).queue q = f (s.queue q) := by
  rw [State.queue, State.modQueue, State.clu_modClu, if_pos rfl, Tbl.get_put, if_pos rfl]

theorem State.queue_dropKept (s : State) (k q : Nat) : (s.dropKept k).queue q = s.queue q := by
  simp only [State.queue, State.dropKept, State.clu_modClu]
  split
  · next h => rw [h]
  · rfl

/-- Of the clusters the delivery of a fault touches the kept bank alone (R196). -/
theorem State.deliver_clusters (s : State) (k c : Nat) (v : W) (src : Nat) :
    (s.deliver k c v src).clusters = s.clusters ∨ (s.deliver k c v src).clusters = (s.dropKept k).clusters := by
  simp only [State.deliver]
  split_ifs
  exacts [.inl rfl, .inl rfl, .inl rfl, .inr rfl]

theorem State.queue_deliver (s : State) (k c : Nat) (v : W) (src q : Nat) : (s.deliver k c v src).queue q = s.queue q := by
  rcases s.deliver_clusters k c v src with h | h
  · exact State.queue_congr h q
  · exact (State.queue_congr h q).trans (s.queue_dropKept k q)

/-- An MSI-X vector of a window changes the links' list of vectors alone. -/
theorem State.qIrq_eq (s : State) (q : Nat) : s.qIrq q = { s with links := { s.links with msix := (s.qIrq q).links.msix } } := by
  simp only [State.qIrq]
  split <;> rfl

theorem State.queue_qIrq (s : State) (q j : Nat) : (s.qIrq q).queue j = s.queue j :=
  State.queue_congr (congrArg State.clusters (s.qIrq_eq q) :) j

/-- The items of a queue that stand given back, and those that are held, are as they were. -/
def SameItems (r r' : Queue) : Prop := r'.back = r.back ∧ r'.held = r.held

theorem SameItems.trans {a b c : Queue} (h : SameItems a b) (g : SameItems b c) : SameItems a c := ⟨g.1.trans h.1, g.2.trans h.2⟩

theorem State.qHost_of_nil {s : State} (h : s.links.hostq = []) (q : Nat) : s.qHost q = s := by simp [State.qHost, h]

theorem State.sameItems_qEnd {s : State} {q : Nat} (hc : (s.queue q).cons = []) : SameItems (s.queue q) ((s.qEnd q).queue q) := by
  simp only [State.qEnd, hc, List.foldl_nil]
  split
  · rw [State.queue_modQueue]; exact ⟨rfl, rfl⟩
  · exact ⟨rfl, rfl⟩

theorem State.sameItems_qNote (s : State) (q : Nat) : SameItems (s.queue q) ((s.qNote q).queue q) := by
  simp only [State.qNote]
  split
  · exact ⟨rfl, rfl⟩
  · rw [State.queue_modQueue]; exact ⟨rfl, rfl⟩

theorem slotsOnly_qWakeMulti (s : State) (q : Nat) : SlotsOnly s (s.qWakeMulti q) := by
  rw [State.qWakeMulti]
  exact (slotsOnly_wakeAll ..).trans (slotsOnly_noteMoved ..)

/-- A change of a queue without waiting consumers, producers and host accesses serves nobody: its items stay (R281). -/
theorem State.sameItems_qChanged {s : State} {q : Nat} (hh : s.links.hostq = []) (hc : (s.queue q).cons = []) (hp : (s.queue q).prod = []) :
    SameItems (s.queue q) ((s.qChanged q).queue q) := by
  have hq : s.qChanged q = ((s.qEnd q).qNote q).qWakeMulti q := by
    simp only [State.qChanged, State.qHost_of_nil hh, ite_self, hp, List.length_nil, State.qAdmit]
  rw [hq, State.queue_congr (slotsOnly_qWakeMulti _ q).clusters]
  exact (State.sameItems_qEnd hc).trans (State.sameItems_qNote _ q)

theorem mem_insertBack (j : Nat) (i : Item) (l : List (Nat × Item)) : (j, i) ∈ insertBack j i l := by
  induction l with
  | nil => simp [insertBack]
  | cons e r ih =>
    obtain ⟨j', i'⟩ := e
    simp only [insertBack]
    split
    · exact List.mem_cons_self
    · exact List.mem_cons_of_mem _ ih

/-! An item comes back to a queue that nobody waits at (R13, R106) -/

section
variable {s : State} {q : Nat} (hh : s.links.hostq = []) (hc : (s.queue q).cons = []) (hp : (s.queue q).prod = []) (k j : Nat) (i : Item)
include hh hc hp

theorem State.mem_held_qBack (e : Nat) : ({ k := k, e := e, seq := j, it := i } : QHold) ∈ ((s.qBack q k j i (some e)).queue q).held := by
  have h := State.sameItems_qChanged (q := q) (s := s.modQueue q fun r => { r with held := r.held ++ [{ k := k, e := e, seq := j, it := i }] }) hh
    (by simpa using hc) (by simpa using hp)
  simp only [State.qBack]
  rw [h.2, State.queue_modQueue]
  exact List.mem_append_right _ List.mem_cons_self

theorem State.mem_back_qBack : (j, i) ∈ ((s.qBack q k j i none).queue q).back := by
  set u := s.modQueue q fun r => { r with back := insertBack j i r.back } with hu
  have hb : (j, i) ∈ (u.queue q).back := by rw [hu, State.queue_modQueue]; exact mem_insertBack j i _
  have huc : (u.queue q).cons = [] := by rw [hu, State.queue_modQueue]; exact hc
  have hup : (u.queue q).prod = [] := by rw [hu, State.queue_modQueue]; exact hp
  have hr : s.qBack q k j i none = (if (s.queue q).isEmpty then u.qIrq q else u).qChanged q := by simp [State.qBack, hc, hu]
  rw [hr]
  split
  · have hi : (u.qIrq q).links.hostq = [] := (congrArg (·.links.hostq) (u.qIrq_eq q)).trans hh
    rw [(State.sameItems_qChanged hi (by rwa [State.queue_qIrq]) (by rwa [State.queue_qIrq])).1, State.queue_qIrq]
    exact hb
  · rw [(State.sameItems_qChanged (s := u) hh huc hup).1]
    exact hb

end

theorem State.core_congr {s t : State} (h : t.cores = s.cores) (c : Nat) : t.core c = s.core c := by simp only [State.core, h]

theorem State.deliver_cores (s : State) (k c : Nat) (v : W) (src : Nat) : (s.deliver k c v src).cores = s.cores :=
  (congrArg State.cores (s.deliver_eq k c v src) :)

/-! The mailbox (R237, R272) -/

/-- No slot waits for anything. -/
def State.Idle (s : State) : Prop := ∀ k sl, (k, sl) ∈ s.slots → sl.wait = .none

theorem State.idle_of_reads {s : State} (hs : (s.slots.map (·.1)).Pairwise (· < ·)) (h : ∀ k, (s.slot k).wait = .none) : s.Idle := fun k sl hm => by
  have := h k
  rwa [State.slot, Tbl.get_of_mem hs hm] at this

theorem State.Idle.modSlot {s : State} (h : s.Idle) {k : Nat} {f : Slot → Slot} (hf : (f (s.slot k)).wait = .none) : (s.modSlot k f).Idle := fun j sl hm => by
  rcases Tbl.mem_put hm with e | e
  · cases e; exact hf
  · exact h j sl e

theorem State.mailWaiters_of_idle {s : State} (h : s.Idle) (c : Nat) (m : Mail) : s.mailWaiters c m = [] := by
  rw [State.mailWaiters, List.filterMap_eq_nil_iff.2]
  · rfl
  · rintro ⟨k, sl⟩ hm
    simp only [h k sl hm]

theorem slotsOnly_mailTell {s : State} (h : s.Idle) (c : Nat) (m : Mail) : SlotsOnly s (s.mailTell c m) := by
  simp only [State.mailTell, State.mailWaiters_of_idle h, State.mailOffer]
  exact (slotsOnly_noteMoved ..).trans (slotsOnly_wakeAll ..)

/-- A message that comes back while nobody waits stands in the mailbox again (R13). -/
theorem State.mem_mailBack {s : State} (h : s.Idle) (c : Nat) (m : Mail) : m ∈ ((s.mailBack c m).core c).mail := by
  have hi : (s.modCore c fun co => { co with mail := co.mail.takeWhile (·.seq < m.seq) ++ m :: co.mail.dropWhile (·.seq < m.seq) }).Idle := h
  rw [State.mailBack, State.core_congr (slotsOnly_mailTell hi c m).cores, State.core_modCore, if_pos rfl]
  simp

/-! What a fault gives back -/

/-- The slot has nothing more to give back. -/
abbrev Slot.cleared (sl : Slot) : Slot := { sl with latch := { sl.latch with took := [], mails := [], ends := [], undo := [] } }

section
variable {s : State} {k : Nat}

theorem State.unpop_took {t : Took} (he : (s.slot k).latch.ends = []) (hu : (s.slot k).latch.undo = []) (hm : (s.slot k).latch.mails = [])
    (ht : (s.slot k).latch.took = [t]) : s.unpop k = (s.modSlot k Slot.cleared).giveBack k t := by
  simp only [State.unpop, State.undone, he, hu, hm, ht]
  split <;> rfl

theorem State.unpop_mail {m : Mail} (he : (s.slot k).latch.ends = []) (hu : (s.slot k).latch.undo = []) (hm : (s.slot k).latch.mails = [m])
    (ht : (s.slot k).latch.took = []) : s.unpop k = (s.modSlot k Slot.cleared).mailBack (coreOf k) m := by
  simp only [State.unpop, State.undone, he, hu, hm, ht]
  split <;> rfl

theorem State.giveBack_near {t : Took} {q : Nat} (hc : s.homeCore (s.ctxOf (coreOf k)) t.h = some (coreOf k))
    (hq : s.findQueue (s.ctxOf (coreOf k)) t.h = some q) : s.giveBack k t = s.qBack q k t.seq t.it t.was := by
  simp only [State.giveBack, hc, if_true, hq]

/-- Beyond what it gives back, a fault leaves queues and mailboxes as they are. -/
theorem State.queue_raiseAt (s : State) (k c : Nat) (v : W) (src q : Nat) : (s.raiseAt k c v src).queue q = (s.unpop k).queue q := by
  simp only [State.raiseAt]
  split
  · rfl
  · rw [State.queue_deliver]
    exact State.queue_congr (State.chunkDone_clusters ..) q

theorem State.mail_raiseAt (s : State) (k c : Nat) (v : W) (src j : Nat) : ((s.raiseAt k c v src).core j).mail = ((s.unpop k).core j).mail := by
  simp only [State.raiseAt]
  split
  · rfl
  · obtain ⟨n, hn⟩ := (s.unpop k).core_chunkDone k j
    rw [State.core_congr (State.deliver_cores ..), hn]

end

theorem faultGivesBack : Rules.FaultGivesBack := by
  intro s c v _ he hu hh
  refine ⟨fun h j i q w ht hm hc hq hcons hprod => ?_, fun m ht hm hs hw => ?_⟩
  · set u := s.modSlot s.cur Slot.cleared with hu'
    have hx : u.ctxOf (coreOf s.cur) = s.ctxOf s.myCore := State.ctxOf_congr rfl _
    have hcu : u.homeCore (u.ctxOf (coreOf s.cur)) h = some (coreOf s.cur) := by rw [hx, State.homeCore_congr (s := s) (t := u) rfl]; exact hc
    have hqu : u.findQueue (u.ctxOf (coreOf s.cur)) h = some q := by rw [hx, State.findQueue_congr (s := s) (t := u) rfl rfl]; exact hq
    have huq : u.queue q = s.queue q := State.queue_congr rfl q
    rw [State.raise, State.queue_raiseAt, State.unpop_took he hu hm ht, ← hu', State.giveBack_near (t := ⟨h, j, i, w⟩) hcu hqu]
    rw [← huq] at hcons hprod
    refine ⟨fun hw => ?_, fun e hw => ?_⟩
    · rw [hw]; exact State.mem_back_qBack (s := u) hh hcons hprod s.cur j i
    · rw [hw]; exact State.mem_held_qBack (s := u) hh hcons hprod s.cur j i e
  · have hi : (s.modSlot s.cur Slot.cleared).Idle := (State.idle_of_reads hs hw).modSlot (hw s.cur)
    rw [State.raise, State.mail_raiseAt, State.unpop_mail he hu hm ht]
    exact State.mem_mailBack hi _ m

/-- Settles O15: the delivery outside the slot, and the items and messages that come back first. -/
theorem faultDelivery : Obligations.FaultDelivery := ⟨faultedRecord, doubleFault, faultAfterCommit, faultGivesBack⟩

end Sys2Proof.Machine
end

section
/-! SUPPORT. Operands: every form of `Operands` lets the instruction act on its values (R26, R91). -/

namespace Sys2Proof

theorem Tbl.put_put {α : Type} (t : Tbl α) (k : Nat) (v w : α) : (t.put k v).put k w = t.put k w := by
  induction t with
  | nil => simp [Tbl.put]
  | cons e r ih =>
    obtain ⟨i, u⟩ := e
    rcases Nat.lt_trichotomy k i with h | h | h
    · simp [Tbl.put, h, Nat.ne_of_lt h]
    · simp [Tbl.put, h]
    · simp [Tbl.put, Nat.not_lt.2 h.le, Nat.ne_of_gt h, ih]

end Sys2Proof

namespace Sys2Proof.Machine

/-! The fields that an instruction pops -/

/-- The source fields that name a queue end or mb. -/
abbrev popsOf (srcs : List R6) : List R6 := srcs.filter fun r => isQ r || isMb r

theorem isMb_of_isQ {r : R6} (h : isQ r = true) : isMb r = false := by
  simp only [isQ, isMb, Bool.and_eq_true, decide_eq_true_eq, beq_eq_false_iff_ne] at *; omega

theorem popsOf_of_plain {srcs : List R6} (h : srcs.all plainR = true) : popsOf srcs = [] := by
  rw [List.filter_eq_nil_iff]
  intro r hr
  have := List.all_eq_true.1 h r hr
  simpa [plainR] using this

theorem filter_isQ_of_plain {dst : Option R6} (h : dst.all plainR = true) : dst.filter isQ = none := by
  cases dst with
  | none => rfl
  | some d =>
    have hd : isQ d = false := by
      simp [plainR] at h
      exact h.1
    simp [Option.filter, hd]

theorem isMb_of_plain {dst : Option R6} (h : dst.all plainR = true) : dst.toList.any isMb = false := by
  cases dst with
  | none => rfl
  | some d =>
    simp [plainR] at h
    simp [h.2]

theorem filter_isQ_ends (srcs : List R6) (dst : Option R6) :
    (popsOf srcs ++ dst.toList).filter isQ = (popsOf srcs).filter isQ ++ (dst.filter isQ).toList := by
  rw [List.filter_append]
  congr 1
  cases dst with
  | none => rfl
  | some d => cases h : isQ d <;> simp [Option.filter, h]

/-- One queue end, or mb alone, is no case of R91. -/
theorem twoEnds_of_one {srcs : List R6} {dst : Option R6} (h : ((popsOf srcs ++ dst.toList).filter isQ).length ≤ 1)
    (hm : (popsOf srcs ++ dst.toList).any isMb = false ∨ (popsOf srcs ++ dst.toList).filter isQ = []) : twoEnds srcs dst = false := by
  have h2 : ¬ 2 ≤ ((popsOf srcs ++ dst.toList).filter isQ).length := by omega
  rcases hm with hm | hm
  · simp only [twoEnds, hm, Bool.false_and, Bool.or_false, ge_iff_le, h2, decide_false]
  · simp only [twoEnds, hm]; simp

theorem twoEnds_of_source {srcs : List R6} {dst : Option R6} {r : R6} (hp : popsOf srcs = [r]) (hr : isQ r = true) (hd : dst.all plainR = true) :
    twoEnds srcs dst = false := by
  have hq : (popsOf srcs ++ dst.toList).filter isQ = [r] := by
    rw [filter_isQ_ends, filter_isQ_of_plain hd, hp]
    simp [hr]
  refine twoEnds_of_one (by simp [hq]) (.inl ?_)
  rw [hp, List.any_append, isMb_of_plain hd]
  simp [isMb_of_isQ hr]

theorem twoEnds_of_dest {srcs : List R6} {d : R6} (hs : srcs.all plainR = true) (hd : isQ d = true) : twoEnds srcs (some d) = false := by
  refine twoEnds_of_one ?_ (.inl ?_) <;> rw [popsOf_of_plain hs]
  · simp [hd]
  · simp [isMb_of_isQ hd]

theorem filter_isQ_of_mail {srcs : List R6} (h : srcs.all (!isQ ·) = true) : (popsOf srcs).filter isQ = [] := by
  rw [List.filter_eq_nil_iff]
  intro r hr
  simpa using List.all_eq_true.1 h r (List.mem_of_mem_filter hr)

theorem twoEnds_of_mail {srcs : List R6} {dst : Option R6} (h : srcs.all (!isQ ·) = true) (hd : dst.all plainR = true) : twoEnds srcs dst = false := by
  have hq : (popsOf srcs ++ dst.toList).filter isQ = [] := by
    rw [filter_isQ_ends, filter_isQ_of_plain hd, filter_isQ_of_mail h]
    rfl
  exact twoEnds_of_one (by simp [hq]) (.inr hq)

theorem ends_of_twoEnds {srcs : List R6} {dst : Option R6} (h : twoEnds srcs dst = true) : (popsOf srcs ++ dst.toList).filter isQ ≠ [] := fun hq => by
  simp [twoEnds_of_one (by simp [hq]) (.inr hq)] at h

/-! The parts of `withOps` -/

/-- What an instruction that pops, or pushes its result, does once its chunk has ended and its release has nothing to wait for. -/
def State.takeOps (s : State) (srcs : List R6) (dst : Option R6) (body : List W → State → State) : State :=
  if twoEnds srcs dst then s.multiEnd srcs dst body
  else match popsOf srcs with
  | [] => body (srcs.map s.rd) (s.hold (srcs.map s.rd))
  | r :: _ =>
    if isMb r then s.mailEnd srcs (popsOf srcs).length body
    else if s.endLocal r then
      match s.endQueue r with
      | none => s
      | some q => match s.stampMe.qPop q s.cur (qIx r) false with
        | (.item v, t) => t.opened (fillIn (s.peek srcs) [asW v]) 1 (tookOf (t.handle q) v) [] body
        | (_, t) => t.waitEnd r fun _ => { partials := s.peek srcs }
    else (s.toHome r fun h => .qpop s.cur (qIx r) h false).waitEnd r fun _ => { partials := s.peek srcs }

section
variable {s : State} {len : Nat} {srcs : List R6} {dst : Option R6} {irr : Bool} {rel : Option Nat} {body : List W → State → State}

theorem State.afterCommit_done (h : s.me.chunk.global = false) (f : State → State) : s.afterCommit f = f (s.chunkDone s.cur) := by
  simp [State.afterCommit, h]

theorem State.afterAcks_done {n : Nat} (h : s.relDone (some n)) (f : State → State) : s.afterAcks n f = f s := by
  have h' : released s.me (s.vcl s.myCore) n = true := h
  simp [State.afterAcks, h']

theorem State.relScope_of_plain (hd : dst.all plainR = true) : s.relScope dst rel = rel := by
  rw [State.relScope, filter_isQ_of_plain hd]
  cases rel <;> rfl

theorem State.endsOk_of_plain (hd : dst.all plainR = true) (h : ∀ r ∈ popsOf srcs, isQ r = true → s.endCheck 1 r = none) : s.endsOk srcs dst := by
  refine ⟨fun r hr hq => h r (List.mem_filter.2 ⟨hr, by simp [hq]⟩) hq, fun d he hq => ?_⟩
  have hn := filter_isQ_of_plain hd
  rw [he, Option.filter_some_pos hq] at hn
  cases hn

/-- The operands were read before the instruction parked. -/
theorem State.withOps_held {vs : List W} (h2 : s.me.latch.stage ≠ 2) (h6 : s.me.latch.stage ≠ 6) (hv : s.me.latch.vals = some vs) :
    s.withOps len srcs dst irr rel body = s.kept dst (body vs s) := by
  simp only [State.withOps, h2, h6, hv, if_false]

/-- Only registers are named, and the instruction stays in its chunk. -/
theorem State.withOps_inChunk (hl : s.me.latch = {}) (hs : srcs.all plainR = true) (hd : dst.all plainR = true) (hi : (irr || dst.any isG) = false) :
    s.withOps len srcs dst irr rel body = (s.hold (srcs.map s.rd)).kept dst (body (srcs.map s.rd) (s.hold (srcs.map s.rd))) := by
  have hp := popsOf_of_plain hs
  have hq := filter_isQ_ends srcs dst
  rw [hp, filter_isQ_of_plain hd] at hq
  simp only [State.withOps, hl, hp, hq]
  simp [hi]

/-- Only registers are named, and the instruction's chunk has ended. -/
theorem State.withOps_apart (hl : s.me.latch = {}) (hs : srcs.all plainR = true) (hd : dst.all plainR = true) (hi : (irr || dst.any isG) = true)
    (hg : s.me.chunk.global = false) {t : State} (ht : t = s.chunkDone s.cur) (hr : t.relDone rel) :
    s.withOps len srcs dst irr rel body = (t.hold (srcs.map t.rd)).kept dst (body (srcs.map t.rd) (t.hold (srcs.map t.rd))) := by
  have hp := popsOf_of_plain hs
  have hq := filter_isQ_ends srcs dst
  rw [hp, filter_isQ_of_plain hd] at hq
  simp only [State.withOps, hl, hp, hq, filter_isQ_of_plain hd]
  rw [if_neg (by decide), if_neg (by decide)]
  simp only [List.filter_nil, List.nil_append, Option.toList_none, List.length_nil, hi, if_true]
  rw [State.afterCommit_done hg, ← ht]
  cases rel with
  | none => rfl
  | some n => exact State.afterAcks_done hr _

/-- An end is named, and the instruction's chunk has ended. -/
theorem State.withOps_ends (hl : s.me.latch = {}) (hn : (popsOf srcs ++ dst.toList).filter isQ ≠ [] ∨ popsOf srcs ≠ []) (ok : s.endsOk srcs dst)
    (hg : s.me.chunk.global = false) {t : State} (ht : t = s.chunkDone s.cur) (hr : t.relDone (t.relScope dst rel)) :
    s.withOps len srcs dst irr rel body = t.takeOps srcs dst fun vs u => u.kept dst (body vs u) := by
  obtain ⟨n, hlen⟩ : ∃ n, ((popsOf srcs ++ dst.toList).filter isQ).length + (popsOf srcs).length = n + 1 := by
    have h1 := @List.length_pos_iff _ ((popsOf srcs ++ dst.toList).filter isQ)
    have h2 := @List.length_pos_iff _ (popsOf srcs)
    exact Nat.exists_eq_succ_of_ne_zero (by rcases hn with h | h <;> [have := h1.2 h; have := h2.2 h] <;> omega)
  have h1 : ((popsOf srcs).filter isQ).findSome? (s.endCheck 1) = none := by
    rw [List.findSome?_eq_none_iff]
    intro r hr
    exact ok.1 r (List.mem_of_mem_filter (List.mem_of_mem_filter hr)) (List.of_mem_filter hr)
  have h2 : (dst.filter isQ).bind (s.endCheck 2) = none := by
    cases hd : dst.filter isQ with
    | none => rfl
    | some d =>
      obtain ⟨hd1, hd2⟩ := Option.filter_eq_some_iff.1 hd
      exact ok.2 d hd1 hd2
  simp only [State.withOps, hl, hlen, h1, h2]
  rw [if_neg (by decide), if_neg (by decide), State.afterCommit_done hg, ← ht]
  cases rel with
  | some n => exact State.afterAcks_done hr _
  | none =>
    cases hd : dst.filter isQ with
    | none => rfl
    | some d =>
      rw [State.relScope, hd] at hr
      exact State.afterAcks_done hr _

/-! What `takeOps` takes -/

theorem State.takeOps_registers (h2 : twoEnds srcs dst = false) (hp : popsOf srcs = []) : s.takeOps srcs dst body = body (srcs.map s.rd) (s.hold (srcs.map s.rd)) := by
  simp only [State.takeOps, h2, hp, Bool.false_eq_true, if_false]

theorem State.takeOps_item {r : R6} {q : Nat} {v : V512} {t : State} (h2 : twoEnds srcs dst = false) (hp : popsOf srcs = [r]) (hr : isQ r = true)
    (hl : s.endLocal r = true) (hq : s.endQueue r = some q) (ht : s.stampMe.qPop q s.cur (qIx r) false = (.item v, t)) :
    s.takeOps srcs dst body = body (fillIn (s.peek srcs) [asW v]) (t.popped (fillIn (s.peek srcs) [asW v]) (tookOf (t.handle q) v)) := by
  simp only [State.takeOps, h2, hp, isMb_of_isQ hr, hl, hq, ht, Bool.false_eq_true, if_false, if_true]
  rfl

theorem popsOf_of_mail (h : srcs.all (!isQ ·) = true) : popsOf srcs = srcs.filter isMb := by
  refine List.filter_congr fun r hr => ?_
  have hq : isQ r = false := by simpa using List.all_eq_true.1 h r hr
  rw [hq, Bool.false_or]

theorem State.takeOps_mail {ms : List Mail} {t : State} (h2 : twoEnds srcs dst = false) (hn : popsOf srcs ≠ []) (hs : srcs.all (!isQ ·) = true)
    (ht : s.mailTake s.cur (srcs.filter isMb).length = (ms, t)) (hm : ms.length = (srcs.filter isMb).length) :
    s.takeOps srcs dst body = body (fillIn (s.peek srcs) (ms.map (·.data))) (t.popped (fillIn (s.peek srcs) (ms.map (·.data))) [] ms) := by
  have hp := popsOf_of_mail hs
  obtain ⟨r, l, hl⟩ := List.exists_cons_of_ne_nil hn
  have hr : isMb r = true := List.of_mem_filter (p := isMb) (a := r) (l := srcs) (by rw [← hp, hl]; exact List.mem_cons_self)
  have hk : (popsOf srcs).length = (srcs.filter isMb).length := by rw [hp]
  simp only [State.takeOps, h2, Bool.false_eq_true, if_false, hk]
  simp only [hl, hr, if_true, State.mailEnd, ht, hm]
  rfl

end

/-! Instructions under R91 -/

theorem State.upd_upd (s : State) (f g : Slot → Slot) : (s.upd f).upd g = s.upd fun sl => g (f sl) := by
  have h := State.me_upd s f
  simp only [State.me] at h
  simp only [State.upd, State.modSlot] at h ⊢
  rw [h, Tbl.put_put]

section
variable {s : State} {srcs : List R6} {dst : Option R6} {body : List W → State → State}

theorem State.endQueue_of_local {r : R6} (h : s.endLocal r = true) : ∃ q, s.endQueue r = some q := by
  cases hq : s.endQueue r with
  | none => simp [State.endLocal, hq] at h
  | some q => exact ⟨q, rfl⟩

theorem State.poppedAll_none (h : dst.filter isQ = none) (s : State) (vs : List W) (took : List Took) (mails : List Mail) :
    s.poppedAll vs took mails dst = s.popped vs took mails := by
  rw [State.poppedAll, h]

theorem State.poppedAll_some {d : R6} (h : dst.filter isQ = some d) (s : State) (vs : List W) (took : List Took) (mails : List Mail) :
    s.poppedAll vs took mails dst =
      s.upd fun sl => { sl with latch := { vals := some vs, stage := 3, took := took, mails := mails, ends := s.roundEnds [] (some d) } } := by
  rw [State.poppedAll, h]

/-- Every end is homed at the core and can be served: the instruction takes all of it in its turn. -/
theorem State.multiEnd_near {p : Popped} {t : State} (hs : s.serves srcs dst) (hp : s.stampMe.popAll (popsOf srcs) = (p, t)) :
    s.multiEnd srcs dst body = body (fillIn (s.peek srcs) p.vals)
      ((t.reserveNear ((dst.filter isQ).bind s.endQueue)).poppedAll (fillIn (s.peek srcs) p.vals) p.took p.mails dst) := by
  obtain ⟨hpop, hpush, hmail⟩ := hs
  have hall : ((popsOf srcs ++ (dst.filter isQ).toList).filter isQ).all s.endLocal = true := by
    simp only [List.all_eq_true, List.mem_filter, List.mem_append, Option.mem_toList, Option.filter_eq_some_iff]
    rintro r ⟨hr | ⟨hr, -⟩, hq⟩
    · exact (hpop r (List.mem_filter.2 hr) hq).1
    · exact (hpush r hr hq).1
  have hend : s.multiEnd srcs dst body = s.multiNear srcs (popsOf srcs) (dst.filter isQ)
      (((popsOf srcs ++ (dst.filter isQ).toList).filter isQ).filterMap s.endQueue) body := if_pos hall
  have hmail' : ¬ s.mailCount s.cur < ((popsOf srcs).filter isMb).length := Nat.not_lt.2 hmail
  have hok : ∀ r ∈ (popsOf srcs).filter isQ, ∃ q, s.endQueue r = some q ∧ s.canPop q
      (((popsOf srcs).filter fun o => isQ o && s.endQueue o == some q).map qIx).length
      (((popsOf srcs).filter fun o => isQ o && s.endQueue o == some q).map qIx) = true := fun r hr => by
    obtain ⟨hm, hq⟩ := List.mem_filter.1 hr
    obtain ⟨hloc, hcan⟩ := hpop r hm hq
    obtain ⟨q, he⟩ := State.endQueue_of_local hloc
    exact ⟨q, he, hcan q he⟩
  rw [hend]
  simp only [State.multiNear]
  rw [if_neg ?served, if_neg hmail', hp]
  case served =>
    rw [Bool.not_eq_true', Bool.not_eq_false, Bool.and_eq_true]
    refine ⟨List.all_eq_true.2 fun r hr => ?_, ?_⟩
    · obtain ⟨q, he, hcan⟩ := hok r hr
      simp only [he]
      exact hcan
    · cases hd : dst.filter isQ with
      | none => rfl
      | some d =>
        obtain ⟨hd1, hd2⟩ := Option.filter_eq_some_iff.1 hd
        obtain ⟨hloc, hq⟩ := hpush d hd1 hd2
        obtain ⟨q, he⟩ := State.endQueue_of_local hloc
        simp only [Option.bind_some, he]
        exact (hq q he).1
  cases hd : dst.filter isQ with
  | none =>
    rw [State.poppedAll_none hd]
    rfl
  | some d =>
    obtain ⟨hd1, hd2⟩ := Option.filter_eq_some_iff.1 hd
    obtain ⟨hloc, hq⟩ := hpush d hd1 hd2
    obtain ⟨q, he⟩ := State.endQueue_of_local hloc
    rw [State.poppedAll_some hd]
    simp only [Option.bind_some, he, Option.filter_some, (hq q he).2, Bool.false_eq_true, if_false]
    exact congrArg (body _) (State.upd_upd ..)

theorem State.multiEnd_far (hr : ∃ r ∈ srcs ++ dst.toList, isQ r = true ∧ s.endLocal r = false) :
    s.multiEnd srcs dst body = s.multiFar srcs (popsOf srcs) (dst.filter isQ)
      (((popsOf srcs ++ (dst.filter isQ).toList).filter isQ).filterMap s.endQueue) body := by
  obtain ⟨r, hr, hq, hl⟩ := hr
  refine if_neg fun hall => ?_
  have hm : r ∈ (popsOf srcs ++ (dst.filter isQ).toList).filter isQ := by
    rw [List.mem_append, Option.mem_toList] at hr
    simp only [List.mem_filter, List.mem_append, Option.mem_toList, Option.filter_eq_some_iff, hq, Bool.true_or, and_true]
    exact hr
  rw [List.all_eq_true.1 hall r hm] at hl
  cases hl

/-- The confirmations of its pops have come: the instruction acts. -/
theorem State.multiEnd_confirmed (hp : s.me.latch.partials ≠ []) (hf : s.me.latch.fault = none) (h5 : s.me.latch.stage = 5)
    (hr : ∃ r ∈ srcs ++ dst.toList, isQ r = true ∧ s.endLocal r = false) {vs : List W}
    (hv : vs = fillIn s.me.latch.partials ((popsOf srcs).zipIdx.map fun (_, i) => asW (Tbl.get 0#512 s.me.latch.parts i))) :
    s.multiEnd srcs dst body = body vs (s.popped vs s.me.latch.took s.me.latch.mails) := by
  obtain ⟨p, ps, hps⟩ := List.exists_cons_of_ne_nil hp
  rw [State.multiEnd_far hr, hv]
  simp only [State.multiFar, hps, hf, h5, if_true]
  rfl

/-- Every reservation is granted: an instruction that pushes acts under them. -/
theorem State.multiEnd_granted (hp : s.me.latch.partials ≠ []) (hf : s.me.latch.fault = none) (h0 : s.me.latch.stage = 0)
    (href : s.me.latch.refused = false) (hno : s.me.latch.nomail = false) (hd : (dst.filter isQ).isSome = true)
    (hb : ∀ r ∈ srcs ++ dst.toList, isQ r = true → (s.qend r).isSome = true)
    (hr : ∃ r ∈ srcs ++ dst.toList, isQ r = true ∧ s.endLocal r = false) {vs : List W}
    (hv : vs = fillIn s.me.latch.partials ((popsOf srcs).zipIdx.map fun (_, i) => asW (Tbl.get 0#512 s.me.latch.parts i))) :
    s.multiEnd srcs dst body = body vs (s.upd fun sl => { sl with latch := { vals := some vs, stage := 3, mails := s.me.latch.mails, ends := s.me.latch.ends } }) := by
  obtain ⟨p, ps, hps⟩ := List.exists_cons_of_ne_nil hp
  have hbound : ((popsOf srcs ++ (dst.filter isQ).toList).any fun r => isQ r && (s.qend r).isNone) = false := by
    rw [List.any_eq_false]
    intro r hm
    simp only [List.mem_append, List.mem_filter, Option.mem_toList, Option.filter_eq_some_iff] at hm
    have hm' : r ∈ srcs ++ dst.toList := by
      rw [List.mem_append, Option.mem_toList]
      exact hm.imp And.left And.left
    rw [Bool.and_eq_true, Option.isNone_iff_eq_none]
    rintro ⟨hq, hn⟩
    simpa [hn] using hb r hm' hq
  rw [State.multiEnd_far hr, hv]
  simp only [State.multiFar, hps, hf, h0, hbound, href, hno, hd, Bool.or_self, Bool.false_eq_true, if_false, if_true]
  rfl

end

section
variable {s s1 : State} {len : Nat} {srcs : List R6} {dst : Option R6} {irr : Bool} {rel : Option Nat} {vs : List W} {body : List W → State → State}

/-- What the instruction parked for has come. -/
theorem State.withOps_replied {v : V512} (h2 : s.me.latch.stage ≠ 2) (h6 : s.me.latch.stage ≠ 6) (hv : s.me.latch.vals = none)
    (hp : s.me.latch.partials ≠ []) (hr : s.me.latch.res = some v) :
    s.withOps len srcs dst irr rel body =
      if (popsOf srcs ++ dst.toList).filter isQ = [] then
        s.opened (fillIn s.me.latch.partials (s.me.latch.mails.map (·.data))) 1 [] s.me.latch.mails fun vs u => u.kept dst (body vs u)
      else if twoEnds srcs dst = false then
        s.opened (fillIn s.me.latch.partials [asW v]) 1 ((s.me.latch.at_.map fun e => tookOf e.2 v).getD []) s.me.latch.mails fun vs u => u.kept dst (body vs u)
      else s.multiEnd srcs dst fun vs u => u.kept dst (body vs u) := by
  obtain ⟨p, ps, hps⟩ := List.exists_cons_of_ne_nil hp
  simp only [State.withOps, h2, h6, hv, hps, hr, if_false, List.isEmpty_iff, Bool.not_eq_true']

/-- Whatever form its operand fields have, an instruction acts on the values that they deliver (R26, R91). -/
theorem State.withOps_reach (h : Operands s srcs dst irr rel vs s1) : s.withOps len srcs dst irr rel body = s1.kept dst (body vs s1) := by
  cases h with
  | held _ h2 h6 hv => exact State.withOps_held h2 h6 hv
  | inChunk hl hs hd hi hg => exact State.withOps_inChunk hl hs hd (by rw [hi, hg]; rfl)
  | apart _ hl hs hd hi hg ht hr => exact State.withOps_apart hl hs hd hi hg ht hr
  | toQueue t d hl hs hd hq hc hg ht hr =>
    subst hd
    have hp := popsOf_of_plain hs
    have ok : s.endsOk srcs (some d) :=
      ⟨fun r hr hrq => absurd (List.mem_filter.2 ⟨hr, by simp [hrq]⟩ : r ∈ popsOf srcs) (by simp [hp]), fun e he _ => by cases he; exact hc⟩
    have hrel : t.relDone (t.relScope (some d) rel) := by cases rel <;> simpa [State.relScope, Option.filter, hq] using hr
    rw [State.withOps_ends hl (.inl (by simp [hp, hq])) ok hg ht hrel, State.takeOps_registers (twoEnds_of_dest hs hq) hp]
  | fromQueue t t2 r q v hl hp hr hd hc hg ht hrel hloc hq hpop =>
    have ok : s.endsOk srcs dst := State.endsOk_of_plain hd fun o ho _ => by
      rw [popsOf, hp, List.mem_singleton] at ho
      rw [ho, hc]
    rw [State.withOps_ends hl (.inr (by simp [hp])) ok hg ht (by rwa [State.relScope_of_plain hd]),
      State.takeOps_item (twoEnds_of_source hp hr hd) hp hr hloc hq hpop]
  | fromMail t t2 n ms hl hn hs hk hd hg ht hrel hms hlen =>
    subst hk
    have ok : s.endsOk srcs dst := State.endsOk_of_plain hd fun o ho hq =>
      absurd (List.mem_filter.2 ⟨ho, hq⟩) (by rw [filter_isQ_of_mail hs]; exact List.not_mem_nil)
    rw [State.withOps_ends hl (.inr hn) ok hg ht (by rwa [State.relScope_of_plain hd]),
      State.takeOps_mail (twoEnds_of_mail hs hd) hn hs hms hlen]
  | mailed v h2 h6 hv hp hr hs hd =>
    have hq : (popsOf srcs ++ dst.toList).filter isQ = [] := by rw [filter_isQ_ends, filter_isQ_of_plain hd, filter_isQ_of_mail hs]; rfl
    rw [State.withOps_replied h2 h6 hv hp hr, if_pos hq]
    rfl
  | delivered r v h2 h6 hv hp hr hps hq hd =>
    have hne : (popsOf srcs ++ dst.toList).filter isQ ≠ [] := by rw [filter_isQ_ends, popsOf, hps]; simp [hq]
    rw [State.withOps_replied h2 h6 hv hp hr, if_neg hne, if_pos (twoEnds_of_source hps hq hd)]
    rfl
  | near t t2 p hl h2 ok hg ht hrel hserves hpop =>
    rw [State.withOps_ends hl (.inl (ends_of_twoEnds h2)) ok hg ht hrel, State.takeOps, if_pos h2, State.multiEnd_near hserves hpop]
  | far v _ hv hp hr h2 hf hx hst hvs =>
    have hs2 : s.me.latch.stage ≠ 2 := by rcases hst with h | ⟨h, -⟩ <;> simp [h]
    have hs6 : s.me.latch.stage ≠ 6 := by rcases hst with h | ⟨h, -⟩ <;> simp [h]
    rw [State.withOps_replied hs2 hs6 hv hp hr, if_neg (ends_of_twoEnds h2), if_neg (by simp [h2])]
    rcases hst with h5 | ⟨h0, href, hno, hd, hb⟩
    · rw [State.multiEnd_confirmed hp hf h5 hx hvs, if_pos h5]
      rfl
    · rw [State.multiEnd_granted hp hf h0 href hno hd hb hx hvs, if_neg (by simp [h0])]

end
end Sys2Proof.Machine
end

section
/-! SUPPORT. What mode U may not do, and the access to a system register that the checks let through (R6, R32, R164, R167). -/

namespace Sys2Proof.Machine

theorem State.modeOnlyF_refused {s : State} (h : modeF s.cur = false) (f : State → State) : s.modeOnlyF f = s.raiseOpen 32 := by
  rw [State.modeOnlyF, h]
  rfl

/-! The check of an index -/

theorem sysCheck_firmware {n : Nat} (h : 0x800 ≤ n) (wr : Bool) : sysCheck false n wr = some 33 := by
  simp [sysCheck, h]

theorem sysCheck_unassigned {f : Bool} {n : Nat} (hf : f = true ∨ n < 0x800) (hi : (lowIndex n || highIndex n) = false) (wr : Bool) :
    sysCheck f n wr = some 34 := by
  have hn : ¬ (n ≥ 0x800 ∧ (!f) = true) := by
    rintro ⟨hn, hf'⟩
    rcases hf with rfl | hf
    · cases hf'
    · omega
  rw [sysCheck, if_neg hn, hi]
  rfl

theorem sysCheck_deqspill : sysCheck false 0x107 true = some 35 := by decide

/-- A write of a register below 0x200 leaves the pending instruction as it is. -/
theorem Slot.sysSet_pend (sl : Slot) (n : Nat) (w : W) : (sl.sysSet n w).pend = sl.pend := by
  unfold Slot.sysSet
  split <;> rfl

theorem State.setLow_pend (s : State) (k n : Nat) (w : W) (j : Nat) : ((s.setLow k n w).slot j).pend = (s.slot j).pend := by
  rw [State.setLow]
  split
  · rw [State.slot_modSlot]
    split
    · subst_vars
      exact Slot.sysSet_pend ..
    · rfl
  · split <;> rfl

theorem State.setLow_cur (s : State) (k n : Nat) (w : W) : (s.setLow k n w).cur = s.cur := by
  rw [State.setLow]
  split
  · rfl
  · split <;> rfl

/-! Registers of a target slot (R141) -/

theorem State.farSlot_none {s : State} {n : Nat} (h : n < 0xA00 ∨ coreOf s.tgtSlot = s.myCore) : s.farSlot n = none := by
  rw [State.farSlot, if_neg]
  rcases h with h | h
  · have h1 : ¬ 0xA00 ≤ n := by omega
    have h2 : n ≠ 0xD05 ∧ n ≠ 0xD07 ∧ n ≠ 0xD08 := by omega
    simp [h1, h2]
  · simp [h]

theorem State.farSlot_some {s : State} {n : Nat} (h0 : 0xA00 ≤ n) (h1 : n < 0xC00) (h : coreOf s.tgtSlot ≠ s.myCore) : s.farSlot n = some s.tgtSlot := by
  rw [State.farSlot, if_pos]
  simp [h0, h1, h]

/-! SYSRD and SYSWR -/

section
variable {d h l : R6} {s s1 : State} {v : W} {c : Nat}

theorem exec_sysrd_refused (hg : s.me.chunk.global = false) (hc : sysCheck (modeF s.cur) (sysIndex h l) false = some c) :
    exec (.sysrd d h l) s = .next ((s.chunkDone s.cur).raiseOpen c) := by
  show execSysrd d h l s = _
  simp only [execSysrd, hc]
  rw [State.afterCommit_done hg]

theorem exec_syswr_refused (hg : s.me.chunk.global = false) (hc : sysCheck (modeF s.cur) (sysIndex h l) true = some c) :
    exec (.syswr d h l) s = .next ((s.chunkDone s.cur).raiseOpen c) := by
  show execSyswr d h l s = _
  simp only [execSyswr, hc]
  rw [State.afterCommit_done hg]

/-- What SYSRD does once its operand field is ready. -/
def State.sysrdBody (s : State) (d : R6) (n : Nat) : State :=
  s.onReply (fun v s => s.pure.finish true 4 d (asW v)) fun s =>
    match s.farSlot n with
    | some t => s.farReg t n none
    | none => (if n < 0x800 then (s.sysRead n).2.pure else (s.sysRead n).2).finish true 4 d (s.sysRead n).1

/-- What SYSWR does once its data are there. -/
def State.syswrBody (s : State) (d : R6) (n : Nat) (v : W) : State :=
  s.onReply (fun _ s => s.retireIrr 4) fun s =>
    match s.farSlot n with
    | some t => s.farReg t n (some v)
    | none =>
      let u := (s.upd fun sl => { sl with pend := some (.and d d d) }).sysWrite n v
      if u.me.pend.isNone then u else u.retireIrr 4

theorem State.sysrdBody_reply {n : Nat} {r : V512} (hr : s.me.latch.res = some r) : s.sysrdBody d n = s.pure.finish true 4 d (asW r) := by
  simp only [State.sysrdBody, State.onReply, hr]

theorem State.sysrdBody_far {n k : Nat} (hr : s.me.latch.res = none) (hk : s.farSlot n = some k) : s.sysrdBody d n = s.farReg k n none := by
  simp only [State.sysrdBody, State.onReply, hr, hk]

theorem State.sysrdBody_here {n : Nat} (hr : s.me.latch.res = none) (hk : s.farSlot n = none) :
    s.sysrdBody d n = (if n < 0x800 then (s.sysRead n).2.pure else (s.sysRead n).2).finish true 4 d (s.sysRead n).1 := by
  simp only [State.sysrdBody, State.onReply, hr, hk]

theorem State.syswrBody_reply {n : Nat} (hr : s.me.latch.res.isSome = true) : s.syswrBody d n v = s.retireIrr 4 := by
  obtain ⟨r, hr⟩ := Option.isSome_iff_exists.1 hr
  simp only [State.syswrBody, State.onReply, hr]

theorem State.syswrBody_far {n k : Nat} (hr : s.me.latch.res = none) (hk : s.farSlot n = some k) : s.syswrBody d n v = s.farReg k n (some v) := by
  simp only [State.syswrBody, State.onReply, hr, hk]

theorem State.syswrBody_here {n : Nat} {u : State} (hr : s.me.latch.res = none) (hk : s.farSlot n = none)
    (hu : u = (s.upd fun sl => { sl with pend := some (.and d d d) }).sysWrite n v) (hp : u.me.pend.isSome = true) : s.syswrBody d n v = u.retireIrr 4 := by
  simp only [State.syswrBody, State.onReply, hr, hk]
  rw [← hu, if_neg (by simpa [Option.isSome_iff_ne_none] using hp)]

/-- A write below 0x200 is no command: the mark that SYSWR has set stays. -/
theorem State.sysWrite_marked {n : Nat} (i : Instr) (hn : n < 0x200) : ((s.upd fun sl => { sl with pend := some i }).sysWrite n v).me.pend.isSome = true := by
  rw [State.sysWrite, if_pos hn, State.me, State.setLow_cur, State.setLow_pend, ← State.me, State.me_upd]
  rfl

theorem exec_sysrd (hc : sysCheck (modeF s.cur) (sysIndex h l) false = none) (ho : Operands s [] (some d) true none [] s1)
    {t : State} (ht : s1.sysrdBody d (sysIndex h l) = t) : Ends (.sysrd d h l) s s1 (some d) t := by
  have hx : exec (.sysrd d h l) s = .next (s.withOps 4 [] (some d) true none fun _ u => u.sysrdBody d (sysIndex h l)) := by
    show execSysrd d h l s = _
    simp only [execSysrd, hc]
    rfl
  rw [Ends, hx, State.withOps_reach ho, ht]

theorem exec_syswr (hc : sysCheck (modeF s.cur) (sysIndex h l) true = none) (ho : Operands s [d] none true none [v] s1)
    {t : State} (ht : s1.syswrBody d (sysIndex h l) v = t) : exec (.syswr d h l) s = .next t := by
  have hx : exec (.syswr d h l) s = .next (s.withOps 4 [d] none true none fun vs u => u.syswrBody d (sysIndex h l) (vs.getD 0 0#64)) := by
    show execSyswr d h l s = _
    simp only [execSyswr, hc]
    rfl
  rw [hx, State.withOps_reach ho, State.kept_done (.inl rfl)]
  exact congrArg _ ht

end

/-- Settles O45: the check of the index, and then the access on the operands, however they came. -/
theorem modeRules : Obligations.ModeRules := by
  intro d a h l s s1 v n
  refine ⟨fun hU i hi => ?firmware, fun hg hs1 => ⟨fun hU hn => ?above, fun hf hi => ?unassigned, fun hU hn => ?deqspill⟩, fun hc ho => ?read, fun hc ho => ?write,
    State.farSlot_none, State.farSlot_some⟩
  case firmware =>
    simp only [List.mem_cons, List.not_mem_nil, or_false] at hi
    rcases hi with rfl | rfl | rfl | rfl <;> exact congrArg Host.Outcome.next (State.modeOnlyF_refused hU _)
  case above =>
    subst hs1
    have hc := sysCheck_firmware hn
    exact ⟨exec_sysrd_refused hg (hU ▸ hc false), exec_syswr_refused hg (hU ▸ hc true)⟩
  case unassigned =>
    subst hs1
    exact ⟨exec_sysrd_refused hg (sysCheck_unassigned hf hi _), exec_syswr_refused hg (sysCheck_unassigned hf hi _)⟩
  case deqspill =>
    subst hs1
    have hc : sysCheck (modeF s.cur) n true = some 35 := by rw [hU, hn]; exact sysCheck_deqspill
    exact exec_syswr_refused hg hc
  case read =>
    exact ⟨fun r hr => exec_sysrd hc ho (State.sysrdBody_reply hr),
      fun hr => ⟨fun k hk => exec_sysrd hc ho (State.sysrdBody_far hr hk), fun hk => exec_sysrd hc ho (State.sysrdBody_here hr hk)⟩⟩
  case write =>
    exact ⟨fun hr => exec_syswr hc ho (State.syswrBody_reply hr), fun hr => ⟨fun k hk => exec_syswr hc ho (State.syswrBody_far hr hk),
      fun hk u hu => ⟨fun hp => exec_syswr hc ho (State.syswrBody_here hr hk hu hp), fun hn => hu ▸ State.sysWrite_marked _ hn⟩⟩⟩

end Sys2Proof.Machine
end

section
/-! SUPPORT. Fields of a register read as numbers, and written back in their place (R8). -/

namespace Sys2Proof.Machine

theorem nat_toNat (w : W) : nat w.toNat = w := by simp [nat]

theorem fld_zero (w : W) (n : Nat) : fld w 0 n = w.toNat % 2 ^ n := by simp [fld, bitsOf]

theorem low_eq_and (w : W) {n : Nat} (hn : n ≤ 64) : low w n = w &&& BitVec.ofNat 64 (2 ^ n - 1) := by
  apply BitVec.eq_of_toNat_eq
  have hm : 2 ^ n - 1 < 2 ^ 64 := by have := Nat.pow_le_pow_right (n := 2) (by decide) hn; have := Nat.two_pow_pos n; omega
  have hw : w.toNat % 2 ^ n < 2 ^ 64 := (Nat.mod_le _ _).trans_lt w.isLt
  rw [low, fld_zero, nat, BitVec.toNat_and, BitVec.toNat_ofNat, BitVec.toNat_ofNat, Nat.mod_eq_of_lt hw, Nat.mod_eq_of_lt hm, Nat.and_two_pow_sub_one_eq_mod]

/-- A field that starts at bit 1, back in its place. -/
theorem nat_fld_one (w : W) : nat (fld w 1 15 * 2) = (w.extractLsb' 1 15 ++ 0#1).setWidth 64 := by
  apply BitVec.eq_of_toNat_eq
  simp only [nat, fld, bitsOf, BitVec.toNat_ofNat, BitVec.toNat_setWidth, BitVec.toNat_append, BitVec.extractLsb'_toNat]
  rw [Nat.shiftLeft_eq]
  simp

/-! What an update of the issuing slot and the end of a chunk leave -/

section
variable {s : State}

theorem State.sameMemory_upd (f : Slot → Slot) : SameMemory s (s.upd f) := .of_eq rfl rfl rfl rfl

theorem State.sameUnits_upd (f : Slot → Slot) : SameUnits s (s.upd f) := ⟨rfl, rfl, rfl, rfl, rfl, rfl, rfl, rfl⟩

theorem State.sameUnits_chunkDone (k : Nat) : SameUnits s (s.chunkDone k) := ⟨by simp, by simp, by simp, by simp, by simp, by simp, by simp, by simp⟩

theorem SameUnits.trans {s t u : State} (h : SameUnits s t) (g : SameUnits t u) : SameUnits s u :=
  ⟨g.1.trans h.1, g.2.trans h.2, g.3.trans h.3, g.4.trans h.4, g.5.trans h.5, g.6.trans h.6, g.7.trans h.7, g.8.trans h.8⟩

theorem State.afterCommit_waits (h : s.me.chunk.global = true) (f : State → State) : s.afterCommit f = s.parkRe .parkMem .commit := if_pos h

theorem State.me_chunkDone : (s.chunkDone s.cur).me =
    { s.me with chunk := {}, streak := if s.me.chunk.count = 0 then s.me.streak else 0, commitReq := false
                solo := if s.soloHolder = some s.cur then false else s.me.solo } := by
  rw [State.me, State.chunkDone_cur, State.slot_chunkDone]
  rfl

end
end Sys2Proof.Machine
end

section
/-! SUPPORT. The mark that a NUDGE leaves on a slot, and the step that issues from it (R167). -/

namespace Sys2Proof.Machine

/-- The slot that owns the turn stands before ADD, in RUN, with the mark of a NUDGE on it (R167). -/
def nudgedAdd : State := (code [0x18, 0x82, 0x80, 0x82]).modSlot 0 fun sl => { sl with nudged := true }

/-- The mark of a NUDGE on a slot in the state that a step answers. -/
def nudgedAfter (o : Out) (k : Nat) : Bool := match o with | .next t => (t.slot k).nudged | _ => false

/-- The issue of an instruction takes the mark from its slot. -/
theorem nudgedAfter_step : nudgedAfter (step nudgedAdd) 0 = false := by decide +kernel

/-- Refutes O7: the issue also clears the mark of a NUDGE, which the statement's state before exec still has. -/
theorem not_stepRunsDecoded : ¬ Obligations.StepRunsDecoded := by
  rintro ⟨h, -, -⟩
  have hs := h nudgedAdd 0 [] (.add 3#6 4#6 5#6) rfl (by decide) (by decide +kernel) (by decide +kernel) (by decide +kernel) (by decide +kernel) (by decide +kernel) rfl
  have hn := nudgedAfter_step
  rw [hs] at hn
  revert hn
  decide +kernel

end Sys2Proof.Machine
end

section
/-! SUPPORT. What a slot fetches (R44, R71, R72, R82, R324). -/

namespace Sys2Proof.Machine

section
variable {s : State} {k a : Nat} {f : Nat × Option W}

theorem State.fetchFault_outside (h : a % 2 = 1 ∨ a ≥ 65536) : s.fetchFault k a = some (73, none) := if_pos h

theorem State.fetchFault_poisoned (h2 : a % 2 = 0) (ha : a < 65536) (hp : s.poisonAt (tcmBase (coreOf k) + a) = true) :
    s.fetchFault k a = some (131, none) := by
  rw [State.fetchFault, if_neg (by omega), if_pos hp]

theorem State.fetchFault_clean (h2 : a % 2 = 0) (ha : a < 65536) (hp : s.poisonAt (tcmBase (coreOf k) + a) = false) :
    s.fetchFault k a = none := by
  rw [State.fetchFault, if_neg (by omega), hp]
  rfl

/-- A halfword at the PC that cannot be fetched. -/
theorem State.fetch_fault (h : s.fetchFault k (s.slot k).pc.toNat = some f) : s.fetch k = .error f := by
  simp only [State.fetch, h]

/-- A first halfword with a clear top bit is the instruction (R71). -/
theorem State.fetch_half (h : s.fetchFault k (s.slot k).pc.toNat = none) (hb : (s.codeHalf k (s.slot k).pc.toNat).getLsbD 15 = false) :
    s.fetch k = (decodeHalf (s.codeHalf k (s.slot k).pc.toNat)).mapError fun j => (j, some ((s.codeHalf k (s.slot k).pc.toNat).setWidth 64)) := by
  simp only [State.fetch, h, hb, decodeHalves, Bool.false_eq_true, if_false]
  cases decodeHalf (s.codeHalf k (s.slot k).pc.toNat) <;> rfl

/-- With a set top bit the halfword behind it cannot be fetched. -/
theorem State.fetch_fault_next (h : s.fetchFault k (s.slot k).pc.toNat = none) (hb : (s.codeHalf k (s.slot k).pc.toNat).getLsbD 15 = true)
    (h2 : s.fetchFault k ((s.slot k).pc.toNat + 2) = some f) : s.fetch k = .error f := by
  simp only [State.fetch, h, hb, h2, if_true]

theorem nat_append_half (h0 h1 : BitVec 16) : nat (h0.toNat * 65536 + h1.toNat) = (h0 ++ h1).setWidth 64 := by
  apply BitVec.eq_of_toNat_eq
  have ha := h0.isLt
  have hb := h1.isLt
  have hor : h0.toNat <<< 16 ||| h1.toNat = h0.toNat * 65536 + h1.toNat := by
    rw [← Nat.shiftLeft_add_eq_or_of_lt hb, Nat.shiftLeft_eq]
  simp only [nat, BitVec.toNat_ofNat, BitVec.toNat_setWidth, BitVec.toNat_append, hor]

/-- With a set top bit it and the next halfword are the instruction (R72). -/
theorem State.fetch_word (h : s.fetchFault k (s.slot k).pc.toNat = none) (hb : (s.codeHalf k (s.slot k).pc.toNat).getLsbD 15 = true)
    (h2 : s.fetchFault k ((s.slot k).pc.toNat + 2) = none) {w : BitVec 32}
    (hw : w = s.codeHalf k (s.slot k).pc.toNat ++ s.codeHalf k ((s.slot k).pc.toNat + 2)) :
    s.fetch k = (decodeWord w).mapError fun j => (j, some (w.setWidth 64)) := by
  subst hw
  simp only [State.fetch, h, hb, h2, decodeHalves, if_true]
  rw [nat_append_half]
  cases decodeWord (s.codeHalf k (s.slot k).pc.toNat ++ s.codeHalf k ((s.slot k).pc.toNat + 2)) <;> rfl

end

theorem fetchForms : Rules.FetchForms := by
  rintro s k h0 h1 hpc h2 rfl rfl at_
  have hclean := fun hp => State.fetchFault_clean (s := s) (k := k) h2 hpc hp
  refine ⟨fun hp => State.fetch_fault (State.fetchFault_poisoned h2 hpc hp), fun hp hb => ?_, fun hp hb => ⟨fun he => ?_, fun hl hp2 => ?_, fun hl hp2 => ?_⟩⟩
  · rw [State.fetch_half (hclean hp) hb]
    exact ⟨fun i hi => by rw [hi]; rfl, fun j hj => by rw [hj]; rfl⟩
  · exact State.fetch_fault_next (hclean hp) hb (State.fetchFault_outside (by omega))
  · exact State.fetch_fault_next (hclean hp) hb (State.fetchFault_poisoned (by omega) (by omega) hp2)
  · rw [State.fetch_word (hclean hp) hb (State.fetchFault_clean (by omega) (by omega) hp2) rfl]
    exact ⟨fun i hi => by rw [hi]; rfl, fun j hj => by rw [hj]; rfl⟩

theorem fetchOutside : Rules.FetchOutside := fun _ _ h => State.fetch_fault (State.fetchFault_outside h)

/-- Settles O8: the checks of one halfword, and then the one or two that the instruction has. -/
theorem fetchedInstruction : Obligations.FetchedInstruction := ⟨fetchForms, fetchOutside⟩

end Sys2Proof.Machine
end

section
/-! SUPPORT. The registers of a slot and the shared bank (R21, R23, R25, R26). -/

namespace Sys2Proof

/-- A table whose keys rise lists what its entries say. -/
theorem Tbl.find_of_mem {α : Type} {t : Tbl α} (ht : (t.map (·.1)).Pairwise (· < ·)) {k : Nat} {v : α} (h : (k, v) ∈ t) : t.find k = some v := by
  induction t with
  | nil => cases h
  | cons p r ih =>
    obtain ⟨i, w⟩ := p
    rw [List.map_cons, List.pairwise_cons] at ht
    rcases List.mem_cons.1 h with he | hm
    · cases he; simp [Tbl.find]
    · have hk : i < k := ht.1 k (List.mem_map_of_mem hm)
      simp only [Tbl.find, if_neg (Nat.ne_of_gt hk), if_neg (Nat.not_lt.2 hk.le)]
      exact ih ht.2 hm

end Sys2Proof

namespace Sys2Proof.Machine

/-! Private registers -/

section
variable {s : State} {k r : Nat} {v : W}

theorem State.xset_wired (h : r = 0 ∨ r = 31) : s.xset k r v = s := if_pos h

theorem State.xset_file (h : ¬ (r = 0 ∨ r = 31)) : s.xset k r v = s.modSlot k fun sl => { sl with x := sl.x.put r v } := if_neg h

theorem State.xset_ctxs : (s.xset k r v).ctxs = s.ctxs := by
  unfold State.xset
  split <;> rfl

theorem State.xget_file (h : ¬ (r = 0 ∨ r = 31)) : s.xget k r = Tbl.get 0#64 (s.slot k).x r := by
  rw [State.xget, if_neg (fun h0 => h (.inl h0)), if_neg (fun h1 => h (.inr h1))]

/-- A register read of a state that has the thread id and the file of another. -/
theorem State.xget_congr {t : State} (ht : t.tid k = s.tid k) (hx : Tbl.get 0#64 (t.slot k).x r = Tbl.get 0#64 (s.slot k).x r) :
    t.xget k r = s.xget k r := by
  simp only [State.xget, ht, hx]

theorem State.xget_xset_same (h : ¬ (r = 0 ∨ r = 31)) : (s.xset k r v).xget k r = v := by
  rw [State.xget_file h, State.xset_file h]
  simp [Tbl.get_put]

theorem State.xget_xset_ne {k' r' : Nat} (h : k' ≠ k ∨ r ≠ r') : (s.xset k r v).xget k' r' = s.xget k' r' := by
  refine State.xget_congr (State.tid_congr State.xset_ctxs k') ?_
  by_cases hr : r = 0 ∨ r = 31
  · rw [State.xset_wired hr]
  · rw [State.xset_file hr, State.slot_modSlot]
    rcases h with h | h
    · rw [if_neg h]
    · split
      · subst_vars
        rw [Tbl.get_put, if_neg h.symm]
      · rfl

/-! The virtual thread id -/

theorem State.owner_listed {p x n : Nat} (h : s.owner p = some (x, n)) : ∃ cx w, (x, cx) ∈ s.ctxs ∧ (n, w) ∈ cx.pmap := by
  obtain ⟨⟨y, cx⟩, hm, hy⟩ := List.exists_of_findSome?_eq_some h
  obtain ⟨⟨m, w⟩, hw, he⟩ := List.exists_of_findSome?_eq_some hy
  obtain ⟨-, he⟩ := Option.ite_none_right_eq_some.1 he
  cases he
  exact ⟨cx, w, hm, hw⟩

/-- Placement maps that name virtual clusters below 128 alone give no other number to a core. -/
theorem State.vcl_lt (hc : (s.ctxs.map (·.1)).Pairwise (· < ·)) (hp : ∀ x, ((s.ctx x).pmap.map (·.1)).Pairwise (· < ·))
    (h : ∀ x p w, (s.ctx x).pmap.find p = some w → p < 128) (c : Nat) : s.vcl c < 128 := by
  unfold State.vcl
  split
  · decide
  · cases ho : s.owner (c / 8) with
    | none => exact Nat.zero_lt_succ 127
    | some o =>
      obtain ⟨x, n⟩ := o
      obtain ⟨cx, w, hx, hw⟩ := State.owner_listed ho
      have he : s.ctx x = cx := Tbl.get_of_mem hc hx
      exact h x n w (Tbl.find_of_mem (hp x) (he ▸ hw))

theorem State.tid_lt (hc : (s.ctxs.map (·.1)).Pairwise (· < ·)) (hp : ∀ x, ((s.ctx x).pmap.map (·.1)).Pairwise (· < ·))
    (h : ∀ x p w, (s.ctx x).pmap.find p = some w → p < 128) : s.tid k < 2 ^ 14 := by
  have hv := State.vcl_lt hc hp h (coreOf k)
  have hk := Nat.mod_lt k (show 128 > 0 by decide)
  unfold State.tid
  omega

end

theorem hardWired : Rules.HardWired := by
  intro s k v
  refine ⟨rfl, rfl, State.xset_wired (.inl rfl), State.xset_wired (.inr rfl), fun r h0 h31 => State.xget_xset_same (not_or_intro h0 h31),
    fun r r' h => State.xget_xset_ne (.inr h), fun k' r r' h => State.xget_xset_ne (.inl h), fun hc hp h => ?_⟩
  have ht := State.tid_lt (k := k) hc hp h
  show (nat (s.tid k)).toNat < 2 ^ 14
  rw [nat, BitVec.toNat_ofNat, Nat.mod_eq_of_lt (by omega)]
  exact ht

/-! The shared bank -/

section
variable {s : State} {k r : Nat} {v : W}

theorem State.gset_none (h : 16 ≤ r) : s.gset k r v = s := if_neg (Nat.not_lt.2 h)

theorem State.gset_waits (h : r < 16) : s.gset k r v = s.modCore (coreOf k) fun co => { co with gpend := co.gpend ++ [⟨k, r, v⟩] } := if_pos h

/-- A read of the bank looks at its landed registers, the counter, the placement and the states of the slots. -/
theorem State.gget_congr {t : State} {c : Nat} (hc : t.ctxs = s.ctxs) (hs : t.slots = s.slots) (hn : (t.core c).cyc = (s.core c).cyc)
    (hg : Tbl.get 0#64 (t.core c).g r = Tbl.get 0#64 (s.core c).g r) : t.gget c r = s.gget c r := by
  have hl : t.live c = s.live c := by
    have hslot : t.slot = s.slot := funext fun k => by rw [State.slot, hs, State.slot]
    unfold State.live
    rw [hslot]
  simp only [State.gget, hl, hn, hg, State.vcl_congr hc]

theorem State.gget_gset (c r' : Nat) : (s.gset k r v).gget c r' = s.gget c r' := by
  rcases Nat.lt_or_ge r 16 with h | h
  · rw [State.gset_waits h]
    refine State.gget_congr rfl rfl ?_ ?_ <;> rw [State.core_modCore] <;> split <;> subst_vars <;> rfl
  · rw [State.gset_none h]

theorem State.gpend_gset (h : r < 16) : ((s.gset k r v).core (coreOf k)).gpend = (s.core (coreOf k)).gpend ++ [⟨k, r, v⟩] := by
  simp [State.gset_waits h]

/-! Writes that land -/

variable {c : Nat}

theorem State.core_landWrites : (s.landWrites c).core c = { s.core c with
    g := landG (s.core c).g ((s.core c).landing (s.turnOwner c)).1, gpend := ((s.core c).landing (s.turnOwner c)).2 } := by
  simp [State.landWrites, State.turnOwner]

theorem State.gget_landWrites (h : r < 16) :
    (s.landWrites c).gget c r = Tbl.get 0#64 (landG (s.core c).g ((s.core c).landing (s.turnOwner c)).1) r := by
  rw [State.gget, if_pos h, State.core_landWrites]

theorem Core.landing_one {co : Core} {o : Nat} {w : GWrite} (h : co.gpend = [w]) : (co.landing o).1 = [w] := by
  by_cases hk : w.k = o <;> simp [Core.landing, h, hk]

theorem Core.landing_two {co : Core} {o : Nat} {w w' : GWrite} (h : co.gpend = [w, w']) : (co.landing o).1 = [w, w'] ∨ (co.landing o).1 = [w', w] := by
  by_cases hk : w.k = o <;> by_cases hk' : w'.k = o <;> simp [Core.landing, h, hk, hk']

/-- Of two writes to one register that land together that of the higher slot remains. -/
theorem landG_two (g : Tbl W) {w w' : GWrite} (hk : w.k < w'.k) (hr : w'.r = r) (l : List GWrite) (hl : l = [w, w'] ∨ l = [w', w]) :
    Tbl.get 0#64 (landG g l) r = w'.v := by
  have hs : sortOn (·.k) l = [w, w'] := by
    rcases hl with rfl | rfl <;> simp [sortOn, insertOn, hk, Nat.not_lt.2 hk.le]
  rw [landG, hs]
  simp [Tbl.get_put, hr]

theorem Core.gpend_landing (co : Core) (o : Nat) : (co.landing o).2.length = co.gpend.length - 2 := by
  have h : (co.gpend.filter (·.k == o)).length + (co.gpend.filter (·.k != o)).length = co.gpend.length :=
    (List.length_eq_length_filter_add _).symm
  simp only [Core.landing, List.length_drop, List.length_append, h]

/-- Where the owner of the turn has at most two writes, all of them land. -/
theorem Core.landing_owner {co : Core} {o : Nat} (h : (co.gpend.filter (·.k == o)).length ≤ 2) : ∀ w ∈ (co.landing o).2, w.k ≠ o := by
  intro w hw
  rw [Core.landing, List.drop_append, List.drop_eq_nil_of_le h, List.nil_append] at hw
  simpa using List.of_mem_filter (List.mem_of_mem_drop hw)

end

theorem sharedBank : Rules.SharedBank := by
  refine ⟨fun s k r v => ⟨State.gset_none, State.gget_gset, State.gpend_gset, fun hr hp => ?_⟩, fun s c k k' r v v' hr hk hp => ?_, fun s c => ?_⟩
  · have hone := Core.landing_one (o := (s.gset k r v).turnOwner (coreOf k)) ((State.gpend_gset (v := v) hr).trans (by rw [hp]; rfl))
    have hg : ((s.gset k r v).core (coreOf k)).g = (s.core (coreOf k)).g := by simp [State.gset_waits hr]
    refine ⟨?_, fun r' h31 hne => ?_⟩
    · rw [State.gget_landWrites hr, hone, hg]
      simp [landG, sortOn, insertOn, Tbl.get_put]
    · refine Eq.trans ?_ (State.gget_gset (k := k) (r := r) (v := v) (coreOf k) r')
      refine State.gget_congr rfl rfl (by rw [State.core_landWrites]) ?_
      rw [State.core_landWrites]
      simp [hone, landG, sortOn, insertOn, Tbl.get_put, hne]
  · rw [State.gget_landWrites hr]
    refine landG_two _ (w := ⟨k, r, v⟩) (w' := ⟨k', r, v'⟩) hk rfl _ ?_
    rcases hp with hp | hp
    · exact Core.landing_two hp
    · exact (Core.landing_two hp).symm
  · rw [State.core_landWrites]
    exact ⟨Core.gpend_landing _ _, Core.landing_owner, rfl, rfl⟩

/-- Settles O10: the hard-wired registers and the file of a slot, and the writes of the bank that wait and land. -/
theorem registerBanks : Obligations.RegisterBanks := ⟨hardWired, sharedBank⟩

end Sys2Proof.Machine
end

section
/-! SUPPORT. A fault that is taken in the slot (R316). -/

namespace Sys2Proof.Machine

section
variable {s : State} {k c : Nat} {v : W}

theorem inSlotCause_of_family (h : c / 32 ∈ [5, 6, 7, 9, 10] ∨ 352 ≤ c ∧ c ≤ 368) : inSlotCause c = true := by
  simp only [inSlotCause, Bool.or_eq_true, Bool.and_eq_true, beq_iff_eq, decide_eq_true_eq]
  simp only [List.mem_cons, List.not_mem_nil, or_false] at h
  tauto

/-- The slot has UE = 1 and its mode takes the cause in the slot (R316). -/
theorem State.deliver_traps (hu : (s.slot k).tstat.getLsbD 0 = true) (h : modeF k = true ∧ c ≠ 132 ∨ modeF k = false ∧ inSlotCause c = true) (src : Nat) :
    s.deliver k c v src = ({ s with replay := s.replay.filter (· ≠ k) } : State).modSlot k fun sl => sl.trap c v := by
  rcases h with ⟨hF, h⟩ | ⟨hU, h⟩
  · simp [State.deliver, hu, hF, h]
  · simp [State.deliver, hu, hU, h]

theorem getLsbD_nested {w : W} (h : w.getLsbD 0 = true) : (nat (2 * fld w 0 1)).getLsbD 1 = true ∧ (nat (2 * fld w 0 1)).getLsbD 0 = false := by
  have hw : fld w 0 1 = 1 := by
    rw [BitVec.getLsbD, Nat.testBit_zero] at h
    simpa [fld_zero] using h
  rw [hw]
  decide

end

/-- Settles O14: the chunk has ended, and the slot alone changes. -/
theorem trapEntry : Obligations.TrapEntry := by
  rintro s t c v hl hc hg hu hm rfl
  have hmode : modeF s.cur = true ∧ c ≠ 132 ∨ modeF s.cur = false ∧ inSlotCause c = true := hm.imp_right (And.imp_right inSlotCause_of_family)
  have hu' : ((s.chunkDone s.cur).slot s.cur).tstat.getLsbD 0 = true := by rw [State.slot_chunkDone]; exact hu
  have ht : s.raise c v = ({ s.chunkDone s.cur with replay := s.replay.filter (· ≠ s.cur) } : State).modSlot s.cur fun sl => sl.trap c v := by
    rw [State.raise_delivers hl hg, State.deliver_traps hu' hmode, State.chunkDone_replay]
  have hcur : (s.raise c v).cur = s.cur := by rw [ht]; exact State.chunkDone_cur s s.cur
  have hme : (s.raise c v).me = (s.chunkDone s.cur).me.trap c v := by
    rw [State.me, hcur, ht, State.slot_modSlot, if_pos rfl, State.me, State.chunkDone_cur]
    rfl
  rw [State.me_chunkDone] at hme
  obtain ⟨hnest, hue⟩ := getLsbD_nested hu
  refine ⟨?_, ?_, ?_, ?_, ?_, ?_, ?_, ?_, ?_, ?_, ?_, ?_, ?_, ?_, ?_, fun k hk => ?_, State.sameMemory_raise hl hg, ?_, ?_⟩
  case refine_1 => rw [hme]; exact Nat.mod_eq_of_lt hc
  case refine_4 => rw [hme]; exact hnest
  case refine_5 => rw [hme]; exact hue
  case refine_6 => rw [hme]; exact nat_fld_one _
  case refine_16 =>
    have hk' : (s.raise c v).slot k = s.slot k := by
      rw [ht, State.slot_modSlot, if_neg hk]
      exact State.slot_chunkDone_ne s s.cur hk
    rw [hk']
    exact ⟨rfl, rfl⟩
  case refine_17 =>
    rw [ht]
    exact ⟨State.chunkDone_clusters .., State.chunkDone_dies .., State.chunkDone_ctxs .., State.chunkDone_links .., State.chunkDone_sec ..,
      State.chunkDone_net .., State.chunkDone_lines .., State.chunkDone_l1d ..⟩
  case refine_18 => rw [ht]; exact State.chunkDone_frFlight ..
  all_goals rw [hme]; rfl

end Sys2Proof.Machine
end

section
/-! SUPPORT. The heap instructions (R112, R113). -/

namespace Sys2Proof.Machine

section
variable {s s1 : State} {d a b : R6} {p v : W} {c h : Nat}

/-! The checks of a heap pointer -/

theorem State.heapAt_unresolved (hr : s.resolve s.myCore p = .error c) : s.heapAt p = .error c := by
  simp only [State.heapAt, hr]

theorem State.heapAt_outside {t : Tgt} (hr : s.resolve s.myCore p = .ok t)
    (ho : spc p < 3 ∨ 5 < spc p ∨ t.remote = true ∨ t.off % 8 ≠ 0 ∨ t.off + 136 > 0x40000) : s.heapAt p = .error 78 := by
  simp only [State.heapAt, hr]
  refine if_neg fun ⟨h3, h5, hn, h8, he⟩ => ?_
  rcases ho with ho | ho | ho | ho | ho
  · omega
  · omega
  · simp [ho] at hn
  · omega
  · omega

/-! What the instructions do once their operands are there -/

def State.hinitBody (s : State) (p v : W) : State :=
  match s.heapAt p with
  | .error c => s.raiseOpen c
  | .ok h =>
    if v.toNat < 1 ∨ v.toNat > 16 then s.raiseOpen 168
    else (s.write (some s.cur) false h (heapBytes v.toNat 0 (List.replicate 16 0))).retireIrr 4

/-- The entries of the heap at h. -/
def State.heapEntries (s : State) (h : Nat) : List Nat := (List.range 16).map fun j => s.num (h + 8 + 8 * j) 8

/-- What HSIFT leaves of an insertion: its result for rd, and the count and the entries of the heap where they are written back. -/
def State.hsiftEnd (s : State) (d : R6) (h cap : Nat) : Nat × Option (Nat × List Nat) → State
  | (r, none) => s.pure.finish true 4 d (nat r)
  | (r, some (n, l)) => ((s.keeps d h).write (some s.cur) false h (heapBytes cap n l)).finish true 4 d (nat r)

def State.hsiftBody (s : State) (d : R6) (p v : W) : State :=
  match s.heapAt p with
  | .error c => s.raiseOpen c
  | .ok h =>
    let cap := bitsOf (s.num h 8) 8 5
    let n := bitsOf (s.num h 8) 0 5
    if s.anyPoison h 136 then s.raiseOpen 128
    else if s.num h 8 / 2 ^ 13 ≠ 0 ∨ bitsOf (s.num h 8) 5 3 ≠ 0 ∨ cap < 1 ∨ cap > 16 ∨ n > cap then s.raiseOpen 168
    else s.hsiftEnd d h cap (heapInsert cap n (s.heapEntries h) v.toNat)

theorem exec_hinit (ho : Operands s [a, b] none true none [p, v] s1) : exec (.hinit a b) s = .next (s1.hinitBody p v) :=
  congrArg Host.Outcome.next ((State.withOps_reach ho).trans (State.kept_done (.inl rfl)))

theorem exec_hsift (ho : Operands s [a, b] (some d) true none [p, v] s1) : Ends (.hsift d a b) s s1 (some d) (s1.hsiftBody d p v) := by
  show execHsift d a b s = _
  rw [execHsift, State.withOps_reach ho, State.hsiftBody]
  congr 2

theorem State.hinitBody_refused (hh : s.heapAt p = .error c) : s.hinitBody p v = s.raiseOpen c := by
  simp only [State.hinitBody, hh]

theorem State.hsiftBody_refused (hh : s.heapAt p = .error c) : s.hsiftBody d p v = s.raiseOpen c := by
  simp only [State.hsiftBody, hh]

theorem State.hinitBody_badCapacity (hh : s.heapAt p = .ok h) (hv : v.toNat = 0 ∨ 16 < v.toNat) : s.hinitBody p v = s.raiseOpen 168 := by
  simp only [State.hinitBody, hh]
  exact if_pos (by omega)

theorem heapBytes_empty (cap : Nat) : heapBytes cap 0 (List.replicate 16 0) = leBytes (cap * 256) 8 ++ List.replicate 128 0#8 := by
  have hz : (List.replicate 16 0).flatMap (fun e => leBytes e 8) = List.replicate 128 0#8 := by decide
  rw [heapBytes, hz, Nat.add_zero]

theorem State.hinitBody_writes (hh : s.heapAt p = .ok h) (h1 : 1 ≤ v.toNat) (h16 : v.toNat ≤ 16) :
    s.hinitBody p v = (s.write (some s.cur) false h (leBytes (v.toNat * 256) 8 ++ List.replicate 128 0#8)).retireIrr 4 := by
  simp only [State.hinitBody, hh]
  rw [if_neg (by omega), heapBytes_empty]

theorem State.hsiftBody_badHeader (hh : s.heapAt p = .ok h) (hp : s.anyPoison h 136 = false)
    (hb : s.num h 8 ≥ 2 ^ 13 ∨ bitsOf (s.num h 8) 5 3 ≠ 0 ∨ bitsOf (s.num h 8) 8 5 < 1 ∨ bitsOf (s.num h 8) 8 5 > 16 ∨ bitsOf (s.num h 8) 0 5 > bitsOf (s.num h 8) 8 5) :
    s.hsiftBody d p v = s.raiseOpen 168 := by
  simp only [State.hsiftBody, hh, hp, Bool.false_eq_true, if_false]
  exact if_pos (hb.imp_left fun h => by omega)

theorem State.hsiftBody_inserts {cap n : Nat} (hh : s.heapAt p = .ok h) (hp : s.anyPoison h 136 = false) (hl : s.num h 8 < 2 ^ 13)
    (hz : bitsOf (s.num h 8) 5 3 = 0) (hc : cap = bitsOf (s.num h 8) 8 5) (hn : n = bitsOf (s.num h 8) 0 5) (h1 : 1 ≤ cap) (h16 : cap ≤ 16) (hle : n ≤ cap) :
    s.hsiftBody d p v = s.hsiftEnd d h cap (heapInsert cap n (s.heapEntries h) v.toNat) := by
  simp only [State.hsiftBody, hh, hp, Bool.false_eq_true, if_false]
  rw [← hc, ← hn]
  exact if_neg (by omega)

/-! The four ends of an insertion -/

variable {cap n b : Nat} {l : List Nat}

theorem heapInsert_nan (hb : (score b).isNan = true) : heapInsert cap n l b = (b, none) := if_pos hb

theorem heapInsert_room (hb : (score b).isNan = false) (hn : n < cap) :
    heapInsert cap n l b = (2 ^ 64 - 1, some (n + 1, siftUp 5 n (l.set n b))) := by
  rw [heapInsert, if_neg (by simp [hb]), if_pos hn]

theorem heapInsert_replaces (hb : (score b).isNan = false) (hn : n = cap) (hs : (score (l.getD 0 0)).lt (score b) = true) :
    heapInsert cap n l b = (l.getD 0 0, some (n, siftDown 5 n 0 (l.set 0 b))) := by
  rw [heapInsert, if_neg (by simp [hb]), if_neg (by omega), if_pos hs]

theorem heapInsert_rejects (hb : (score b).isNan = false) (hn : n = cap) (hs : (score (l.getD 0 0)).lt (score b) = false) :
    heapInsert cap n l b = (b, some (n, l)) := by
  rw [heapInsert, if_neg (by simp [hb]), if_neg (by omega), hs]
  rfl

end

/-- Settles O24: the pointer's checks, the header's checks, and the four ends of an insertion. -/
theorem heapResults : Obligations.HeapResults := by
  intro d a b s s1 p v
  refine ⟨⟨fun c hc => ⟨fun ho => ?_, fun ho => ?_⟩, fun c => State.heapAt_unresolved, fun t => State.heapAt_outside⟩,
    fun h hh => ⟨fun ho hp hb => ?_, fun ho h1 h16 => ?_, fun ho hv => ?_, fun ho hp hl hz cap n hc hn h1 h16 hle => ?_⟩⟩
  · rw [exec_hinit ho, State.hinitBody_refused hc]
  · exact State.hsiftBody_refused (v := v) hc ▸ exec_hsift ho
  · exact State.hsiftBody_badHeader (v := v) hh hp hb ▸ exec_hsift ho
  · rw [exec_hinit ho, State.hinitBody_writes hh h1 h16]
  · rw [exec_hinit ho, State.hinitBody_badCapacity hh hv]
  · intro l
    have hend := exec_hsift ho
    rw [State.hsiftBody_inserts hh hp hl hz hc hn h1 h16 hle] at hend
    have hv := nat_toNat v
    refine ⟨fun hb => ?_, fun hb he hs => ?_, fun hb he => ?_, fun hb he hs => ?_⟩
    · rwa [heapInsert_nan hb, State.hsiftEnd, hv] at hend
    · rwa [heapInsert_rejects (l := s1.heapEntries h) hb he hs, State.hsiftEnd, hv] at hend
    · rwa [heapInsert_room hb he] at hend
    · rwa [heapInsert_replaces (l := s1.heapEntries h) hb he hs] at hend

end Sys2Proof.Machine
end

section
/-! SUPPORT. The per-slot system registers (R32 to R34, R164), and the instructions of the SYS group (R162 to R166). -/

namespace Sys2Proof.Machine

theorem nat_fld_one_eq_and (w : W) : nat (fld w 1 15 * 2) = w &&& 0xFFFE#64 := by
  have hm : ∀ i : Fin 64, (0xFFFE#64)[i.1] = decide (1 ≤ i.1 ∧ i.1 < 16) := by decide
  rw [nat_fld_one]
  ext i hi
  have h := hm ⟨i, hi⟩
  simp only [] at h
  rw [BitVec.getElem_and, h, BitVec.getElem_setWidth, BitVec.getLsbD_append]
  rcases Nat.eq_zero_or_pos i with rfl | h1
  · simp
  · have he : 1 + (i - 1) = i := by omega
    have hw : w.getLsbD i = w[i] := BitVec.getLsbD_eq_getElem hi
    by_cases h16 : i < 16
    · have h15 : i - 1 < 15 := by omega
      have hz : ¬ i = 0 := by omega
      simp [he, h15, h16, hw, hz, Nat.one_le_iff_ne_zero]
    · have h15 : ¬ i - 1 < 15 := by omega
      have hz : ¬ i = 0 := by omega
      simp [h15, h16, hz]

theorem nat_two_fields (w : W) : nat (fld w 3 1 * 8 + fld w 0 3) = w &&& 0xF#64 := by
  have hf : fld w 3 1 * 8 + fld w 0 3 = fld w 0 4 := by
    simp only [fld, bitsOf, Nat.shiftRight_eq_div_pow]
    omega
  rw [hf]
  exact low_eq_and w (by decide)

theorem chunklim_eq (w : W) : nat (Nat.max 32 (Nat.min 512 w.toNat)) = if w.toNat < 32 then 32#64 else if 512 < w.toNat then 512#64 else w := by
  rcases Nat.lt_or_ge w.toNat 32 with h | h
  · rw [if_pos h, show Nat.max 32 (Nat.min 512 w.toNat) = 32 by simp only [Nat.max_def, Nat.min_def]; split_ifs <;> omega]
    rfl
  · rw [if_neg (by omega)]
    rcases Nat.lt_or_ge 512 w.toNat with h' | h'
    · rw [if_pos h', show Nat.max 32 (Nat.min 512 w.toNat) = 512 by simp only [Nat.max_def, Nat.min_def]; split_ifs <;> omega]
      rfl
    · rw [if_neg (by omega), show Nat.max 32 (Nat.min 512 w.toNat) = w.toNat by simp only [Nat.max_def, Nat.min_def]; split_ifs <;> omega, nat_toNat]

/-! A write of a per-slot register -/

section
variable (sl : Slot) (n : Nat) (w : W)

/-- The writable bits of each register (Tables 01-4 to 01-11), and what the slot keeps. -/
theorem Slot.sysSet_eq : sl.sysSet n w = { sl with
    tvec := if n = 0 then w &&& 0xFFFE#64 else sl.tvec
    tstat := if n = 1 then w &&& 3#64 else sl.tstat
    tcause := if n = 2 then w &&& 0x1FF#64 else sl.tcause
    txpc := if n = 3 then w else sl.txpc
    tval := if n = 4 then w else sl.tval
    fflags := if n = 5 then w &&& 0x1F#64 else sl.fflags
    frm := if n = 6 then nat (fld w 3 1 * 8 + if fld w 0 3 < 5 then fld w 0 3 else fld sl.frm 0 3) else sl.frm
    ftrap := if n = 7 then w &&& 0x1F#64 else sl.ftrap
    monto := if n = 8 then w &&& 0xFFFFFFFF#64 else sl.monto
    chunklim := if n = 9 then (if w.toNat < 32 then 32#64 else if 512 < w.toNat then 512#64 else w) else sl.chunklim
    nestp := if n = 12 then w else sl.nestp
    nestc := if n = 13 then w else sl.nestc
    tscr := if n = 14 then w else sl.tscr } := by
  unfold Slot.sysSet
  split
  case h_14 h0 h1 h2 h3 h4 h5 h6 h7 h8 h9 h12 h13 h14 =>
    rw [if_neg h0, if_neg h1, if_neg h2, if_neg h3, if_neg h4, if_neg h5, if_neg h6, if_neg h7, if_neg h8, if_neg h9, if_neg h12, if_neg h13, if_neg h14]
  all_goals simp [nat_fld_one_eq_and, low_eq_and, chunklim_eq]

end

section
variable {s : State} {k n : Nat} {w : W}

theorem State.setLow_slot (hn : n < 15) : s.setLow k n w = s.modSlot k fun sl => sl.sysSet n w := if_pos (by omega)

theorem State.slot_setLow (hn : n < 15) : (s.setLow k n w).slot k = (s.slot k).sysSet n w := by simp [State.setLow_slot hn]

/-- The registers of the other numbers stay. -/
theorem State.slotReg_setLow_ne (hn : n < 15) {j : Nat} (hj : j ≠ n) : (s.setLow k n w).slotReg k j = s.slotReg k j := by
  have hc : (s.setLow k n w).ctxOf (coreOf k) = s.ctxOf (coreOf k) := State.ctxOf_congr (by rw [State.setLow_slot hn]; rfl) _
  simp only [State.slotReg, State.slotSt, hc, State.slot_setLow hn, Slot.sysSet_eq]
  split <;> simp [hj.symm]

/-- Registers 10 and 11, CTXID and SLOTST, take no write. -/
theorem State.slotReg_setLow_fixed (hn : n < 15) (h : n = 10 ∨ n = 11) : (s.setLow k n w).slotReg k n = s.slotReg k n := by
  have hc : (s.setLow k n w).ctxOf (coreOf k) = s.ctxOf (coreOf k) := State.ctxOf_congr (by rw [State.setLow_slot hn]; rfl) _
  rcases h with rfl | rfl
  · exact congrArg nat hc
  · simp [State.slotReg, State.slotSt, State.slot_setLow hn, Slot.sysSet_eq]

end

theorem slotRegisters : Rules.SlotRegisters := by
  rintro s t k n w rfl hn
  have hs := State.slot_setLow (s := s) (k := k) (w := w) hn
  have hp := State.setLow_slot (s := s) (k := k) (w := w) hn
  rw [Slot.sysSet_eq] at hs
  refine ⟨?_, ?_, ?_, ?_, ?_, ?_, ?_, ?_, State.slotReg_setLow_fixed hn, fun j => State.slotReg_setLow_ne hn, by rw [hs], fun r => ?_, fun j hj => ?_, by rw [hp]; rfl, ?_⟩
  case refine_9 =>
    have ht : (s.setLow k n w).tid k = s.tid k := State.tid_congr (by rw [hp]; rfl) k
    simp only [State.xget, ht, hs]
  case refine_10 => simp [hp, hj]
  case refine_11 => exact .of_eq (by rw [hp]; rfl) (by rw [hp]; rfl) (by rw [hp]; rfl) (by rw [hp]; rfl)
  case refine_6 =>
    rintro rfl h5
    have h5' : fld w 0 3 < 5 := by rwa [fld_zero]
    simp only [State.slotReg, hs, if_true, if_pos h5', nat_two_fields]
  all_goals
    intro h
    rcases h with rfl | rfl | rfl | rfl | rfl <;> simp [State.slotReg, hs]

/-! The SYS group -/

section
variable {s s1 : State} {a b : R6} {x y : W}

theorem exec_trap (ho : Operands s [a] none true none [x] s1) (hb : b.toNat < 16) : exec (.trap a b) s = .next (s1.raise (352 + b.toNat) x) := by
  show execTrap a b s = _
  rw [execTrap, State.withOps_reach ho, State.kept_done (.inl rfl), Nat.mod_eq_of_lt hb]
  rfl

theorem exec_brk (h : s.me.chunk.global = false) : exec .brk s = .next ((s.chunkDone s.cur).raise 368 0#64) :=
  congrArg Host.Outcome.next (State.afterCommit_done h _)

theorem exec_iflush (h : s.me.chunk.global = false) : exec .iflush s = .next (((s.chunkDone s.cur).upd fun sl => { sl with fbuf := [] }).retireIrr 4) :=
  congrArg Host.Outcome.next (State.afterCommit_done h _)

theorem exec_eret (h : s.me.chunk.global = false) : exec .eret s = .next (((s.chunkDone s.cur).upd Slot.eret).retireIrrTo (s.chunkDone s.cur).me.txpc) :=
  congrArg Host.Outcome.next (State.afterCommit_done h _)

theorem exec_waits_commit (h : s.me.chunk.global = true) {i : Instr} (hi : i ∈ [Instr.brk, .iflush, .eret]) :
    exec i s = .next (s.parkRe .parkMem .commit) := by
  simp only [List.mem_cons, List.not_mem_nil, or_false] at hi
  rcases hi with rfl | rfl | rfl <;> exact congrArg Host.Outcome.next (State.afterCommit_waits h _)

/-- The issuing slot after an irrevocable instruction that ended its chunk: what it did to the slot, the PC, and RUN. -/
theorem State.me_retireIrrTo (f : Slot → Slot) (pc : W) :
    ((s.upd f).retireIrrTo pc).me = { f s.me with pc := pc, st := .run, wait := .none, pend := none, latch := {} } := by
  simp only [State.retireIrrTo, State.me_upd]

/-- An instruction that ends its chunk and changes its slot alone leaves memory and units as they were. -/
theorem State.same_retireIrrTo (f : Slot → Slot) (pc : W) :
    SameMemory s (((s.chunkDone s.cur).upd f).retireIrrTo pc) ∧ SameUnits s (((s.chunkDone s.cur).upd f).retireIrrTo pc) :=
  ⟨((State.sameMemory_chunkDone s s.cur).trans (State.sameMemory_upd f)).trans (State.sameMemory_upd _),
   ((State.sameUnits_chunkDone s.cur).trans (State.sameUnits_upd f)).trans (State.sameUnits_upd _)⟩

theorem iflush_leaves (h : s.me.chunk.global = false) : ∃ t, exec .iflush s = .next t ∧ t.me.fbuf = [] ∧ t.me.pc = s.me.pc + 4#64 ∧ t.me.x = s.me.x ∧
    SameSlot s.me t.me ∧ SameMemory s t ∧ SameUnits s t := by
  obtain ⟨hm, hu⟩ := State.same_retireIrrTo (s := s) (fun sl => { sl with fbuf := [] }) (s.me.pc + 4#64)
  have he : exec .iflush s = .next (((s.chunkDone s.cur).upd fun sl => { sl with fbuf := [] }).retireIrrTo (s.me.pc + 4#64)) := by
    rw [exec_iflush h, State.retireIrr, State.me_upd, State.me_chunkDone]
    rfl
  refine ⟨_, he, ?_, ?_, ?_, ?_, hm, hu⟩ <;> rw [State.me_retireIrrTo, State.me_chunkDone]
  exact ⟨rfl, rfl, rfl, rfl, rfl, rfl, rfl, rfl, rfl, rfl, rfl, rfl, rfl, rfl, rfl, rfl, rfl⟩

theorem getLsbD_nest (w : W) : (nat (fld w 1 1)).getLsbD 0 = w.getLsbD 1 ∧ (nat (fld w 1 1)).getLsbD 1 = false := by
  have hd : fld w 1 1 = w.toNat / 2 % 2 := by simp [fld, bitsOf, Nat.shiftRight_eq_div_pow]
  rw [hd]
  constructor
  · rw [nat, BitVec.getLsbD_ofNat, BitVec.getLsbD, Nat.testBit_zero, Nat.testBit_succ, Nat.testBit_zero]
    simp
  · rw [nat, BitVec.getLsbD_ofNat, Nat.testBit_succ, show w.toNat / 2 % 2 / 2 = 0 by omega]
    simp

theorem eret_leaves (h : s.me.chunk.global = false) : ∃ t, exec .eret s = .next t ∧ t.me.pc = s.me.txpc ∧
    t.me.tstat.getLsbD 0 = s.me.tstat.getLsbD 1 ∧ t.me.tstat.getLsbD 1 = false ∧ t.me.x = s.me.x ∧
    t.me.tcause = s.me.tcause ∧ t.me.txpc = s.me.txpc ∧ t.me.tval = s.me.tval ∧ t.me.tvec = s.me.tvec ∧ t.me.fflags = s.me.fflags ∧
    SameMemory s t ∧ SameUnits s t := by
  obtain ⟨hm, hu⟩ := State.same_retireIrrTo (s := s) Slot.eret (s.chunkDone s.cur).me.txpc
  refine ⟨_, exec_eret h, ?_, ?_, ?_, ?_, ?_, ?_, ?_, ?_, ?_, hm, hu⟩ <;> rw [State.me_retireIrrTo, State.me_chunkDone]
  · exact (getLsbD_nest _).1
  · exact (getLsbD_nest _).2
  all_goals rfl

/-- What CFLUSH does once its operands are there. -/
def State.cflushBody (s : State) (p : W) (n : Nat) : State :=
  s.onReply (fun _ s => s.retireIrr 4) fun s =>
    match s.resolve s.myCore p with
    | .error c => s.raise c p
    | .ok t =>
      if spc p ≠ 0 ∧ spc p ≠ 6 then s.raise 85 p
      else match (if n = 0 then .ok t else t.extent n) with
      | .error c => s.raise c p
      | .ok t => ((s.cflush t.at_ n).send (s.ctxOf s.myCore) (portSlice 0) s.myCore (.reply s.cur 0 (.val 0#512))).park .parkMem .system

theorem exec_cflush (ho : Operands s [a, b] none true none [x, y] s1) : exec (.cflush a b) s = .next (s1.cflushBody x y.toNat) :=
  congrArg Host.Outcome.next ((State.withOps_reach ho).trans (State.kept_done (.inl rfl)))

theorem State.cflushBody_reply {n : Nat} {v : V512} (hr : s.me.latch.res = some v) : s.cflushBody x n = s.retireIrr 4 := by
  simp only [State.cflushBody, State.onReply, hr]

theorem State.cflushBody_unresolved {n c : Nat} (hr : s.me.latch.res = none) (hx : s.resolve s.myCore x = .error c) : s.cflushBody x n = s.raise c x := by
  simp only [State.cflushBody, State.onReply, hr, hx]

theorem State.cflushBody_space {n : Nat} {t : Tgt} (hr : s.me.latch.res = none) (hx : s.resolve s.myCore x = .ok t) (h0 : spc x ≠ 0) (h6 : spc x ≠ 6) :
    s.cflushBody x n = s.raise 85 x := by
  simp only [State.cflushBody, State.onReply, hr, hx]
  exact if_pos ⟨h0, h6⟩

theorem State.cflushBody_drops {n : Nat} {t : Tgt} (hr : s.me.latch.res = none) (hx : s.resolve s.myCore x = .ok t) (hs : spc x = 0 ∨ spc x = 6)
    (hn : n = 0 ∨ t.off + n ≤ 2 ^ t.width ∧ t.off + n ≤ t.limit) :
    s.cflushBody x n = ((s.cflush t.at_ n).send (s.ctxOf s.myCore) (portSlice 0) s.myCore (.reply s.cur 0 (.val 0#512))).park .parkMem .system := by
  have he : (if n = 0 then .ok t else t.extent n) = .ok t := by
    split
    · rfl
    · obtain ⟨hb, hl⟩ := hn.resolve_left ‹_›
      exact Tgt.extent_within hb hl
  simp only [State.cflushBody, State.onReply, hr, hx, he]
  exact if_neg fun ⟨h0, h6⟩ => hs.elim h0 h6

end

theorem systemResults : Rules.SystemResults := by
  intro a b s s1 x y
  refine ⟨exec_trap, fun h i hi => exec_waits_commit h hi, fun h => ⟨exec_brk h, iflush_leaves h, eret_leaves h⟩, fun ho => ⟨fun v hr => ?_, fun hr => ⟨fun c hx => ?_, fun t hx => ⟨fun h0 h6 => ?_, fun hs hn => ?_⟩⟩⟩⟩ <;>
    rw [exec_cflush ho]
  · rw [State.cflushBody_reply hr]
  · rw [State.cflushBody_unresolved hr hx]
  · rw [State.cflushBody_space hr hx h0 h6]
  · rw [State.cflushBody_drops hr hx hs hn]

/-- Settles O46: each instruction of the group after its chunk, and the writable bits register by register. -/
theorem systemInstructions : Obligations.SystemInstructions := ⟨systemResults, slotRegisters⟩

end Sys2Proof.Machine
end

section
/-! SUPPORT. The write of a destination field, the end of an instruction, and what they leave as it was (R25, R26, R250, R256). -/

namespace Sys2Proof.Machine

theorem isG_iff (d : R6) : isG d = true ↔ 32 ≤ d.toNat := by
  have := d.isLt
  rw [isG, BitVec.getLsbD, Nat.testBit_eq_decide_div_mod_eq]
  simp only [decide_eq_true_eq]
  omega

theorem isQ_of_private {d : R6} (h : isG d = false) : isQ d = false := by
  have := mt (isG_iff d).2 (by simp [h])
  simp only [isQ, Bool.and_eq_false_iff, decide_eq_false_iff_not]
  omega

section
variable {s : State} {d : R6} {v : W} {k c r : Nat}

/-! The write of a destination -/

theorem State.wr_private (h : isG d = false) : s.wr d v = s.xset s.cur d.toNat v := by simp [State.wr, h]

theorem State.wr_shared (h : isG d = true) : s.wr d v = s.gset s.cur (d.toNat - 32) v := by simp [State.wr, h]

/-- The write of a destination touches the file of the slot and the writes that wait in its core alone. -/
theorem State.wr_eq (s : State) (d : R6) (v : W) : s.wr d v = { s with slots := (s.wr d v).slots, cores := (s.wr d v).cores } := by
  unfold State.wr State.xset State.gset
  split_ifs <;> rfl

theorem State.wr_cur (s : State) (d : R6) (v : W) : (s.wr d v).cur = s.cur := (congrArg State.cur (s.wr_eq d v) :)
theorem State.wr_ctxs (s : State) (d : R6) (v : W) : (s.wr d v).ctxs = s.ctxs := (congrArg State.ctxs (s.wr_eq d v) :)
theorem State.wr_myCore (s : State) (d : R6) (v : W) : (s.wr d v).myCore = s.myCore := congrArg coreOf (s.wr_cur d v)

theorem State.sameMemory_wr (s : State) (d : R6) (v : W) : SameMemory s (s.wr d v) :=
  .of_eq (congrArg State.mem (s.wr_eq d v) :) (congrArg State.empty (s.wr_eq d v) :) (congrArg State.poison (s.wr_eq d v) :) (congrArg State.lines (s.wr_eq d v) :)

theorem State.sameUnits_wr (s : State) (d : R6) (v : W) : SameUnits s (s.wr d v) :=
  ⟨(congrArg State.clusters (s.wr_eq d v) :), (congrArg State.dies (s.wr_eq d v) :), (congrArg State.ctxs (s.wr_eq d v) :), (congrArg State.links (s.wr_eq d v) :),
   (congrArg State.sec (s.wr_eq d v) :), (congrArg State.net (s.wr_eq d v) :), (congrArg State.lines (s.wr_eq d v) :), (congrArg State.l1d (s.wr_eq d v) :)⟩

/-- Of the slots it touches the scalar registers of the issuing one. -/
theorem State.slot_wr_ne (h : k ≠ s.cur) : (s.wr d v).slot k = s.slot k := by
  unfold State.wr State.xset State.gset
  split_ifs <;> simp [h]

theorem State.me_wr (s : State) (d : R6) (v : W) : ∃ x, (s.wr d v).me = { s.me with x := x } := by
  unfold State.wr State.xset State.gset
  split_ifs
  · exact ⟨s.me.x, rfl⟩
  · exact ⟨s.me.x, rfl⟩
  · exact ⟨s.me.x, rfl⟩
  · exact ⟨s.me.x.put d.toNat v, by simp [State.me]⟩

theorem State.core_wr_private (h : isG d = false) : (s.wr d v).core c = s.core c := by
  rw [State.wr_private h, State.xset]
  split <;> rfl

theorem State.core_wr_ne (h : c ≠ s.myCore) : (s.wr d v).core c = s.core c := by
  unfold State.wr State.xset State.gset
  split_ifs <;> simp [State.myCore] at h ⊢
  exact fun he => absurd he h

/-- What waits to land after the write of a shared destination. -/
theorem State.core_wr_shared (h : isG d = true) :
    (s.wr d v).core s.myCore = { s.core s.myCore with gpend := (s.core s.myCore).gpend ++ (if d.toNat < 48 then [⟨s.cur, d.toNat - 32, v⟩] else []) } := by
  have hd := (isG_iff d).1 h
  rw [State.wr_shared h]
  by_cases h48 : d.toNat < 48
  · rw [State.gset_waits (by omega), if_pos h48, State.myCore, State.core_modCore, if_pos rfl]
  · rw [State.gset_none (by omega), if_neg h48, List.append_nil]

theorem State.xget_wr_private (h : isG d = false) :
    (s.wr d v).xget s.cur d.toNat = if d = 0#6 then 0#64 else if d = 31#6 then nat (s.tid s.cur) else v := by
  rw [State.wr_private h]
  by_cases h0 : d = 0#6
  · rw [if_pos h0, h0]
    rfl
  · rw [if_neg h0]
    by_cases h31 : d = 31#6
    · rw [if_pos h31, h31]
      rfl
    · rw [if_neg h31]
      refine State.xget_xset_same (not_or_intro (fun h => h0 (BitVec.eq_of_toNat_eq h)) (fun h => h31 (BitVec.eq_of_toNat_eq h)))

theorem State.xget_wr_ne (h : isG d = true ∨ k ≠ s.cur ∨ d.toNat ≠ r) : (s.wr d v).xget k r = s.xget k r := by
  by_cases hg : isG d = true
  · refine State.xget_congr (State.tid_congr (s.wr_ctxs d v) k) ?_
    rw [State.wr_shared hg, State.gset]
    split <;> rfl
  · have hp : isG d = false := by simpa using hg
    rw [State.wr_private hp]
    exact State.xget_xset_ne (h.resolve_left hg)

/-- A read of the bank, but for the register of slot states. -/
theorem State.gget_congr_below {t : State} (hc : t.ctxs = s.ctxs) (hn : (t.core c).cyc = (s.core c).cyc)
    (hg : Tbl.get 0#64 (t.core c).g r = Tbl.get 0#64 (s.core c).g r) (h : r < 31) : t.gget c r = s.gget c r := by
  simp only [State.gget, hn, hg, State.vcl_congr hc, Nat.ne_of_lt h, if_false]

theorem State.gget_wr (h : r < 31) : (s.wr d v).gget c r = s.gget c r := by
  by_cases hg : isG d = true
  · rw [State.wr_shared hg, State.gget_gset]
  · have hc := State.core_wr_private (s := s) (v := v) (c := c) (by simpa using hg)
    exact State.gget_congr_below (s.wr_ctxs d v) (by rw [hc]) (by rw [hc]) h

/-! An update of the issuing slot that leaves its scalar registers -/

theorem State.xget_upd {f : Slot → Slot} (hx : (f s.me).x = s.me.x) : (s.upd f).xget k r = s.xget k r := by
  refine State.xget_congr (State.tid_congr rfl k) ?_
  rw [State.slot_upd]
  split
  · subst_vars
    rw [hx]
    rfl
  · rfl

theorem State.gget_upd {f : Slot → Slot} (h : r < 31) : (s.upd f).gget c r = s.gget c r := State.gget_congr_below rfl rfl rfl h

/-! The end of an instruction that belongs to no chunk -/

/-- The slot of an instruction that has ended. -/
abbrev Slot.ended (sl : Slot) (pc : W) : Slot := { sl with pc := pc, st := .run, wait := .none, pend := none, latch := {} }

theorem State.retireIrrTo_eq (s : State) (pc : W) : s.retireIrrTo pc = s.upd fun sl => sl.ended pc := rfl

/-- An instruction writes its destination and ends: the slot alone has changed, but for what waits to land. -/
theorem State.me_wr_ended (s : State) (d : R6) (v pc : W) : ∃ x, ((s.wr d v).retireIrrTo pc).me = { s.me.ended pc with x := x } := by
  obtain ⟨x, hx⟩ := s.me_wr d v
  exact ⟨x, by rw [State.retireIrrTo_eq, State.me_upd, hx]⟩

theorem State.slot_wr_ended (pc : W) (h : k ≠ s.cur) : ((s.wr d v).retireIrrTo pc).slot k = s.slot k := by
  rw [State.retireIrrTo_eq, State.slot_upd, State.wr_cur, if_neg h, State.slot_wr_ne h]

theorem State.xget_wr_ended (pc : W) : ((s.wr d v).retireIrrTo pc).xget k r = (s.wr d v).xget k r := State.xget_upd rfl

theorem State.gget_wr_ended (pc : W) (h : r < 31) : ((s.wr d v).retireIrrTo pc).gget c r = s.gget c r := (State.gget_upd h).trans (State.gget_wr h)

theorem State.sameMemory_wr_ended (s : State) (d : R6) (v pc : W) : SameMemory s ((s.wr d v).retireIrrTo pc) :=
  (s.sameMemory_wr d v).trans (State.sameMemory_upd _)

theorem State.sameUnits_wr_ended (s : State) (d : R6) (v pc : W) : SameUnits s ((s.wr d v).retireIrrTo pc) :=
  (s.sameUnits_wr d v).trans (State.sameUnits_upd _)

/-- An instruction that belongs to no chunk finishes into a register. -/
theorem State.finish_register (h : isQ d = false) (len : Nat) : s.finish true len d v = (s.wr d v).retireIrrTo (s.me.pc + nat len) := by
  obtain ⟨x, hx⟩ := s.me_wr d v
  simp only [State.finish, h, Bool.false_and, Bool.false_eq_true, if_false, Bool.true_or, if_true]
  rw [State.retireIrr, hx]

end

/-- Settles O25: the write of the destination, and then the slot that goes on. -/
theorem finishFrame : Obligations.FinishFrame := by
  rintro s t len d v hq rfl
  rw [State.finish_register hq]
  obtain ⟨x, hme⟩ := s.me_wr_ended d v (s.me.pc + nat len)
  have hcur : ((s.wr d v).retireIrrTo (s.me.pc + nat len)).cur = s.cur := s.wr_cur d v
  refine ⟨hcur, by rw [hme], by rw [hme], by rw [hme], fun hp h0 h31 => ?_, ?_, fun r hr => ?_, fun c r hr => State.gget_wr_ended _ hr, fun c hc => State.core_wr_ne hc, ?_,
    by rw [hme], fun k hk => State.slot_wr_ended _ hk, s.sameMemory_wr_ended d v _, s.sameUnits_wr_ended d v _⟩
  · rw [State.xget_wr_ended, State.xget_wr_private hp, if_neg h0, if_neg h31]
  · show ((s.wr d v).core s.myCore).gpend = _
    by_cases hg : isG d = true
    · rw [State.core_wr_shared hg]
      simp [hg]
    · rw [State.core_wr_private (by simpa using hg)]
      simp [hg]
  · rw [State.xget_wr_ended]
    exact State.xget_wr_ne (hr.imp_right fun h => .inr h.symm)
  · rw [hme]
    constructor <;> rfl

end Sys2Proof.Machine
end

section
/-! SUPPORT. The completion of a register instruction: what it notes, its write, and its end inside its chunk or outside (R20, R66, R250). -/

namespace Sys2Proof.Machine

section
variable {s : State} {dst : Option R6} {e : Eff} {v : W} {k c r : Nat}

/-! The end of an instruction inside its chunk -/

/-- The issuing slot after an instruction of its chunk: it goes on, or waits for the commit of a chunk that has reached its limit (R250). -/
structure Slot.Retired (a b : Slot) (pc : W) : Prop where
  same : SameSlot a b
  x : b.x = a.x
  pc : b.pc = pc
  fflags : b.fflags = a.fflags
  hold : b.hold = a.hold
  waits : a.chunk.global = true → b.st = .run ∨ b.wait = .commit
  runs : a.chunk.global = false → b.st = .run

/-- The instruction is counted: the slot before its chunk is held to the limit. -/
abbrev State.counted (s : State) (pc : W) : State :=
  s.upd fun sl => { sl with pc := pc, st := .run, wait := .none, pend := none, latch := {}, chunk := { sl.chunk with count := sl.chunk.count + 1 } }

theorem State.limitChunk_cases (s : State) (k : Nat) :
    s.limitChunk k = s ∨ ((s.slot k).chunk.global = false ∧ s.limitChunk k = s.chunkDone k) ∨
    ((s.slot k).chunk.global = true ∧
      s.limitChunk k = s.modSlot k fun sl => { sl with st := .parkMem, wait := .commit, pend := none, latch := {}, commitReq := false }) := by
  simp only [State.limitChunk]
  split
  · split
    · next hg => exact .inr (.inr ⟨hg, rfl⟩)
    · next hg => exact .inr (.inl ⟨by simpa using hg, rfl⟩)
  · exact .inl rfl

theorem State.global_counted (s : State) (pc : W) : ((s.counted pc).slot s.cur).chunk.global = s.me.chunk.global := by
  simp [State.counted, State.slot_upd, Chunk.global]

theorem State.me_counted (s : State) (pc : W) : Slot.Retired s.me ((s.counted pc).slot s.cur) pc := by
  rw [State.slot_upd, if_pos rfl]
  exact ⟨by constructor <;> rfl, rfl, rfl, rfl, rfl, fun _ => .inl rfl, fun _ => rfl⟩

theorem State.retired (s : State) (pc : W) : Slot.Retired s.me ((s.retireTo pc).slot s.cur) pc := by
  have hm := s.me_counted pc
  have hg := s.global_counted pc
  rcases (s.counted pc).limitChunk_cases s.cur with h | ⟨h0, h⟩ | ⟨h1, h⟩
  · rw [State.retireTo, h]
    exact hm
  · obtain ⟨hs, hx, hpc, hf, hh, hw, hr⟩ := hm
    rw [State.retireTo, h, State.slot_chunkDone]
    exact ⟨⟨hs.1, hs.2, hs.3, hs.4, hs.5, hs.6, hs.7, hs.8, hs.9, hs.10, hs.11, hs.12, hs.13, hs.14, hs.15, hs.16, hs.17⟩, hx, hpc, hf, hh, hw, hr⟩
  · obtain ⟨hs, hx, hpc, hf, hh, hw, hr⟩ := hm
    rw [State.retireTo, h, State.slot_modSlot, if_pos rfl]
    exact ⟨⟨hs.1, hs.2, hs.3, hs.4, hs.5, hs.6, hs.7, hs.8, hs.9, hs.10, hs.11, hs.12, hs.13, hs.14, hs.15, hs.16, hs.17⟩, hx, hpc, hf, hh,
      fun _ => .inr rfl, fun h0 => by rw [hg, h0] at h1; cases h1⟩

/-- Beyond the issuing slot, the core's CMCNT and the solo grant the end of an instruction changes nothing. -/
structure State.Elsewhere (s t : State) : Prop where
  cur : t.cur = s.cur
  ctxs : t.ctxs = s.ctxs
  slots : ∀ j, j ≠ s.cur → t.slot j = s.slot j
  cores : ∀ c, ∃ n, t.core c = { s.core c with cmcnt := n }
  mem : SameMemory s t
  units : SameUnits s t

theorem State.Elsewhere.upd (s : State) (f : Slot → Slot) : s.Elsewhere (s.upd f) :=
  ⟨rfl, rfl, fun _ hk => by rw [State.slot_upd, if_neg hk], fun c => ⟨(s.core c).cmcnt, rfl⟩, State.sameMemory_upd f, State.sameUnits_upd f⟩

theorem State.Elsewhere.refl (s : State) : s.Elsewhere s := ⟨rfl, rfl, fun _ _ => rfl, fun c => ⟨(s.core c).cmcnt, rfl⟩, .of_eq rfl rfl rfl rfl, ⟨rfl, rfl, rfl, rfl, rfl, rfl, rfl, rfl⟩⟩

theorem State.Elsewhere.chunkDone (s : State) : s.Elsewhere (s.chunkDone s.cur) :=
  ⟨s.chunkDone_cur _, s.chunkDone_ctxs _, fun _ hk => s.slot_chunkDone_ne _ hk, s.core_chunkDone _, s.sameMemory_chunkDone _, State.sameUnits_chunkDone _⟩

theorem State.Elsewhere.trans {t u : State} (h : s.Elsewhere t) (g : t.Elsewhere u) : s.Elsewhere u where
  cur := g.cur.trans h.cur
  ctxs := g.ctxs.trans h.ctxs
  slots k hk := (g.slots k (by rwa [h.cur])).trans (h.slots k hk)
  cores c := by
    obtain ⟨n, hn⟩ := h.cores c
    obtain ⟨m, hm⟩ := g.cores c
    exact ⟨m, by rw [hm, hn]⟩
  mem := h.mem.trans g.mem
  units := h.units.trans g.units

theorem State.elsewhere_retireTo (s : State) (pc : W) : s.Elsewhere (s.retireTo pc) := by
  suffices h : (s.counted pc).Elsewhere ((s.counted pc).limitChunk s.cur) from (State.Elsewhere.upd s _).trans h
  rcases (s.counted pc).limitChunk_cases s.cur with h | ⟨-, h⟩ | ⟨-, h⟩
  · rw [h]
    exact .refl _
  · rw [h]
    exact .chunkDone (s.counted pc)
  · rw [h]
    exact .upd (s.counted pc) _

/-! What a completed instruction notes, and its write -/

/-- The flags that are collected (R66). -/
def State.noteFlags (s : State) (f : Nat) : State := if f = 0 then s else s.upd fun sl => sl.orFlags f

/-- The further home turns that are noted (R20). -/
def State.noteHold (s : State) (h : Nat) : State := if h = 0 then s else s.upd fun sl => { sl with hold := h }

/-- What an instruction notes before its write. -/
def State.noted (s : State) (e : Eff) : State := (s.noteFlags e.flags).noteHold (if e.norm then 0 else e.hold)

/-- The write of the destination, if there is one. -/
def State.wrTo (s : State) (dst : Option R6) (v : W) : State :=
  match dst with
  | none => s
  | some d => s.wr d v

theorem State.elsewhere_noteFlags (s : State) (f : Nat) : s.Elsewhere (s.noteFlags f) := by
  unfold State.noteFlags
  split
  · exact .refl s
  · exact .upd s _

theorem State.elsewhere_noteHold (s : State) (h : Nat) : s.Elsewhere (s.noteHold h) := by
  unfold State.noteHold
  split
  · exact .refl s
  · exact .upd s _

theorem State.elsewhere_noted (s : State) (e : Eff) : s.Elsewhere (s.noted e) := (s.elsewhere_noteFlags _).trans (State.elsewhere_noteHold _ _)

theorem State.cores_noted (s : State) (e : Eff) : (s.noted e).cores = s.cores := by
  unfold State.noted State.noteHold State.noteFlags
  split_ifs <;> rfl

theorem State.me_noted (s : State) (e : Eff) : (s.noted e).me =
    { s.me with fflags := s.me.fflags ||| nat (e.flags % 32), hold := if e.norm = true ∨ e.hold = 0 then s.me.hold else e.hold } := by
  have hz : nat (0 % 32) = 0#64 := rfl
  cases hn : e.norm <;> by_cases hf : e.flags = 0 <;> by_cases hh : e.hold = 0 <;> simp [State.noted, State.noteFlags, State.noteHold, Slot.orFlags, hn, hf, hh, hz]

/-- The completion of a register instruction that is not served by the normaliser, takes no trap and pushes nothing (R111). -/
theorem State.effect_register {len : Nat} (hq : dst.filter isQ = none) (hn : e.norm = false ∨ s.me.latch.res.isSome = true) (hf : s.me.fpTrap e.flags = none) :
    s.effect len dst (.ok e) =
      if s.me.latch.stage ≠ 0 ∨ dst.any isG = true then ((s.noted e).wrTo dst e.val).retireIrrTo (e.pc.getD (s.me.pc + nat len))
      else ((s.noted e).wrTo dst e.val).retireTo (e.pc.getD (s.me.pc + nat len)) := by
  have hn' : (e.norm && s.me.latch.res.isNone) = false := by
    rcases hn with h | h
    · simp [h]
    · simp [Option.isNone_eq_false_iff, h]
  have hl : (s.noted e).me.latch = s.me.latch := by rw [State.me_noted]
  simp only [State.effect, hn', hf, hq, Bool.false_eq_true, if_false]
  cases dst with
  | none =>
    show (if (s.noted e).me.latch.stage ≠ 0 then ((s.noted e).wrTo none e.val).retireIrrTo _ else ((s.noted e).wrTo none e.val).retireTo _) = _
    simp [hl]
  | some d =>
    show (if (decide ((s.noted e).me.latch.stage ≠ 0) || isG d) = true then ((s.noted e).wrTo (some d) e.val).retireIrrTo _
      else ((s.noted e).wrTo (some d) e.val).retireTo _) = _
    simp [hl]

/-! What the write of a destination of the slot, or none, leaves -/

theorem State.me_wrTo (s : State) (dst : Option R6) (v : W) : ∃ x, (s.wrTo dst v).me = { s.me with x := x } := by
  cases dst with
  | none => exact ⟨s.me.x, rfl⟩
  | some d => exact s.me_wr d v

theorem State.elsewhere_wrTo (h : ∀ d, dst = some d → isG d = false) : s.Elsewhere (s.wrTo dst v) := by
  cases dst with
  | none => exact .refl s
  | some d =>
    exact ⟨s.wr_cur d v, s.wr_ctxs d v, fun _ => State.slot_wr_ne, fun c => ⟨(s.core c).cmcnt, State.core_wr_private (h d rfl)⟩, s.sameMemory_wr d v, s.sameUnits_wr d v⟩

theorem State.xget_noted : (s.noted e).xget k r = s.xget k r := by
  have hc := (s.elsewhere_noted e).ctxs
  refine State.xget_congr (State.tid_congr hc k) ?_
  by_cases hk : k = s.cur
  · have hm : (s.noted e).slot s.cur = (s.noted e).me := by rw [State.me, (s.elsewhere_noted e).cur]
    rw [hk, hm, State.me_noted]
    rfl
  · rw [(s.elsewhere_noted e).slots k hk]

theorem State.xget_wrTo_same {d : R6} (h : isG d = false) :
    ((s.noted e).wrTo (some d) v).xget s.cur d.toNat = if d = 0#6 then 0#64 else if d = 31#6 then nat (s.tid s.cur) else v := by
  have hc := s.elsewhere_noted e
  have hw := State.xget_wr_private (s := s.noted e) (v := v) h
  rwa [State.tid_congr hc.ctxs, hc.cur] at hw

theorem State.xget_wrTo_ne (h : dst.map BitVec.toNat ≠ some r) : ((s.noted e).wrTo dst v).xget k r = s.xget k r := by
  cases dst with
  | none => exact State.xget_noted
  | some d => exact (State.xget_wr_ne (.inr (.inr fun hr => h (by rw [← hr]; rfl)))).trans State.xget_noted

/-- What a register instruction with a destination of the slot or none has written and noted. -/
theorem State.noted_written (hd : ∀ d, dst = some d → isG d = false) :
    s.Elsewhere ((s.noted e).wrTo dst v) ∧ ∃ x, ((s.noted e).wrTo dst v).me =
      { s.me with x := x, fflags := s.me.fflags ||| nat (e.flags % 32), hold := if e.norm = true ∨ e.hold = 0 then s.me.hold else e.hold } := by
  obtain ⟨x, hx⟩ := (s.noted e).me_wrTo dst v
  exact ⟨(s.elsewhere_noted e).trans (State.elsewhere_wrTo hd), x, by rw [hx, State.me_noted]⟩

/-- The end of an instruction, inside its chunk or, where it has popped, outside. -/
theorem State.ends (u : State) (popped : Prop) [Decidable popped] (pc : W) :
    u.Elsewhere (if popped then u.retireIrrTo pc else u.retireTo pc) ∧
    Slot.Retired u.me ((if popped then u.retireIrrTo pc else u.retireTo pc).slot u.cur) pc ∧
    (popped → (if popped then u.retireIrrTo pc else u.retireTo pc).slot u.cur = u.me.ended pc) := by
  split
  · have hs : (u.retireIrrTo pc).slot u.cur = u.me.ended pc := by rw [State.retireIrrTo_eq, State.slot_upd, if_pos rfl]
    rw [hs]
    exact ⟨.upd u _, ⟨by constructor <;> rfl, rfl, rfl, rfl, rfl, fun _ => .inl rfl, fun _ => rfl⟩, fun _ => rfl⟩
  · next hn => exact ⟨u.elsewhere_retireTo pc, u.retired pc, fun h => absurd h hn⟩

end

theorem SameCore.of_cmcnt (a : Core) (n : Nat) : SameCore a { a with cmcnt := n } := ⟨rfl, rfl, rfl, rfl, rfl, rfl, rfl⟩

theorem resultPrivate : Rules.ResultPrivate := by
  rintro s t len dst e hd hn hf rfl
  have hq : dst.filter isQ = none := by
    cases dst with
    | none => rfl
    | some d => simp [Option.filter, isQ_of_private (hd d rfl)]
  have hg : dst.any isG = false := by
    cases dst with
    | none => rfl
    | some d => simp [hd d rfl]
  have hpop : (s.me.latch.stage ≠ 0 ∨ dst.any isG = true) ↔ s.me.latch.stage ≠ 0 := by simp [hg]
  obtain ⟨hu, x, hme⟩ := State.noted_written (s := s) (e := e) (v := e.val) hd
  rw [State.effect_register hq hn hf]
  set u := (s.noted e).wrTo dst e.val with hudef
  set next := e.pc.getD (s.me.pc + nat len)
  obtain ⟨ht, hr, hirr⟩ := u.ends (s.me.latch.stage ≠ 0 ∨ dst.any isG = true) next
  set t := if s.me.latch.stage ≠ 0 ∨ dst.any isG = true then u.retireIrrTo next else u.retireTo next
  have hst := hu.trans ht
  have htm : t.slot u.cur = t.me := by rw [State.me, ht.cur]
  rw [htm, hme] at hr
  obtain ⟨hsame, hx, hpc, hff, hhold, hwait, hrun⟩ := hr
  have hxget : ∀ r, t.xget s.cur r = u.xget s.cur r := fun r => by
    refine State.xget_congr ((State.tid_congr hst.ctxs _).trans (State.tid_congr hu.ctxs _).symm) ?_
    rw [← hu.cur, htm, hx, ← State.me, hme]
  refine ⟨State.kept_done (.inl ?_), hst.cur, hpc, fun d he => ?_, fun r hr => ?_, hff, hhold, ?_, fun k hk => ?_, fun c => ?_, hst.mem, hst.units,
    fun _ hg => hwait hg, fun _ hg => hrun hg, fun hs => ?_⟩
  · cases dst with
    | none => rfl
    | some d => simp [isQ_of_private (hd d rfl)]
  · rw [hxget, hudef, he]
    exact State.xget_wrTo_same (hd d he)
  · rw [hxget]
    exact State.xget_wrTo_ne hr
  · exact ⟨hsame.1, hsame.2, hsame.3, hsame.4, hsame.5, hsame.6, hsame.7, hsame.8, hsame.9, hsame.10, hsame.11, hsame.12, hsame.13, hsame.14, hsame.15, hsame.16, hsame.17⟩
  · rw [hst.slots k hk]
    exact ⟨rfl, rfl, by constructor <;> rfl⟩
  · obtain ⟨n, hc⟩ := hst.cores c
    rw [hc]
    exact SameCore.of_cmcnt _ n
  · have hend := hirr (.inl hs)
    rw [htm, hme] at hend
    exact ⟨by rw [hend], by rw [hend], hst.slots⟩

/-- The completion of a register instruction into the shared bank. -/
theorem State.effect_shared {s : State} {d : R6} {e : Eff} {len : Nat} (hd : isG d = true) (hq : isQ d = false)
    (hn : e.norm = false ∨ s.me.latch.res.isSome = true) (hf : s.me.fpTrap e.flags = none) :
    s.effect len (some d) (.ok e) = ((s.noted e).wr d e.val).retireIrrTo (e.pc.getD (s.me.pc + nat len)) := by
  rw [State.effect_register (by simp [Option.filter, hq]) hn hf, if_pos (.inr hd)]
  rfl

theorem resultShared : Rules.ResultShared := by
  rintro s t len d e hd hq hn hf rfl
  rw [State.effect_shared hd hq hn hf]
  set u := s.noted e with hudef
  have hu := s.elsewhere_noted e
  have hcores := s.cores_noted e
  have hcore : ∀ c, u.core c = s.core c := State.core_congr hcores
  have hmy : u.myCore = s.myCore := congrArg coreOf hu.cur
  obtain ⟨x, hme⟩ := u.me_wr_ended d e.val (e.pc.getD (s.me.pc + nat len))
  rw [hudef, State.me_noted] at hme
  set t := (u.wr d e.val).retireIrrTo (e.pc.getD (s.me.pc + nat len))
  have hcur : t.cur = s.cur := (u.wr_cur d e.val).trans hu.cur
  refine ⟨State.kept_done (.inl (by simp [hq])), hcur, by rw [hme], by rw [hme], by rw [hme], by rw [hme], ?_, fun k r => ?_, fun c r hr => ?_, fun c hc => ?_, ?_, fun k hk => ?_,
    hu.mem.trans (u.sameMemory_wr_ended d _ _), hu.units.trans (u.sameUnits_wr_ended d _ _)⟩
  · have hw := State.core_wr_shared (s := u) (v := e.val) hd
    rw [hmy, hcore, hu.cur] at hw
    exact congrArg Core.gpend hw
  · exact (State.xget_wr_ended _).trans ((State.xget_wr_ne (.inl hd)).trans State.xget_noted)
  · refine (State.gget_wr_ended _ hr).trans (State.gget_congr_below hu.ctxs ?_ ?_ hr) <;> rw [hcore]
  · exact (State.core_wr_ne (by rwa [hmy])).trans (hcore c)
  · rw [hme]
    constructor <;> rfl
  · exact (State.slot_wr_ended _ (by rwa [hu.cur])).trans (hu.slots k hk)

theorem heldTurns : Rules.HeldTurns := by
  intro s c r ha hc hr hi he hh
  refine ⟨?_, fun u k => ⟨?_, fun j hj => ?_⟩⟩
  · have hissues : ({ s with agenda := r } : State).issues c = false := by
      simp only [State.issues, Bool.and_eq_false_iff]
      exact .inr (beq_eq_false_iff_ne.2 hh)
    rw [step, ha]
    show ({ s with agenda := r } : State).cycle c = _
    have hi' : ({ s with agenda := r } : State).inStep c = true := hi
    have hr' : ({ s with agenda := r } : State).runs c = true := hr
    have he' : (({ s with agenda := r } : State).slot (({ s with agenda := r } : State).turnOwner c)).err = none := he
    simp only [State.cycle, hi', hr', he', hissues]
    rw [if_neg (by omega)]
    rfl
  · rw [State.passTurn]
    split
    · next h0 => rw [show (u.slot k).hold - 1 = (u.slot k).hold by omega]
    · rw [State.slot_modSlot, if_pos rfl]
  · unfold State.passTurn
    split
    · rfl
    · rw [State.slot_modSlot, if_neg hj]

/-- Settles O11: the two ways in which a result is written, and the turns that a long operation keeps. -/
theorem resultFields : Obligations.ResultFields := ⟨resultPrivate, resultShared, heldTurns⟩

end Sys2Proof.Machine
end

section
/-! SUPPORT. What reaches a device that does not run (R27, R353, R354, R356, R360). -/

namespace Sys2Proof.Machine

/-- Slots, contexts, messages and cores are as they were, but for what a core counts and the shared writes that land. -/
structure Untouched (s t : State) : Prop where
  slots : t.slots = s.slots
  cores : ∀ c, (t.core c).uncounted = (s.core c).uncounted
  ctxs : t.ctxs = s.ctxs
  net : t.net = s.net

/-- The same of an answer, if it is a next state. -/
def Keeps (s : State) (o : Out) : Prop := ∀ t, o = .next t → Untouched s t

theorem Untouched.of_eq {s t : State} (h1 : t.slots = s.slots) (h2 : t.cores = s.cores) (h3 : t.ctxs = s.ctxs) (h4 : t.net = s.net) : Untouched s t :=
  ⟨h1, fun c => by rw [State.core_congr h2], h3, h4⟩

theorem Untouched.refl (s : State) : Untouched s s := .of_eq rfl rfl rfl rfl

theorem Untouched.trans {s t u : State} (h : Untouched s t) (g : Untouched t u) : Untouched s u :=
  ⟨g.slots.trans h.slots, fun c => (g.cores c).trans (h.cores c), g.ctxs.trans h.ctxs, g.net.trans h.net⟩

theorem Keeps.next {s t : State} (h : Untouched s t) : Keeps s (.next t) := fun u hu => by cases hu; exact h

section
variable {s : State}

/-! Cycles -/

theorem Untouched.of_core (s : State) {c : Nat} {f : Core → Core} (hf : ∀ co, (f co).uncounted = co.uncounted) : Untouched s (s.modCore c f) := by
  refine ⟨rfl, fun j => ?_, rfl, rfl⟩
  rw [State.core_modCore]
  split
  · subst_vars
    exact hf _
  · rfl

theorem untouched_idleCycle (s : State) (c : Nat) : Untouched s (s.idleCycle c) := by
  unfold State.idleCycle
  split
  · exact .refl s
  · have h1 : Untouched s (s.landWrites c) := .of_core s fun _ => rfl
    have h2 : Untouched (s.landWrites c) (s.beginCycle c) := .of_core _ fun _ => rfl
    exact (h1.trans h2).trans (.of_core _ fun _ => rfl)

theorem State.runs_of_stopped (h : s.sec.st ≠ 3) (c : Nat) : s.runs c = false := by simp [State.runs, h]

/-- A cycle of a core that does not run, and that the cluster has come to. -/
theorem State.cycle_stopped {c : Nat} (hc : c < 1024) (hr : s.runs c = false) : s.cycle c = .next (if s.inStep c then s.idleCycle c else s) := by
  rw [State.cycle, if_neg (Nat.not_le.2 hc), hr]
  cases s.inStep c <;> rfl

theorem keeps_cycle (h : s.sec.st ≠ 3) (c : Nat) : Keeps s (s.cycle c) := by
  rcases Nat.lt_or_ge c 1024 with hc | hc
  · rw [State.cycle_stopped hc (State.runs_of_stopped h c)]
    refine .next ?_
    split
    · exact untouched_idleCycle s c
    · exact .refl s
  · rw [State.cycle, if_pos hc]
    rintro t ⟨⟩

theorem stoppedCycles : Rules.StoppedDevice := by
  intro s c r hc ha
  have hs : step s = ({ s with agenda := r } : State).cycle c := by rw [step, ha]; rfl
  rw [hs]
  refine ⟨fun h hr => ?_, fun h hi hr => ?_⟩ <;> rw [State.cycle_stopped hc (show ({ s with agenda := r } : State).runs c = false from hr)]
  · split
    · next hi =>
      have h5 : s.sec.st = 5 := h.resolve_right fun hn => by simpa [hn] using (show s.inStep c = true from hi)
      rw [State.idleCycle, if_pos (show ({ s with agenda := r } : State).sec.st = 5 from h5)]
    · rfl
  · rw [if_pos (show ({ s with agenda := r } : State).inStep c = true from hi), State.idleCycle, if_neg (show ({ s with agenda := r } : State).sec.st ≠ 5 from h)]

/-! What the host and the security controller do -/

theorem untouched_modSec (s : State) (f : Sec → Sec) : Untouched s (s.modSec f) := .of_eq rfl rfl rfl rfl
theorem untouched_modLinks (s : State) (f : Links → Links) : Untouched s (s.modLinks f) := .of_eq rfl rfl rfl rfl

theorem untouched_putByte (s : State) (a : Nat) (b : Byte) : Untouched s (s.putByte a b) := by
  unfold State.putByte
  split
  · exact .of_eq rfl rfl rfl rfl
  · split <;> exact .of_eq rfl rfl rfl rfl

theorem untouched_putBytes (s : State) (a : Nat) (l : List Byte) : Untouched s (s.putBytes a l) := by
  induction l generalizing s a with
  | nil => exact .refl s
  | cons b l ih => exact (untouched_putByte s a b).trans (ih _ _)

theorem untouched_setPoison (s : State) (a : Nat) (b : Bool) : Untouched s (s.setPoison a b) := by
  unfold State.setPoison
  split
  · exact .of_eq rfl rfl rfl rfl
  · split <;> exact .of_eq rfl rfl rfl rfl

theorem keeps_hostStore (s : State) (a : Nat) (b : List Byte) : Keeps s (s.hostStore a b) := by
  unfold State.hostStore
  split
  · exact .next (.refl s)
  · refine .next (Untouched.trans ?_ (untouched_putBytes _ _ _))
    exact foldl_keeps (P := Untouched s) (fun _ _ h => h.trans (untouched_setPoison _ _ _)) _ _ (.refl s)

theorem untouched_pageSend (s : State) (x n : Nat) : Untouched s (s.pageSend x n) := by
  induction n generalizing s with
  | zero => exact .refl s
  | succ n ih =>
    unfold State.pageSend
    split
    · exact .refl s
    · simp only []
      split
      · refine Untouched.trans ?_ (ih _)
        exact .of_eq rfl rfl rfl rfl
      · exact .refl s

theorem untouched_hostAlloc (s : State) (vf n : Nat) : Untouched s (s.hostAlloc vf n) := by
  unfold State.hostAlloc
  simp only []
  split
  · refine Untouched.trans ?_ (untouched_pageSend _ _ _)
    exact .of_eq rfl rfl rfl rfl
  · exact .of_eq rfl rfl rfl rfl

/-- An access of the host to the PF's registers, other than a write of DOORBELL (R353). -/
theorem keeps_stageAccess {wr : Bool} {off : Nat} {w : W} (h : wr = true → off ≠ 8) : Keeps s (execStageAccess wr off w s) := by
  unfold execStageAccess
  split
  · exact .next (.refl s)
  · cases wr with
    | false => exact .next (untouched_modLinks s _)
    | true =>
      rw [if_neg (by decide), if_neg (h rfl)]
      split <;> exact .next (untouched_modSec s _)

theorem keeps_acmdReport (w : W) : Keeps s (execAcmdReport w s) := by
  unfold execAcmdReport
  split
  · exact .next (.refl s)
  · exact .next (untouched_modSec s _)

theorem keeps_acmdCertificate (w : W) : Keeps s (execAcmdCertificate w s) := by
  unfold execAcmdCertificate
  split
  · exact .next (.refl s)
  · exact .next (untouched_modSec s _)

theorem keeps_securityAlarm (c : Nat) : Keeps s (execSecurityAlarm c s) := by
  unfold execSecurityAlarm
  split
  · exact .next (.refl s)
  · exact .next (untouched_modSec s _)

theorem keeps_debugAccessRefused : Keeps s (execDebugAccessRefused s) := by
  unfold execDebugAccessRefused
  split
  · exact .next (.refl s)
  · exact .next (untouched_modSec s _)

/-! Entries of the agenda -/

/-- An event of a device that does not run: what it does from outside, or nothing. -/
theorem keeps_event {i : Instr} (h3 : s.sec.st ≠ 3) (hp : i ≠ .powerOn) (hl : i ≠ .doorbellLoad) (ha : i ≠ .attestationService)
    (hr : i ≠ .doorbellReload) (hd : ∀ w, i ≠ .stageAccess true 8 w) : Keeps s (s.event i) := by
  rw [State.event, if_neg h3]
  split
  · exact .next (.refl s)
  · split
    · next ho =>
      cases i
      case powerOn => exact absurd rfl hp
      case doorbellLoad => exact absurd rfl hl
      case doorbellReload => exact absurd rfl hr
      case stageAccess wr off w _ => exact keeps_stageAccess fun hw ho => hd w (by rw [hw, ho])
      case attestationService => exact absurd rfl ha
      case acmdReport w _ => exact keeps_acmdReport w
      case acmdCertificate w _ => exact keeps_acmdCertificate w
      case securityAlarm c _ => exact keeps_securityAlarm c
      case debugAccessRefused => exact keeps_debugAccessRefused
      all_goals cases ho
    · exact .next (.refl s)

theorem keeps_turn {e : Turn} (h3 : s.sec.st ≠ 3) (h : ∀ i, e = .event i → Keeps s (s.event i)) : Keeps s (s.turn e) := by
  cases e with
  | cycle c => exact keeps_cycle h3 c
  | event i => exact h i rfl
  | hostBar vf off n w =>
    rw [State.turn, if_neg h3]
    exact .next (.refl s)
  | hostStore a b => exact keeps_hostStore s a b
  | hostAlloc vf n => exact .next (untouched_hostAlloc s vf n)
  | readError a => exact .next (by rw [if_neg h3]; exact .refl s)
  | hostAts on p d => exact .next (untouched_modLinks s _)
  | pin k w0 w1 w2 w3 => exact .next (by rw [if_neg h3]; exact .refl s)
  | launch x => exact .next (by rw [if_neg h3]; exact .refl s)

end

theorem stoppedKeepsSlots : Rules.StoppedKeepsSlots := by
  intro s t hst hp hl ha hr hd hstep
  have h3 : s.sec.st ≠ 3 := by rcases hst with h | h | h <;> simp [h]
  have hk : Untouched s t := by
    cases hag : s.agenda with
    | nil =>
      rw [step, hag] at hstep
      exact keeps_cycle h3 _ t hstep
    | cons e r =>
      rw [step, hag] at hstep
      change ({ s with agenda := r } : State).turn e = .next t at hstep
      have hne : ∀ {i j : Instr}, e = .event i → s.agenda.head? ≠ some (.event j) → i ≠ j := fun he hh hij => hh (by rw [hag, he, hij]; rfl)
      have hs : Untouched s { s with agenda := r } := .of_eq rfl rfl rfl rfl
      exact hs.trans (keeps_turn (s := { s with agenda := r }) h3 (fun i he => keeps_event h3 (hne he hp) (hne he hl) (hne he ha) (hne he hr) fun w => hne he (hd w)) t hstep)
  exact ⟨hk.slots, hk.cores, hk.ctxs, hk.net⟩

/-- Settles O6: the cycles of such a device, and what its other steps leave. -/
theorem stoppedDevice : Obligations.StoppedDevice := ⟨stoppedCycles, stoppedKeepsSlots⟩

end Sys2Proof.Machine
end

section
/-! SUPPORT. Where an instruction stops or parks before it acts (R26, R91, R117, R140, R156, R157, R263). -/

namespace Sys2Proof.Machine

section
variable {s t : State} {len : Nat} {srcs : List R6} {dst : Option R6} {irr : Bool} {rel : Option Nat} {body : List W → State → State}

/-! The checks of the ends -/

theorem popsOf_filter_isQ (srcs : List R6) : (popsOf srcs).filter isQ = srcs.filter isQ := by
  rw [popsOf, List.filter_filter]
  refine List.filter_congr fun r _ => ?_
  cases isQ r <;> rfl

/-- An end fails its check: sources first. -/
theorem State.withOps_refused {c : Nat × Option W} (hl : s.me.latch = {}) (hn : (popsOf srcs ++ dst.toList).filter isQ ≠ [])
    (h : (srcs.filter isQ).findSome? (s.endCheck 1) = some c ∨
      (srcs.filter isQ).findSome? (s.endCheck 1) = none ∧ (dst.filter isQ).bind (s.endCheck 2) = some c) :
    s.withOps len srcs dst irr rel body = s.raiseWith c := by
  obtain ⟨n, hlen⟩ : ∃ n, ((popsOf srcs ++ dst.toList).filter isQ).length + (popsOf srcs).length = n + 1 :=
    Nat.exists_eq_succ_of_ne_zero (by have := List.length_pos_iff.2 hn; omega)
  rw [← popsOf_filter_isQ] at h
  rcases h with h1 | ⟨h1, h2⟩
  · simp only [State.withOps, hl, hlen, h1]
    rfl
  · simp only [State.withOps, hl, hlen, h1, h2]
    rfl

/-- Only registers are named, and the chunk has to end while it holds global state. -/
theorem State.withOps_commits (hl : s.me.latch = {}) (hs : srcs.all plainR = true) (hd : dst.all plainR = true) (hi : (irr || dst.any isG) = true)
    (hg : s.me.chunk.global = true) : s.withOps len srcs dst irr rel body = s.parkRe .parkMem .commit := by
  have hp := popsOf_of_plain hs
  have hq := filter_isQ_ends srcs dst
  rw [hp, filter_isQ_of_plain hd] at hq
  simp only [State.withOps, hl, hp, hq]
  rw [if_neg (by decide), if_neg (by decide)]
  simp only [List.filter_nil, List.nil_append, Option.toList_none, List.length_nil, hi, if_true]
  exact State.afterCommit_waits hg _

end

theorem operandsStop : Rules.OperandsStop := by
  intro s len srcs dst irr rel body hl
  refine ⟨fun c hc => State.withOps_refused hl (fun hn => ?_) (.inl hc), fun d c hd hq h1 h2 => State.withOps_refused hl (fun hn => ?_) (.inr ⟨h1, ?_⟩),
    fun hs hd hi hg => State.withOps_commits hl hs hd hi hg⟩
  · rw [filter_isQ_ends, popsOf_filter_isQ, List.append_eq_nil_iff] at hn
    rw [hn.1] at hc
    cases hc
  · rw [filter_isQ_ends, hd, Option.filter_some_pos hq] at hn
    simp at hn
  · rw [hd, Option.filter_some_pos hq]
    exact h2

section
variable {s t : State} {len : Nat} {srcs : List R6} {dst : Option R6} {irr : Bool} {rel : Option Nat} {body : List W → State → State}

/-! Releases that wait -/

theorem State.afterAcks_waits {n : Nat} (h : ¬ s.relDone (some n)) (f : State → State) : s.afterAcks n f = s.parkRe .parkMem (.acks n) := if_neg h

/-- Only registers are named, and the release waits. -/
theorem State.withOps_acks {n : Nat} (hl : s.me.latch = {}) (hs : srcs.all plainR = true) (hd : dst.all plainR = true) (hi : (irr || dst.any isG) = true)
    (hg : s.me.chunk.global = false) (ht : t = s.chunkDone s.cur) (hr : ¬ t.relDone (some n)) :
    s.withOps len srcs dst irr (some n) body = t.parkRe .parkMem (.acks n) := by
  have hp := popsOf_of_plain hs
  have hq := filter_isQ_ends srcs dst
  rw [hp, filter_isQ_of_plain hd] at hq
  simp only [State.withOps, hl, hp, hq, filter_isQ_of_plain hd]
  rw [if_neg (by decide), if_neg (by decide)]
  simp only [List.filter_nil, List.nil_append, Option.toList_none, List.length_nil, hi, if_true]
  rw [State.afterCommit_done hg, ← ht]
  exact State.afterAcks_waits hr _

/-- The push of the result waits, as the release that it is. -/
theorem State.withOps_push_acks {d : R6} (hl : s.me.latch = {}) (hs : srcs.all plainR = true) (hd : isQ d = true) (hc : s.endCheck 2 d = none)
    (hg : s.me.chunk.global = false) (ht : t = s.chunkDone s.cur) (hr : ¬ t.relDone (t.relScope (some d) rel)) :
    s.withOps len srcs (some d) irr rel body = t.parkRe .parkMem (.acks (rel.getD (t.endScope d))) := by
  have hp := popsOf_of_plain hs
  have hq := filter_isQ_ends srcs (some d)
  rw [hp, Option.filter_some_pos hd] at hq
  simp only [State.withOps, hl, hp, hq, Option.filter_some_pos hd]
  rw [if_neg (by decide), if_neg (by decide)]
  simp only [List.filter_nil, List.nil_append, Option.toList_some, List.length_cons, List.length_nil, List.findSome?_nil, Option.bind_some, hc]
  rw [State.afterCommit_done hg, ← ht]
  cases rel with
  | some n => exact State.afterAcks_waits hr _
  | none =>
    rw [State.relScope, Option.filter_some_pos hd] at hr
    exact State.afterAcks_waits hr _

/-! Ends without an item, and mb without a message -/

theorem State.takeOps_waits {r : R6} {q : Nat} {u : State} (h2 : twoEnds srcs dst = false) (hp : popsOf srcs = [r]) (hr : isQ r = true)
    (hl : s.endLocal r = true) (hq : s.endQueue r = some q) (hu : s.stampMe.qPop q s.cur (qIx r) false = (.wait, u)) :
    s.takeOps srcs dst body = u.waitEnd r fun _ => { partials := s.peek srcs } := by
  simp only [State.takeOps, h2, hp, isMb_of_isQ hr, hl, hq, hu, Bool.false_eq_true, if_false, if_true]

theorem State.takeOps_asks {r : R6} (h2 : twoEnds srcs dst = false) (hp : popsOf srcs = [r]) (hr : isQ r = true) (hl : s.endLocal r = false) :
    s.takeOps srcs dst body = (s.toHome r fun h => .qpop s.cur (qIx r) h false).waitEnd r fun _ => { partials := s.peek srcs } := by
  simp only [State.takeOps, h2, hp, isMb_of_isQ hr, hl, Bool.false_eq_true, if_false]

theorem State.takeOps_mail_waits {ms : List Mail} {u : State} (h2 : twoEnds srcs dst = false) (hn : popsOf srcs ≠ []) (hs : srcs.all (!isQ ·) = true)
    (hu : s.mailTake s.cur (srcs.filter isMb).length = (ms, u)) (hm : ms.length < (srcs.filter isMb).length) :
    s.takeOps srcs dst body =
      { u.upd fun sl => { sl with st := .parkMsg, wait := .message 0 u.serial true
                                  latch := { partials := s.peek srcs, mails := ms, left := (srcs.filter isMb).length - ms.length } } with serial := u.serial + 1 } := by
  have hp := popsOf_of_mail hs
  obtain ⟨r, l, hl⟩ := List.exists_cons_of_ne_nil hn
  have hr : isMb r = true := List.of_mem_filter (p := isMb) (a := r) (l := srcs) (by rw [← hp, hl]; exact List.mem_cons_self)
  have hk : (popsOf srcs).length = (srcs.filter isMb).length := by rw [hp]
  simp only [State.takeOps, h2, Bool.false_eq_true, if_false, hk]
  simp only [hl, hr, if_true, State.mailEnd, hu]
  rw [if_neg (Nat.ne_of_lt hm)]
  rfl

end

theorem operandsPark : Rules.OperandsPark := by
  intro s s' len srcs dst irr rel body hl hg hs'
  have one : ∀ {r}, popsOf srcs = [r] → isQ r = true → s.endCheck 1 r = none → dst.all plainR = true → s'.relDone rel →
      s.withOps len srcs dst irr rel body = s'.takeOps srcs dst fun vs u => u.kept dst (body vs u) := fun {r} hp _ hc hd hr =>
    State.withOps_ends hl (.inr (by simp [hp])) (State.endsOk_of_plain hd fun o ho _ => by rw [hp, List.mem_singleton] at ho; rw [ho, hc]) hg hs'
      (by rwa [State.relScope_of_plain hd])
  refine ⟨fun n hn hs hd hi hr => ?_, fun d hd hq hs hc hr => ?_, fun r hp hd hr => ⟨fun q s2 hq hc hloc he hpop => ?_, fun hq hc hloc => ?_⟩,
    fun n ms s2 ha hs hd hr hn hm hlt => ?_⟩
  · subst hn
    exact State.withOps_acks hl hs hd hi hg hs' hr
  · subst hd
    exact State.withOps_push_acks hl hs hq hc hg hs' hr
  · rw [one hp hq hc hd hr, State.takeOps_waits (twoEnds_of_source hp hq hd) hp hq hloc he hpop]
  · rw [one hp hq hc hd hr, State.takeOps_asks (twoEnds_of_source hp hq hd) hp hq hloc]
  · subst hn
    have hne : popsOf srcs ≠ [] := by
      rw [popsOf_of_mail hs]
      obtain ⟨r, hr, hb⟩ := List.any_eq_true.1 ha
      exact List.ne_nil_of_mem (List.mem_filter.2 ⟨hr, hb⟩)
    have ok : s.endsOk srcs dst := State.endsOk_of_plain hd fun o ho hq =>
      absurd (List.mem_filter.2 ⟨ho, hq⟩) (by rw [filter_isQ_of_mail hs]; exact List.not_mem_nil)
    rw [State.withOps_ends hl (.inr hne) ok hg hs' (by rwa [State.relScope_of_plain hd]), State.takeOps_mail_waits (twoEnds_of_mail hs hd) hne hs hm hlt]

end Sys2Proof.Machine
end

section
/-! SUPPORT. Whatever an instruction does to memory, queues and mailboxes, the issuing slot stays the one that it is. -/

namespace Sys2Proof.Machine

theorem cur_foldl {α : Type} {f : State → α → State} (hf : ∀ t e, (f t e).cur = t.cur) (l : List α) (s : State) : (l.foldl f s).cur = s.cur := by
  induction l generalizing s with
  | nil => rfl
  | cons a l ih => exact (ih _).trans (hf s a)

section
variable (s : State)

/-! Memory and the writes that take effect -/

@[simp] theorem State.cur_putByte (a : Nat) (b : Byte) : (s.putByte a b).cur = s.cur := by
  unfold State.putByte
  split
  · rfl
  · split <;> rfl

@[simp] theorem State.cur_putBytes (a : Nat) (l : List Byte) : (s.putBytes a l).cur = s.cur := by
  induction l generalizing s a with
  | nil => rfl
  | cons b l ih => exact (ih _ _).trans (s.cur_putByte a b)

@[simp] theorem State.cur_setPoison (a : Nat) (b : Bool) : (s.setPoison a b).cur = s.cur := by
  unfold State.setPoison
  split
  · rfl
  · split <;> rfl

@[simp] theorem State.cur_healPoison (a n : Nat) : (s.healPoison a n).cur = s.cur :=
  cur_foldl (fun t w => by split <;> simp) _ s

@[simp] theorem State.cur_complete (k : Nat) (v : V512) : (s.complete k v).cur = s.cur := rfl
@[simp] theorem State.cur_completeW (k : Nat) (v : W) : (s.completeW k v).cur = s.cur := rfl
@[simp] theorem State.cur_wakeReissue (k : Nat) : (s.wakeReissue k).cur = s.cur := rfl
@[simp] theorem State.cur_modQueue (q : Nat) (f : Queue → Queue) : (s.modQueue q f).cur = s.cur := rfl

@[simp] theorem State.cur_codeWrite (a : Nat) (b : Byte) (r : Bool) : (s.codeWrite a b r).cur = s.cur := by
  unfold State.codeWrite
  split
  · exact cur_foldl (fun t ⟨k, sl⟩ => by dsimp only; split <;> rfl) _ s
  · rfl

@[simp] theorem State.cur_trigger (ls : List Nat) : (s.trigger ls).cur = s.cur :=
  cur_foldl (fun t ⟨k, sl⟩ => by
    dsimp only
    split
    · split <;> rfl
    · rfl) _ s

@[simp] theorem State.cur_phaseWake (a old : Nat) : (s.phaseWake a old).cur = s.cur := by
  simp only [State.phaseWake]
  split
  · rfl
  · exact cur_foldl (fun _ ⟨_, _⟩ => rfl) _ _

@[simp] theorem State.cur_normNext (c : Nat) : (s.normNext c).cur = s.cur := by
  unfold State.normNext
  split <;> rfl

@[simp] theorem State.cur_leaveNorm (k : Nat) : (s.leaveNorm k).cur = s.cur := by
  unfold State.leaveNorm
  split
  · exact State.cur_normNext _ _
  · rfl

@[simp] theorem State.cur_withdraw (k : Nat) : (s.withdraw k).cur = s.cur := State.cur_leaveNorm _ k

@[simp] theorem State.cur_askSolo (k : Nat) : (s.askSolo k).cur = s.cur := by
  unfold State.askSolo
  simp only []
  split <;> rfl

@[simp] theorem State.cur_squash (k : Nat) : (s.squash k).cur = s.cur := by
  simp only [State.squash]
  split
  · simp
  · simp

@[simp] theorem State.cur_squashReaders (b : Option Nat) (ls : List Nat) : (s.squashReaders b ls).cur = s.cur :=
  cur_foldl (fun t ⟨k, sl⟩ => by dsimp only; split <;> simp) _ s

@[simp] theorem State.cur_write (b : Option Nat) (r : Bool) (a : Nat) (d : List Byte) : (s.write b r a d).cur = s.cur := by
  have hcode : ∀ t : State, t.cur = s.cur → (if 2 ^ 61 ≤ a ∧ a < 2 ^ 61 + 2 ^ 28 then
      (s.bytes a d.length).zipIdx.foldl (fun t (x, i) => t.codeWrite (a + i) x r) t else t).cur = s.cur := fun t ht => by
    split
    · exact (cur_foldl (fun _ _ => State.cur_codeWrite _ _ _ _) _ t).trans ht
    · exact ht
  have hwake : ∀ (t : State) (l : List (Nat × Nat)), t.cur = s.cur → (l.foldl (fun t (w, o) => t.phaseWake w o) t).cur = s.cur := fun t l ht =>
    (cur_foldl (fun _ _ => State.cur_phaseWake _ _ _) l t).trans ht
  have hmem : ((s.healPoison a d.length).putBytes a d).cur = s.cur := by simp
  simp only [State.write]
  split
  · exact (State.cur_squashReaders _ _ _).trans (hwake _ _ ((State.cur_trigger _ _).trans (hcode _ hmem)))
  · exact hwake _ _ ((State.cur_trigger _ _).trans (hcode _ hmem))

/-! Messages, queues and mailboxes -/

@[simp] theorem State.cur_track (x i j : Nat) (b : Bool) : (s.track x i j b).cur = s.cur := by
  unfold State.track
  split
  · rfl
  · refine cur_foldl (fun t sc => ?_) _ s
    split
    · rfl
    · split <;> rfl

@[simp] theorem State.cur_send (x i j : Nat) (b : Body) : (s.send x i j b).cur = s.cur := by
  simp only [State.send]
  split
  · exact State.cur_track _ _ _ _ _
  · rfl

@[simp] theorem State.cur_wakeAll (f : Nat → Slot → Bool) : (s.wakeAll f).cur = s.cur := cur_foldl (fun t ⟨k, sl⟩ => by dsimp only; split <;> rfl) _ s
@[simp] theorem State.cur_noteMoved (f : Nat → Slot → Bool) : (s.noteMoved f).cur = s.cur := cur_foldl (fun t ⟨k, sl⟩ => by dsimp only; split <;> rfl) _ s
@[simp] theorem State.cur_qWakeMulti (q : Nat) : (s.qWakeMulti q).cur = s.cur := by simp [State.qWakeMulti]

@[simp] theorem State.cur_qNote (q : Nat) : (s.qNote q).cur = s.cur := by
  unfold State.qNote
  simp only []
  split <;> rfl

@[simp] theorem State.cur_give (q k : Nat) (i : Item) (n : Option Nat) : (s.give q k i n).cur = s.cur := by
  unfold State.give
  split
  · rfl
  · exact State.cur_send _ _ _ _ _

@[simp] theorem State.cur_pushed (q k : Nat) : (s.pushed q k).cur = s.cur := by
  unfold State.pushed
  split
  · rfl
  · split
    · rfl
    · exact State.cur_send _ _ _ _ _

@[simp] theorem State.cur_qIrq (q : Nat) : (s.qIrq q).cur = s.cur := (congrArg State.cur (s.qIrq_eq q) :)
@[simp] theorem State.cur_putAreaItem (a n j : Nat) (i : Item) : (s.putAreaItem a n j i).cur = s.cur :=
  (State.cur_write _ _ _ _ _).trans (State.cur_write _ _ _ _ _)

@[simp] theorem State.cur_ringPut (q : Nat) (i : Item) (b : Bool) : (s.ringPut q i b).cur = s.cur := by
  simp only [State.ringPut]
  split
  · exact (State.cur_qIrq _ _).trans ((State.cur_modQueue _ _ _).trans (State.cur_putAreaItem _ _ _ _ _))
  · exact (State.cur_modQueue _ _ _).trans (State.cur_putAreaItem _ _ _ _ _)

@[simp] theorem State.cur_qServe (q j : Nat) (i : Item) : (s.qServe q j i).cur = s.cur := by
  unfold State.qServe
  split
  · rfl
  · exact State.cur_give _ _ _ _ _

@[simp] theorem State.cur_qAccept (q : Nat) (i : Item) (b : Bool) : (s.qAccept q i b).cur = s.cur := by
  simp only [State.qAccept]
  split <;> simp

@[simp] theorem State.cur_qInbox (q k : Nat) (i : Item) : (s.qInbox q k i).cur = s.cur := by
  simp only [State.qInbox]
  split <;> simp

@[simp] theorem State.cur_qAdmit (q n : Nat) : (s.qAdmit q n).cur = s.cur := by
  induction n generalizing s with
  | zero => rfl
  | succ n ih =>
    simp only [State.qAdmit]
    split
    · rfl
    · split
      · simp [ih]
      · split
        · simp [ih]
        · rfl

@[simp] theorem State.cur_qEnd (q : Nat) : (s.qEnd q).cur = s.cur := by
  simp only [State.qEnd]
  split
  · exact cur_foldl (fun _ _ => State.cur_give _ _ _ _ _) _ _
  · rfl

theorem State.cur_ringTake (q : Nat) : (s.ringTake q).2.2.cur = s.cur := by
  simp only [State.ringTake]
  split <;> rfl

theorem State.cur_hostPop {i q : Nat} {t : State} (h : s.hostPop i q = some t) : t.cur = s.cur := by
  have hr := s.cur_ringTake q
  simp only [State.hostPop] at h
  split at h
  · cases h; exact hr
  · split at h
    · cases h
    · split at h <;> cases h <;> rfl

@[simp] theorem State.cur_qHost (q : Nat) : (s.qHost q).cur = s.cur := by
  refine cur_foldl (fun t e => ?_) _ s
  split
  · next h =>
    have hc := t.cur_hostPop h
    exact hc
  · rfl

@[simp] theorem State.cur_qChanged (q : Nat) : (s.qChanged q).cur = s.cur := by
  simp only [State.qChanged]
  split <;> simp

@[simp] theorem State.cur_qBack (q k j : Nat) (i : Item) (w : Option Nat) : (s.qBack q k j i w).cur = s.cur := by
  unfold State.qBack
  split
  · simp
  · split
    · simp
    · simp only []
      split <;> simp

@[simp] theorem State.cur_qRelease (q k : Nat) : (s.qRelease q k).cur = s.cur := cur_foldl (fun _ _ => State.cur_qBack _ _ _ _ _ _) _ _

@[simp] theorem State.cur_qFinish (q k i : Nat) (c : Bool) (it : Option Item) : (s.qFinish q k i c it).cur = s.cur := by
  unfold State.qFinish
  split
  · simp only []
    split
    · split <;> simp
    · simp
  · split <;> simp

@[simp] theorem State.cur_finEnd (k : Nat) (e : REnd) (c : Bool) (it : Option Item) : (s.finEnd k e c it).cur = s.cur := by
  simp only [State.finEnd]
  split
  · rfl
  · split
    · split <;> simp
    · simp

@[simp] theorem State.cur_giveBack (k : Nat) (t : Took) : (s.giveBack k t).cur = s.cur := by
  simp only [State.giveBack]
  split
  · rfl
  · split
    · split <;> simp
    · simp

theorem State.cur_mailPop {k : Nat} {m : Mail} {t : State} (h : s.mailPop k = some (m, t)) : t.cur = s.cur := by
  simp only [State.mailPop] at h
  split at h
  · cases h
  · obtain ⟨_, -, h⟩ := Option.map_eq_some_iff.1 h
    cases h
    rfl

@[simp] theorem State.cur_mailOffer (m : Mail) (l : List (Nat × Bool)) : (s.mailOffer m l).cur = s.cur := by
  induction l generalizing s with
  | nil => rfl
  | cons e l ih =>
    obtain ⟨k, b⟩ := e
    cases b with
    | false => exact ih _
    | true =>
      simp only [State.mailOffer]
      split
      · next h =>
        have hc := s.cur_mailPop h
        split <;> exact hc
      · rfl

@[simp] theorem State.cur_mailTell (c : Nat) (m : Mail) : (s.mailTell c m).cur = s.cur := by simp [State.mailTell]
@[simp] theorem State.cur_mailBack (c : Nat) (m : Mail) : (s.mailBack c m).cur = s.cur := by simp [State.mailBack]

/-! What a faulting instruction gives back -/

@[simp] theorem State.cur_takeUndo (k : Nat) (u : Undo) : (s.takeUndo k u).cur = s.cur := by
  cases u with
  | bytes a b => exact s.cur_write _ _ _ _
  | record q g => rfl
  | group x n => rfl
  | mons on off => rfl

@[simp] theorem State.cur_undone (k : Nat) : (s.undone k).cur = s.cur := cur_foldl (fun _ _ => State.cur_takeUndo _ _ _) _ s

@[simp] theorem State.cur_unpop (k : Nat) : (s.unpop k).cur = s.cur := by
  unfold State.unpop
  extract_lets l open_ s1 s2 s3
  clear_value open_
  split
  · rfl
  · have h2 : s2.cur = s1.cur := cur_foldl (fun _ _ => State.cur_finEnd _ _ _ _ _) _ _
    have h3 : s3.cur = s2.cur := cur_foldl (fun _ _ => State.cur_giveBack _ _ _) _ _
    exact (cur_foldl (fun _ _ => State.cur_mailBack _ _ _) _ _).trans (h3.trans (h2.trans (State.cur_undone _ _)))

end
end Sys2Proof.Machine
end

section
/-! Settles O9. The rounds of an instruction under R91 (log 13). -/

namespace Sys2Proof.Machine

/-! What messages leave -/

theorem slots_foldl {α : Type} {f : State → α → State} (hf : ∀ t e, (f t e).slots = t.slots) (l : List α) (s : State) : (l.foldl f s).slots = s.slots := by
  induction l generalizing s with
  | nil => rfl
  | cons a l ih => exact (ih _).trans (hf s a)

@[simp] theorem State.slots_track (s : State) (x i j : Nat) (b : Bool) : (s.track x i j b).slots = s.slots := by
  unfold State.track
  split
  · rfl
  · refine slots_foldl (fun t sc => ?_) _ s
    split
    · rfl
    · split <;> rfl

@[simp] theorem State.slots_send (s : State) (x i j : Nat) (b : Body) : (s.send x i j b).slots = s.slots := by
  simp only [State.send]
  split
  · exact State.slots_track _ _ _ _ _
  · rfl

/-- Whatever it asks of whom, the issuing slot is as it was. -/
theorem State.me_sends {α : Type} {f : State → α → State} (hf : ∀ t e, ∃ x i j b, f t e = t.send x i j b) (l : List α) (s : State) :
    (l.foldl f s).me = s.me := by
  have hs : (l.foldl f s).slots = s.slots := slots_foldl (fun t e => by
    obtain ⟨x, i, j, b, h⟩ := hf t e
    rw [h, State.slots_send]) l s
  have hc : (l.foldl f s).cur = s.cur := cur_foldl (fun t e => by
    obtain ⟨x, i, j, b, h⟩ := hf t e
    rw [h, State.cur_send]) l s
  simp only [State.me, State.slot, hs, hc]

/-! Ends that are all at home -/

theorem length_filter_zipIdx {α : Type} (p : α → Bool) (l : List α) (n : Nat) : ((l.zipIdx n).filter fun e => p e.1).length = (l.filter p).length := by
  induction l generalizing n with
  | nil => rfl
  | cons a l ih => cases h : p a <;> simp [h, ih]

section
variable {s : State} {srcs : List R6} {dst : Option R6} {body : List W → State → State}

/-- The ends at the core through which the instruction pops queue q. -/
def State.popEnds (s : State) (srcs : List R6) (q : Nat) : List Nat := ((popsOf srcs).filter fun o => isQ o && s.endQueue o == some q).map qIx

/-- Every queue that the instruction pops can supply what it pops. -/
def State.suppliesAll (s : State) (srcs : List R6) : Prop :=
  ∀ r ∈ popsOf srcs, isQ r = true → ∀ q, s.endQueue r = some q → s.canPop q (s.popEnds srcs q).length (s.popEnds srcs q) = true

/-- The queue that the instruction pushes takes its item. -/
def State.takesAll (s : State) (srcs : List R6) (dst : Option R6) : Prop :=
  ∀ d q, dst = some d → isQ d = true → s.endQueue d = some q → s.canPush q (s.popEnds srcs q).length = true

/-- The queue that the instruction pushes, where its end is bound. -/
def State.pushTarget (s : State) (dst : Option R6) : Option Nat := (dst.filter isQ).bind s.endQueue

theorem State.pushTarget_eq_some {q : Nat} : s.pushTarget dst = some q ↔ ∃ d, dst = some d ∧ isQ d = true ∧ s.endQueue d = some q := by
  simp only [State.pushTarget, Option.bind_eq_some_iff, Option.filter_eq_some_iff, and_assoc]

/-- The check of the queues in `State.multiNear`. -/
def State.queuesReady (s : State) (srcs : List R6) (dst : Option R6) : Bool :=
  (((popsOf srcs).filter isQ).all fun r => match s.endQueue r with
    | some q => s.canPop q (s.popEnds srcs q).length (s.popEnds srcs q)
    | none => true) &&
  match s.pushTarget dst with
  | some q => s.canPush q (s.popEnds srcs q).length
  | none => true

theorem State.queuesReady_iff : s.queuesReady srcs dst = true ↔ s.suppliesAll srcs ∧ s.takesAll srcs dst := by
  rw [State.queuesReady, Bool.and_eq_true, List.all_eq_true]
  refine and_congr ⟨fun h r hr hq q he => ?_, fun h r hr => ?_⟩ ⟨fun h d q hd hq he => ?_, fun h => ?_⟩
  · have := h r (List.mem_filter.2 ⟨hr, hq⟩)
    rwa [he] at this
  · obtain ⟨hr, hq⟩ := List.mem_filter.1 hr
    split
    · next q he => exact h r hr hq q he
    · rfl
  · rw [State.pushTarget_eq_some.2 ⟨d, hd, hq, he⟩] at h
    exact h
  · split
    · next q he =>
      obtain ⟨d, hd, hq, he⟩ := State.pushTarget_eq_some.1 he
      exact h d q hd hq he
    · rfl

/-- The queues of the ends that the instruction names. -/
def State.endIds (s : State) (srcs : List R6) (dst : Option R6) : List Nat := ((popsOf srcs ++ (dst.filter isQ).toList).filter isQ).filterMap s.endQueue

theorem State.multiEnd_local (h : ∀ r ∈ srcs ++ dst.toList, isQ r = true → s.endLocal r = true) :
    s.multiEnd srcs dst body = s.multiNear srcs (popsOf srcs) (dst.filter isQ) (s.endIds srcs dst) body := by
  refine if_pos (List.all_eq_true.2 fun r hr => ?_)
  obtain ⟨hr, hq⟩ := List.mem_filter.1 hr
  refine h r ?_ hq
  rw [List.mem_append, Option.mem_toList] at hr ⊢
  exact hr.imp List.mem_of_mem_filter fun hd => (Option.filter_eq_some_iff.1 hd).1

/-- A queue cannot serve: the instruction parks. -/
theorem State.multiNear_parks {ids : List Nat} (h : s.queuesReady srcs dst = false) :
    s.multiNear srcs (popsOf srcs) (dst.filter isQ) ids body = s.parkRe .parkQ (.multi ids (((popsOf srcs).filter isMb).length > 0)) :=
  if_pos (show (!s.queuesReady srcs dst) = true by rw [h]; rfl)

theorem State.multiNear_short {ids : List Nat} (h : s.queuesReady srcs dst = true) (hm : s.mailCount s.cur < ((popsOf srcs).filter isMb).length) :
    s.multiNear srcs (popsOf srcs) (dst.filter isQ) ids body = s.parkRe .parkMsg (.multi ids true) :=
  (if_neg (show ¬ (!s.queuesReady srcs dst) = true by rw [h]; decide)).trans (if_pos hm)

theorem State.multiNear_closed {ids : List Nat} {q : Nat} (h : s.queuesReady srcs dst = true) (hm : ((popsOf srcs).filter isMb).length ≤ s.mailCount s.cur)
    (ht : s.pushTarget dst = some q) (hc : (s.queue q).closed = true) :
    s.multiNear srcs (popsOf srcs) (dst.filter isQ) ids body = s.raise 198 (s.handle q) := by
  refine (if_neg (show ¬ (!s.queuesReady srcs dst) = true by rw [h]; decide)).trans ((if_neg (Nat.not_lt.2 hm)).trans ?_)
  have hf : ((dst.filter isQ).bind s.endQueue).filter (fun q => (s.queue q).closed) = some q := by
    rw [← State.pushTarget, ht, Option.filter_some, hc]
    rfl
  simp only [hf]

/-! An end that is homed elsewhere -/

/-- Asks each end's home for a reservation (R91). -/
def State.asks (s : State) (ends : List REnd) : State :=
  ends.foldl (fun s e => s.send (s.ctxOf s.myCore) s.myCore ((s.homeCore (s.ctxOf s.myCore) e.h).getD s.myCore) (.qrsv s.cur e.ix e.q e.h e.push)) s

/-- Confirms each end's pop to its home. -/
def State.confirms (s : State) (ends : List REnd) : State :=
  ends.foldl (fun s e => s.send (s.ctxOf s.myCore) s.myCore ((s.homeCore (s.ctxOf s.myCore) e.h).getD s.myCore) (.qfin s.cur e.ix e.h true none)) s

theorem State.me_confirms (ends : List REnd) : (s.confirms ends).me = s.me := State.me_sends (fun _ _ => ⟨_, _, _, _, rfl⟩) ends s

/-- The state with the messages that the instruction takes before it asks. -/
def State.withMail (s : State) (srcs : List R6) : Popped × State :=
  s.popAll (if s.mailCount s.cur < ((popsOf srcs).filter isMb).length then [] else (popsOf srcs).filter isMb)

theorem length_mailOps (srcs : List R6) : ((popsOf srcs).zipIdx.filter fun e => isMb e.1).length = ((popsOf srcs).filter isMb).length := length_filter_zipIdx ..

/-- The first round: the reservations are asked for. -/
theorem State.multiFar_asks {ids : List Nat} (hp : s.me.latch.partials = []) :
    ∃ l : Latch, s.multiFar srcs (popsOf srcs) (dst.filter isQ) ids body =
        (((s.withMail srcs).2.asks ((s.withMail srcs).2.roundEnds (popsOf srcs) (dst.filter isQ))).upd fun sl => { sl with st := .parkQ, wait := .reply, latch := l }) ∧
      l.ends = (s.withMail srcs).2.roundEnds (popsOf srcs) (dst.filter isQ) ∧ l.nomail = decide (s.mailCount s.cur < ((popsOf srcs).filter isMb).length) := by
  simp only [State.multiFar, hp, length_mailOps]
  exact ⟨_, rfl, rfl, rfl⟩

section
variable {ids : List Nat}

theorem State.multiFar_fault {c : Nat} {t : W} (hp : s.me.latch.partials ≠ []) (hf : s.me.latch.fault = some (c, t)) :
    s.multiFar srcs (popsOf srcs) (dst.filter isQ) ids body = s.raise c t := by
  obtain ⟨p, ps, hps⟩ := List.exists_cons_of_ne_nil hp
  simp only [State.multiFar, hps, hf]

theorem State.ends_bound (hb : ∀ r ∈ srcs ++ dst.toList, isQ r = true → (s.qend r).isSome = true) :
    ((popsOf srcs ++ (dst.filter isQ).toList).any fun r => isQ r && (s.qend r).isNone) = false := by
  rw [List.any_eq_false]
  intro r hm
  simp only [List.mem_append, List.mem_filter, Option.mem_toList, Option.filter_eq_some_iff] at hm
  rw [Bool.and_eq_true, Option.isNone_iff_eq_none]
  rintro ⟨hq, hn⟩
  have := hb r (List.mem_append.2 (hm.imp And.left fun h => Option.mem_toList.2 h.1)) hq
  rw [hn] at this
  cases this

theorem State.multiFar_refused (hp : s.me.latch.partials ≠ []) (hf : s.me.latch.fault = none) (h0 : s.me.latch.stage = 0)
    (hb : ∀ r ∈ srcs ++ dst.toList, isQ r = true → (s.qend r).isSome = true) (hr : s.me.latch.refused = true ∨ s.me.latch.nomail = true) {t : State}
    (ht : t = (s.unpop s.cur).parkRe (if s.me.latch.refused then .parkQ else .parkMsg) (.multi ids (((popsOf srcs).filter isMb).length > 0))) :
    s.multiFar srcs (popsOf srcs) (dst.filter isQ) ids body = if s.me.latch.moved then t.wakeReissue s.cur else t := by
  obtain ⟨p, ps, hps⟩ := List.exists_cons_of_ne_nil hp
  have hr' : (s.me.latch.refused || s.me.latch.nomail) = true := by rwa [Bool.or_eq_true]
  have hm : (!((popsOf srcs).zipIdx.filter fun e => isMb e.1).isEmpty) = decide (((popsOf srcs).filter isMb).length > 0) := by
    rw [← length_mailOps]
    cases (popsOf srcs).zipIdx.filter fun e => isMb e.1 <;> rfl
  have hc : t.cur = s.cur := by
    rw [ht]
    exact s.cur_unpop s.cur
  simp only [State.multiFar, hps, hf, h0, State.ends_bound hb, hr', hm, if_true, Bool.false_eq_true, if_false, ← ht, hc]
  rfl

/-- Every reservation is granted, and the instruction pushes nothing: it confirms its pops. -/
theorem State.multiFar_confirms (hp : s.me.latch.partials ≠ []) (hf : s.me.latch.fault = none) (h0 : s.me.latch.stage = 0)
    (hb : ∀ r ∈ srcs ++ dst.toList, isQ r = true → (s.qend r).isSome = true) (href : s.me.latch.refused = false) (hno : s.me.latch.nomail = false)
    (hd : dst.filter isQ = none) :
    s.multiFar srcs (popsOf srcs) (dst.filter isQ) ids body = (s.confirms (s.me.latch.ends.filter (!·.push))).upd fun sl =>
      { sl with st := .parkQ, wait := .reply
                latch := { sl.latch with left := (s.me.latch.ends.filter (!·.push)).length, stage := 5, res := none
                                         took := (s.me.latch.ends.filter (!·.push)).flatMap fun e => tookOf e.h (Tbl.get 0#512 s.me.latch.parts e.ix) } } := by
  obtain ⟨p, ps, hps⟩ := List.exists_cons_of_ne_nil hp
  have hbd := State.ends_bound hb
  rw [hd] at hbd ⊢
  simp only [State.multiFar, hps, hf, h0, hbd, href, hno, Bool.or_self, Option.isSome_none, Bool.false_eq_true, if_false]
  rfl

end

end

section
variable {s t : State} {len : Nat} {srcs : List R6} {dst : Option R6} {irr : Bool} {rel : Option Nat} {body : List W → State → State}

/-- An instruction under R91 comes to its rounds: its chunk has ended and its release has nothing to wait for. -/
theorem State.withOps_rounds (h2 : twoEnds srcs dst = true) (hl : s.me.latch = {}) (hg : s.me.chunk.global = false) (ok : s.endsOk srcs dst)
    (ht : t = s.chunkDone s.cur) (hr : t.relDone (t.relScope dst rel)) :
    s.withOps len srcs dst irr rel body = t.multiEnd srcs dst fun vs u => u.kept dst (body vs u) := by
  rw [State.withOps_ends hl (.inl (ends_of_twoEnds h2)) ok hg ht hr, State.takeOps, if_pos h2]

/-- An answered instruction under R91 comes to its rounds again. -/
theorem State.withOps_answered {v : V512} (h2 : twoEnds srcs dst = true) (h0 : s.me.latch.stage = 0) (hv : s.me.latch.vals = none)
    (hp : s.me.latch.partials ≠ []) (hr : s.me.latch.res = some v) (hx : ∃ r ∈ srcs ++ dst.toList, isQ r = true ∧ s.endLocal r = false) :
    s.withOps len srcs dst irr rel body = s.multiFar srcs (popsOf srcs) (dst.filter isQ) (s.endIds srcs dst) fun vs u => u.kept dst (body vs u) := by
  rw [State.withOps_replied (by simp [h0]) (by simp [h0]) hv hp hr, if_neg (ends_of_twoEnds h2), if_neg (by simp [h2]), State.multiEnd_far hx]
  rfl

end

theorem operandsRounds : Rules.OperandsRounds := by
  rintro s s' len srcs pops dst irr rel body ids mbs h2 rfl rfl
  refine ⟨fun hl hg ok hs' hr hids => ⟨fun hloc => ?_, fun s2 t hx ht hs2 => ?_⟩, fun v h0 hv hp hres hx hids => ⟨fun c t hf => ?_, fun hf hb => ⟨fun hno ht => ?_, ?_⟩⟩⟩
  · rw [State.withOps_rounds h2 hl hg ok hs' hr, State.multiEnd_local hloc, ← (show ids = s'.endIds srcs dst from hids)]
    refine ⟨fun hn => State.multiNear_parks ?_, fun d q hd hq he hc hm hpop => State.multiNear_closed (State.queuesReady_iff.2 ⟨hpop, ?_⟩) hm
      (State.pushTarget_eq_some.2 ⟨d, hd, hq, he⟩) hc, fun hm hpop hpush => State.multiNear_short (State.queuesReady_iff.2 ⟨hpop, hpush⟩) hm⟩
    · rw [← Bool.not_eq_true, State.queuesReady_iff]
      rintro ⟨hpop, hpush⟩
      rcases hn with ⟨r, hr, hq, q, he, hn⟩ | ⟨d, q, hd, hq, he, hn⟩
      · exact absurd (hpop r hr hq q he) (by rw [State.popEnds, hn]; decide)
      · exact absurd (hpush d q hd hq he) (by rw [State.popEnds, hn]; decide)
    · intro d' q' hd' _ he'
      cases hd.symm.trans hd'
      cases he.symm.trans he'
      rw [State.canPush, hc, Bool.true_or]
  · have hl' : s'.me.latch = {} := by rw [hs', State.me_chunkDone]; exact hl
    rw [State.withOps_rounds h2 hl hg ok hs' hr, State.multiEnd_far hx] at ht
    obtain ⟨l, hfar, hends, hnomail⟩ := State.multiFar_asks (ids := s'.endIds srcs dst) (body := fun vs u => u.kept dst (body vs u)) (srcs := srcs) (dst := dst)
      (show s'.me.latch.partials = [] by rw [hl'])
    have hme := ht.trans hfar
    rw [hs2, hme]
    simp only [State.me_upd]
    exact ⟨rfl, trivial, trivial, hends, hnomail⟩
  · rw [State.withOps_answered h2 h0 hv hp hres hx, State.multiFar_fault hp hf]
  · have ht' : s' = (s.unpop s.cur).parkRe (if s.me.latch.refused then .parkQ else .parkMsg) (.multi (s.endIds srcs dst) (((popsOf srcs).filter isMb).length > 0)) :=
      ht.trans (by rw [hids]; rfl)
    rw [State.withOps_answered h2 h0 hv hp hres hx, State.multiFar_refused hp hf h0 hb hno ht']
    exact ⟨fun h => if_neg (by simp [h]), fun h => if_pos h⟩
  · intro t href hno hd ht
    have hd' : dst.filter isQ = none := by
      cases dst with
      | none => rfl
      | some d => exact Option.filter_some_neg (by simpa using hd)
    rw [State.withOps_answered h2 h0 hv hp hres hx, State.multiFar_confirms hp hf h0 hb href hno hd'] at ht
    subst ht
    simp only [State.me_upd, State.me_confirms]
    exact ⟨rfl, trivial, trivial, trivial, trivial, trivial⟩

/-- Settles O9: the operands deliver, stop or park the instruction, or take it through its rounds. -/
theorem operandForms : Obligations.OperandForms :=
  ⟨fun _ _ _ _ _ _ _ _ _ => State.withOps_reach, operandsStop, operandsPark, operandsRounds⟩

end Sys2Proof.Machine
end

section
/-! SUPPORT. What a write to memory leaves: the bytes, the FE bits and the poison of other words, and the slots that it wakes (R119, R137, R166, R229). -/

namespace Sys2Proof

/-- An entry of a sparse table after a write. -/
theorem Tbl.find_put {α : Type} (t : Tbl α) (k : Nat) (v : α) (j : Nat) : (Tbl.put t k v).find j = if j = k then some v else t.find j := by
  induction t with
  | nil => by_cases h : j = k <;> simp [Tbl.put, Tbl.find, h]
  | cons p r ih =>
    obtain ⟨i, w⟩ := p
    rcases Nat.lt_trichotomy k i with h | rfl | h
    · rcases Nat.lt_trichotomy j k with hj | rfl | hj
      · simp [Tbl.put, Tbl.find, h, Nat.ne_of_lt h, Nat.ne_of_lt hj, hj, Nat.ne_of_lt (hj.trans h), hj.trans h]
      · simp [Tbl.put, Tbl.find, h, Nat.ne_of_lt h]
      · simp [Tbl.put, Tbl.find, h, Nat.ne_of_lt h, Nat.ne_of_gt hj, Nat.not_lt.2 hj.le]
    · by_cases hj : j = k <;> simp [Tbl.put, Tbl.find, hj]
    · have hn : ¬ k < i := Nat.not_lt.2 h.le
      by_cases hj : j = i
      · subst hj; simp [Tbl.put, Tbl.find, hn, Nat.ne_of_gt h, Nat.ne_of_lt h]
      · by_cases hl : j < i
        · simp [Tbl.put, Tbl.find, hn, Nat.ne_of_gt h, hj, hl, Nat.ne_of_lt (hl.trans h)]
        · simp [Tbl.put, Tbl.find, hn, Nat.ne_of_gt h, hj, hl, ih]

end Sys2Proof

namespace Sys2Proof.Machine

/-! Bytes, FE bits and poison of local and physical places -/

section
variable {s : State} {a : Nat}

theorem eq_of_div_eight {a c : Nat} (ha : a < glb0) (h : c / 8 = a / 8) : c < glb0 := by
  have hg : glb0 = 2 ^ 87 * 8 := by decide
  omega

theorem State.setPoison_local (ha : a < glb0) (b : Bool) : s.setPoison a b = { s with poison := Tbl.set false s.poison (a / 8) b } := if_pos ha

theorem State.setFull_local (ha : a < glb0) (b : Bool) : s.setFull a b = { s with empty := Tbl.set false s.empty (a / 8) (!b) } := if_pos ha

theorem State.putBytes_local (d : List Byte) (ha : a + d.length ≤ glb0) : s.putBytes a d = { s with mem := (s.putBytes a d).mem } := by
  induction d generalizing s a with
  | nil => rfl
  | cons b d ih =>
    rw [List.length_cons] at ha
    have hb : s.putByte a b = { s with mem := Tbl.set unlisted s.mem a b } := if_pos (by omega)
    rw [State.putBytes, ih (by omega), hb]

theorem State.poisonAt_setPoison (h : s.memWf = true) (ha : a < glb0) (b : Bool) (c : Nat) :
    (s.setPoison a b).poisonAt c = if c / 8 = a / 8 then b else s.poisonAt c := by
  have hp : Tbl.wf false s.poison := ((State.memWf_iff s).1 h).2.2
  rw [State.setPoison_local ha, State.poisonAt, State.poisonAt]
  by_cases hc : c < glb0
  · simp only [hc, if_true]
    exact Tbl.get_set hp _ _ _
  · simp only [hc, if_false]
    rw [if_neg fun he => hc (eq_of_div_eight ha he)]

theorem State.fullAt_setFull (h : s.memWf = true) (ha : a < glb0) (b : Bool) (c : Nat) :
    (s.setFull a b).fullAt c = if c / 8 = a / 8 then b else s.fullAt c := by
  have he : Tbl.wf false s.empty := ((State.memWf_iff s).1 h).2.1
  rw [State.setFull_local ha, State.fullAt, State.fullAt]
  by_cases hc : c < glb0
  · simp only [hc, if_true]
    rw [Tbl.get_set he]
    split <;> simp
  · simp only [hc, if_false]
    rw [if_neg fun he => hc (eq_of_div_eight ha he)]

/-- The words of an aligned access: one. -/
theorem wordsOf_within {n : Nat} (hn : 0 < n) (h : a % 8 + n ≤ 8) : wordsOf a n = [a / 8 * 8] := by
  rw [wordsOf, if_neg (by omega), show (a + n - 1) / 8 - a / 8 + 1 = 1 by omega]
  rfl

/-- A word's poison is cleared, or nothing happens. -/
structure Heals (s t : State) (a : Nat) : Prop where
  rest : t = { s with poison := t.poison }
  wf : t.memWf = true
  others : ∀ c, c / 8 ≠ a / 8 → t.poisonAt c = s.poisonAt c
  clean : s.poisonAt a = false → t.poisonAt a = false

theorem heals_if (p : Prop) [Decidable p] (h : s.memWf = true) (ha : a < glb0) : Heals s (if p then s.setPoison (a / 8 * 8) false else s) a := by
  have ha' : a / 8 * 8 < glb0 := by omega
  split
  · refine ⟨by rw [State.setPoison_local ha'], State.memWf_setPoison h _ _, fun c hc => ?_, fun _ => ?_⟩
    · rw [State.poisonAt_setPoison h ha', if_neg (by omega)]
    · rw [State.poisonAt_setPoison h ha', if_pos (by omega)]
  · exact ⟨rfl, h, fun _ _ => rfl, id⟩

theorem heals_healPoison {n : Nat} (h : s.memWf = true) (ha : a < glb0) (hn : 0 < n) (hw : a % 8 + n ≤ 8) : Heals s (s.healPoison a n) a := by
  rw [State.healPoison, wordsOf_within hn hw]
  exact heals_if _ h ha

/-- A write of a whole word clears its poison. -/
theorem State.poisonAt_healPoison (h : s.memWf = true) (ha : a < glb0) (hw : a % 8 = 0) : (s.healPoison a 8).poisonAt a = false := by
  have hd : a / 8 * 8 = a := by omega
  rw [State.healPoison, wordsOf_within (by decide) (by omega), hd]
  show (if _ then s.setPoison a false else s).poisonAt a = false
  split
  · rw [State.poisonAt_setPoison h ha, if_pos rfl]
  · next hn => simpa using hn

end

/-! What a write wakes -/

/-- A slot that a write of another may have reached: what it waits for, its monitors and its fetch buffer have changed at most. -/
def Slot.Reached (a b : Slot) : Prop := b = { a with st := b.st, wait := b.wait, latch := b.latch, mons := b.mons, fbuf := b.fbuf }

theorem Slot.Reached.trans {a b c : Slot} (h : a.Reached b) (g : b.Reached c) : a.Reached c := by
  unfold Slot.Reached at *
  rw [g, h]

theorem Slot.Reached.sameSlot {a b : Slot} (h : a.Reached b) : SameSlot { a with mons := b.mons } b := by
  rw [h]
  constructor <;> rfl

/-- Slots are woken and noted, and nothing else happens. -/
structure Wakes (s t : State) : Prop where
  rest : t = { s with slots := t.slots, replay := t.replay, bbWait := t.bbWait }
  slots : ∀ k, (s.slot k).Reached (t.slot k)

theorem Wakes.refl (s : State) : Wakes s s := ⟨rfl, fun _ => rfl⟩

theorem Wakes.trans {s t u : State} (h : Wakes s t) (g : Wakes t u) : Wakes s u :=
  ⟨by rw [g.rest, h.rest], fun k => (h.slots k).trans (g.slots k)⟩

theorem wakes_foldl {α : Type} {f : State → α → State} (hf : ∀ t e, Wakes t (f t e)) (l : List α) (s : State) : Wakes s (l.foldl f s) :=
  foldl_keeps (P := Wakes s) (fun t e h => h.trans (hf t e)) l s (.refl s)

theorem wakes_modSlot {f : Slot → Slot} (hf : ∀ sl : Slot, sl.Reached (f sl)) (s : State) (k : Nat) : Wakes s (s.modSlot k f) :=
  ⟨rfl, fun j => by
    rw [State.slot_modSlot]
    split
    · next h => rw [h]; exact hf _
    · rfl⟩

theorem wakes_complete (s : State) (k : Nat) (v : V512) : Wakes s (s.complete k v) :=
  (wakes_modSlot (f := fun sl => { sl with st := .run, wait := .none, latch := { sl.latch with res := some v } }) (fun _ => rfl) s k).trans ⟨rfl, fun _ => rfl⟩

theorem wakes_trigger (s : State) (ls : List Nat) : Wakes s (s.trigger ls) :=
  wakes_foldl (fun t ⟨k, sl⟩ => by
    dsimp only
    split
    · have h := wakes_modSlot (f := fun sl => { sl with mons := sl.mons.map fun (i, m) => (i, if ls.contains m.block then { m with hit := true } else m) }) (fun _ => rfl) t k
      split
      · exact h.trans (wakes_complete _ _ _)
      · exact h
    · exact .refl t) _ s

theorem wakes_codeWrite (s : State) (a : Nat) (b : Byte) (r : Bool) : Wakes s (s.codeWrite a b r) := by
  unfold State.codeWrite
  split
  · exact wakes_foldl (fun t ⟨k, sl⟩ => by
      dsimp only
      split
      · exact wakes_modSlot (by exact fun _ => rfl) t k
      · exact .refl t) _ s
  · exact .refl s

theorem wakes_phaseWake (s : State) (a old : Nat) : Wakes s (s.phaseWake a old) := by
  simp only [State.phaseWake]
  split
  · exact .refl s
  · exact Wakes.trans (t := { s with bbWait := s.bbWait.filter fun w => w.1 ≠ a }) ⟨rfl, fun _ => rfl⟩ (wakes_foldl (fun t ⟨_, k⟩ => wakes_complete t k _) _ _)

/-- A write to a local place puts its bytes and wakes slots. -/
theorem State.write_local {s : State} {a : Nat} (by_ : Option Nat) (r : Bool) (d : List Byte) (h : isGlobal a = false) :
    Wakes ((s.healPoison a d.length).putBytes a d) (s.write by_ r a d) := by
  unfold State.write
  extract_lets n olds old ls s1 s2 s3 s4
  have h2 : Wakes s1 s2 := by
    unfold s2
    split
    · exact wakes_foldl (fun t ⟨_, _⟩ => wakes_codeWrite t _ _ _) _ _
    · exact .refl _
  rw [if_neg (by simp [h])]
  exact (h2.trans (wakes_trigger s2 ls)).trans (wakes_foldl (fun t ⟨_, _⟩ => wakes_phaseWake t _ _) _ _)

/-! A message on its way -/

section
variable (s : State) (x i j : Nat) (b : Body)

theorem State.track_eq (sent : Bool) : s.track x i j sent = { s with ctxs := (s.track x i j sent).ctxs } := by
  unfold State.track
  split
  · rfl
  · refine foldl_keeps (P := fun t : State => t = { s with ctxs := t.ctxs }) (fun t sc h => ?_) _ s rfl
    split
    · exact h
    · simp only []
      split
      · rw [h]
        rfl
      · exact h

theorem State.send_eq : s.send x i j b = { s with ctxs := (s.send x i j b).ctxs, net := s.net ++ [⟨i, j, b, x, none⟩] } := by
  simp only [State.send]
  split
  · rw [State.track_eq]
  · rfl

theorem State.me_send : (s.send x i j b).me = s.me := by
  rw [State.send_eq]
  rfl

theorem State.sameMemory_send : SameMemory s (s.send x i j b) := by
  rw [State.send_eq]
  exact .of_eq rfl rfl rfl rfl

end

/-- The end of a chunk leaves every scalar register. -/
theorem State.xget_chunkDone (s : State) (i k r : Nat) : (s.chunkDone i).xget k r = s.xget k r := by
  refine State.xget_congr (State.tid_congr (by simp) k) ?_
  by_cases h : k = i
  · rw [h, State.slot_chunkDone]
  · rw [s.slot_chunkDone_ne i h]

end Sys2Proof.Machine
end

section
/-! SUPPORT. Whatever form its operands have, the issuing slot stays the one that it is (R26, R91). -/

namespace Sys2Proof.Machine

theorem State.cur_qPop (s : State) (q k e : Nat) (b : Bool) : (s.qPop q k e b).2.cur = s.cur := by
  simp only [State.qPop]
  split
  · split
    · rfl
    · rw [State.cur_qChanged, State.cur_modQueue]
  · split
    · have ht := s.cur_ringTake q
      split
      · rw [State.cur_qChanged, State.cur_modQueue, ht]
      · rw [State.cur_qChanged, ht]
    · split
      · rfl
      · rw [State.cur_qChanged, State.cur_modQueue]

theorem State.cur_mailTake (s : State) (k n : Nat) : (s.mailTake k n).2.cur = s.cur := by
  induction n generalizing s with
  | zero => rfl
  | succ n ih =>
    simp only [State.mailTake]
    split
    · next h => exact (ih _).trans (s.cur_mailPop h)
    · rfl

theorem State.cur_popAll (s : State) (l : List R6) : (s.popAll l).2.cur = s.cur := by
  induction l generalizing s with
  | nil => rfl
  | cons r l ih =>
    simp only [State.popAll]
    split
    · split
      · next h => exact (ih _).trans (s.cur_mailPop h)
      · exact ih s
    · split
      · exact ih s
      · next q _ =>
        have hp := s.cur_qPop q s.cur (qIx r) false
        split
        · next h =>
          rw [h] at hp
          exact (ih _).trans hp
        · exact ih s

theorem Operands.cur {s s1 : State} {srcs : List R6} {dst : Option R6} {irr : Bool} {rel : Option Nat} {vs : List W} (h : Operands s srcs dst irr rel vs s1) :
    s1.cur = s.cur := by
  cases h with
  | held | inChunk | mailed | delivered | far => rfl
  | apart t _ _ _ _ _ ht | toQueue t _ _ _ _ _ _ _ ht =>
    rw [ht]
    exact s.chunkDone_cur s.cur
  | fromQueue t t2 r q v _ _ _ _ _ _ ht _ _ _ hpop =>
    have hp := t.stampMe.cur_qPop q t.cur (qIx r) false
    rw [hpop, ht] at hp
    exact hp.trans (s.chunkDone_cur s.cur)
  | fromMail t t2 n ms _ _ _ _ _ _ ht _ hms =>
    have hp := t.cur_mailTake t.cur n
    rw [hms, ht] at hp
    exact hp.trans (s.chunkDone_cur s.cur)
  | near t t2 p _ _ _ _ ht _ _ hpop =>
    have hp := t.stampMe.cur_popAll (popsOf srcs)
    rw [hpop, ht] at hp
    have hr : ∀ o, (t2.reserveNear o).cur = t2.cur := fun o => by cases o <;> rfl
    have ha : ∀ (u : State) vs took mails, (u.poppedAll vs took mails dst).cur = u.cur := fun u vs took mails => by
      unfold State.poppedAll
      split <;> rfl
    exact (ha _ _ _ _).trans ((hr _).trans (hp.trans (s.chunkDone_cur s.cur)))

end Sys2Proof.Machine
end

section
/-! Settles O27. Stores: where they stop, and what they leave (R116, R117, R119, R132). -/

namespace Sys2Proof.Machine

/-! Where an access stops -/

/-- What `StopsAt` says is what `State.judge` finds. -/
theorem State.judge_of_stopsAt {s : State} {wr : Bool} {ps ok : List Piece} {err bad : Option (Nat × W)} {bring : List Nat} (h : StopsAt s wr ps err ok bring bad) :
    s.judge wr ps err = ⟨ok, bring, bad⟩ := by
  have hf : ∀ p ∈ ok, (s.holds p && (s.pieceErr wr ps p).isNone) = true := fun p hp => by
    obtain ⟨hh, he⟩ := h.fine p hp
    simp [hh, he]
  have hok : (s.judge wr ps err).ok = ok := by
    obtain ⟨rest, hrest⟩ := h.ahead
    rw [State.judge_ok]
    conv_lhs => arg 2; rw [← hrest]
    rw [List.takeWhile_append_of_pos hf]
    cases rest with
    | nil => simp
    | cons p rest =>
      have hp : ps[ok.length]? = some p := by simp [← hrest]
      have hn : (s.holds p && (s.pieceErr wr ps p).isNone) = false := by
        cases hh : s.holds p with
        | false => rfl
        | true =>
          obtain ⟨c, hc, -⟩ := h.fault p hp hh
          simp [hc]
      simp [hn]
  have hj : (s.judge wr ps err).bring = bring ∧ (s.judge wr ps err).bad = bad := by
    by_cases hall : ok = ps
    · obtain ⟨h1, h2⟩ := h.all hall
      obtain ⟨g1, g2⟩ := State.judge_all (hok.trans hall)
      exact ⟨g1.trans h1.symm, g2.trans h2.symm⟩
    · obtain ⟨p, hp⟩ : ∃ p, ps[ok.length]? = some p := by
        obtain ⟨rest, rfl⟩ := h.ahead
        cases rest with
        | nil => simp at hall
        | cons p rest => exact ⟨p, by simp⟩
      obtain ⟨hheld, hmiss⟩ := State.judge_stop (s := s) (wr := wr) (err := err) (by rw [hok]; exact hp)
      cases hh : s.holds p with
      | true =>
        obtain ⟨c, hc, hb, he⟩ := h.fault p hp hh
        obtain ⟨-, g1, g2⟩ := hheld hh
        exact ⟨g1.trans hb.symm, g2.trans (hc.trans he.symm)⟩
      | false =>
        obtain ⟨hb, he⟩ := h.lines p hp hh
        obtain ⟨g1, g2⟩ := hmiss hh
        exact ⟨g1.trans (by rw [hok, hb]), g2.trans he.symm⟩
  rw [← hok, ← hj.1, ← hj.2]

theorem State.judge_allowed {s : State} {wr : Bool} {ps : List Piece} {err : Option (Nat × W)} (h : s.allows wr ps) : s.judge wr ps err = ⟨ps, [], err⟩ :=
  State.judge_of_stopsAt ⟨List.prefix_rfl, h, fun _ => ⟨rfl, rfl⟩, fun p hp => by simp at hp, fun p hp => by simp at hp⟩

/-! What `State.storeAll` does -/

section
variable {s : State} {ps : List Piece} {err : Option (Nat × W)} {len : Nat}

theorem State.storeAll_fills {ok : List Piece} {bring : List Nat} {bad : Option (Nat × W)} (hd : s.me.latch.parts.find nearDone = none)
    (h : StopsAt s true ps err ok bring bad) (hb : bring ≠ []) : s.storeAll len ps err = s.fill bring (ps.flatMap (·.lines)) true := by
  simp only [State.storeAll, hd, State.judge_of_stopsAt h, Option.isSome_none, Bool.false_eq_true, if_false]
  exact if_pos (by simpa using hb)

theorem State.storeAll_faults {ok : List Piece} {bring : List Nat} {c : Nat} {v : W} (hd : s.me.latch.parts.find nearDone = none)
    (h : StopsAt s true ps err ok bring (some (c, v))) : s.storeAll len ps err = s.raise c v := by
  have hb : bring = [] := by
    by_cases hall : ok = ps
    · exact (h.all hall).1
    · obtain ⟨rest, hrest⟩ := h.ahead
      cases rest with
      | nil => exact absurd (by simpa using hrest) hall
      | cons p rest =>
        have hp : ps[ok.length]? = some p := by simp [← hrest]
        cases hh : s.holds p with
        | true => exact (h.fault p hp hh).choose_spec.2.1
        | false => cases (h.lines p hp hh).2
  simp only [State.storeAll, hd, State.judge_of_stopsAt h, hb, Option.isSome_none, Bool.false_eq_true, if_false, List.isEmpty_nil, Bool.not_true]

theorem State.store_global (h : (ps.all fun p => isGlobal p.tgt.at_) = true) : s.store len ps err = s.storeAll len ps err :=
  if_neg (by rw [Bool.not_eq_true, List.any_eq_false]; intro p hp; simpa using List.all_eq_true.1 h p hp)

theorem any_local_iff : (ps.any fun p => !isGlobal p.tgt.at_) = true ↔ (ps.all fun p => isGlobal p.tgt.at_) = false := by
  simp

theorem State.store_local (h : (ps.all fun p => isGlobal p.tgt.at_) = false) : s.store len ps err = s.afterCommit fun s => s.storeAll len ps err :=
  if_pos (any_local_iff.2 h)

/-- What follows when every piece can be accessed. -/
theorem State.storeAll_allowed (hd : s.me.latch.parts.find nearDone = none) (ha : s.allows true ps) :
    s.storeAll len ps =
      if (ps.any fun p => !isGlobal p.tgt.at_) = true ∨ s.me.latch.stage ≠ 0 then
        if s.behind true ps then s.parkRe .parkMem (.acks 0)
        else if s.heldUp ps then s.parkRe .parkMem .commit
        else (s.written (ps.filter fun p => !p.tgt.remote)).sendStores len (ps.filter fun p => p.tgt.remote)
      else if ((s.me.chunk.storeLines ++ (ps.flatMap (·.lines)).eraseDups).eraseDups).length > 512 then s.parkRe .parkMem .commit
      else (s.upd fun sl => { sl with chunk := { sl.chunk with
        stores := (ps.filter fun p => !p.tgt.remote).foldl (fun t p => p.data.zipIdx.foldl (fun t (b, i) => t.put (p.tgt.at_ + i) b) t) sl.chunk.stores
        trs := s.storeTrs (ps.flatMap (·.lines)).eraseDups sl.chunk.trs } }).retire len := by
  simp only [State.storeAll, hd, State.judge_allowed ha, Option.isSome_none, Bool.false_eq_true, if_false, List.isEmpty_nil, Bool.not_true, Bool.or_eq_true, decide_eq_true_eq]
  rfl

theorem State.store_allowed_near (hd : s.me.latch.parts.find nearDone = none) (ha : s.allows true ps) (hn : (ps.all fun p => !p.tgt.remote) = true)
    (hi : (ps.any fun p => !isGlobal p.tgt.at_) = true ∨ s.me.latch.stage ≠ 0) (hb : s.behind true ps = false) (hh : s.heldUp ps = false) :
    s.storeAll len ps = (s.written ps).retireIrr len := by
  have hnear : (ps.filter fun p => !p.tgt.remote) = ps := List.filter_eq_self.2 (List.all_eq_true.1 hn)
  have hfar : (ps.filter fun p => p.tgt.remote) = [] := List.filter_eq_nil_iff.2 fun p hp => by simpa using List.all_eq_true.1 hn p hp
  rw [State.storeAll_allowed hd ha, if_pos hi, if_neg (by simp [hb]), if_neg (by simp [hh]), hnear, hfar]
  rfl

theorem State.store_allowed_behind (hd : s.me.latch.parts.find nearDone = none) (ha : s.allows true ps)
    (hi : (ps.any fun p => !isGlobal p.tgt.at_) = true ∨ s.me.latch.stage ≠ 0) (hb : s.behind true ps = true) :
    s.storeAll len ps = s.parkRe .parkMem (.acks 0) := by
  rw [State.storeAll_allowed hd ha, if_pos hi, if_pos hb]

theorem State.store_allowed_heldUp (hd : s.me.latch.parts.find nearDone = none) (ha : s.allows true ps)
    (hi : (ps.any fun p => !isGlobal p.tgt.at_) = true ∨ s.me.latch.stage ≠ 0) (hb : s.behind true ps = false) (hh : s.heldUp ps = true) :
    s.storeAll len ps = s.parkRe .parkMem .commit := by
  rw [State.storeAll_allowed hd ha, if_pos hi, if_neg (by simp [hb]), if_pos hh]

theorem State.notePages_nil (s : State) : s.notePages [] = s := rfl

/-- One remote store is sent, and the instruction ends. -/
theorem State.sends_one {p : Piece} (hp : p.part < nearDone) (hf : s.me.latch.parts.find p.part = none) (ha : s.me.acks.length < 8) :
    ∃ t, (s.written []).sendStores len [p] = t ∧
      t.net = s.net ++ [⟨s.myCore, portOf p.tgt.at_, .access s.cur p.part p.tgt.at_ (.store p.data) false p.tgt.vc p.ptr, s.ctxOf s.myCore, none⟩] ∧
      t.me.acks = s.me.acks ++ [p.tgt.vc] ∧ t.me.pc = s.me.pc + nat len ∧ t.me.st = .run ∧ SameMemory s t ∧ t.cur = s.cur := by
  set u := s.upd fun sl => { sl with latch := { sl.latch with parts := sl.latch.parts.put nearDone 0#512 } } with hu
  have hw : s.written [] = u := rfl
  have hme : u.me = { s.me with latch := { s.me.latch with parts := s.me.latch.parts.put nearDone 0#512 } } := State.me_upd s _
  have hfind : (u.me.latch.parts.find p.part).isSome = false := by
    rw [hme, Tbl.find_put, if_neg (Nat.ne_of_lt hp), hf]
    rfl
  have hacks : ¬ u.me.acks.length ≥ 8 := by rw [hme]; exact Nat.not_le.2 ha
  refine ⟨_, rfl, ?_⟩
  rw [hw]
  simp only [State.sendStores, hfind, hacks, if_false, Bool.false_eq_true]
  set v := u.send (u.ctxOf u.myCore) u.myCore (portOf p.tgt.at_) (.access u.cur p.part p.tgt.at_ (.store p.data) false p.tgt.vc p.ptr) with hv
  have hvme : v.me = u.me := State.me_send ..
  have hnet : v.net = u.net ++ _ := (congrArg State.net (State.send_eq ..) :)
  have hcur : v.cur = u.cur := State.cur_send ..
  have hsu : SameMemory s u := State.sameMemory_upd _
  have hmem : SameMemory u v := State.sameMemory_send ..
  refine ⟨hnet, ?_, ?_, ?_, hsu.trans (hmem.trans (.of_eq rfl rfl rfl rfl)), hcur⟩ <;>
    simp only [State.retireIrr, State.retireIrrTo, State.me_upd, hvme, hme]

end

/-- A store of pieces by an instruction does all that `StoresAt` says. -/
theorem storesAt {i : Instr} {s s1 : State} {len : Nat} {ps : List Piece} {err : Option (Nat × W)} (hx : exec i s = .next (s1.store len ps err)) :
    StoresAt i s s1 len ps err := by
  rw [StoresAt, hx]
  refine ⟨fun hg hd => ⟨fun ok bring bad h => ⟨fun hb => ?_, fun c v hbad => ?_⟩, fun ha he hn => ?_⟩, fun hg hc => ?_, fun hg hc s2 hs2 hd => ?_⟩
  · rw [State.store_global hg, State.storeAll_fills hd h hb]
  · subst hbad
    rw [State.store_global hg, State.storeAll_faults hd h]
  · subst he
    have hl : ¬ (ps.any fun p => !isGlobal p.tgt.at_) = true := by rw [any_local_iff, hg]; decide
    have hnear : (ps.filter fun p => !p.tgt.remote) = ps := List.filter_eq_self.2 (List.all_eq_true.1 hn)
    rw [State.store_global hg]
    refine ⟨fun h0 hroom => ?_, fun h0 hroom => ?_, fun h0 hb => ?_, fun h0 hb hh => ?_, fun h0 hb hh => ?_⟩
    · rw [State.storeAll_allowed hd ha, if_neg (by simp [hl, h0]), if_neg (Nat.not_lt.2 hroom), hnear]
    · rw [State.storeAll_allowed hd ha, if_neg (by simp [hl, h0]), if_pos (Nat.not_le.1 hroom)]
    · rw [State.store_allowed_behind hd ha (.inr h0) hb]
    · rw [State.store_allowed_heldUp hd ha (.inr h0) hb hh]
    · rw [State.store_allowed_near hd ha hn (.inr h0) hb hh]
  · rw [State.store_local hg, State.afterCommit_waits hc]
  · have hl := any_local_iff.2 hg
    rw [State.store_local hg, State.afterCommit_done hc, ← hs2]
    refine ⟨fun ok bring bad h => ⟨fun hb => ?_, fun c v hbad => ?_⟩, fun ha he hb => ?_, fun ha he hn hb hh => ?_, fun p ha he hp hr hpart hf hacks hb hh => ?_⟩
    · rw [State.storeAll_fills hd h hb]
    · subst hbad
      rw [State.storeAll_faults hd h]
    · subst he
      rw [State.store_allowed_behind hd ha (.inl hl) hb]
    · subst he
      rw [State.store_allowed_near hd ha hn (.inl hl) hb hh]
    · subst he hp
      obtain ⟨t, ht, h⟩ := State.sends_one (s := s2) (len := len) hpart hf hacks
      refine ⟨t, ?_, h⟩
      rw [State.storeAll_allowed hd ha, if_pos (.inl hl), if_neg (by simp [hb]), if_neg (by simp [hh]), show [p].filter (fun p => !p.tgt.remote) = [] by simp [hr], show [p].filter (fun p => p.tgt.remote) = [p] by simp [hr], ht]

/-! The scalar stores -/

/-- A scalar store by instruction i. -/
theorem stores {i : Instr} {len n : Nat} {a b : R6} {off : Int} (hx : ∀ s, exec i s = .next (s.storeOp len a b off n)) : Stores i len a b off n := by
  intro s s1 x y ho
  have hk : exec i s = .next (s1.onPieces (s1.pieceImm x off n (leBytes y.toNat n)) fun ps s => s.store len ps) :=
    (hx s).trans (congrArg Host.Outcome.next ((State.withOps_reach ho).trans (State.kept_done (.inl rfl))))
  refine ⟨fun h7 => ?_, fun h7 hp => ?_, fun p h7 hp => ⟨fun c hc => ?_, fun t ht => storesAt ?_⟩⟩ <;>
    rw [hk] <;> simp only [State.pieceImm, ptrImm, State.piece, State.onPieces, *, if_true, if_false]

theorem storeResults : Rules.StoreResults := fun _ _ _ _ _ _ =>
  ⟨stores fun _ => rfl, stores fun _ => rfl, stores fun _ => rfl, stores fun _ => rfl, stores fun _ => rfl⟩

/-! The frame of a local store -/

theorem length_leBytes (v n : Nat) : (leBytes v n).length = n := by
  induction n generalizing v with
  | zero => rfl
  | succ n ih => rw [leBytes, List.length_cons, ih]

theorem getElem?_leBytes (v n j : Nat) (h : j < n) : (leBytes v n)[j]? = some (BitVec.ofNat 8 (v / 256 ^ j)) := by
  induction n generalizing v j with
  | zero => omega
  | succ n ih =>
    cases j with
    | zero => simp [leBytes]
    | succ j => rw [leBytes, List.getElem?_cons_succ, ih _ _ (by omega), Nat.div_div_eq_div_mul, Nat.pow_succ']

/-- Byte j of a register value. -/
theorem extractLsb'_byte (y : W) (j : Nat) : y.extractLsb' (8 * j) 8 = BitVec.ofNat 8 (y.toNat / 256 ^ j) := by
  apply BitVec.eq_of_toNat_eq
  rw [BitVec.extractLsb'_toNat, BitVec.toNat_ofNat, Nat.shiftRight_eq_div_pow, Nat.pow_mul]

/-- Every region starts at a multiple of its size, all of them of 64 KiB. -/
theorem State.resolve_base {s : State} {c : Nat} {p : W} {t : Tgt} (h : s.resolve c p = .ok t) : t.base % 65536 = 0 := by
  unfold State.resolve at h
  extract_lets sp x v w low vd at h
  clear_value vd w sp
  split at h
  · cases h
  · split at h
    · cases h
    · split at h
      · cases h
      · split at h
        · cases h; simp only [glbAt, glb0]; omega
        · cases h; simp only [spdBase]; omega
        · split at h <;> cases h; simp only [spdBase]; omega
        · cases h; simp only [tcmBase]; omega
        · split at h <;> cases h; simp only [dsrBase]; omega
        · split at h <;> cases h; simp only [tcmBase]; omega

section
variable {s : State} {q : Piece}

theorem Piece.lines_local (h : isGlobal q.tgt.at_ = false) : q.lines = [] := if_neg (by simp [h])

theorem State.holds_local (h : isGlobal q.tgt.at_ = false) : s.holds q = true := by rw [State.holds, Piece.lines_local h]; rfl

theorem Piece.places_local (h : isGlobal q.tgt.at_ = false) : q.places = [] := by rw [Piece.places, Piece.lines_local h]; rfl

/-- Nothing that a global write waits for holds up a local one. -/
theorem State.heldUp_local (h : isGlobal q.tgt.at_ = false) : s.heldUp [q] = false := by
  simp only [State.heldUp, List.flatMap_cons, List.flatMap_nil, List.append_nil, Piece.lines_local h, Piece.places_local h]
  cases hs : s.soloHolder <;> simp [State.soloHolds, State.logOver, hs]

theorem State.behind_local (irr : Bool) (h : isGlobal q.tgt.at_ = false) : s.behind irr [q] = false := by simp [State.behind, h]

/-- Whether a local piece meets a fault is a matter of poison and of the slot's own bytes. -/
theorem State.pieceErr_congr {t : State} {wr : Bool} (h : isGlobal q.tgt.at_ = false) (hp : ∀ w, t.poisonSeen t.cur w = s.poisonSeen s.cur w) :
    t.pieceErr wr [q] q = s.pieceErr wr [q] q := by
  have hd : ∀ u : State, u.pieceDeny q wr = none := fun u => by rw [State.pieceDeny, Piece.lines_local h]; rfl
  have hf : t.poisonSeen t.cur = s.poisonSeen s.cur := funext hp
  simp only [State.pieceErr, hd, State.piecePoison, hf]

/-- A chunk without global state holds no byte. -/
theorem Chunk.stores_of_local {c : Chunk} (h : c.global = false) : c.stores = [] := by
  simp only [Chunk.global, Bool.or_eq_false_iff, Bool.not_eq_false', List.isEmpty_iff] at h
  exact h.2

theorem State.poisonSeen_chunkDone (h : s.me.chunk.global = false) (w : Nat) : (s.chunkDone s.cur).poisonSeen (s.chunkDone s.cur).cur w = s.poisonSeen s.cur w := by
  have h1 : (s.slot s.cur).chunk.stores = [] := Chunk.stores_of_local h
  have h2 : ((s.chunkDone s.cur).slot (s.chunkDone s.cur).cur).chunk.stores = [] := congrArg (·.chunk.stores) (State.me_chunkDone (s := s))
  rw [State.poisonSeen, State.poisonSeen, h1, h2, (s.sameMemory_chunkDone s.cur).poison]

end

/-- The word that a local store clears of poison before it writes. -/
theorem heals_healCovered {s : State} {q : Piece} (h : s.memWf = true) (ha : q.tgt.at_ < glb0) (hn : 0 < q.n) (hw : q.tgt.at_ % 8 + q.n ≤ 8) :
    Heals s (s.healCovered [q]) q.tgt.at_ := by
  rw [State.healCovered, List.flatMap_cons, List.flatMap_nil, List.append_nil, wordsOf_within hn hw]
  exact heals_if _ h ha

/-- A local store of one piece leaves its bytes, and all else but what a write wakes. -/
structure Stored (s t : State) (q : Piece) : Prop where
  rest : t = { s with mem := t.mem, poison := t.poison, slots := t.slots, replay := t.replay, bbWait := t.bbWait }
  slots : ∀ k, (s.slot k).Reached (t.slot k)
  wf : t.memWf = true
  bytes : ∀ c, t.byteAt c = if q.tgt.at_ ≤ c then (q.data[c - q.tgt.at_]?).getD (s.byteAt c) else s.byteAt c
  full : ∀ c, t.fullAt c = s.fullAt c
  poison : ∀ c, c / 8 ≠ q.tgt.at_ / 8 → t.poisonAt c = s.poisonAt c
  clean : q.n = 8 → t.poisonAt q.tgt.at_ = false

theorem State.stored {s : State} {q : Piece} (hwf : s.memWf = true) (hloc : isGlobal q.tgt.at_ = false) (hn : 0 < q.n) (hw : q.tgt.at_ % 8 + q.n ≤ 8)
    (hd : q.data.length = q.n) (by_ : Option Nat) : Stored s ((s.healCovered [q]).write by_ false q.tgt.at_ q.data) q := by
  have hg : q.tgt.at_ + 8 ≤ glb0 := by
    have := mt (isGlobal_iff (a := q.tgt.at_)).2 (by simp [hloc])
    have h0 : glb0 = 2 ^ 90 := rfl
    omega
  have hc := heals_healCovered hwf (by omega) hn hw
  set u := s.healCovered [q] with hu
  have hh := heals_healPoison (n := q.n) hc.wf (by omega) hn hw
  set v := u.healPoison q.tgt.at_ q.n with hv
  have hp := State.putBytes_local (s := v) (a := q.tgt.at_) q.data (by omega)
  have hb := State.byteAt_putBytes hh.wf q.tgt.at_ q.data (by omega)
  have hpwf := State.memWf_putBytes hh.wf q.tgt.at_ q.data
  have hwr := State.write_local (s := u) by_ false q.data hloc
  rw [hd, ← hv] at hwr
  set w := v.putBytes q.tgt.at_ q.data with hw'
  set t := u.write by_ false q.tgt.at_ q.data with ht
  have hmem : t.mem = w.mem := (congrArg State.mem hwr.rest :)
  have hempty : t.empty = w.empty := (congrArg State.empty hwr.rest :)
  have hpoison : t.poison = w.poison := (congrArg State.poison hwr.rest :)
  have hsame : SameMemory w t := .of_eq hmem hempty hpoison (congrArg State.lines hwr.rest :)
  have huv : u = { s with poison := u.poison } := hc.rest
  have hvv : v = { s with poison := v.poison } := by rw [hh.rest, huv]
  have hwv : w = { s with mem := w.mem, poison := v.poison } := by rw [hp, hvv]
  have hslot : ∀ k, w.slot k = s.slot k := fun k => by rw [hwv]; rfl
  have hwp : ∀ c, w.poisonAt c = v.poisonAt c := fun c => by rw [hp]; rfl
  refine ⟨?_, fun k => hslot k ▸ hwr.slots k, (State.memWf_congr hmem hempty hpoison).trans hpwf, fun c => ?_, fun c => ?_, fun c hc' => ?_, fun h8 => ?_⟩
  · rw [hwr.rest, hwv]
  · rw [hsame.bytes, hb, hvv]
    rfl
  · rw [hsame.full, hwv]
    rfl
  · rw [hsame.poison, hwp, hh.others c hc', hc.others c hc']
  · rw [hsame.poison, hwp, hv, h8]
    exact State.poisonAt_healPoison hc.wf (by omega) (by omega)

theorem storeFrame : Rules.StoreFrame := by
  intro i a b k n s s1 x y p t hin ho hwf h7 hp hacc hrem hloc hch herr hdone
  have hst : Stores i 4 a b k.toInt n := by
    simp only [List.mem_cons, Prod.mk.injEq, List.not_mem_nil, or_false] at hin
    obtain ⟨rfl, rfl⟩ | ⟨rfl, rfl⟩ | ⟨rfl, rfl⟩ | ⟨rfl, rfl⟩ := hin <;> exact stores fun _ => rfl
  have hn : n = 1 ∨ n = 2 ∨ n = 4 ∨ n = 8 := by
    simp only [List.mem_cons, Prod.mk.injEq, List.not_mem_nil, or_false] at hin
    omega
  obtain ⟨hres, hal, -, -⟩ := State.access_ok hacc
  have hat : t.at_ % 8 + n ≤ 8 := by
    have hb := State.resolve_base hres
    show (t.base + t.off) % 8 + n ≤ 8
    obtain rfl | rfl | rfl | rfl := hn <;> omega
  set q : Piece := ⟨0, p, t, n, leBytes y.toNat n⟩ with hq
  have hlocq : isGlobal q.tgt.at_ = false := hloc
  obtain ⟨-, -, hst⟩ := hst s s1 x y ho
  obtain ⟨-, -, hst⟩ := (hst p h7 hp).2 t hacc
  obtain ⟨-, -, hst, -⟩ := hst (by simp [hloc]) hch _ rfl (by rw [State.me_chunkDone]; exact hdone)
  set s2 := s1.chunkDone s1.cur with hs2
  have hme2 : s2.me = _ := State.me_chunkDone
  have hmem2 : SameMemory s1 s2 := s1.sameMemory_chunkDone s1.cur
  have hwf2 : s2.memWf = true := (State.memWf_congr (by simp [hs2]) (by simp [hs2]) (by simp [hs2])).trans hwf
  have hallows : s2.allows true [q] := fun r hr => by
    rw [List.mem_singleton] at hr
    rw [hr]
    exact ⟨State.holds_local hlocq, (State.pieceErr_congr hlocq (State.poisonSeen_chunkDone hch)).trans herr⟩
  have hx := hst hallows rfl (by simp [hrem]) (State.behind_local true hlocq) (State.heldUp_local hlocq)
  have hstored := State.stored (s := s2) (q := q) hwf2 hlocq (show 0 < n by omega) hat (length_leBytes _ _) (some (s2.healCovered [q]).cur)
  have hwritten : s2.written [q] = ((s2.healCovered [q]).write (some (s2.healCovered [q]).cur) false t.at_ q.data).upd fun sl =>
      { sl with latch := { sl.latch with parts := sl.latch.parts.put nearDone 0#512 } } := by
    simp only [State.written, List.flatMap_cons, List.flatMap_nil, List.append_nil, Piece.places_local hlocq, State.notePages_nil]
    rfl
  rw [hwritten] at hx
  set u := (s2.healCovered [q]).write (some (s2.healCovered [q]).cur) false t.at_ q.data with hu
  have hcur : u.cur = s2.cur := (congrArg State.cur hstored.rest :)
  have hctxs : u.ctxs = s2.ctxs := (congrArg State.ctxs hstored.rest :)
  have hme : s2.me.Reached u.me := by
    rw [State.me, State.me, hcur]
    exact hstored.slots s2.cur
  have hend : (u.upd fun sl => { sl with latch := { sl.latch with parts := sl.latch.parts.put nearDone 0#512 } }).retireIrr 4 = u.upd fun sl => sl.ended (u.me.pc + 4#64) := by
    rw [State.retireIrr, State.retireIrrTo_eq, State.upd_upd, State.me_upd]
    rfl
  rw [hend] at hx
  have hsame : SameMemory u (u.upd fun sl => sl.ended (u.me.pc + 4#64)) := State.sameMemory_upd _
  have hpc : u.me.pc = s1.me.pc := (congrArg Slot.pc hme :).trans (congrArg Slot.pc hme2 :)
  refine ⟨_, hx, hcur.trans ((s1.chunkDone_cur _).trans ho.cur), ?_, ?_, fun j hj => ?_, fun c hc => ?_, fun c => ?_, fun c hc => ?_, fun h8 => ?_, fun j r => ?_, fun r => ?_, ?_, ?_, ?_⟩
  · rw [State.me_upd, hpc]
  · exact (State.memWf_congr rfl rfl rfl).trans hstored.wf
  · rw [hsame.bytes, hstored.bytes]
    show (if t.at_ ≤ t.at_ + j then ((leBytes y.toNat n)[t.at_ + j - t.at_]?).getD _ else _) = _
    rw [if_pos (by omega), Nat.add_sub_cancel_left, getElem?_leBytes _ _ _ hj, Option.getD_some, extractLsb'_byte]
  · rw [hsame.bytes, hstored.bytes, ← hmem2.bytes c]
    show (if t.at_ ≤ c then ((leBytes y.toNat n)[c - t.at_]?).getD _ else _) = _
    split
    · rw [List.getElem?_eq_none (by rw [length_leBytes]; omega), Option.getD_none]
    · rfl
  · rw [hsame.full, hstored.full, hmem2.full]
  · rw [hsame.poison, hstored.poison c hc, hmem2.poison]
  · rw [hsame.poison]
    exact hstored.clean h8
  · rw [State.xget_upd rfl]
    exact (State.xget_congr (State.tid_congr hctxs j) (congrArg (fun sl : Slot => Tbl.get 0#64 sl.x r) (hstored.slots j) :)).trans (s1.xget_chunkDone s1.cur j r)
  · have hv : ((u.upd fun sl => sl.ended (u.me.pc + 4#64)).slot s.cur).v = (s1.slot s.cur).v := by
      rw [← ho.cur, ← s1.chunkDone_cur s1.cur, ← hs2, ← hcur, State.slot_upd, if_pos rfl, hcur, hs2, s1.chunkDone_cur]
      exact (congrArg Slot.v hme :).trans (congrArg Slot.v hme2 :)
    rw [State.vget, State.vget, hv]
  · have hs := hme.sameSlot
    rw [hme2] at hs
    rw [State.me_upd]
    obtain ⟨⟩ := hs
    constructor <;> assumption
  · rw [State.me_upd]
    exact (congrArg Slot.fflags hme :).trans (congrArg Slot.fflags hme2 :)
  · exact (congrArg State.net hstored.rest :).trans (by simp [hs2])

/-- Settles O27: each store is `State.storeOp` on its operands, and a local one writes its bytes alone. -/
theorem storeInstructions : Obligations.StoreInstructions := ⟨storeResults, storeFrame⟩

end Sys2Proof.Machine
end

section
/-! SUPPORT. Two reservations of one slot at a slice: the second waits for the first (R127, R255). -/

namespace Sys2Proof.Machine

/-- A page of GLB without FE bits (R47). -/
def pageNoFe : Trans := { page0 with fe := false }

/-- An AMO without a return value that slot 0 has sent ahead. -/
def aheadResv : Resv := ⟨0, true, glbAt 1 16, .amo .add 64 1#64 0#64 0 false, 1, ptr 0 5 16, false, 0⟩

/-- The reservation of its LDF, on another word. -/
def feResv : Resv := ⟨0, false, glbAt 1 8, .fe .ldf 0#64, 1, ptr 0 4 8, false, 1⟩

/-- Both stand at the slice, in that order. -/
def resvQueued : State := { (demo.modClu (sliceOf 0) fun c => { c with tlb := [pageNoFe] }) with resv := [aheadResv, feResv] }

/-- The reservations that stand in the state that a step answers. -/
def resvAfter (o : Out) : List Resv := match o with | .next t => t.resv | _ => []

/-- The grant waits for the slot's earlier operation. -/
theorem resvAfter_grant : resvAfter (exec (.sliceReservationGrant 1) resvQueued) = [aheadResv, feResv] := by decide +kernel

/-- Refutes O29: a grant also waits where an earlier reservation of the same slot stands at another word, which the statement does not exclude; so
cause 104 is not raised yet. -/
theorem not_fullEmptyInstructions : ¬ Obligations.FullEmptyInstructions := by
  rintro ⟨h, -⟩
  obtain ⟨-, -, -, -, -, -, -, h⟩ := h 0#6 0#6 0#6
  have hs := h resvQueued (resvQueued.haveLine (glbCtx feResv.place) (glbVa feResv.place)) 1 feResv .ldf 0#64 pageNoFe rfl rfl rfl (by decide) (by decide) (by decide +kernel)
    (by decide +kernel) rfl (by decide +kernel) rfl (by decide +kernel) (by decide +kernel) (by decide +kernel) (.inr rfl)
  have hn := resvAfter_grant
  rw [hs] at hn
  revert hn
  decide +kernel

end Sys2Proof.Machine
end

section
/-! SUPPORT. Lanes and mask bits, and the end of a vector instruction (R168, R170). -/

namespace Sys2Proof.Machine

/-! Vectors as lists of lanes -/

theorem ofLanes_lane (w : Nat) (l : List Nat) (j : Nat) : ofLanes w l / 2 ^ (w * j) % 2 ^ w = l.getD j 0 % 2 ^ w := by
  induction l generalizing j with
  | nil => simp [ofLanes]
  | cons a l ih =>
    cases j with
    | zero => simp [ofLanes]
    | succ j =>
      have hd : (a % 2 ^ w + 2 ^ w * ofLanes w l) / 2 ^ w = ofLanes w l := by
        rw [Nat.add_mul_div_left _ _ (Nat.two_pow_pos w), Nat.div_eq_of_lt (Nat.mod_lt _ (Nat.two_pow_pos w)), Nat.zero_add]
      rw [ofLanes, Nat.mul_succ, Nat.add_comm (w * j), Nat.pow_add, ← Nat.div_div_eq_div_mul, hd, ih, List.getD_cons_succ]

/-- A field below the width reads the same before the number is cut to the width. -/
theorem mod_div_mod_of_le {x n a w : Nat} (h : a + w ≤ n) : x % 2 ^ n / 2 ^ a % 2 ^ w = x / 2 ^ a % 2 ^ w := by
  obtain ⟨k, rfl⟩ := Nat.exists_eq_add_of_le h
  rw [Nat.add_assoc, Nat.pow_add, Nat.mod_mul_right_div_self, Nat.mod_mod_of_dvd _ (Nat.pow_dvd_pow 2 (Nat.le_add_right w k))]

/-- A lane of a vector that is made of lanes. -/
theorem lane_vecOf {w j : Nat} (l : List Nat) (h : w * (j + 1) ≤ 512) : lane (vecOf w l) w j = l.getD j 0 % 2 ^ w := by
  rw [lane, vecOf, bitsOf, BitVec.toNat_ofNat, Nat.shiftRight_eq_div_pow, ← ofLanes_lane w l j]
  exact mod_div_mod_of_le (n := 512) (by rwa [Nat.mul_succ] at h)

theorem lane_lt (v : V512) (w j : Nat) : lane v w j < 2 ^ w := Nat.mod_lt _ (Nat.two_pow_pos w)

theorem tyW_cases (t : BitVec 2) : tyW t = 8 ∨ tyW t = 16 ∨ tyW t = 32 ∨ tyW t = 64 := by
  unfold tyW
  split <;> simp

theorem lane_within {w j : Nat} (h : j < 512 / w) : w * (j + 1) ≤ 512 :=
  (Nat.mul_le_mul_left w h).trans (Nat.mul_div_le 512 w)

section
variable {s : State} {w j : Nat}

theorem ln_lanes (a : BitVec 5) (h : j < 512 / w) : ln (s.lanes a w) j = s.ln a w j := by
  simp [ln, State.lanes, lanesOf, State.ln, h]

theorem ln_lanes_beyond (a : BitVec 5) (h : 512 / w ≤ j) : ln (s.lanes a w) j = 0 := by
  simp [ln, State.lanes, lanesOf, Nat.not_lt.2 h]

end

/-! Masks as lists of bits -/

theorem testBit_maskOf (l : List Bool) (j : Nat) : (maskOf l).testBit j = l.getD j false := by
  induction l generalizing j with
  | nil => simp [maskOf]
  | cons b l ih =>
    cases j with
    | zero => cases b <;> simp [maskOf, Nat.add_mod]
    | succ j =>
      have hd : ((if b then 1 else 0) + 2 * maskOf l) / 2 = maskOf l := by cases b <;> simp; omega
      rw [maskOf, Nat.testBit_succ, hd, ih, List.getD_cons_succ]

theorem getLsbD_maskOf {l : List Bool} {j : Nat} (h : j < 64) : (nat (maskOf l)).getLsbD j = l.getD j false := by
  rw [nat, BitVec.getLsbD_ofNat, testBit_maskOf]
  simp [h]

/-! The end of a vector instruction -/

section
variable {s u t : State} {sl : Slot} {r : Nat}

/-- An instruction that has changed its slot alone ends inside its chunk. -/
theorem State.retire_ends (h : s.Elsewhere u) (hpc : u.me.pc = s.me.pc) :
    s.Elsewhere (u.retire 4) ∧ Slot.Retired u.me ((u.retire 4).slot s.cur) (s.me.pc + 4#64) := by
  have hr := u.retired (u.me.pc + 4#64)
  rw [h.cur, hpc] at hr
  rw [State.retire, hpc]
  exact ⟨h.trans (u.elsewhere_retireTo _), hr⟩

theorem Elsewhere.xget (h : s.Elsewhere t) (hx : (t.slot s.cur).x = s.me.x) (k r : Nat) : t.xget k r = s.xget k r := by
  refine State.xget_congr (State.tid_congr h.ctxs k) ?_
  by_cases hk : k = s.cur
  · rw [hk, hx]
    rfl
  · rw [h.slots k hk]

theorem Elsewhere.slots_eq {α : Type} (f : Slot → α) (h : s.Elsewhere t) (hf : f (t.slot s.cur) = f s.me) (k : Nat) : f (t.slot k) = f (s.slot k) := by
  by_cases hk : k = s.cur
  · rw [hk, hf]
    rfl
  · rw [h.slots k hk]

theorem Elsewhere.me (h : s.Elsewhere t) : t.me = t.slot s.cur := congrArg t.slot h.cur

theorem onlyV_of_retired (h : s.Elsewhere t) (hr : Slot.Retired sl (t.slot s.cur) (s.me.pc + 4#64)) (hx : sl.x = s.me.x) (hm : sl.m = s.me.m) (he : sl.e = s.me.e)
    (hv : ∀ r', r' ≠ r → Tbl.get 0#512 sl.v r' = Tbl.get 0#512 s.me.v r') : OnlyV s t r where
  cur := h.cur
  pc := by rw [Elsewhere.me h, hr.pc]
  v k r' hk := by
    by_cases hc : k = s.cur
    · rw [hc, State.vget, hr.same.v]
      exact hv r' (hk.resolve_left fun hn => hn hc)
    · rw [State.vget, h.slots k hc]
      rfl
  x := Elsewhere.xget h (hr.x.trans hx)
  m k r' := Elsewhere.slots_eq (fun sl => Tbl.get 0#64 sl.m r') h (by rw [hr.same.m, hm]) k
  e k r' := Elsewhere.slots_eq (fun sl => Tbl.get 0#64 sl.e r') h (by rw [hr.same.e, he]) k
  mem := h.mem
  units := h.units

theorem onlyM_of_retired (h : s.Elsewhere t) (hr : Slot.Retired sl (t.slot s.cur) (s.me.pc + 4#64)) (hx : sl.x = s.me.x) (hv : sl.v = s.me.v)
    (hm : ∀ r', r' ≠ r → Tbl.get 0#64 sl.m r' = Tbl.get 0#64 s.me.m r') : OnlyM s t r where
  cur := h.cur
  pc := by rw [Elsewhere.me h, hr.pc]
  v k r' := Elsewhere.slots_eq (fun sl => Tbl.get 0#512 sl.v r') h (by rw [hr.same.v, hv]) k
  x := Elsewhere.xget h (hr.x.trans hx)
  m k r' hk := by
    by_cases hc : k = s.cur
    · rw [hc, State.mget, hr.same.m]
      exact hm r' (hk.resolve_left fun hn => hn hc)
    · rw [State.mget, h.slots k hc]
      rfl
  mem := h.mem
  units := h.units

/-- The write of a vector register ends an instruction. -/
theorem State.vset_retires (s : State) (r : Nat) (v : V512) : OnlyV s ((s.vset s.cur r v).retire 4) r ∧ ((s.vset s.cur r v).retire 4).me.fflags = s.me.fflags ∧
    ((s.vset s.cur r v).retire 4).vget s.cur r = v := by
  have hu : s.Elsewhere (s.vset s.cur r v) := .upd s fun sl => { sl with v := sl.v.put r v }
  have hme : (s.vset s.cur r v).me = { s.me with v := s.me.v.put r v } := State.me_upd s _
  obtain ⟨h, hr⟩ := State.retire_ends hu (by rw [hme])
  rw [hme] at hr
  refine ⟨onlyV_of_retired h hr rfl rfl rfl fun r' hn => by rw [Tbl.get_put, if_neg hn], by rw [Elsewhere.me h, hr.fflags], ?_⟩
  rw [State.vget, hr.same.v, Tbl.get_put, if_pos rfl]

/-- The write of a mask register, with the flags that are noted, ends an instruction. -/
theorem State.mset_retires (s : State) (r : Nat) (v fl : W) :
    let t := ((s.upd fun sl => { sl with m := sl.m.put r v, fflags := fl }).retire 4)
    OnlyM s t r ∧ t.me.fflags = fl ∧ t.mget s.cur r = v := by
  have hu : s.Elsewhere (s.upd fun sl => { sl with m := sl.m.put r v, fflags := fl }) := .upd s _
  have hme := State.me_upd s fun sl => { sl with m := sl.m.put r v, fflags := fl }
  obtain ⟨h, hr⟩ := State.retire_ends hu (by rw [hme])
  rw [hme] at hr
  refine ⟨onlyM_of_retired h hr rfl rfl fun r' hn => by rw [Tbl.get_put, if_neg hn], by rw [Elsewhere.me h, hr.fflags], ?_⟩
  rw [State.mget, hr.same.m, Tbl.get_put, if_pos rfl]

/-- The write of a scalar register by a vector instruction ends it. -/
theorem State.xset_retires (s : State) (r : Nat) (v : W) :
    let t := (s.xset s.cur r v).retire 4
    t.me.pc = s.me.pc + 4#64 ∧ SameMemory s t ∧ (∀ k r', t.vget k r' = s.vget k r' ∧ t.mget k r' = s.mget k r') ∧
      (∀ r', r' ≠ r → t.xget s.cur r' = s.xget s.cur r') ∧ (r ≠ 0 → r ≠ 31 → t.xget s.cur r = v) := by
  have hu : s.Elsewhere (s.xset s.cur r v) ∧ ∃ x, (s.xset s.cur r v).me = { s.me with x := x } := by
    unfold State.xset
    split
    · exact ⟨.refl s, s.me.x, rfl⟩
    · exact ⟨.upd s fun sl => { sl with x := sl.x.put r v }, s.me.x.put r v, State.me_upd s _⟩
  obtain ⟨hu, x, hme⟩ := hu
  obtain ⟨h, hr⟩ := State.retire_ends (.refl (s.xset s.cur r v)) rfl
  have hx := Elsewhere.xget h hr.x
  have hcur := hu.cur
  set u := s.xset s.cur r v with hdef
  have ht := hu.trans h
  rw [hcur] at hr
  refine ⟨by rw [Elsewhere.me ht, hr.pc, hme], ht.mem, fun k r' => ⟨?_, ?_⟩, fun r' hn => ?_, fun h0 h31 => ?_⟩
  · exact Elsewhere.slots_eq (fun sl => Tbl.get 0#512 sl.v r') ht (by rw [hr.same.v, hme]) k
  · exact Elsewhere.slots_eq (fun sl => Tbl.get 0#64 sl.m r') ht (by rw [hr.same.m, hme]) k
  · rw [hx, hdef, State.xget_xset_ne (.inr hn.symm)]
  · rw [hx, hdef, State.xget_xset_same (not_or_intro h0 h31)]

end

end Sys2Proof.Machine
end

section
/-! Settles O36. Mask registers and moves between lanes (R176, R177, R178). -/

namespace Sys2Proof.Machine

/-- A mask that an instruction writes in one piece. -/
theorem maskIs {i : Instr} {d : BitVec 3} {v : State → W} {f : State → Nat → Bool} (hx : ∀ s, exec i s = .next ((s.mset s.cur d.toNat (v s)).retire 4))
    (hb : ∀ s j, j < 64 → (v s).getLsbD j = f s j) : MaskIs i d f := fun s => by
  obtain ⟨ho, hf, hm⟩ := s.mset_retires d.toNat (v s) s.me.fflags
  have he : s.mset s.cur d.toNat (v s) = s.upd fun sl => { sl with m := sl.m.put d.toNat (v s), fflags := s.me.fflags } := rfl
  rw [hx, he]
  exact ⟨_, rfl, ho, hf, fun j hj => by rw [hm, hb s j hj]⟩

/-- A vector that an instruction writes lane by lane. -/
theorem lanesAre {i : Instr} {v : BitVec 5} {w : Nat} {l : State → List Nat} {f : State → Nat → Nat} (hx : ∀ s, exec i s = .next (s.vdone v w (l s)))
    (hl : ∀ s j, j < 512 / w → (l s).getD j 0 = f s j) (hf : ∀ s j, j < 512 / w → f s j < 2 ^ w) : LanesAre i v w f := fun s => by
  obtain ⟨ho, hfl, hv⟩ := s.vset_retires v.toNat (vecOf w (l s))
  rw [hx]
  refine ⟨_, rfl, ho, hfl, fun j hj => ?_⟩
  rw [State.vdone, hv, lane_vecOf _ (lane_within hj), hl s j hj, Nat.mod_eq_of_lt (hf s j hj)]

theorem getD_map_range {α : Type} (f : Nat → α) (n j : Nat) (z : α) : ((List.range n).map f).getD j z = if j < n then f j else z := by
  by_cases h : j < n <;> simp [h]

/-- A compare of enabled lanes. -/
theorem compares {i : Instr} {d m : BitVec 3} {a b : BitVec 5} {w : Nat} {f : Nat → Nat → Bool} (hx : ∀ s, exec i s = .next (s.vcmp d a b m w f)) : Compares i d a b m w f := by
  refine maskIs hx fun s j hj => ?_
  rw [getLsbD_maskOf hj, getD_map_range]
  by_cases h : j < 512 / w
  · simp [h, ln_lanes]
  · simp [h]

/-- An instruction on enabled lanes. -/
theorem masked {i : Instr} {v : BitVec 5} {m : BitVec 3} {w : Nat} {g : State → Nat → Nat} {f : State → Nat → Nat} (hx : ∀ s, exec i s = .next (s.vlanes v m w (g s)))
    (hg : ∀ s j, j < 512 / w → g s j = f s j) (hf : ∀ s j, f s j < 2 ^ w) : Masked i v m w f := by
  refine lanesAre hx (fun s j hj => ?_) fun s j _ => ?_
  · rw [getD_map_range, if_pos hj, hg s j hj, ln_lanes v hj]
  · split
    · exact hf s j
    · exact lane_lt _ _ _

/-- A floating-point compare in a quiet slot: nothing stops it, and it notes its flags. -/
theorem comparesFp {i : Instr} {d m : BitVec 3} {a b : BitVec 5} {t : BitVec 2} {op : Nat} (hx : ∀ s, exec i s = .next (s.vfcmp d a b m t op)) :
    ComparesFp i d a b m t op := by
  rintro s ⟨hq, hu⟩
  set f := tyF t with hf
  set res : Nat → Option FRes := fun j => if s.on m j then some (f.fcmp op s.me.ftz (ln (s.lanes a f.bits) j) (ln (s.lanes b f.bits) j)) else none with hres
  set v : W := nat (maskOf (((List.range (512 / f.bits)).map res).map fun r => match r with | some r => r.bits == 1 | none => false)) with hv
  set fl := orAll ((flagsOf ((List.range (512 / f.bits)).map res)).map (·.2)) with hfl
  have hpark : (anySub ((List.range (512 / f.bits)).map res) && !s.me.ftz && s.me.latch.res.isNone) = false := by
    rcases hq with h | h
    · simp [h]
    · simp [Option.isNone_eq_false_iff.2 h]
  have htrap : s.me.fpTrap fl = none := by simp [Slot.fpTrap, hu]
  have hend : s.vfcmp d a b m t op = (s.upd fun sl => { sl with m := sl.m.put d.toNat v, fflags := if fl = 0 then s.me.fflags else (s.me.orFlags fl).fflags }).retire 4 := by
    simp only [State.vfcmp, State.vfp, ← hf, ← hres, ← hfl, hpark, htrap, Bool.false_eq_true, if_false]
    congr 1
    by_cases h0 : fl = 0
    · rw [if_pos h0, if_pos h0]
      rfl
    · rw [if_neg h0, if_neg h0]
      exact State.upd_upd ..
  obtain ⟨ho, -, hm⟩ := s.mset_retires d.toNat v (if fl = 0 then s.me.fflags else (s.me.orFlags fl).fflags)
  rw [hx, hend]
  refine ⟨_, rfl, ho, fun j hj => ?_⟩
  rw [hm, hv, getLsbD_maskOf hj, List.map_map, getD_map_range]
  by_cases h : j < 512 / f.bits
  · cases hon : s.on m j <;> simp [h, hres, hon, ln_lanes]
  · simp [h]

theorem vectorMasks : Rules.VectorMasks := by
  intro d p q v a b x m t w
  refine ⟨compares fun _ => rfl, compares fun _ => rfl, compares fun _ => rfl, compares fun _ => rfl, compares fun _ => rfl, comparesFp fun _ => rfl,
    comparesFp fun _ => rfl, comparesFp fun _ => rfl, maskIs (fun _ => rfl) fun s j _ => BitVec.getLsbD_and .., maskIs (fun _ => rfl) fun s j _ => BitVec.getLsbD_or ..,
    maskIs (fun _ => rfl) fun s j hj => by simp [hj], lanesAre (fun _ => rfl) (fun s j hj => ?_) fun s j hj => ?_, fun s => ?_⟩
  · rw [getD_map_range, if_pos hj, ln_lanes a hj, ln_lanes b hj]
  · split <;> exact lane_lt _ _ _
  · obtain ⟨hpc, hmem, hvm, hx, hd⟩ := s.xset_retires x.toNat (nat ((List.range (512 / w)).filter fun i => (s.mget s.cur p.toNat).getLsbD i && s.on m i).length)
    refine ⟨_, rfl, hpc, hmem, hvm, hx, fun h0 h31 => ?_⟩
    rw [List.countP_eq_length_filter]
    exact hd (fun h => h0 (BitVec.eq_of_toNat_eq h)) fun h => h31 (BitVec.eq_of_toNat_eq h)

/-- The place of an enabled lane among the enabled ones: the number of those below it. -/
theorem getElem?_filter_range {p : Nat → Bool} {n j : Nat} (hj : j < n) (hp : p j = true) : ((List.range n).filter p)[(List.range j).countP p]? = some j := by
  obtain ⟨k, rfl⟩ := Nat.exists_eq_add_of_lt hj
  rw [Nat.add_assoc, List.range_add, List.range_succ_eq_map, List.filter_append, List.countP_eq_length_filter, List.getElem?_append_right (Nat.le_refl _), Nat.sub_self]
  simp [hp]

theorem vectorMoves : Rules.VectorMoves := by
  intro v a b x y m t w n
  refine ⟨masked (fun _ => rfl) (fun s j _ => ?_) fun s j => ?_, lanesAre (fun _ => rfl) (fun s j hj => ?_) fun s j hj => ?_, masked (fun _ => rfl) (fun s j hj => ?_) fun s j => ?_,
    masked (fun _ => rfl) (fun s j hj => ?_) fun s j => ?_, lanesAre (fun _ => rfl) (fun s j hj => ?_) fun s j hj => ?_, fun s => ?_, fun s => ?_⟩
  · exact fld_zero _ _
  · exact Nat.mod_lt _ (Nat.two_pow_pos w)
  · have hl : ∀ k, (s.lanes v w).getD k 0 = ln (s.lanes v w) k := fun _ => rfl
    rw [List.getD_eq_getElem?_getD, List.getElem?_set]
    by_cases hi : (s.xget s.cur y.toNat).toNat % n = j
    · rw [if_pos hi, if_pos hi.symm, if_pos (by simpa [State.lanes, lanesOf] using Nat.mod_lt _ ((Nat.zero_le j).trans_lt hj))]
      exact fld_zero _ _
    · rw [if_neg hi, if_neg fun h => hi h.symm, ← List.getD_eq_getElem?_getD, hl, ln_lanes v hj]
  · split
    · exact Nat.mod_lt _ (Nat.two_pow_pos w)
    · exact lane_lt _ _ _
  · rw [ln_lanes b hj]
    exact ln_lanes a (Nat.mod_lt _ ((Nat.zero_le j).trans_lt hj))
  · exact lane_lt _ _ _
  · generalize (s.xget s.cur y.toNat).toInt = k
    by_cases h0 : (j : Int) + k < 0
    · rw [if_pos h0, if_neg (by omega)]
    · rw [if_neg h0]
      by_cases hn : (j : Int) + k < n
      · rw [if_pos ⟨by omega, hn⟩]
        exact ln_lanes a (show ((j : Int) + k).toNat < n by omega)
      · rw [if_neg fun h => hn h.2]
        exact ln_lanes_beyond a (show n ≤ ((j : Int) + k).toNat by omega)
  · split
    · exact lane_lt _ _ _
    · exact Nat.two_pow_pos w
  · rw [getD_map_range, if_pos hj, List.countP_eq_length_filter]
  · have hc : (List.range j).countP (s.on m) ≤ j := List.countP_le_length.trans_eq List.length_range
    have hw : 8 ≤ w := by rcases tyW_cases t with h | h | h | h <;> omega
    have h64 : j < 64 := hj.trans_le (Nat.div_le_div_left hw (by decide))
    exact (hc.trans_lt h64).trans_le ((by decide : 64 ≤ 2 ^ 8).trans (Nat.pow_le_pow_right (by decide) hw))
  · obtain ⟨ho, -, hv⟩ := s.vset_retires v.toNat (vecOf w (((List.range n).filter (s.on m)).map (ln (s.lanes a w))))
    set l := ((List.range n).filter (s.on m)).map (ln (s.lanes a w)) with hl
    have hln : ∀ j, j < n → ((s.vset s.cur v.toNat (vecOf w l)).retire 4).ln v w j = l.getD j 0 % 2 ^ w := fun j hj => by
      rw [State.ln, ho.cur, hv, lane_vecOf _ (lane_within hj)]
    have hlt : ∀ j, j < n → (List.range j).countP (s.on m) < n := fun j hj => (List.countP_le_length.trans_eq List.length_range).trans_lt hj
    refine ⟨_, rfl, ho, fun j hj hon => (hln _ (hlt j hj)).trans ?_, fun j hj hc => (hln j hj).trans ?_⟩
    · rw [hl, List.getD_eq_getElem?_getD, List.getElem?_map, getElem?_filter_range hj hon]
      exact (congrArg (· % 2 ^ w) (ln_lanes a hj)).trans (Nat.mod_eq_of_lt (lane_lt _ _ _))
    · have hlen : l.length ≤ j := by rwa [hl, List.length_map, ← List.countP_eq_length_filter]
      rw [List.getD_eq_default _ _ hlen, Nat.zero_mod]
  · obtain ⟨hpc, hmem, hvm, hx, hd⟩ := s.xset_retires x.toNat (nat (ln (s.lanes a w) ((s.xget s.cur y.toNat).toNat % n)))
    have hn : 0 < n := Nat.div_pos (by rcases tyW_cases t with h | h | h | h <;> omega) (by rcases tyW_cases t with h | h | h | h <;> omega)
    refine ⟨_, rfl, hpc, hmem, hvm, hx, fun h0 h31 => ?_⟩
    rw [← ln_lanes a (Nat.mod_lt _ hn)]
    exact hd (fun h => h0 (BitVec.eq_of_toNat_eq h)) fun h => h31 (BitVec.eq_of_toNat_eq h)

/-- Settles O36: each writes the mask or the lanes that its rule names, and ends. -/
theorem maskInstructions : Obligations.MaskInstructions := ⟨vectorMasks, vectorMoves⟩

end Sys2Proof.Machine
end

section
/-! Settles O39. Spawning and ending tasks, and where their records go (R142 to R144, R273 to R278). -/

namespace Sys2Proof.Machine

/-! Launches -/

/-- What SPAWN and SPAWNL do with target word w while no reply has come; `after` is what becomes of the slot. -/
def State.spawnTo (s : State) (rec_ : TaskRec) (w : W) (after : State → State) : State :=
  match s.targetFault (s.ctxOf s.myCore) rec_.w0 w with
  | some (c, v) => s.raise c v
  | none => s.viaNiq fun s =>
    if !w.getLsbD 47 && s.coreAt (s.ctxOf s.myCore) (fld w 32 10) == some s.myCore then
      match (after s.stampMe).arrive s.myCore rec_ with
      | some s => s
      | none => (after s).sendRec (s.ctxOf s.myCore) s.myCore rec_ w (fld (s.eget s.cur 0) 0 16)
    else (after s).sendRec (s.ctxOf s.myCore) s.myCore rec_ w (fld (s.eget s.cur 0) 0 16)

theorem State.spawnTo_spawns {E : State → Prop} {s : State} {rec_ : TaskRec} {w : W} {after : State → State} (hE : E (s.spawnTo rec_ w after)) :
    Spawns E s rec_ w after := by
  unfold State.spawnTo at hE
  refine ⟨fun c v h => ?_, fun h => ?_⟩
  · rw [h] at hE
    exact hE
  · rw [h] at hE
    simp only [State.viaNiq] at hE
    refine ⟨fun hn => ?_, fun hn => ?_⟩
    · rwa [if_pos hn] at hE
    · rw [if_neg (Nat.not_le.2 hn)] at hE
      refine ⟨fun hf => ?_, fun h47 hc => ?_⟩
      · rwa [if_neg (by rcases hf with hf | hf <;> simp [hf])] at hE
      · rw [if_pos (by rw [h47, hc]; simp)] at hE
        exact ⟨fun u hu => by rwa [hu] at hE, fun hu => by rwa [hu] at hE⟩

section
variable {s s1 : State} {w v : W} {d r t : R6}

theorem exec_spawn (ho : Operands s [t] none true (some 3) [w] s1) (hr : s1.me.latch.res = none) :
    Ends (.spawn r t) s s1 none (s1.spawnTo (s1.spawnRec r w none) w fun u => u.retireIrr 4) := by
  refine congrArg Host.Outcome.next ((State.withOps_reach ho).trans (congrArg _ ?_))
  simp only [State.onReply, hr]
  rfl

theorem exec_spawnl (ho : Operands s [t] (some d) true (some 3) [w] s1) (hr : s1.me.latch.res = none) :
    Ends (.spawnl d r t) s s1 (some d) (s1.spawnTo (s1.spawnRec r w (some s1.cur)) w (awaits .parkMem .reply)) := by
  refine congrArg Host.Outcome.next ((State.withOps_reach ho).trans (congrArg _ ?_))
  simp only [State.onReply, hr]
  rfl

theorem exec_spawnl_reply {v : V512} (ho : Operands s [t] (some d) true (some 3) [w] s1) (hr : s1.me.latch.res = some v) :
    Ends (.spawnl d r t) s s1 (some d) (s1.finish true 4 d (asW v)) := by
  refine congrArg Host.Outcome.next ((State.withOps_reach ho).trans (congrArg _ ?_))
  simp only [State.onReply, hr]

end

theorem taskResults : Rules.TaskResults := by
  intro d r t s s1 w
  refine ⟨fun ho hr => State.spawnTo_spawns (exec_spawn ho hr), fun ho => ⟨fun v hv => exec_spawnl_reply ho hv, fun hr => State.spawnTo_spawns (exec_spawnl ho hr)⟩,
    fun hg => congrArg Host.Outcome.next (State.afterCommit_waits hg _), fun hg h1 => ?_⟩
  have hx : exec .quit s = .next (s1.afterAcks 3 fun s => s.freeSlot s.cur) := by
    rw [h1]
    exact congrArg Host.Outcome.next (State.afterCommit_done hg _)
  rw [hx]
  exact ⟨fun hrel => congrArg Host.Outcome.next (if_neg (by simp [hrel])), fun hrel => congrArg Host.Outcome.next (if_pos hrel)⟩

/-! Answers to a SPAWNL -/

/-- The value that an answer carries: the word, in the low bits. -/
theorem setWidth_nat (n : Nat) : (nat n).setWidth 512 = BitVec.ofNat 512 (n % 2 ^ 64) :=
  BitVec.eq_of_toNat_eq (by rw [BitVec.toNat_setWidth, nat, BitVec.toNat_ofNat, BitVec.toNat_ofNat])

/-- What the answer to a record leaves: all but the slot that waits for it, and the messages on their way. -/
theorem State.taskReply_eq (s : State) (c : Nat) (r : TaskRec) (v : W) :
    s.taskReply c r v = { s with slots := (s.taskReply c r v).slots, replay := (s.taskReply c r v).replay, net := (s.taskReply c r v).net, ctxs := (s.taskReply c r v).ctxs } := by
  unfold State.taskReply
  split
  · rfl
  · split
    · rfl
    · rw [State.answer, State.send_eq]

theorem State.taskReply_none {s : State} {c : Nat} {r : TaskRec} {v : W} (h : r.reply = none) : s.taskReply c r v = s := by simp only [State.taskReply, h]

theorem State.taskReply_near {s : State} {c j : Nat} {r : TaskRec} {v : W} (h : r.reply = some j) (hc : coreOf j = c) : s.taskReply c r v = s.completeW j v := by
  simp only [State.taskReply, h, hc, if_true]

theorem State.taskReply_far {s : State} {c j : Nat} {r : TaskRec} {v : W} (h : r.reply = some j) (hc : coreOf j ≠ c) :
    s.taskReply c r v = s.send r.ctx c (coreOf j) (.reply j 0 (.val (v.setWidth 512))) := by
  simp only [State.taskReply, h, hc, if_false]
  rfl

theorem State.slot_complete (s : State) (k : Nat) (v : V512) (j : Nat) :
    (s.complete k v).slot j = if j = k then { s.slot j with st := .run, wait := .none, latch := { (s.slot j).latch with res := some v } } else s.slot j := by
  have h : (s.complete k v).slot j = (s.modSlot k fun sl => { sl with st := .run, wait := .none, latch := { sl.latch with res := some v } }).slot j := rfl
  rw [h, State.slot_modSlot]
  split
  · next he => rw [he]
  · rfl

/-- The slot that waits for the answer is told. -/
theorem State.told_taskReply {s : State} {c j : Nat} {r : TaskRec} {v : W} (h : r.reply = some j) :
    (coreOf j = c → ((s.taskReply c r v).slot j).latch.res = some (v.setWidth 512) ∧ ((s.taskReply c r v).slot j).st = .run ∧ j ∈ (s.taskReply c r v).replay) ∧
    (coreOf j ≠ c → (s.taskReply c r v).net = s.net ++ [⟨c, coreOf j, .reply j 0 (.val (v.setWidth 512)), r.ctx, none⟩]) := by
  refine ⟨fun hc => ?_, fun hc => ?_⟩
  · rw [State.taskReply_near h hc, State.completeW, State.slot_complete, if_pos rfl]
    exact ⟨rfl, rfl, List.mem_append_right _ (List.mem_singleton.2 rfl)⟩
  · rw [State.taskReply_far h hc]
    exact (congrArg State.net (State.send_eq ..) :)

/-- A slot that waits for no answer is as it was. -/
theorem State.slot_taskReply {s : State} {c k : Nat} {r : TaskRec} {v : W} (h : r.reply ≠ some k) : (s.taskReply c r v).slot k = s.slot k := by
  cases hr : r.reply with
  | none => rw [State.taskReply_none hr]
  | some j =>
    by_cases hc : coreOf j = c
    · rw [State.taskReply_near hr hc, State.completeW, State.slot_complete, if_neg fun hk => h (by rw [hr, hk])]
    · rw [State.taskReply_far hr hc, State.send_eq]
      rfl

/-! Where a record goes -/

/-- The end of a sweep leaves all but what the core knows of it. -/
theorem State.core_endSweep (s : State) (c : Nat) : (s.endSweep c).core c = { s.core c with sweep := 0, tried := 0, rest := none, ended := (s.core c).stealing } := by
  rw [State.endSweep, State.core_modCore, if_pos rfl]

/-- A record is pushed where the deque has room. -/
theorem State.pushRec_some {s : State} {c : Nat} {r : TaskRec} (h : (s.core c).deque.length < 64) :
    ∃ u : State, s.pushRec c r = some (u.taskReply c r (nat (2 ^ 62))) ∧ u = { s with cores := u.cores } ∧
      (u.core c).deque = (s.core c).deque ++ [{ r with reply := none }] ∧ (u.core c).arrived = (s.core c).arrived := by
  simp only [State.pushRec, if_neg (Nat.not_le.2 h)]
  refine ⟨_, rfl, ?_, ?_, ?_⟩
  · split <;> rfl
  · split <;> simp [State.core_endSweep]
  · split <;> simp [State.core_endSweep]

theorem taskArrival : Rules.TaskArrival := by
  intro s c r
  refine ⟨fun hr hu => ?_, fun h => ?_⟩
  · have ha : s.arrive c r = some ((if r.stolen then s else s.endSweep c).modCore c fun co => { co with arrived := co.arrived ++ [r] }) :=
      if_pos (by simp [hr, hu])
    refine ⟨_, ha, ?_, ?_, ?_, ?_⟩ <;> split <;> simp [State.core_endSweep]
    all_goals rfl
  · have ha : s.arrive c r = s.pushRec c r := if_neg (by rcases h with h | h <;> simp [h])
    rw [ha]
    refine ⟨fun hd => if_pos hd, fun hd => ?_⟩
    obtain ⟨u, hp, hu, hdeq, harr⟩ := State.pushRec_some (r := r) hd
    have hcores : (u.taskReply c r (nat (2 ^ 62))).core c = u.core c := State.core_congr (congrArg State.cores (u.taskReply_eq c r _) :) c
    have hnet : u.net = s.net := (congrArg State.net hu :)
    refine ⟨_, hp, by rw [hcores, hdeq], by rw [hcores, harr], fun hn => ?_, fun j hj => ?_⟩
    · rw [State.taskReply_none hn]
      exact ⟨(congrArg State.slots hu :), hnet⟩
    · obtain ⟨h1, h2⟩ := State.told_taskReply (s := u) (c := c) (v := nat (2 ^ 62)) hj
      rw [hnet, setWidth_nat] at h2
      rw [setWidth_nat] at h1
      exact ⟨h1, h2⟩

/-! The landing -/

/-- The state in which a landing tells the slot of a SPAWNL. -/
def State.landedIn (s : State) (k : Nat) (r : TaskRec) : State :=
  (s.modSlot k fun sl => sl.landed r).modCore (coreOf k) fun co => { co with mail := co.mail.filter fun m => m.dest ≠ some (k % 16) }

theorem State.land_eq (s : State) (k : Nat) (r : TaskRec) : s.land k r = (s.landedIn k r).taskReply (coreOf k) r (nat (2 ^ 63 + s.tid k)) := rfl

theorem State.slot_landedIn (s : State) (k : Nat) (r : TaskRec) (j : Nat) : (s.landedIn k r).slot j = if j = k then (s.slot k).landed r else s.slot j := by
  simp [State.landedIn]

/-- x1 to x3 are the record's words, every other register is zero. -/
theorem Slot.get_landed (sl : Slot) (r : TaskRec) (i : Nat) :
    Tbl.get 0#64 (sl.landed r).x i = if i = 3 then r.w3 else if i = 2 then r.w2 else if i = 1 then r.w1 else 0#64 := by
  simp only [Slot.landed, Tbl.get_put, Tbl.get]

/-- The per-slot registers of a slot that a record has landed in. -/
theorem State.slotReg_landed {t : State} {sl : Slot} {k : Nat} {r : TaskRec} (h : t.slot k = sl.landed r) :
    (∀ n, n ≠ 9 → n ≠ 10 → n ≠ 11 → t.slotReg k n = 0#64) ∧ t.slotReg k 9 = 512#64 ∧ t.slotReg k 11 = nat (k % 16 * 16 + 1) := by
  refine ⟨fun n h9 h10 h11 => ?_, by simp only [State.slotReg, h]; rfl, by simp [State.slotReg, State.slotSt, h, Slot.landed, SlotSt.code]⟩
  unfold State.slotReg
  rw [h]
  split <;> simp_all [Slot.landed]

theorem taskLanding : Rules.TaskLanding := by
  rintro s t r k rfl
  rw [State.land_eq]
  have hcores : ((s.landedIn k r).taskReply (coreOf k) r (nat (2 ^ 63 + s.tid k))).core (coreOf k) = (s.landedIn k r).core (coreOf k) :=
    State.core_congr (congrArg State.cores (State.taskReply_eq ..) :) _
  have hmail : ((s.landedIn k r).core (coreOf k)).mail = (s.core (coreOf k)).mail.filter fun m => m.dest ≠ some (k % 16) := by simp [State.landedIn]
  refine ⟨fun hr => ?_, ?_, ?_, fun hr j hj => ?_, fun j hj => ?_⟩
  · have hsl := (State.slot_taskReply (s := s.landedIn k r) (c := coreOf k) (v := nat (2 ^ 63 + s.tid k)) hr).trans ((s.slot_landedIn k r k).trans (if_pos rfl))
    generalize (s.landedIn k r).taskReply (coreOf k) r (nat (2 ^ 63 + s.tid k)) = t at hsl
    obtain ⟨hzero, hlim, hst⟩ := State.slotReg_landed hsl
    have hx (i : Nat) (h0 : i ≠ 0) (h31 : i ≠ 31) : t.xget k i = if i = 3 then r.w3 else if i = 2 then r.w2 else if i = 1 then r.w1 else 0#64 := by
      rw [State.xget, if_neg h0, if_neg h31, hsl, Slot.get_landed]
    refine ⟨by rw [hsl]; rfl, by rw [hsl]; rfl, hx 1 (by decide) (by decide), hx 2 (by decide) (by decide), hx 3 (by decide) (by decide), fun i hi h31 => ?_, rfl, fun i => ?_,
      hzero, hlim, rfl, hst, by rw [hsl]; rfl, by rw [hsl]; rfl⟩
    · rw [hx i (by omega) h31, if_neg (by omega), if_neg (by omega), if_neg (by omega)]
    · refine ⟨?_, ?_, ?_⟩ <;> simp only [State.vget, State.mget, State.eget, hsl] <;> rfl
  · intro m hm
    rw [hcores, hmail, List.mem_filter] at hm
    simpa using hm.2
  · intro m hm hd
    rw [hcores, hmail, List.mem_filter]
    exact ⟨hm, by simpa using hd⟩
  · rw [State.taskReply_none hr, State.slot_landedIn, if_neg hj]
  · rw [← setWidth_nat]
    exact State.told_taskReply hj

/-- Settles O39: the launch, the place that a record finds, and the slot that it lands in. -/
theorem taskInstructions : Obligations.TaskInstructions := ⟨taskResults, taskArrival, taskLanding⟩

end Sys2Proof.Machine
end

section
/-! Settles O59, first part. The rows of firmware and what its registers do (R295, R299, R307, R318 to R322, R347, R355 to R357). -/

namespace Sys2Proof.Machine

/-! Rows -/

/-- A row that `command` performs is firmware's. -/
theorem commands_of_exec {i : Instr} {f : State → State} (h : ∀ s, exec i s = s.command f) : Commands i f := by
  intro s
  rw [h, State.command]
  refine ⟨fun hF => by rw [if_pos hF], fun hU => ?_⟩
  rw [if_neg (by simp [hU])]
  exact ⟨fun hr => by rw [if_pos hr], fun hr => by rw [if_neg hr]⟩

theorem firmwareRows : Rules.FirmwareRows := by
  intro d i j w id key port
  refine ⟨?_, ?_, ?_, ?_, ?_, ?_, ?_, ?_, ?_, ?_, ?_, ?_, ?_, ?_, ?_, ?_, ?_, ?_, ?_, ?_, ?_, ?_, ?_, ?_, ?_, ?_⟩ <;>
    exact commands_of_exec fun _ => rfl

/-! Queues that firmware pops -/

theorem State.frPop_cons {s : State} {r : FRec} {rs : List FRec} (h : (s.die (dieOf s.cur)).frq = r :: rs) :
    s.frPop = (r.w0, s.modDie (dieOf s.cur) fun di => { di with frq := rs, frw := [r.w1, r.w2, r.w3] }) := by
  simp only [State.frPop, h]

theorem State.frPop_nil {s : State} (h : (s.die (dieOf s.cur)).frq = []) : s.frPop = (0#64, s) := by simp only [State.frPop, h]

theorem State.exReq_cons {s : State} {x : W} {xs : List W} (h : (s.die (dieOf s.cur)).exreq = x :: xs) :
    s.exReq = (x, s.modDie (dieOf s.cur) fun di => { di with exreq := xs }) := by
  simp only [State.exReq, h]

theorem State.exReq_nil {s : State} (h : (s.die (dieOf s.cur)).exreq = []) : s.exReq = (0#64, s) := by simp only [State.exReq, h]

/-! The fault table -/

section
variable {s : State} {i : Nat} {e : FEntry}

theorem State.fltPop_nil (h : (s.die (dieOf s.cur)).faults = []) : s.fltPop = (0#64, s) := by simp only [State.fltPop, h, List.foldl_nil]

theorem State.fltPop_one (h : (s.die (dieOf s.cur)).faults = [(i, e)]) (hp : e.popped = false) :
    s.fltPop = (nat (2 ^ 63 + e.rep * 2 ^ 60 + (if e.wr then 2 ^ 59 else 0) + (if e.fea then 2 ^ 58 else 0) + i * 2 ^ 40 + e.key / 2 ^ 40),
      s.modDie (dieOf s.cur) fun di => { di with faults := di.faults.put i { e with popped := true }, fltva := nat (e.key % 2 ^ 40 * 4096) }) := by
  simp [State.fltPop, h, hp]

theorem State.fltDone_none {a : Nat} (h : (s.die (dieOf s.cur)).faults.find i = none) : s.fltDone a i = s := by simp only [State.fltDone, h]

theorem State.fltDone_unread {a : Nat} (h : (s.die (dieOf s.cur)).faults.find i = some e) (hp : e.popped = false) : s.fltDone a i = s := by
  simp [State.fltDone, h, hp]

theorem State.net_fltDone {a : Nat} (h : (s.die (dieOf s.cur)).faults.find i = some e) (hp : e.popped = true) (ha : a < 2) :
    (s.fltDone a i).net = s.net ++ [⟨fltPort (128 + dieOf s.cur), fltPort (32 * dieOf s.cur), .wake e.key (32 * dieOf s.cur) a, 0, none⟩] := by
  simp [State.fltDone, h, hp, ha, State.fltSend]

/-- The fields of the word that FLTINFO gives. -/
theorem fltWord_fields {rep wr fea i x : Nat} (hr : rep < 8) (hw : wr = 0 ∨ wr = 2 ^ 59) (hf : fea = 0 ∨ fea = 2 ^ 58) (hi : i < 64) (hx : x < 2 ^ 24) :
    (nat (2 ^ 63 + rep * 2 ^ 60 + wr + fea + i * 2 ^ 40 + x)).getLsbD 63 = true ∧ fld (nat (2 ^ 63 + rep * 2 ^ 60 + wr + fea + i * 2 ^ 40 + x)) 40 6 = i ∧
      fld (nat (2 ^ 63 + rep * 2 ^ 60 + wr + fea + i * 2 ^ 40 + x)) 0 24 = x := by
  have hn : (nat (2 ^ 63 + rep * 2 ^ 60 + wr + fea + i * 2 ^ 40 + x)).toNat = 2 ^ 63 + rep * 2 ^ 60 + wr + fea + i * 2 ^ 40 + x := by
    rw [nat, BitVec.toNat_ofNat]
    omega
  refine ⟨?_, ?_, ?_⟩
  · rw [BitVec.getLsbD, hn, Nat.testBit_eq_decide_div_mod_eq]
    simp only [decide_eq_true_eq]
    omega
  · rw [fld, bitsOf, hn]
    omega
  · rw [fld, bitsOf, hn]
    omega

end

/-! PTROOT, commands on a slot, ports, measurement and the watchdog -/

section
variable {s : State} {w : W}

theorem State.writePtroot_busy (h : s.busy s.selCtx = true) : s.writePtroot w = s.raiseOpen 36 := by simp [State.writePtroot, h]

theorem State.writePtroot_invalid (h : s.busy s.selCtx = false) (hw : w.getLsbD 0 = true) (ht : s.links.asidtab.getLsbD 0 = false) : s.writePtroot w = s.raiseOpen 37 := by
  simp only [State.writePtroot, h, hw, ht, Bool.false_eq_true, if_false, if_true, Bool.not_false, Bool.true_or]

theorem State.injectAt_open {k : Nat} {v : W} (h : fld w 0 9 < 32 ∨ fld w 0 9 = 133 ∨ 384 ≤ fld w 0 9) : s.injectAt k w v = none := by
  rw [State.injectAt]
  exact if_pos (by tauto)

theorem State.injectAt_run {k : Nat} {v : W} (hs : (s.slot k).st = .run) (hr : isRing (coreOf k) = false) (h1 : 32 ≤ fld w 0 9) (h2 : fld w 0 9 < 384) (h3 : fld w 0 9 ≠ 133) :
    s.injectAt k w v = some (s.modSlot k fun sl => { sl with inj := some (fld w 0 9, v, 6) }) := by
  rw [State.injectAt]
  exact if_neg (by simp [hs, hr]; omega)

end

theorem firmwareTable : Rules.FirmwareTable := by
  intro s w i
  refine ⟨fun r rs h => ?_, State.frPop_nil, fun x xs h => ?_, State.exReq_nil, fun h => ⟨State.fltPop_nil h, State.fltDone_none (by rw [h]; rfl)⟩, fun e h hi hp hrep hkey => ?_,
    State.writePtroot_busy, State.writePtroot_invalid, fun h => ?_, fun h => ⟨if_neg h, if_neg fun hc => h hc.1⟩, fun hs hr h1 h2 h3 => ?_, fun h => ?_, fun c h => ?_, fun c p h => ?_,
    fun h => ?_, fun h => ?_, fun h => ?_⟩
  · rw [State.frPop_cons h]
    simp
  · rw [State.exReq_cons h]
    simp
  · have hfind : (s.die (dieOf s.cur)).faults.find i = some e := by simp [h, Tbl.find]
    obtain ⟨h63, h40, h0⟩ := fltWord_fields (wr := if e.wr then 2 ^ 59 else 0) (fea := if e.fea then 2 ^ 58 else 0) hrep (by split <;> simp) (by split <;> simp) hi
      (show e.key / 2 ^ 40 < 2 ^ 24 by omega)
    rw [State.fltPop_one h hp]
    refine ⟨h63, h40, h0, by simp, State.fltDone_unread hfind hp, fun a ha => ?_⟩
    rw [State.net_fltDone (e := { e with popped := true }) (by simp [h, Tbl.put, Tbl.find]) rfl ha]
    simp
  · refine ⟨?_, if_pos ⟨h, rfl⟩, fun hw => if_neg fun hc => hw hc.2⟩
    rw [State.slotPc, State.pcAt, if_pos h, State.slot_modSlot, if_pos rfl]
  · rw [State.finject, State.injectAt_run hs hr h1 h2 h3, Option.getD_some, State.slot_modSlot, if_pos rfl]
  · rw [State.finject, State.injectAt_open h, Option.getD_none]
  · rw [State.portCommand, h]
    rfl
  · rw [State.portCommand, h]
    rfl
  · exact if_pos h
  · simp [State.writeWdt, h]
  · simp only [State.writeWdt, State.die_modDie, if_true]
    exact if_neg (by omega)

end Sys2Proof.Machine
end

section
/-! Settles O59, second part. Fault records on their way, soft errors and scrubbing (R320, R325, R326). -/

namespace Sys2Proof

/-- An entry that is listed is replaced in its place. -/
theorem Tbl.keys_put {α : Type} {t : Tbl α} {k : Nat} {v w : α} (h : t.find k = some w) : (Tbl.put t k v).map (·.1) = t.map (·.1) := by
  induction t with
  | nil => cases h
  | cons p r ih =>
    obtain ⟨i, x⟩ := p
    unfold Tbl.find at h
    unfold Tbl.put
    split at h
    · next he => simp [he]
    · next he =>
      split at h
      · cases h
      · next hlt => simp [he, hlt, ih h]

/-- An entry that is dropped from a table in order is not found again. -/
theorem Tbl.find_del {α : Type} {t : Tbl α} (h : (t.map (·.1)).Pairwise (· < ·)) (k : Nat) : (Tbl.del t k).find k = none := by
  induction t with
  | nil => rfl
  | cons p r ih =>
    obtain ⟨i, x⟩ := p
    rw [List.map_cons, List.pairwise_cons] at h
    unfold Tbl.del
    split
    · next he =>
      subst he
      cases r with
      | nil => rfl
      | cons q r =>
        have hq := h.1 q.1 (by simp)
        simp [Tbl.find, hq.ne, hq]
    · next he =>
      split
      · next hlt => simp [Tbl.find, he, hlt]
      · next hlt => simp [Tbl.find, he, hlt, ih h.2]

end Sys2Proof

namespace Sys2Proof.Machine

/-! Records on their way to a die's queue -/

section
variable {s : State} {n d : Nat} {r : FRec}

theorem exec_faultRecordArrival_early (h : s.frFlight[n]? = some (d, r)) (ho : s.inOrder (portRecords d) r.rank = false) : exec (.faultRecordArrival n) s = .next s := by
  show execFaultRecordArrival n s = _
  simp only [execFaultRecordArrival, h, ho, Bool.false_eq_true, if_false]

theorem exec_faultRecordArrival (h : s.frFlight[n]? = some (d, r)) (ho : s.inOrder (portRecords d) r.rank = true) : ∃ t, exec (.faultRecordArrival n) s = .next t ∧
    t.frFlight = s.frFlight.eraseIdx n ∧ t.die d = (s.die d).accept d r := by
  refine ⟨({ s with frFlight := s.frFlight.eraseIdx n }.stamp (portRecords d) r.rank).modDie d fun di => di.accept d r, ?_, rfl, ?_⟩
  · show execFaultRecordArrival n s = _
    simp only [execFaultRecordArrival, h, ho, if_true]
  · rw [State.die_modDie, if_pos rfl]
    rfl

end

/-- A record finds its die's queue with nothing lost since the last one. -/
theorem Die.accept_clean {di : Die} {d : Nat} {r : FRec} (h0 : di.lostSince = 0) :
    (di.frq.length < 256 → (di.accept d r).frq = di.frq ++ [r]) ∧ (256 ≤ di.frq.length → (di.accept d r).frq = di.frq ∧ (di.accept d r).lostSince = 1) := by
  simp only [Die.accept, h0, if_true]
  refine ⟨fun h => by rw [if_neg (by omega)], fun h => ?_⟩
  rw [if_pos (by omega)]
  exact ⟨rfl, rfl⟩

/-- The record of lost records goes before the next one. -/
theorem Die.accept_afterLoss {di : Die} {d : Nat} {r : FRec} (h0 : 0 < di.lostSince) (h : di.frq.length < 255) :
    (di.accept d r).lostSince = 0 ∧ (di.accept d r).frq = di.frq ++ [lostRecord d di.lostSince, r] := by
  simp only [Die.accept]
  rw [if_neg (by omega), if_neg (by omega), if_neg (by omega)]
  exact ⟨rfl, List.append_assoc ..⟩

/-! Soft errors -/

section
variable {s : State} {k b i : Nat}

theorem exec_registerSoftError_slot (hb : b ≤ 4) (hi : i < bankSize b) : exec (.registerSoftError k b i) s = .next (s.slotError k b i) := by
  show execRegisterSoftError k b i s = _
  simp only [execRegisterSoftError]
  rw [if_neg (by omega), if_pos hb]

theorem State.slotError_free (h : (s.slot k).st = .free) : s.slotError k b i = s.modSlot k fun sl => (sl.lose b i).loseSnap b i := if_pos h

theorem State.slotError_used (h : (s.slot k).st ≠ .free) : s.slotError k b i =
    (((s.modSlot k fun sl => (sl.lose b i).loseSnap b i).abandon k).modSlot k fun sl => { sl with wait := .none, st := .run, pend := none, latch := {} }).raiseAt k 132 (nat (b * 32 + i)) := if_neg h

/-- An error in a shared register waits for every slot in use. -/
def Slot.noteError (sl : Slot) (t : W) : Slot := if sl.st = .free then sl else { sl with err := some t }

theorem State.noteErrors_eq (u : State) (c : Nat) (t : W) (n : Nat) :
    ∀ k, (((List.range n).foldl (fun s i => if (s.slot (16 * c + i)).st = .free then s else s.modSlot (16 * c + i) fun sl => { sl with err := some t }) u).slot k) =
      if 16 * c ≤ k ∧ k < 16 * c + n then (u.slot k).noteError t else u.slot k := by
  induction n with
  | zero => intro k; rw [if_neg (by omega)]; rfl
  | succ n ih =>
    intro k
    rw [List.range_succ, List.foldl_append, List.foldl_cons, List.foldl_nil]
    generalize (List.range n).foldl _ u = v at ih ⊢
    have hv : v.slot (16 * c + n) = u.slot (16 * c + n) := by rw [ih, if_neg (by omega)]
    by_cases hk : k = 16 * c + n
    · subst hk
      rw [if_pos (show 16 * c ≤ 16 * c + n ∧ 16 * c + n < 16 * c + (n + 1) by omega), ← hv]
      unfold Slot.noteError
      split
      · rfl
      · rw [State.slot_modSlot, if_pos rfl]
    · have hkeep : (if (v.slot (16 * c + n)).st = .free then v else v.modSlot (16 * c + n) fun sl => { sl with err := some t }).slot k = v.slot k := by
        split
        · rfl
        · rw [State.slot_modSlot, if_neg hk]
      rw [hkeep, ih]
      exact if_congr (by omega) rfl rfl

theorem State.err_coreError {j : Nat} (hj : j < 16) : ((s.coreError k i).slot (16 * k + j)).err =
    if (s.slot (16 * k + j)).st = .free then (s.slot (16 * k + j)).err else some (nat (160 + i)) := by
  simp only [State.coreError]
  rw [State.noteErrors_eq, if_pos (by omega)]
  have hs : (if i < 16 then s.free.2.modCore k fun co => { co with g := co.g.put i s.free.1 } else s.free.2).slot (16 * k + j) = s.slot (16 * k + j) := by
    split <;> rfl
  rw [hs, Slot.noteError]
  split <;> rfl

end

/-! Errors of a B-store's rows -/

section
variable {s : State} {k i j : Nat} {h : Handle}

theorem State.rowError_handle (hi : 512 ≤ i) (hh : (s.clu k).handles = [(j, h)]) (hl : h.live = true) (h1 : h.row ≤ i) (h2 : i < h.row + h.rows) :
    s.rowError k i = s.handleError k j := by
  have hu : (h.used && decide (h.row ≤ i) && decide (i < h.row + h.rows)) = true := by simp [Handle.used, hl, h1, h2]
  simp only [State.rowError, if_neg (Nat.not_lt.2 hi), hh, List.find?_cons, hu]

theorem State.handleAt_modHandle (f : Handle → Handle) : (s.modHandle k j f).handleAt k j = f (s.handleAt k j) := by
  simp [State.modHandle, State.handleAt, Tbl.get_put]

/-- The last use of a handle that is given up frees its entry, whose generation stays. -/
theorem State.handleDone_gen : ((s.handleDone k j).handleAt k j).gen = (s.handleAt k j).gen ∧
    ((s.handleAt k j).live = false → ((s.handleDone k j).handleAt k j).live = false) ∧ (s.handleDone k j).net = s.net := by
  rw [State.handleDone]
  split
  · rw [State.handleAt_modHandle]
    exact ⟨rfl, fun _ => rfl, rfl⟩
  · exact ⟨rfl, id, rfl⟩

/-- No request for the handle stands at the engine's port, and those on their way carry the error. -/
def State.forgotten (s : State) (cl i : Nat) : State :=
  { s.free.2.modClu cl fun c => { c with matPort := c.matPort.filter fun r => r.handle ≠ some i } with net := s.net.map (·.lost cl i s.free.1) }

theorem State.handleError_idle (hh : (s.clu k).handles = [(j, h)]) (hl : h.live = true) (hq : (s.clu k).matq = []) (hp : ∀ r ∈ (s.clu k).matPort, r.handle ≠ some j) :
    ((s.handleError k j).handleAt k j).live = false ∧ ((s.handleError k j).handleAt k j).gen = nextGen h.gen ∧ (s.handleError k j).net = s.net.map (·.lost k j s.free.1) := by
  have hfree : s.free.2.clu k = s.clu k := rfl
  have hport : (s.clu k).matPort.filter (fun r => r.handle == some j) = [] := List.filter_eq_nil_iff.2 fun r hr => by simpa using hp r hr
  generalize ht : s.handleError k j = t
  simp only [State.handleError, hfree, hq, hport, List.filter_nil, List.foldl_nil] at ht
  obtain ⟨hc, hnet⟩ : (s.forgotten k j).clu k = { s.clu k with matPort := (s.clu k).matPort.filter fun r => r.handle ≠ some j } ∧
      (s.forgotten k j).net = s.net.map (·.lost k j s.free.1) := ⟨(State.clu_modClu s.free.2 k (fun c => { c with matPort := c.matPort.filter fun r => r.handle ≠ some j }) k).trans (if_pos rfl), rfl⟩
  change (if ((s.forgotten k j).handleAt k j).live then ((s.forgotten k j).modHandle k j fun h => { h with live := false, freed := true, gen := nextGen h.gen }).handleDone k j
    else s.forgotten k j) = t at ht
  generalize s.forgotten k j = u at hc hnet ht
  have hat : u.handleAt k j = h := by simp [State.handleAt, hc, hh, Tbl.get]
  subst ht
  rw [if_pos (by rw [hat, hl])]
  obtain ⟨hg, hlive, hn⟩ := State.handleDone_gen (s := u.modHandle k j fun h => { h with live := false, freed := true, gen := nextGen h.gen }) (k := k) (j := j)
  rw [State.handleAt_modHandle, hat] at hg hlive
  exact ⟨hlive rfl, hg, hn.trans hnet⟩

end

/-! Scrubbing -/

section
variable {s : State} {lv k : Nat}

theorem State.clu_scrubRecord (s : State) (d lv kd addr p : Nat) : (s.scrubRecord d lv kd addr).clu p = s.clu p := rfl

theorem exec_scrub_word (hl : levelHas lv k = true) (h2 : lv ≠ 2) (h3 : lv ≠ 3) (h6 : lv ≠ 6) :
    exec (.scrub lv 0 k) s = .next ((s.setPoison (k / 8 * 8) true).scrubRecord (s.scrubAddr k).2 lv 0 (s.scrubAddr k).1) := by
  show execScrub lv 0 k s = _
  simp [execScrub, hl, h2, h3, h6]

theorem exec_scrub_bstore (hk : k < 128 * 2 ^ 23) :
    exec (.scrub 6 0 k) s = .next ((s.modClu (k / 2 ^ 23) fun c => { c with bpoison := c.bpoison.put (k % 2 ^ 23 / 8) true }).scrubRecord (k / 2 ^ 23 / 32) 6 0 (k % 2 ^ 23)) := by
  have hc : k / 2 ^ 23 < 128 := by omega
  show execScrub 6 0 k s = _
  simp only [execScrub, hc, decide_true, beq_self_eq_true, Bool.and_self, Bool.true_or, Bool.not_true, Bool.false_eq_true, if_true, if_false]

theorem exec_scrub_uncounted (hl : levelHas lv k = true) (h2 : lv ≠ 2) (h3 : lv ≠ 3) (h0 : (s.die (s.scrubAddr k).2).eccthr = 0#64) :
    exec (.scrub lv 1 k) s = .next (s.modDie (s.scrubAddr k).2 fun di => { di with corrected := di.corrected.put lv (Tbl.get 0 (s.die (s.scrubAddr k).2).corrected lv + 1) }) := by
  have h6 : lv ≠ 6 := fun h => by simp [h, levelHas] at hl
  show execScrub lv 1 k s = _
  simp [execScrub, hl, h2, h3, h6, h0]

/-- What a bad tag leaves before its line goes: the readers' chunks are squashed, and the page of a dirty line is poisoned. -/
def State.poisonPage (s : State) (k : Nat) (l : CLine) : State :=
  if l.dirty then (List.range 8).foldl (fun s i => s.setPoison (l.tr.place + (glbVa (lineOf k * 64) - l.tr.va) + 8 * i) true) (s.squashReaders none [lineOf k])
  else s.squashReaders none [lineOf k]

theorem exec_scrub_tag {l : CLine} (hc : lv = 2 ∨ lv = 3) (hk : glb0 ≤ k) (hf : s.lines.find (lineOf k) = some l) :
    exec (.scrub lv 2 k) s = .next (((s.poisonPage k l).dropLine (lineOf k)).scrubRecord (s.scrubAddr k).2 lv 2 (s.scrubAddr k).1) := by
  have hlv : levelHas lv k = true := by rcases hc with rfl | rfl <;> exact decide_eq_true hk
  have h6 : lv ≠ 6 := by omega
  have h23 : ¬ (lv ≠ 2 ∧ lv ≠ 3) := by omega
  show execScrub lv 2 k s = _
  simp [execScrub, hlv, h6, h23, hf, State.poisonPage]

/-- The lines and the memory are as they were, but for poison in lines that stand there. -/
structure SameLines (s t : State) : Prop where
  mem : t.mem = s.mem
  keys : t.lines.map (·.1) = s.lines.map (·.1)

theorem SameLines.trans {s t u : State} (h : SameLines s t) (g : SameLines t u) : SameLines s u := ⟨g.mem.trans h.mem, g.keys.trans h.keys⟩

theorem SameLines.of_eq {s t : State} (hm : t.mem = s.mem) (hl : t.lines = s.lines) : SameLines s t := ⟨hm, by rw [hl]⟩

theorem sameLines_foldl {α : Type} {f : State → α → State} (hf : ∀ t e, SameLines t (f t e)) (l : List α) (s : State) : SameLines s (l.foldl f s) :=
  foldl_keeps (P := SameLines s) (fun t e h => h.trans (hf t e)) l s (.of_eq rfl rfl)

theorem sameLines_setPoison (s : State) (a : Nat) (b : Bool) : SameLines s (s.setPoison a b) := by
  unfold State.setPoison
  split
  · exact .of_eq rfl rfl
  · split
    · next l hl => exact ⟨rfl, Tbl.keys_put hl⟩
    · exact .of_eq rfl rfl

theorem sameLines_normNext (s : State) (c : Nat) : SameLines s (s.normNext c) := by
  unfold State.normNext
  split <;> exact .of_eq rfl rfl

theorem sameLines_leaveNorm (s : State) (k : Nat) : SameLines s (s.leaveNorm k) := by
  unfold State.leaveNorm
  split
  · refine .trans ?_ (sameLines_normNext _ _)
    exact .of_eq rfl rfl
  · exact .of_eq rfl rfl

theorem sameLines_withdraw (s : State) (k : Nat) : SameLines s (s.withdraw k) := by
  refine .trans ?_ (sameLines_leaveNorm _ k)
  exact .of_eq rfl rfl

theorem sameLines_squash (s : State) (k : Nat) : SameLines s (s.squash k) := by
  refine (sameLines_withdraw s k).trans ?_
  simp only [State.squash, State.askSolo]
  split
  · split <;> exact .of_eq rfl rfl
  · exact .of_eq rfl rfl

theorem sameLines_squashReaders (s : State) (b : Option Nat) (ls : List Nat) : SameLines s (s.squashReaders b ls) :=
  sameLines_foldl (fun t ⟨k, _⟩ => by
    dsimp only
    split
    · exact sameLines_squash t k
    · exact .of_eq rfl rfl) _ s

theorem sameLines_poisonPage (s : State) (k : Nat) (l : CLine) : SameLines s (s.poisonPage k l) := by
  unfold State.poisonPage
  split
  · exact (sameLines_squashReaders s _ _).trans (sameLines_foldl (fun t _ => sameLines_setPoison t _ _) _ _)
  · exact sameLines_squashReaders s _ _

end

theorem errorResults : Rules.ErrorResults := by
  intro s n d k b i r
  refine ⟨exec_faultRecordArrival_early, fun h ho h0 => ?_, fun h ho h0 hl => ?_, fun hb hi hs => ?_, fun hb hi hs => ?_, fun hi => ?_, fun hi => ?_,
    fun j h h1 h2 hh hlive _ h3 h4 hq hp => ?_, fun b hb => ?_, fun lv hlv hl => ?_, fun hk => ?_, fun lv hl h2 h3 h0 => ?_, fun lv l hlv hs hk hf => ?_⟩
  · obtain ⟨t, ht, hfl, hdie⟩ := exec_faultRecordArrival h ho
    exact ⟨t, ht, hfl, hdie ▸ Die.accept_clean h0⟩
  · obtain ⟨t, ht, hfl, hdie⟩ := exec_faultRecordArrival h ho
    exact ⟨t, ht, hdie ▸ Die.accept_afterLoss h0 hl⟩
  · rw [exec_registerSoftError_slot hb hi, State.slotError_free hs]
  · rw [exec_registerSoftError_slot hb hi, State.slotError_used hs]
  · refine ⟨s.coreError k i, ?_, fun j hj => State.err_coreError hj⟩
    exact congrArg Host.Outcome.next (if_neg (by simp [bankSize]; omega))
  · exact congrArg Host.Outcome.next (if_pos hi)
  · refine ⟨s.rowError k i, congrArg Host.Outcome.next (if_pos h2), ?_⟩
    rw [State.rowError_handle h1 hh hlive h3 h4]
    exact State.handleError_idle hh hlive hq hp
  · refine ⟨s.modClu k fun c => { c with kept := c.kept.map fun b => { b with bad := true } }, rfl, ?_⟩
    rw [State.clu_modClu, if_pos rfl, hb]
    rfl
  · exact exec_scrub_word hl (by omega) (by omega) (by omega)
  · rw [exec_scrub_bstore hk]
    refine ⟨_, rfl, ?_, .of_eq rfl rfl rfl rfl⟩
    rw [State.clu_scrubRecord, State.clu_modClu, if_pos rfl, Tbl.get_put, if_pos rfl]
  · rw [exec_scrub_uncounted hl h2 h3 h0]
    exact ⟨_, rfl, rfl, .of_eq rfl rfl rfl rfl⟩
  · rw [exec_scrub_tag hlv hk hf]
    have hp := sameLines_poisonPage s k l
    exact ⟨_, rfl, Tbl.find_del (by rw [hp.keys]; exact hs) _, hp.mem⟩

end Sys2Proof.Machine
end

section
/-! Settles O59, third part. The placement map and the DSR windows (R27, R36, R37, R48, R50, R154). -/

namespace Sys2Proof

/-- A key that is not listed has the default. -/
theorem Tbl.get_absent {α : Type} {d : α} {t : Tbl α} {k : Nat} (h : ∀ e ∈ t, e.1 ≠ k) : Tbl.get d t k = d := by
  induction t with
  | nil => rfl
  | cons p r ih =>
    obtain ⟨i, v⟩ := p
    have hi : k ≠ i := (h (i, v) List.mem_cons_self).symm
    simp only [Tbl.get, if_neg hi]
    split
    · rfl
    · exact ih fun e he => h e (List.mem_cons_of_mem _ he)

/-- What a filter turns away is not listed. -/
theorem Tbl.get_filter_out {α : Type} {d : α} {t : Tbl α} {p : Nat × α → Bool} {k : Nat} (h : ∀ v, p (k, v) = false) : Tbl.get d (t.filter p) k = d := by
  refine Tbl.get_absent fun e he hk => ?_
  have := (List.mem_filter.1 he).2
  rw [← hk] at h
  simp [h e.2] at this

/-- A function of the entries, applied to each. -/
theorem Tbl.get_map {α β : Type} {d : α} (g : α → β) (t : Tbl α) (k : Nat) : Tbl.get (g d) (t.map fun e => (e.1, g e.2)) k = g (Tbl.get d t k) := by
  induction t with
  | nil => rfl
  | cons p r ih =>
    obtain ⟨i, v⟩ := p
    simp only [List.map_cons, Tbl.get]
    split
    · rfl
    · split
      · rfl
      · exact ih

namespace Machine

/-- A step of a fold brings what every later step keeps. -/
theorem foldl_brings {α β : Type} {P : β → Prop} {f : β → α → β} {a : α} (hk : ∀ b e, P b → P (f b e)) (ha : ∀ b, P (f b a)) {l : List α} (h : a ∈ l) (b : β) : P (l.foldl f b) := by
  induction l generalizing b with
  | nil => cases h
  | cons e r ih =>
    rw [List.foldl_cons]
    rcases List.mem_cons.1 h with rfl | h
    · exact foldl_keeps hk r _ (ha b)
    · exact ih h _

/-! The end of a cluster's queues -/

section
variable {s : State} {p c q : Nat}

/-- The queue records of cluster p are discarded but for their generations. -/
def State.dropRecords (s : State) (p : Nat) : State := s.modClu p fun c => { c with queues := c.queues.map fun (i, q) => (i, { gen := q.gen }) }

theorem State.dropQueues_eq (s : State) (p : Nat) : s.dropQueues p = { s.dropRecords p with cores := (s.dropQueues p).cores } :=
  foldl_keeps (P := fun t : State => t = { s.dropRecords p with cores := t.cores }) (fun t c h => by rw [h]; rfl) _ _ rfl

theorem State.clusters_dropQueues : (s.dropQueues p).clusters = (s.dropRecords p).clusters := (congrArg State.clusters (s.dropQueues_eq p) :)
theorem State.ctxs_dropQueues : (s.dropQueues p).ctxs = s.ctxs := (congrArg State.ctxs (s.dropQueues_eq p) :)
theorem State.slots_dropQueues : (s.dropQueues p).slots = s.slots := (congrArg State.slots (s.dropQueues_eq p) :)
theorem State.mem_dropQueues : (s.dropQueues p).mem = s.mem := (congrArg State.mem (s.dropQueues_eq p) :)
theorem State.dies_dropQueues : (s.dropQueues p).dies = s.dies := (congrArg State.dies (s.dropQueues_eq p) :)
theorem State.cur_dropQueues : (s.dropQueues p).cur = s.cur := (congrArg State.cur (s.dropQueues_eq p) :)

theorem State.queue_dropRecords : (s.dropRecords p).queue q = if q / 64 = p then { gen := (s.queue q).gen } else s.queue q := by
  rw [State.dropRecords, State.queue, State.clu_modClu]
  split
  · next h =>
    rw [State.queue, h]
    exact Tbl.get_map (d := ({} : Queue)) (fun q : Queue => ({ gen := q.gen } : Queue)) _ _
  · rfl

theorem State.unqueued_dropQueues (s : State) (p : Nat) : Unqueued s (s.dropQueues p) p := by
  refine ⟨fun q hq => ?_, fun c hc => ?_⟩
  · rw [State.queue_congr State.clusters_dropQueues, State.queue_dropRecords, if_pos (by omega)]
  · refine foldl_brings (P := fun t : State => (t.core c).q = []) (a := c) (fun t d h => ?_) (fun t => ?_) (List.mem_map.2 ⟨c % 8, by simp; omega, by omega⟩) _
    · rw [State.core_modCore]
      split
      · rfl
      · exact h
    · rw [State.core_modCore, if_pos rfl]

end

/-! The windows that move with a cluster -/

theorem State.fillMoved_eq (s old : State) (x : Nat) : s.fillMoved old x = { s with empty := (s.fillMoved old x).empty } :=
  foldl_keeps (P := fun t : State => t = { s with empty := t.empty }) (fun t d h => by
    split
    · exact h
    · rw [h]
      rfl) _ _ rfl

/-! The assignment of a cluster -/

section
variable {s : State} {p : Nat}

/-- The cores of cluster p that are no ringmaster's. -/
def ownCores (p : Nat) : List Nat := ((List.range 8).map (8 * p + ·)).filter fun c => !isRing c

theorem mem_ownCores {c : Nat} : c ∈ ownCores p ↔ c / 8 = p ∧ isRing c = false := by
  simp only [ownCores, List.mem_filter, List.mem_map, List.mem_range, Bool.not_eq_true']
  refine and_congr_left fun _ => ⟨fun ⟨i, hi, he⟩ => by omega, fun h => ⟨c % 8, by omega, by omega⟩⟩

/-- The records of cluster p's queues begin anew, with the next generation. -/
def State.renewed (s : State) (p : Nat) : State :=
  s.modClu p fun c =>
    { queues := (List.range 64).map fun i => (i, { gen := ((Tbl.get {} (s.clu p).queues i).gen + 1) % 65536 })
      tlb := c.tlb, dlog := c.dlog, models := c.models, merge := c.merge }

/-- A core of an assigned cluster begins anew. -/
def State.clearCore (s : State) (c : Nat) : State :=
  (s.zeroRange (tcmBase c) (2 ^ 18)).modCore c fun co => { beat := co.beat, cyc := co.cyc, deqspill := co.deqspill }

/-- The memories and the cores of cluster p are empty. -/
def State.cleared (s : State) (p : Nat) : State := (ownCores p).foldl State.clearCore ((s.renewed p).zeroRange (spdBase p) (2 ^ 21))

theorem State.assign_eq (s : State) (p : Nat) : s.assign p =
    { s.cleared p with
      slots := (s.cleared p).slots.filter fun (k, _) => !((ownCores p).contains (coreOf k))
      l1d := (s.cleared p).l1d.filter fun (c, _) => !((ownCores p).contains c) } := rfl

theorem State.cleared_eq (s : State) (p : Nat) : s.cleared p =
    { s.renewed p with mem := (s.cleared p).mem, empty := (s.cleared p).empty, poison := (s.cleared p).poison, cores := (s.cleared p).cores } :=
  foldl_keeps (P := fun t : State => t = { s.renewed p with mem := t.mem, empty := t.empty, poison := t.poison, cores := t.cores }) (fun t c h => by rw [h]; rfl) _ _ rfl

theorem State.clusters_assign : (s.assign p).clusters = (s.renewed p).clusters := (congrArg State.clusters (s.cleared_eq p) :)
theorem State.ctxs_assign : (s.assign p).ctxs = s.ctxs := (congrArg State.ctxs (s.cleared_eq p) :)
theorem State.dies_assign : (s.assign p).dies = s.dies := (congrArg State.dies (s.cleared_eq p) :)
theorem State.cur_assign : (s.assign p).cur = s.cur := (congrArg State.cur (s.cleared_eq p) :)

theorem State.core_assign {c : Nat} (h : c / 8 ≠ p) : (s.assign p).core c = s.core c := by
  have hc : (s.cleared p).core c = s.core c := List.foldlRecOn (motive := fun t : State => t.core c = s.core c) _ _ rfl fun t ht d hd => by
    rw [State.clearCore, State.core_modCore, if_neg fun he => h (by rw [he, (mem_ownCores.1 hd).1])]
    exact ht
  exact hc

/-- No byte is listed at a place in a range that is zero. -/
theorem State.unlisted_zeroRange {a b n : Nat} (h : a ≤ b) (hb : b < a + n) : ∀ e ∈ (s.zeroRange a n).mem, e.1 ≠ b := by
  intro e he hk
  have := (List.mem_filter.1 he).2
  simp [hk, h, hb] at this

theorem State.zeroRange_keeps {a b n : Nat} (h : ∀ e ∈ s.mem, e.1 ≠ b) : ∀ e ∈ (s.zeroRange a n).mem, e.1 ≠ b :=
  fun e he => h e (List.mem_filter.1 he).1

theorem State.byteAt_unlisted {b : Nat} (hb : b < glb0) (h : ∀ e ∈ s.mem, e.1 ≠ b) : s.byteAt b = 0#8 := by
  rw [State.byteAt, if_pos hb, Tbl.get_absent h]
  rfl

/-- The scratchpad of an assigned cluster is zero. -/
theorem State.byteAt_assign_spd (hp : p < 128) {a : Nat} (h : spdBase p ≤ a) (ha : a < spdBase p + 2 ^ 21) : (s.assign p).byteAt a = 0#8 := by
  have hb : a < glb0 := by
    simp only [spdBase, glb0] at *
    omega
  refine State.byteAt_unlisted hb ?_
  exact foldl_keeps (f := State.clearCore) (P := fun t : State => ∀ e ∈ t.mem, e.1 ≠ a) (fun t c h => State.zeroRange_keeps h) _ _ (State.unlisted_zeroRange h ha)

/-- The TCM of each core of an assigned cluster is zero. -/
theorem State.byteAt_assign_tcm (hp : p < 128) {c a : Nat} (hc : c / 8 = p) (hr : isRing c = false) (h : tcmBase c ≤ a) (ha : a < tcmBase c + 2 ^ 18) : (s.assign p).byteAt a = 0#8 := by
  have hb : a < glb0 := by
    simp only [tcmBase, glb0] at *
    omega
  refine State.byteAt_unlisted hb ?_
  exact foldl_brings (f := State.clearCore) (P := fun t : State => ∀ e ∈ t.mem, e.1 ≠ a) (a := c) (fun t d h => State.zeroRange_keeps h) (fun t => State.unlisted_zeroRange h ha) (mem_ownCores.2 ⟨hc, hr⟩) _

/-- The slots of an assigned cluster are FREE. -/
theorem State.slot_assign {k : Nat} (h : cluOf k = p) (hr : isRing (coreOf k) = false) : (s.assign p).slot k = {} := by
  have hm : coreOf k ∈ ownCores p := mem_ownCores.2 ⟨by simp only [cluOf, coreOf] at *; omega, hr⟩
  refine Tbl.get_filter_out fun v => ?_
  show (!(ownCores p).contains (coreOf k)) = false
  simpa using hm

/-- The queues of an assigned cluster are free, each with its next generation. -/
theorem State.queue_assign {q : Nat} (hq : q < 64) : (s.assign p).queue (64 * p + q) = { gen := ((s.queue (64 * p + q)).gen + 1) % 65536 } := by
  have hd : (64 * p + q) / 64 = p := by omega
  have hm : (64 * p + q) % 64 = q := by omega
  rw [State.queue_congr State.clusters_assign, State.queue, State.queue, State.renewed, State.clu_modClu, hd, hm, if_pos rfl]
  refine Tbl.get_of_mem ?_ (List.mem_map.2 ⟨q, List.mem_range.2 hq, rfl⟩)
  rw [List.map_map]
  exact (List.map_id _).symm ▸ List.pairwise_lt_range

theorem State.queue_assign_ne {q : Nat} (h : q / 64 ≠ p) : (s.assign p).queue q = s.queue q := by
  rw [State.queue_congr State.clusters_assign, State.queue, State.renewed, State.clu_modClu, if_neg h]
  rfl

end

/-! The placement map -/

theorem State.selCtx_congr {s t : State} (hd : t.dies = s.dies) (hc : t.cur = s.cur) : t.selCtx = s.selCtx := by simp only [State.selCtx, State.die, hd, hc]

theorem State.ctx_congr {s t : State} (h : t.ctxs = s.ctxs) (x : Nat) : t.ctx x = s.ctx x := by simp only [State.ctx, h]

section
variable {s : State} {w : W} {n x p : Nat}

/-- The cluster is valid in another entry of some context's map. -/
def State.placedElsewhere (s : State) (x n p : Nat) : Prop := ∃ e ∈ s.ctxs, ∃ f ∈ e.2.pmap, f.2.getLsbD 15 = true ∧ fld f.2 0 7 = p ∧ (e.1 ≠ x ∨ f.1 ≠ n)

theorem State.placedElsewhere_iff : (s.ctxs.any fun (y, cx) => cx.pmap.any fun (m, e) => e.getLsbD 15 && fld e 0 7 == p && !(y == x && m == n)) = true ↔ s.placedElsewhere x n p := by
  simp only [State.placedElsewhere, List.any_eq_true, Bool.and_eq_true, Bool.not_eq_true', beq_iff_eq, Bool.and_eq_false_iff, beq_eq_false_iff_ne, and_assoc]

/-- The entry of a map after a write. -/
def pmapWord (v : Bool) (p : Nat) : W := nat ((if v then 32768 else 0) + p)

theorem pmapWord_valid (v : Bool) (hp : p < 128) : (pmapWord v p).getLsbD 15 = v ∧ fld (pmapWord v p) 0 7 = p := by
  have hn : (pmapWord v p).toNat = (if v then 32768 else 0) + p := by
    rw [pmapWord, nat, BitVec.toNat_ofNat]
    split <;> omega
  rw [BitVec.getLsbD, fld_zero, hn, Nat.testBit_eq_decide_div_mod_eq]
  cases v
  · simp
    omega
  · simp
    omega

/-- The cluster that a map's entry gives up, if any, is released. -/
def State.givenUp (s : State) (x n p : Nat) (v : Bool) : State :=
  match s.place x n with
  | some o => if v ∧ o = p then s else s.dropQueues o
  | none => s

/-- The map has its entry, and the windows that move with it are full. -/
def State.remapped (s : State) (x n p : Nat) (v : Bool) : State :=
  ((s.givenUp x n p v).modCtx x fun cx => { cx with pmap := Tbl.set 0#64 cx.pmap n (pmapWord v p) }).fillMoved s x

theorem State.writePmap_refused (h : s.busy s.selCtx = true ∨ w.getLsbD 15 = true ∧ s.placedElsewhere s.selCtx n (fld w 0 7)) : s.writePmap n w = s.raiseOpen 36 :=
  if_pos (h.imp id (And.imp id State.placedElsewhere_iff.2))

theorem State.writePmap_accepted (hb : s.busy s.selCtx = false) (h : w.getLsbD 15 = false ∨ ¬ s.placedElsewhere s.selCtx n (fld w 0 7)) :
    s.writePmap n w = if w.getLsbD 15 = true ∧ s.place s.selCtx n ≠ some (fld w 0 7) then (s.remapped s.selCtx n (fld w 0 7) (w.getLsbD 15)).assign (fld w 0 7)
      else s.remapped s.selCtx n (fld w 0 7) (w.getLsbD 15) := by
  refine if_neg ?_
  rintro (hc | ⟨h15, ht⟩)
  · rw [hb] at hc
    cases hc
  · rcases h with h | h
    · rw [h] at h15
      cases h15
    · exact h (State.placedElsewhere_iff.1 ht)

theorem State.givenUp_cases (s : State) (x n p : Nat) (v : Bool) :
    (∃ o, s.place x n = some o ∧ s.givenUp x n p v = s.dropQueues o) ∨ s.givenUp x n p v = s := by
  unfold State.givenUp
  split
  · next o ho =>
    split
    · exact .inr rfl
    · exact .inl ⟨o, ho, rfl⟩
  · exact .inr rfl

theorem State.givenUp_releases {v : Bool} {o : Nat} (h : s.place x n = some o) (hv : v = false ∨ o ≠ p) : s.givenUp x n p v = s.dropQueues o := by
  simp only [State.givenUp, h]
  exact if_neg fun ⟨h1, h2⟩ => hv.elim (fun hv => by rw [hv] at h1; cases h1) fun hv => hv h2

theorem State.givenUp_eq (s : State) (x n p : Nat) (v : Bool) : s.givenUp x n p v = { s with clusters := (s.givenUp x n p v).clusters, cores := (s.givenUp x n p v).cores } := by
  rcases s.givenUp_cases x n p v with ⟨o, _, h⟩ | h <;> rw [h]
  rw [State.dropQueues_eq]
  rfl

/-- A context after a write of its map. -/
abbrev State.withEntry (s : State) (x n p : Nat) (v : Bool) : State := s.modCtx x fun cx => { cx with pmap := Tbl.set 0#64 cx.pmap n (pmapWord v p) }

theorem State.remapped_eq (s : State) (x n p : Nat) (v : Bool) : s.remapped x n p v =
    { s.withEntry x n p v with clusters := (s.givenUp x n p v).clusters, cores := (s.givenUp x n p v).cores, empty := (s.remapped x n p v).empty } := by
  rw [State.remapped, State.fillMoved_eq, State.givenUp_eq]
  rfl

theorem State.gen_givenUp (v : Bool) (q : Nat) : ((s.givenUp x n p v).queue q).gen = (s.queue q).gen := by
  rcases s.givenUp_cases x n p v with ⟨o, _, h⟩ | h <;> rw [h]
  rw [State.queue_congr State.clusters_dropQueues, State.queue_dropRecords]
  split <;> rfl

/-- Where the clusters of a map are after a write of an entry. -/
theorem State.place_withEntry (hp : p < 128) (hwf : Tbl.wf 0#64 (s.ctx x).pmap = true) (v : Bool) (y m : Nat) :
    (s.withEntry x n p v).place y m = if y = x ∧ m = n then (if v then some p else none) else s.place y m := by
  obtain ⟨h15, h7⟩ := pmapWord_valid v hp
  rw [State.place, State.ctx_modCtx]
  by_cases hy : y = x
  · subst hy
    rw [if_pos rfl, Tbl.get_set hwf]
    by_cases hm : m = n
    · simp only [hm, if_true, and_self, h15, h7]
    · simp only [hm, if_false, and_false]
      rfl
  · simp only [hy, if_false, false_and]
    rfl

theorem State.read_pmap {t : State} (hn : n < 128) (hx : t.selCtx = x) : (t.readHigh (0x900 + n)).1 = Tbl.get 0#64 (t.ctx x).pmap n := by
  have h : 0x900 ≤ 0x900 + n ∧ 0x900 + n ≤ 0x97F := by omega
  have hr : t.readHigh (0x900 + n) = (Tbl.get 0#64 (t.ctx t.selCtx).pmap (0x900 + n - 0x900), t) := if_pos h
  rw [hr, hx, Nat.add_sub_cancel_left]

end

/-- Two states with the same queues of a cluster and the same ends of its cores. -/
theorem Unqueued.congr {s t u : State} {p : Nat} (h : Unqueued s t p) (hq : ∀ q, q / 64 = p → u.queue q = t.queue q) (hc : ∀ c, c / 8 = p → u.core c = t.core c) : Unqueued s u p :=
  ⟨fun q hl => by rw [hq _ (by omega), h.1 q hl], fun c hp => by rw [hc c hp, h.2 c hp]⟩

theorem placementMap {s : State} {w : W} {n : Nat} (hn : n < 128) (hb : s.busy s.selCtx = false)
    (h : w.getLsbD 15 = false ∨ ¬ s.placedElsewhere s.selCtx n (fld w 0 7)) (hwf : Tbl.wf 0#64 (s.ctx s.selCtx).pmap = true) :
    let x := s.selCtx; let p := fld w 0 7; let t := s.writePmap n w
    t.place x n = (if w.getLsbD 15 then some p else none) ∧ (∀ y m, y ≠ x ∨ m ≠ n → t.place y m = s.place y m) ∧
    (t.readHigh (0x900 + n)).1 = nat ((if w.getLsbD 15 then 2 ^ 15 else 0) + p) ∧
    (w.getLsbD 15 = false ∨ s.place x n = some p → t.slots = s.slots ∧ t.mem = s.mem) ∧
    (∀ o, s.place x n = some o → w.getLsbD 15 = false ∨ o ≠ p → Unqueued s t o) ∧
    (w.getLsbD 15 = true → s.place x n ≠ some p → (∀ k, cluOf k = p → isRing (coreOf k) = false → t.slot k = {}) ∧ (∀ a, spdBase p ≤ a → a < spdBase p + 2 ^ 21 → t.byteAt a = 0#8) ∧
      (∀ c a, c / 8 = p → isRing c = false → tcmBase c ≤ a → a < tcmBase c + 2 ^ 18 → t.byteAt a = 0#8) ∧
      ∀ q < 64, (t.queue (64 * p + q)).alloc = false ∧ (t.queue (64 * p + q)).gen = ((s.queue (64 * p + q)).gen + 1) % 65536) := by
  intro x p t
  have hp : p < 128 := fld_lt w 0 7
  have ht : t = _ := State.writePmap_accepted hb h
  have hu := s.remapped_eq x n p (w.getLsbD 15)
  generalize s.remapped x n p (w.getLsbD 15) = u at ht hu
  have hclu : u.clusters = (s.givenUp x n p (w.getLsbD 15)).clusters := (congrArg State.clusters hu :)
  have hcores : u.cores = (s.givenUp x n p (w.getLsbD 15)).cores := (congrArg State.cores hu :)
  have hctxs : t.ctxs = (s.withEntry x n p (w.getLsbD 15)).ctxs := by
    rw [ht]
    split
    · exact State.ctxs_assign.trans (congrArg State.ctxs hu :)
    · exact (congrArg State.ctxs hu :)
  have hsel : t.selCtx = x := by
    rw [ht]
    split
    · exact (State.selCtx_congr State.dies_assign State.cur_assign).trans (State.selCtx_congr (congrArg State.dies hu :) (congrArg State.cur hu :))
    · exact State.selCtx_congr (congrArg State.dies hu :) (congrArg State.cur hu :)
  refine ⟨?_, fun y m hne => ?_, ?_, fun hkeep => ?_, fun o ho hv => ?_, fun hv hne => ?_⟩
  · rw [State.place_congr hctxs, State.place_withEntry hp hwf, if_pos ⟨rfl, rfl⟩]
  · rw [State.place_congr hctxs, State.place_withEntry hp hwf, if_neg fun ⟨h1, h2⟩ => hne.elim (· h1) (· h2)]
  · rw [State.read_pmap hn hsel, State.ctx_congr hctxs, State.ctx_modCtx, if_pos rfl, Tbl.get_set hwf, if_pos rfl]
    rfl
  · rw [ht, if_neg fun hc => hkeep.elim (fun hf => by rw [hf] at hc; cases hc.1) hc.2]
    exact ⟨(congrArg State.slots hu :), (congrArg State.mem hu :)⟩
  · have hrel : Unqueued s u o := by
      rw [State.givenUp_releases ho hv] at hclu hcores
      exact (s.unqueued_dropQueues o).congr (fun q _ => State.queue_congr hclu q) fun c _ => State.core_congr hcores c
    rw [ht]
    split
    · next hc =>
      have hop : o ≠ p := hv.resolve_left (by rw [hc.1]; decide)
      exact hrel.congr (fun q hq => State.queue_assign_ne (by omega)) fun c hc => State.core_assign (by omega)
    · exact hrel
  · rw [ht, if_pos ⟨hv, hne⟩]
    refine ⟨fun k hk hr => State.slot_assign hk hr, fun a h1 h2 => State.byteAt_assign_spd hp h1 h2, fun c a hc hr h1 h2 => State.byteAt_assign_tcm hp hc hr h1 h2, fun q hq => ?_⟩
    rw [State.queue_assign hq, State.queue_congr hclu, State.gen_givenUp]
    exact ⟨rfl, rfl⟩

/-! The DSR windows -/

section
variable {s : State} {w : W} {n x : Nat}

/-- The entry of a window after a write. -/
def winWord (w : W) : W := nat (fld w 32 10 * 2 ^ 32 + fld w 16 9 * 65536)

theorem winWord_fields (w : W) : fld (winWord w) 32 10 = fld w 32 10 ∧ fld (winWord w) 16 9 = fld w 16 9 := by
  have h1 := fld_lt w 32 10
  have h2 := fld_lt w 16 9
  have hn : (winWord w).toNat = fld w 32 10 * 2 ^ 32 + fld w 16 9 * 65536 := by
    rw [winWord, nat, BitVec.toNat_ofNat]
    omega
  constructor
  · rw [fld, bitsOf, hn]
    omega
  · rw [fld, bitsOf, hn]
    omega

/-- A context after a write of a window. -/
abbrev State.withWindow (s : State) (x n : Nat) (w : W) : State := s.modCtx x fun cx => { cx with dsrwin := Tbl.set 0#64 cx.dsrwin n (winWord w) }

theorem State.writeDsrwin_refused (h : s.busy s.selCtx = true ∨ 512 < fld w 16 9 + fld w 32 10) : s.writeDsrwin n w = s.raiseOpen 36 := if_pos h

theorem State.writeDsrwin_accepted (hb : s.busy s.selCtx = false) (h : fld w 16 9 + fld w 32 10 ≤ 512) :
    s.writeDsrwin n w = (s.withWindow s.selCtx n w).fillWindow s.selCtx n := if_neg (by rw [hb]; simpa using h)

theorem State.homeDie_congr {t : State} (h : ∀ v, t.place x v = s.place x v) (d : Nat) : t.homeDie x d = s.homeDie x d := by simp only [State.homeDie, h]

theorem State.place_withWindow (y v : Nat) : (s.withWindow x n w).place y v = s.place y v := by
  rw [State.place, State.ctx_modCtx]
  split
  · next h => rw [h]; rfl
  · rfl

theorem State.dsrwin_withWindow (hwf : Tbl.wf 0#64 (s.ctx x).dsrwin = true) (m : Nat) :
    Tbl.get 0#64 ((s.withWindow x n w).ctx x).dsrwin m = if m = n then winWord w else Tbl.get 0#64 (s.ctx x).dsrwin m := by
  rw [State.ctx_modCtx, if_pos rfl, Tbl.get_set hwf]

theorem State.read_dsrwin {t : State} (hn : n < 4) (hx : t.selCtx = x) : (t.readHigh (0x980 + n)).1 =
    if (t.homeDie x n).isNone then keep (Tbl.get 0#64 (t.ctx x).dsrwin n) [(16, 9)] else Tbl.get 0#64 (t.ctx x).dsrwin n := by
  have h0 : ¬ (0x900 ≤ 0x980 + n ∧ 0x980 + n ≤ 0x97F) := by omega
  have h : 0x980 ≤ 0x980 + n ∧ 0x980 + n ≤ 0x983 := by omega
  have hr : t.readHigh (0x980 + n) = (if (t.homeDie t.selCtx (0x980 + n - 0x980)).isNone then keep (Tbl.get 0#64 (t.ctx t.selCtx).dsrwin (0x980 + n - 0x980)) [(16, 9)]
      else Tbl.get 0#64 (t.ctx t.selCtx).dsrwin (0x980 + n - 0x980), t) := (if_neg h0).trans (if_pos h)
  rw [hr, hx, Nat.add_sub_cancel_left]

theorem State.windowAt_congr {t : State} (h : t.ctxs = s.ctxs) : t.windowAt x n = s.windowAt x n := by
  rw [State.windowAt, State.windowAt, State.homeDie_congr (State.place_congr h x), State.ctx_congr h]

theorem State.winSize_congr {t : State} (h : t.ctxs = s.ctxs) : t.winSize x n = s.winSize x n := by
  rw [State.winSize, State.winSize, State.homeDie_congr (State.place_congr h x), State.ctx_congr h]

theorem State.homeDie_lt (s : State) (x d : Nat) : (s.homeDie x d).getD 0 < 4 := by
  rw [State.homeDie]
  cases h : (List.range 32).findSome? fun i => s.place x (32 * d + i) with
  | none => decide
  | some p =>
    obtain ⟨i, _, hi⟩ := List.exists_of_findSome?_eq_some h
    have := State.place_lt hi
    simp only [Option.map_some, Option.getD_some]
    omega

/-- Every window ends below the lines of the GLB. -/
theorem State.window_lt (s : State) (x n : Nat) : s.windowAt x n + s.winSize x n < glb0 := by
  have h1 := s.homeDie_lt x n
  have h2 := fld_lt (Tbl.get 0#64 (s.ctx x).dsrwin n) 32 10
  have h3 := fld_lt (Tbl.get 0#64 (s.ctx x).dsrwin n) 16 9
  have hs : s.winSize x n ≤ fld (Tbl.get 0#64 (s.ctx x).dsrwin n) 32 10 * 65536 := by
    rw [State.winSize]
    split
    · exact Nat.zero_le _
    · exact Nat.le_refl _
  simp only [State.windowAt, dsrBase, glb0] at *
  omega

/-- The words of a window are full. -/
theorem State.fullAt_fillWindow {a : Nat} (h8 : a % 8 = 0) (h1 : s.windowAt x n ≤ a) (h2 : a < s.windowAt x n + s.winSize x n) : (s.fillWindow x n).fullAt a = true := by
  have hw : a / 8 * 8 = a := by omega
  rw [State.fullAt, if_pos (h2.trans (s.window_lt x n)), State.fillWindow, Tbl.get_filter_out fun b => by simp [hw, h1, h2]]
  rfl

end

theorem dsrWindows {s : State} {w : W} {n : Nat} (hn : n < 4) (hb : s.busy s.selCtx = false) (hl : fld w 16 9 + fld w 32 10 ≤ 512)
    (hwf : Tbl.wf 0#64 (s.ctx s.selCtx).dsrwin = true) :
    let x := s.selCtx; let base := fld w 16 9; let size := fld w 32 10; let t := s.writeDsrwin n w
    (∀ d, s.homeDie x n = some d → t.winSize x n = size * 65536 ∧ t.windowAt x n = dsrBase d + base * 65536 ∧ (t.readHigh (0x980 + n)).1 = nat (size * 2 ^ 32 + base * 65536)) ∧
    (s.homeDie x n = none → t.winSize x n = 0 ∧ (t.readHigh (0x980 + n)).1 = nat (base * 65536)) ∧
    (∀ m, m ≠ n → t.winSize x m = s.winSize x m ∧ t.windowAt x m = s.windowAt x m) ∧ t.mem = s.mem ∧ t.slots = s.slots ∧
    ∀ a, a % 8 = 0 → t.windowAt x n ≤ a → a < t.windowAt x n + t.winSize x n → t.fullAt a = true := by
  intro x base size t
  obtain ⟨hsize, hbase⟩ := winWord_fields w
  have ht : t = (s.withWindow x n w).fillWindow x n := State.writeDsrwin_accepted hb hl
  have hctxs : t.ctxs = (s.withWindow x n w).ctxs := by rw [ht]; rfl
  have hsel : t.selCtx = x := by rw [ht]; rfl
  have hhome (m : Nat) : t.homeDie x m = s.homeDie x m :=
    State.homeDie_congr (fun v => (State.place_congr hctxs x v).trans (State.place_withWindow x v)) m
  have hwin (m : Nat) : Tbl.get 0#64 (t.ctx x).dsrwin m = if m = n then winWord w else Tbl.get 0#64 (s.ctx x).dsrwin m := by
    rw [State.ctx_congr hctxs]
    exact State.dsrwin_withWindow hwf m
  have hat : Tbl.get 0#64 (t.ctx x).dsrwin n = winWord w := (hwin n).trans (if_pos rfl)
  refine ⟨fun d hd => ⟨?_, ?_, ?_⟩, fun hd => ⟨?_, ?_⟩, fun m hm => ⟨?_, ?_⟩, by rw [ht]; rfl, by rw [ht]; rfl, fun a h8 h1 h2 => ?_⟩
  · rw [State.winSize, hhome, hd, hat, hsize]
    rfl
  · rw [State.windowAt, hhome, hd, hat, hbase]
    rfl
  · rw [State.read_dsrwin hn hsel, hhome, hd, hat]
    rfl
  · rw [State.winSize, hhome, hd]
    rfl
  · rw [State.read_dsrwin hn hsel, hhome, hd, hat]
    simp [keep, hbase, base]
  · rw [State.winSize, State.winSize, hhome, hwin, if_neg hm]
  · rw [State.windowAt, State.windowAt, hhome, hwin, if_neg hm]
  · rw [State.windowAt_congr hctxs] at h1 h2
    rw [State.winSize_congr hctxs] at h2
    rw [ht]
    exact State.fullAt_fillWindow h8 h1 h2

theorem firmwarePlacement : Rules.FirmwarePlacement := by
  intro s w n x p base size other
  exact ⟨fun hb => ⟨State.writePmap_refused (.inl hb), State.writeDsrwin_refused (.inl hb)⟩, fun hv ho => State.writePmap_refused (.inr ⟨hv, ho⟩),
    fun hl => State.writeDsrwin_refused (.inr hl), fun hn hb h hwf => placementMap hn hb h hwf, fun hn hb hl hwf => dsrWindows hn hb hl hwf⟩

end Machine
end Sys2Proof
end

section
/-! Settles O59, fourth part. The entries of experts as the commands of firmware leave them (Tables 12-9 and 12-13, R307, R309). -/

namespace Sys2Proof.Machine

/-! A word of residency's -/

/-- A number from its bytes. -/
theorem leNat_ofNat (v n : Nat) : leNat ((List.range n).map fun i => BitVec.ofNat 8 (v / 256 ^ i)) = v % 256 ^ n := by
  induction n generalizing v with
  | zero => simp [leNat, Nat.mod_one]
  | succ n ih =>
    rw [List.range_succ_eq_map, List.map_cons, List.map_map, leNat]
    have hf : ((fun i => BitVec.ofNat 8 (v / 256 ^ i)) ∘ Nat.succ) = fun i => BitVec.ofNat 8 (v / 256 / 256 ^ i) := by
      funext i
      rw [Function.comp, Nat.pow_succ', Nat.div_div_eq_div_mul]
    have hm : v % 256 ^ (n + 1) = v % 256 + 256 * (v / 256 % 256 ^ n) := by rw [Nat.pow_succ', Nat.mod_mul]
    rw [hf, ih, pow_zero, Nat.div_one, BitVec.toNat_ofNat, hm]

/-- What a write of residency's word at a leaves: memory, what may be marked, and woken slots. -/
structure ExWrites (s t : State) : Prop where
  rest : t = { s with mem := t.mem, poison := t.poison, lines := t.lines, slots := t.slots, replay := t.replay, bbWait := t.bbWait, exCnt := t.exCnt }
  wf : s.memWf = true → t.memWf = true
  cnt : Tbl.wf (0, 0) s.exCnt = true → Tbl.wf (0, 0) t.exCnt = true

theorem ExWrites.trans {s t u : State} (h : ExWrites s t) (g : ExWrites t u) : ExWrites s u :=
  ⟨by rw [g.rest, h.rest], fun hw => g.wf (h.wf hw), fun hc => g.cnt (h.cnt hc)⟩

theorem State.healPoison_eq (s : State) (a n : Nat) : s.healPoison a n = { s with poison := (s.healPoison a n).poison, lines := (s.healPoison a n).lines } :=
  foldl_keeps (P := fun t : State => t = { s with poison := t.poison, lines := t.lines }) (fun t w h => by
    split
    · unfold State.setPoison
      split
      · rw [h]
      · split
        · rw [h]
        · exact h
    · exact h) _ _ rfl

section
variable {s : State} {a : Nat} {w : W}

/-- The state that the word's bytes leave before anything is woken. -/
def State.exBytes (s : State) (a : Nat) (w : W) : State := (s.healPoison a 8).putBytes a (leBytes w.toNat 8)

theorem State.wakes_exWord (ha : a < 2 ^ 62) : Wakes (s.exBytes a w) (s.exWord a w) := by
  have h := State.write_local (s := s) (a := a) none false (leBytes w.toNat 8) (decide_eq_false (by omega))
  rwa [length_leBytes] at h

theorem State.exBytes_eq (ha : a < 2 ^ 62) : s.exBytes a w = { s with mem := (s.exBytes a w).mem, poison := (s.exBytes a w).poison, lines := (s.exBytes a w).lines } := by
  have hg : 2 ^ 62 + 8 ≤ glb0 := by decide
  rw [State.exBytes, State.putBytes_local _ (by rw [length_leBytes]; omega), State.healPoison_eq]

theorem exWrites_exWord (ha : a < 2 ^ 62) : ExWrites s (s.exWord a w) := by
  have hw := State.wakes_exWord (s := s) (w := w) ha
  have he : (s.exWord a w).exCnt = s.exCnt := by
    rw [hw.rest, State.exBytes_eq ha]
  refine ⟨?_, fun h => ?_, fun h => by rw [he]; exact h⟩
  · rw [hw.rest, State.exBytes_eq ha]
  · rw [hw.rest]
    exact State.memWf_putBytes (State.memWf_healPoison h a 8) a _

/-- The word at a reads as written, every other byte as before. -/
theorem State.byteAt_exWord (h : s.memWf = true) (ha : a < 2 ^ 62) {j : Nat} (hj : j < glb0) :
    (s.exWord a w).byteAt j = if a ≤ j ∧ j < a + 8 then BitVec.ofNat 8 (w.toNat / 256 ^ (j - a)) else s.byteAt j := by
  have hg : 2 ^ 62 + 8 ≤ glb0 := by decide
  have h0 : (s.exWord a w).byteAt j = (s.exBytes a w).byteAt j := by
    rw [(State.wakes_exWord ha).rest]
    rfl
  have h1 : (s.healPoison a 8).byteAt j = s.byteAt j := by
    rw [State.healPoison_eq, State.byteAt, State.byteAt, if_pos hj, if_pos hj]
  rw [h0, State.exBytes, State.byteAt_putBytes (State.memWf_healPoison h a 8) _ _ (by rw [length_leBytes]; omega), h1]
  by_cases hl : a ≤ j
  · rw [if_pos hl]
    by_cases hu : j < a + 8
    · rw [if_pos ⟨hl, hu⟩, getElem?_leBytes _ _ _ (by omega)]
      rfl
    · rw [if_neg (by omega), List.getElem?_eq_none (by rw [length_leBytes]; omega)]
      rfl
  · rw [if_neg hl, if_neg (by omega)]

theorem State.num_exWord_same (h : s.memWf = true) (ha : a < 2 ^ 62) : nat ((s.exWord a w).num a 8) = w := by
  have hg : 2 ^ 62 + 8 ≤ glb0 := by decide
  have hb : (s.exWord a w).bytes a 8 = (List.range 8).map fun i => BitVec.ofNat 8 (w.toNat / 256 ^ i) := by
    refine List.map_congr_left fun i hi => ?_
    have := List.mem_range.1 hi
    rw [State.byteAt_exWord h ha (by omega), if_pos (by omega), Nat.add_sub_cancel_left]
  have hw := w.isLt
  rw [State.num, hb, leNat_ofNat, Nat.mod_eq_of_lt (by omega), nat_toNat]

theorem State.num_exWord_ne (h : s.memWf = true) (ha : a < 2 ^ 62) {b : Nat} (hb : b < 2 ^ 62) (hd : b + 8 ≤ a ∨ a + 8 ≤ b) : (s.exWord a w).num b 8 = s.num b 8 := by
  have hg : 2 ^ 62 + 8 ≤ glb0 := by decide
  have hbs : (s.exWord a w).bytes b 8 = s.bytes b 8 := by
    refine List.map_congr_left fun i hi => ?_
    have := List.mem_range.1 hi
    rw [State.byteAt_exWord h ha (by omega), if_neg (by omega)]
  rw [State.num, hbs, State.num]

end

/-! Entries -/

/-- An entry as residency reads it: its state, pins, TURN and REFS, and its third and fourth words. -/
structure Entry where
  st : Nat
  pins : Nat
  turn : Nat
  refs : Nat
  loc : W
  w3 : W

def State.entryAt (s : State) (a : Nat) : Entry := ⟨s.exSt a, s.exPins a, s.exTurn a, s.exRefs a, s.exLoc a, s.exW3 a⟩

/-- The fields of a status word. -/
theorem statusWord_fields {st pins : Nat} (turn refs : Nat) (hs : st < 8) (hp : pins < 65536) :
    fld (nat (st * 2 ^ 61 + pins % 65536 * 2 ^ 32 + Nat.min turn 65535 * 65536 + Nat.min refs 65535)) 61 3 = st ∧
      fld (nat (st * 2 ^ 61 + pins % 65536 * 2 ^ 32 + Nat.min turn 65535 * 65536 + Nat.min refs 65535)) 32 16 = pins := by
  have ht : Nat.min turn 65535 ≤ 65535 := Nat.min_le_right ..
  have hr : Nat.min refs 65535 ≤ 65535 := Nat.min_le_right ..
  generalize Nat.min turn 65535 = t at *
  generalize Nat.min refs 65535 = r at *
  have hn : (nat (st * 2 ^ 61 + pins % 65536 * 2 ^ 32 + t * 65536 + r)).toNat = st * 2 ^ 61 + pins * 2 ^ 32 + t * 65536 + r := by
    rw [nat, BitVec.toNat_ofNat]
    omega
  constructor
  · rw [fld, bitsOf, hn]
    omega
  · rw [fld, bitsOf, hn]
    omega

section
variable {s : State} {a : Nat}

/-- A write of the status word. -/
theorem State.exPut_entry (h : s.memWf = true) (hc : Tbl.wf (0, 0) s.exCnt = true) (ha : a < 2 ^ 40) {st pins : Nat} (turn refs : Nat) (hs : st < 8) (hp : pins < 65536) :
    ExWrites s (s.exPut a st pins turn refs) ∧
      (s.exPut a st pins turn refs).entryAt a = { s.entryAt a with st := st, pins := pins, turn := turn, refs := refs } := by
  have ha' : a < 2 ^ 62 := by omega
  obtain ⟨h61, h32⟩ := statusWord_fields turn refs hs hp
  rw [State.exPut]
  generalize hu : ({ s with exCnt := Tbl.set (0, 0) s.exCnt a (turn, refs) } : State) = u
  generalize hw : nat (st * 2 ^ 61 + pins % 65536 * 2 ^ 32 + Nat.min turn 65535 * 65536 + Nat.min refs 65535) = w at h61 h32 ⊢
  have hsu : ExWrites s u := by
    subst hu
    exact ⟨rfl, id, fun h => Tbl.wf_set _ _ h⟩
  have huw := exWrites_exWord (s := u) (w := w) ha'
  have hwf : u.memWf = true := hsu.wf h
  have hnum (b : Nat) : u.num b 8 = s.num b 8 := by rw [← hu]; rfl
  have hcnt : Tbl.get (0, 0) (u.exWord a w).exCnt a = (turn, refs) := by
    have he : (u.exWord a w).exCnt = u.exCnt := by rw [(State.wakes_exWord ha').rest, State.exBytes_eq ha']
    rw [he, ← hu]
    exact (Tbl.get_set hc _ _ _).trans (if_pos rfl)
  refine ⟨hsu.trans huw, ?_⟩
  simp only [State.entryAt, State.exSt, State.exPins, State.exStatus, State.exTurn, State.exRefs, State.exLoc, State.exW3, State.num_exWord_same hwf ha', hcnt, h61, h32,
    State.num_exWord_ne hwf ha' (show a + 16 < 2 ^ 62 by omega) (by omega), State.num_exWord_ne hwf ha' (show a + 24 < 2 ^ 62 by omega) (by omega), hnum]

theorem State.exPins_lt (s : State) (a : Nat) : s.exPins a < 65536 := fld_lt _ 32 16

theorem State.exSt_lt (s : State) (a : Nat) : s.exSt a < 8 := fld_lt _ 61 3

theorem State.exSetSt_entry (h : s.memWf = true) (hc : Tbl.wf (0, 0) s.exCnt = true) (ha : a < 2 ^ 40) {st : Nat} (hs : st < 8) :
    ExWrites s (s.exSetSt a st) ∧ (s.exSetSt a st).entryAt a = { s.entryAt a with st := st } :=
  State.exPut_entry h hc ha _ _ hs (s.exPins_lt a)

/-- A write of the third word. -/
theorem State.exWord_loc (h : s.memWf = true) (ha : a < 2 ^ 40) (w : W) :
    ExWrites s (s.exWord (a + 16) w) ∧ (s.exWord (a + 16) w).entryAt a = { s.entryAt a with loc := w } := by
  have ha' : a + 16 < 2 ^ 62 := by omega
  have he : (s.exWord (a + 16) w).exCnt = s.exCnt := by rw [(State.wakes_exWord ha').rest, State.exBytes_eq ha']
  refine ⟨exWrites_exWord ha', ?_⟩
  simp only [State.entryAt, State.exSt, State.exPins, State.exStatus, State.exTurn, State.exRefs, State.exLoc, State.exW3, State.num_exWord_same h ha', he,
    State.num_exWord_ne h ha' (show a < 2 ^ 62 by omega) (by omega), State.num_exWord_ne h ha' (show a + 24 < 2 ^ 62 by omega) (by omega)]

/-- A write of the fourth word. -/
theorem State.exWord_w3 (h : s.memWf = true) (ha : a < 2 ^ 40) (w : W) :
    ExWrites s (s.exWord (a + 24) w) ∧ (s.exWord (a + 24) w).entryAt a = { s.entryAt a with w3 := w } := by
  have ha' : a + 24 < 2 ^ 62 := by omega
  have he : (s.exWord (a + 24) w).exCnt = s.exCnt := by rw [(State.wakes_exWord ha').rest, State.exBytes_eq ha']
  refine ⟨exWrites_exWord ha', ?_⟩
  simp only [State.entryAt, State.exSt, State.exPins, State.exStatus, State.exTurn, State.exRefs, State.exLoc, State.exW3, State.num_exWord_same h ha', he,
    State.num_exWord_ne h ha' (show a < 2 ^ 62 by omega) (by omega), State.num_exWord_ne h ha' (show a + 16 < 2 ^ 62 by omega) (by omega)]

end

/-! Requests, releases and waits -/

section
variable {s : State} {e : Expert}

theorem State.exreq_exRequest (s : State) (e : Expert) (b : Bool) (key : Nat) :
    ((s.exRequest e b key).die (e.sl / 32)).exreq = (s.die (e.sl / 32)).exreq ++ [exreqWord b key] := by
  rw [State.exRequest, State.die_modDie, if_pos rfl]

theorem State.entryAt_exRequest (b : Bool) (key a : Nat) : (s.exRequest e b key).entryAt a = s.entryAt a := rfl

theorem State.exRelease_eq (s : State) (e : Expert) (k : W) (f : Bool) : s.exRelease e k f = { s with ctxs := (s.exRelease e k f).ctxs, net := (s.exRelease e k f).net } :=
  foldl_keeps (P := fun t : State => t = { s with ctxs := t.ctxs, net := t.net }) (fun t d h => by rw [State.send_eq, h]) _ _ rfl

/-- A release goes to every die. -/
theorem State.mem_net_exRelease (s : State) (e : Expert) (k : W) (f : Bool) {d : Nat} (hd : d < 4) :
    ⟨portSlice e.sl, portSlice (32 * d), .tsRelease d k f, ownerOf e.rcd, none⟩ ∈ (s.exRelease e k f).net := by
  refine foldl_brings (P := fun t : State => ⟨portSlice e.sl, portSlice (32 * d), .tsRelease d k f, ownerOf e.rcd, none⟩ ∈ t.net) (a := d)
    (fun t j h => ?_) (fun t => ?_) (List.mem_range.2 hd) s
  · rw [State.send_eq]
    exact List.mem_append_left _ h
  · rw [State.send_eq]
    exact List.mem_append_right _ (List.mem_singleton.2 rfl)

theorem State.entryAt_exRelease (k : W) (f : Bool) (a : Nat) : (s.exRelease e k f).entryAt a = s.entryAt a := by
  rw [State.exRelease_eq]
  rfl

/-- With nothing waiting, a wake does nothing. -/
theorem State.exWake_idle (h : s.exWait = []) (k : W) (f : Bool) : s.exWake e k f = s := by
  simp only [State.exWake, h, List.filter_nil, List.foldl_nil]
  rw [← h]

/-- REFS changes where no eviction waits for it. -/
theorem State.exSetRefs_entry (h : s.memWf = true) (hc : Tbl.wf (0, 0) s.exCnt = true) (ha : e.at_ < 2 ^ 40) (hst : s.exSt e.at_ ≠ 4) (key : Nat) (f : Nat → Nat) :
    ExWrites s (s.exSetRefs e key f) ∧ (s.exSetRefs e key f).entryAt e.at_ = { s.entryAt e.at_ with refs := f (s.exRefs e.at_) } := by
  have h0 : s.exSetRefs e key f = s.exPut e.at_ (s.exSt e.at_) (s.exPins e.at_) (s.exTurn e.at_) (f (s.exRefs e.at_)) := if_neg fun hn => hst hn.2.2
  rw [h0]
  exact State.exPut_entry h hc ha _ _ (s.exSt_lt _) (s.exPins_lt _)

end

theorem ExWrites.dies {s t : State} (h : ExWrites s t) : t.dies = s.dies := (congrArg State.dies h.rest :)
theorem ExWrites.exWait {s t : State} (h : ExWrites s t) : t.exWait = s.exWait := (congrArg State.exWait h.rest :)
theorem ExWrites.exreq {s t : State} (h : ExWrites s t) (d : Nat) : (t.die d).exreq = (s.die d).exreq := by rw [State.die, State.die, h.dies]

/-! The commands -/

section
variable {s : State} {e : Expert} {key : Nat}

theorem State.expert_at (h : s.expertOf key = some e) : e.at_ < 2 ^ 40 := by
  simp only [State.expertOf, Option.bind_eq_some_iff, Option.map_eq_some_iff] at h
  obtain ⟨r, _, pa, _, pa', _, rfl⟩ := h
  exact Nat.mod_lt _ (by decide)

theorem State.exDone_none (h : s.expertOf key = none) (act : Nat) : s.exDone act key = s.raiseOpen 329 := by
  unfold State.exDone
  split <;> simp [State.exCommand, h]

theorem State.exDone_other {act : Nat} (h : 3 ≤ act) : s.exDone act key = s.raiseOpen 329 := by
  obtain ⟨n, rfl⟩ := Nat.exists_eq_add_of_le' h
  rfl

theorem State.exDone_notFetching (h : s.expertOf key = some e) (hs : s.exSt e.at_ ≠ 1) : s.exDone 0 key = s.raiseOpen 329 ∧ s.exDone 1 key = s.raiseOpen 329 := by
  simp [State.exDone, State.exCommand, h, hs]

theorem State.exDone_notEvicting (h : s.expertOf key = some e) (hs : s.exSt e.at_ ≠ 4) : s.exDone 2 key = s.raiseOpen 329 := by
  simp [State.exDone, State.exCommand, h, hs]

theorem State.exEvict_refused {w : W} (hk : fld w 0 36 = key) (h : s.expertOf key = some e) (hs : s.exSt e.at_ ≠ 2 ∨ s.exPins e.at_ ≠ 0) : s.exEvict w = s.raiseOpen 329 := by
  subst hk
  rcases hs with hs | hs <;> simp [State.exEvict, State.exCommand, h, hs]

/-- The page-in is done: RESIDENT or PINNED at its place, with the references that its turn stands for. -/
theorem State.exDone_done (h : s.expertOf key = some e) (hwf : s.memWf = true) (hc : Tbl.wf (0, 0) s.exCnt = true) (hw : s.exWait = []) (hs : s.exSt e.at_ = 1) :
    (s.exDone 0 key).entryAt e.at_ = { s.entryAt e.at_ with
      st := if s.exPins e.at_ = 0 then 2 else 3, loc := (s.die (dieOf s.cur)).exloc, refs := s.exRefs e.at_ + s.exTurn e.at_ } ∧
    ∀ d < 4, ⟨portSlice e.sl, portSlice (32 * d), .tsRelease d (nat key) false, ownerOf e.rcd, none⟩ ∈ (s.exDone 0 key).net := by
  have ha := State.expert_at h
  obtain ⟨h1, e1⟩ := State.exWord_loc hwf ha (s.die (dieOf s.cur)).exloc
  generalize hu1 : s.exWord (e.at_ + 16) (s.die (dieOf s.cur)).exloc = u1 at h1 e1
  have hp : u1.exPins e.at_ = s.exPins e.at_ := congrArg Entry.pins e1
  obtain ⟨h2, e2⟩ := State.exSetSt_entry (h1.wf hwf) (h1.cnt hc) ha (st := if u1.exPins e.at_ > 0 then 3 else 2) (by split <;> decide)
  generalize hu2 : u1.exSetSt e.at_ (if u1.exPins e.at_ > 0 then 3 else 2) = u2 at h2 e2
  have hst : u2.exSt e.at_ = if u1.exPins e.at_ > 0 then 3 else 2 := congrArg Entry.st e2
  obtain ⟨h3, e3⟩ := State.exSetRefs_entry (h2.wf (h1.wf hwf)) (h2.cnt (h1.cnt hc)) ha (by rw [hst]; split <;> decide) key (· + u2.exTurn e.at_)
  generalize hu3 : u2.exSetRefs e key (· + u2.exTurn e.at_) = u3 at h3 e3
  have hidle : (u3.exRelease e (nat key) false).exWait = [] := by
    rw [State.exRelease_eq]
    exact ((h1.trans h2).trans h3).exWait.trans hw
  have ht : s.exDone 0 key = u3.exRelease e (nat key) false := by
    simp only [State.exDone, State.exCommand, h, hs, beq_self_eq_true, if_true]
    rw [hu1, hu2, hu3, State.exWake_idle hidle]
  have hturn : u2.exTurn e.at_ = s.exTurn e.at_ := (congrArg Entry.turn e2).trans (congrArg Entry.turn e1)
  have hrefs : u2.exRefs e.at_ = s.exRefs e.at_ := (congrArg Entry.refs e2).trans (congrArg Entry.refs e1)
  rw [ht]
  refine ⟨?_, fun d hd => State.mem_net_exRelease _ _ _ _ hd⟩
  rw [State.entryAt_exRelease, e3, e2, e1, hturn, hrefs, hp]
  by_cases h0 : s.exPins e.at_ = 0
  · simp [h0]
  · simp [h0, Nat.pos_of_ne_zero h0]

/-- The page-in failed. -/
theorem State.exDone_failed (h : s.expertOf key = some e) (hwf : s.memWf = true) (hc : Tbl.wf (0, 0) s.exCnt = true) (hw : s.exWait = []) (hs : s.exSt e.at_ = 1) :
    (s.exDone 1 key).exSt e.at_ = 0 ∧ ∀ d < 4, ⟨portSlice e.sl, portSlice (32 * d), .tsRelease d (nat key) true, ownerOf e.rcd, none⟩ ∈ (s.exDone 1 key).net := by
  obtain ⟨h1, e1⟩ := State.exSetSt_entry hwf hc (State.expert_at h) (st := 0) (by decide)
  generalize hu1 : s.exSetSt e.at_ 0 = u1 at h1 e1
  have hidle : (u1.exRelease e (nat key) true).exWait = [] := by
    rw [State.exRelease_eq]
    exact h1.exWait.trans hw
  have ht : s.exDone 1 key = (u1.exRelease e (nat key) true).free.2.unitRecord (e.sl / 32) 5 323 (nat key) (fld (u1.exRelease e (nat key) true).free.1 0 9) 0 (e.sl * 128) 0 (ownerOf e.rcd) := by
    simp only [State.exDone, State.exCommand, h, hs, beq_self_eq_true, if_true]
    rw [hu1, State.exWake_idle hidle]
  rw [ht]
  refine ⟨?_, fun d hd => State.mem_net_exRelease u1 e (nat key) true hd⟩
  have hst : (u1.exRelease e (nat key) true).exSt e.at_ = 0 := (congrArg Entry.st (State.entryAt_exRelease (nat key) true e.at_) :).trans (congrArg Entry.st e1)
  exact hst

/-- A page-in of an ABSENT expert. -/
theorem State.exPageIn_absent (hwf : s.memWf = true) (hc : Tbl.wf (0, 0) s.exCnt = true) (ha : e.at_ < 2 ^ 40) (hs : s.exSt e.at_ = 0) :
    (s.exPageIn e key).exSt e.at_ = 1 ∧ ((s.exPageIn e key).die (e.sl / 32)).exreq = (s.die (e.sl / 32)).exreq ++ [exreqWord false key] := by
  obtain ⟨h1, e1⟩ := State.exSetSt_entry hwf hc ha (st := 1) (by decide)
  have ht : s.exPageIn e key = (s.exSetSt e.at_ 1).exRequest e false key := by simp only [State.exPageIn, hs]
  rw [ht, State.exreq_exRequest, h1.exreq]
  exact ⟨congrArg Entry.st e1, rfl⟩

/-- The eviction is done: ABSENT, or FETCHING again where a page-in was asked for meanwhile. -/
theorem State.exDone_evicted (h : s.expertOf key = some e) (hwf : s.memWf = true) (hc : Tbl.wf (0, 0) s.exCnt = true) (hs : s.exSt e.at_ = 4) :
    ((s.exW3 e.at_).getLsbD 60 = false → (s.exDone 2 key).exSt e.at_ = 0) ∧
    ((s.exW3 e.at_).getLsbD 60 = true → (s.exDone 2 key).exSt e.at_ = 1 ∧ ((s.exDone 2 key).die (e.sl / 32)).exreq = (s.die (e.sl / 32)).exreq ++ [exreqWord false key]) := by
  have ha := State.expert_at h
  obtain ⟨h1, e1⟩ := State.exWord_w3 hwf ha (setFld (s.exW3 e.at_) 60 1 0)
  generalize hu1 : s.exWord (e.at_ + 24) (setFld (s.exW3 e.at_) 60 1 0) = u1 at h1 e1
  obtain ⟨h2, e2⟩ := State.exSetSt_entry (h1.wf hwf) (h1.cnt hc) ha (st := 0) (by decide)
  generalize hu2 : u1.exSetSt e.at_ 0 = u2 at h2 e2
  have ht : s.exDone 2 key = if (s.exW3 e.at_).getLsbD 60 then u2.exPageIn e key else u2 := by
    simp only [State.exDone, State.exCommand, h, hs, beq_self_eq_true, if_true]
    rw [hu1, hu2]
  have hst : u2.exSt e.at_ = 0 := congrArg Entry.st e2
  refine ⟨fun hf => ?_, fun hf => ?_⟩
  · rw [ht, if_neg (by rw [hf]; decide)]
    exact hst
  · rw [ht, if_pos hf, ← (h1.trans h2).exreq]
    exact State.exPageIn_absent (h2.wf (h1.wf hwf)) (h2.cnt (h1.cnt hc)) ha hst

/-- An eviction begins; its request goes out once no reference is left. -/
theorem State.exEvict_begins {w : W} (hk : fld w 0 36 = key) (h : s.expertOf key = some e) (hwf : s.memWf = true) (hc : Tbl.wf (0, 0) s.exCnt = true)
    (hs : s.exSt e.at_ = 2) (hp : s.exPins e.at_ = 0) : (s.exEvict w).exSt e.at_ = 4 ∧
      (s.exRefs e.at_ = 0 → ((s.exEvict w).die (e.sl / 32)).exreq = (s.die (e.sl / 32)).exreq ++ [exreqWord true key]) ∧
      (s.exRefs e.at_ ≠ 0 → ((s.exEvict w).die (e.sl / 32)).exreq = (s.die (e.sl / 32)).exreq) := by
  subst hk
  obtain ⟨h1, e1⟩ := State.exSetSt_entry hwf hc (State.expert_at h) (st := 4) (by decide)
  generalize hu1 : s.exSetSt e.at_ 4 = u1 at h1 e1
  have ht : s.exEvict w = if u1.exRefs e.at_ = 0 then u1.exRequest e true (fld w 0 36) else u1 := by
    simp only [State.exEvict, State.exCommand, h, hs, hp, beq_self_eq_true, Bool.and_self, if_true]
    rw [hu1]
  have hst : u1.exSt e.at_ = 4 := congrArg Entry.st e1
  have hrefs : u1.exRefs e.at_ = s.exRefs e.at_ := congrArg Entry.refs e1
  rw [ht, hrefs, ← h1.exreq]
  refine ⟨?_, fun h0 => ?_, fun h0 => ?_⟩
  · split
    · exact hst
    · exact hst
  · rw [if_pos h0, State.exreq_exRequest]
  · rw [if_neg h0]

end

end Sys2Proof.Machine
end

section
/-! Settles O59, last part. HQMAP and CKCTL as they read back, and the obligation (R342, R346). -/

namespace Sys2Proof.Machine

/-! What the ends of a queue that hosts hold leave -/

/-- A function that an entry's place in the table does not change finds what it found before. -/
theorem findSome?_put {α β : Type} {d v : α} {t : Tbl α} {k : Nat} {g : Nat × α → Option β} (hd : g (k, d) = none) (hv : g (k, v) = g (k, Tbl.get d t k)) :
    (Tbl.put t k v).findSome? g = t.findSome? g := by
  induction t with
  | nil => simp [Tbl.put, hv, Tbl.get, hd]
  | cons p r ih =>
    obtain ⟨i, w⟩ := p
    unfold Tbl.put
    unfold Tbl.get at hv
    split
    · next he =>
      subst he
      rw [if_pos rfl] at hv
      rw [List.findSome?_cons, List.findSome?_cons, hv]
    · next he =>
      rw [if_neg he] at hv
      split
      · next hlt =>
        rw [if_pos hlt] at hv
        rw [List.findSome?_cons, hv, hd]
      · next hlt =>
        rw [if_neg hlt] at hv
        rw [List.findSome?_cons, List.findSome?_cons, ih hv]

section
variable {s t : State}

/-- A context that keeps its map owns what it owned. -/
theorem State.owner_modCtx {x : Nat} {f : Ctx → Ctx} (h : (f (s.ctx x)).pmap = (s.ctx x).pmap) (p : Nat) : (s.modCtx x f).owner p = s.owner p :=
  findSome?_put (d := ({} : Ctx)) rfl (by
    simp only [State.ctx] at h ⊢
    rw [h])

theorem State.place_modCtx {x : Nat} {f : Ctx → Ctx} (h : (f (s.ctx x)).pmap = (s.ctx x).pmap) (y v : Nat) : (s.modCtx x f).place y v = s.place y v := by
  rw [State.place, State.ctx_modCtx]
  split
  · next hy => rw [h, hy]; rfl
  · rfl

theorem State.queue_modQueue_ne {q j : Nat} {f : Queue → Queue} (h : j ≠ q) : (s.modQueue q f).queue j = s.queue j := by
  rw [State.queue, State.modQueue, State.clu_modClu]
  split
  · next hc =>
    rw [Tbl.get_put, if_neg (by omega), ← hc]
    rfl
  · rfl

/-- What names queues is as before: the handles, and the queues but for the ends that hosts hold. -/
structure SameQueues (s t : State) : Prop where
  cur : t.cur = s.cur
  dies : t.dies = s.dies
  links : t.links = s.links
  place : ∀ x v, t.place x v = s.place x v
  owner : ∀ p, t.owner p = s.owner p
  queue : ∀ q, ∃ n, t.queue q = { s.queue q with hostEnds := n }

theorem SameQueues.findQueue (h : SameQueues s t) (x : Nat) (w : W) : t.findQueue x w = s.findQueue x w := by
  have hh (q : Nat) : (t.queue q).alloc = (s.queue q).alloc ∧ t.handle q = s.handle q := by
    obtain ⟨n, hn⟩ := h.queue q
    rw [State.handle, State.handle, hn, h.owner]
    exact ⟨rfl, rfl⟩
  simp only [State.findQueue, State.homeCore, State.coreAt, h.place]
  cases (s.place x ((fld w 9 7 * 8 + fld w 6 3) / 8)).bind fun p => if isRing (p * 8 + (fld w 9 7 * 8 + fld w 6 3) % 8) then none else some (p * 8 + (fld w 9 7 * 8 + fld w 6 3) % 8) with
  | none => rfl
  | some c =>
    dsimp only
    rw [(hh _).1, (hh _).2]

theorem SameQueues.scope (h : SameQueues s t) (q : Nat) : (t.queue q).scope = (s.queue q).scope := by
  obtain ⟨n, hn⟩ := h.queue q
  rw [hn]

theorem SameQueues.refl (s : State) : SameQueues s s := ⟨rfl, rfl, rfl, fun _ _ => rfl, fun _ => rfl, fun q => ⟨(s.queue q).hostEnds, rfl⟩⟩

theorem sameQueues_modQueue (s : State) (q : Nat) {f : Queue → Queue} (hf : ∀ r : Queue, ∃ n, f r = { r with hostEnds := n }) : SameQueues s (s.modQueue q f) where
  cur := rfl
  dies := rfl
  links := rfl
  place _ _ := rfl
  owner _ := rfl
  queue j := by
    by_cases h : j = q
    · rw [h, State.queue_modQueue]
      exact hf _
    · rw [State.queue_modQueue_ne h]
      exact ⟨_, rfl⟩

theorem sameQueues_modCtx (s : State) (x : Nat) {f : Ctx → Ctx} (h : (f (s.ctx x)).pmap = (s.ctx x).pmap) : SameQueues s (s.modCtx x f) where
  cur := rfl
  dies := rfl
  links := rfl
  place := State.place_modCtx h
  owner := State.owner_modCtx h
  queue _ := ⟨_, rfl⟩

/-- The ends of a queue that hosts hold, one more or one less. -/
def Queue.addEnd (q : Queue) (add : Bool) : Queue := { q with hostEnds := if add then q.hostEnds + 1 else q.hostEnds - 1 }

theorem State.hostEnd_some {x q : Nat} {h : W} {add : Bool} (hq : s.findQueue x h = some q) : s.hostEnd x h add = s.modQueue q fun r => r.addEnd add := by
  simp only [State.hostEnd, hq]
  rfl

theorem sameQueues_hostEnd (s : State) (x : Nat) (h : W) (add : Bool) : SameQueues s (s.hostEnd x h add) := by
  cases hq : s.findQueue x h with
  | some q =>
    rw [State.hostEnd_some hq]
    exact sameQueues_modQueue s q fun r => ⟨_, rfl⟩
  | none =>
    simp only [State.hostEnd, hq]
    refine sameQueues_modCtx s x ?_
    split
    · split <;> rfl
    · rfl

end

/-! HQMAP -/

section
variable {s : State} {w : W}

/-- The state in which the selected window is unmapped, where it was mapped. -/
def State.unmapped (s : State) : State :=
  if (Tbl.get 0#64 s.links.hqmap s.selWin).getLsbD 63 then s.hostEnd (Tbl.get 0 s.links.hqctx s.selWin) (low (Tbl.get 0#64 s.links.hqmap s.selWin) 35) false else s

theorem sameQueues_unmapped (s : State) : SameQueues s s.unmapped := by
  unfold State.unmapped
  split
  · exact sameQueues_hostEnd _ _ _ _
  · exact .refl s

/-- The window's entry is set: a queue of a context, or a word that names none. -/
def State.setWindow (s : State) (i : Nat) (w : W) (x : Option Nat) : State :=
  s.modLinks fun l => { l with hqmap := l.hqmap.put i w, hqctx := match x with | some x => l.hqctx.put i x | none => l.hqctx.del i }

theorem State.vfCtx_congr {t : State} (h : t.links.vfctx = s.links.vfctx) (vf : Nat) : t.vfCtx vf = s.vfCtx vf := by simp only [State.vfCtx, h]

theorem State.findQueue_unmapped (x : Nat) (h : W) : s.unmapped.findQueue x h = s.findQueue x h := (sameQueues_unmapped s).findQueue x h

/-- The window is of a VF that is bound to a context, and the handle names a queue of host scope of that context. -/
def State.mappable (s : State) (w : W) : Bool :=
  w.getLsbD 63 && match s.vfCtx (s.selWin / 64) with
    | some x => match s.findQueue x (low w 35) with | some q => (s.queue q).scope == 4 | none => false
    | none => false

theorem State.mappable_of {x q : Nat} (h63 : w.getLsbD 63 = true) (hx : s.vfCtx (s.selWin / 64) = some x) (hq : s.findQueue x (low w 35) = some q) (h4 : (s.queue q).scope = 4) :
    s.mappable w = true := by
  simp only [State.mappable, h63, hx, hq, h4, beq_self_eq_true, Bool.and_self]

theorem State.not_mappable (h : w.getLsbD 63 = true → ∀ x q, s.vfCtx (s.selWin / 64) = some x → s.findQueue x (low w 35) = some q → (s.queue q).scope ≠ 4) : s.mappable w = false := by
  unfold State.mappable
  cases h63 : w.getLsbD 63 with
  | false => rfl
  | true =>
    rw [Bool.true_and]
    split
    · next x hx =>
      split
      · next q hq => exact beq_eq_false_iff_ne.2 (h h63 x q hx hq)
      · rfl
    · rfl

theorem State.mappable_unmapped : s.mappable w = (w.getLsbD 63 && match s.vfCtx (s.selWin / 64) with
    | some x => match s.unmapped.findQueue x (low w 35) with | some q => (s.unmapped.queue q).scope == 4 | none => false
    | none => false) := by
  simp only [State.mappable, State.findQueue_unmapped, (sameQueues_unmapped s).scope]

theorem State.writeHqmap_eq : s.writeHqmap w =
    if s.mappable w then (s.unmapped.setWindow s.selWin (nat (2 ^ 63) ||| low w 35) (some ((s.vfCtx (s.selWin / 64)).getD 0))).hostEnd ((s.vfCtx (s.selWin / 64)).getD 0) (low w 35) true
    else s.unmapped.setWindow s.selWin (if w.getLsbD 63 then 0#64 else low w 35) none := by
  unfold State.writeHqmap
  extract_lets i old x s1 h ok s2
  have hok : ok = s.mappable w := State.mappable_unmapped.symm
  have h1 : s1 = s.unmapped := rfl
  unfold s2
  rw [hok, h1]
  cases s.mappable w <;> rfl

theorem State.selWin_lt (s : State) : s.selWin < 4096 := by
  rw [State.selWin, winOf]
  omega

theorem State.read_hqmap (s : State) : (s.readHigh 0xE01).1 = Tbl.get 0#64 s.links.hqmap s.selWin := rfl

/-- The reading of HQMAP and the window that is selected, of a state with these links. -/
theorem State.selected_congr {t u : State} (h : u.links = t.links) : (u.readHigh 0xE01).1 = (t.readHigh 0xE01).1 ∧ ∀ i, u.mapped i = t.mapped i := by
  refine ⟨?_, fun i => ?_⟩
  · rw [State.read_hqmap, State.read_hqmap, State.selWin, State.selWin, h]
  · rw [State.mapped, State.mapped, State.vfCtx, State.vfCtx, h]

/-- A window as HQMAP selects it. -/
theorem State.window_selected {t : State} {i : Nat} (hi : i < 4096) : t.window (i / 64) (i % 64) = t.mapped i := by
  have h : winOf (i / 64) (i % 64) = i := by
    rw [winOf]
    omega
  rw [State.window, if_pos (by omega), h]

theorem State.read_setWindow {t : State} (h : t.links = s.links) (v : W) (y : Option Nat) : ((t.setWindow s.selWin v y).readHigh 0xE01).1 = v := by
  have hsel : (t.setWindow s.selWin v y).selWin = s.selWin := by
    show t.selWin = s.selWin
    rw [State.selWin, State.selWin, h]
  rw [State.read_hqmap, hsel]
  exact (Tbl.get_put ..).trans (if_pos rfl)

theorem State.mapped_setWindow_none {t : State} {v : W} (hv : v.getLsbD 63 = false) (i : Nat) (y : Option Nat) : (t.setWindow i v y).mapped i = none := by
  have hw : Tbl.get 0#64 (t.setWindow i v y).links.hqmap i = v := (Tbl.get_put ..).trans (if_pos rfl)
  simp only [State.mapped, hw, hv, Bool.false_and, Bool.false_eq_true, if_false]

theorem State.mapped_setWindow_some {t : State} {v : W} {i x : Nat} (hv : v.getLsbD 63 = true) (hx : t.vfCtx (i / 64) = some x) :
    (t.setWindow i v (some x)).mapped i = some (x, nat (fld v 0 35)) := by
  have hw : Tbl.get 0#64 (t.setWindow i v (some x)).links.hqmap i = v := (Tbl.get_put ..).trans (if_pos rfl)
  have hc : Tbl.get 0 (t.setWindow i v (some x)).links.hqctx i = x := (Tbl.get_put ..).trans (if_pos rfl)
  have hf : (t.setWindow i v (some x)).vfCtx (i / 64) = some x := hx
  simp only [State.mapped, hw, hc, hf, hv, beq_self_eq_true, Bool.and_self, if_true]

end

/-- A handle's word has no bit above bit 34. -/
theorem low_word (w : W) : (low w 35).getLsbD 63 = false ∧ (nat (2 ^ 63) ||| low w 35).getLsbD 63 = true ∧ nat (fld (nat (2 ^ 63) ||| low w 35) 0 35) = low w 35 := by
  have hl := fld_lt w 0 35
  have hn : (low w 35).toNat = fld w 0 35 := by
    rw [low, nat, BitVec.toNat_ofNat]
    omega
  have h0 : (low w 35).getLsbD 63 = false := by
    rw [BitVec.getLsbD, hn]
    exact Nat.testBit_lt_two_pow (by omega)
  refine ⟨h0, ?_, ?_⟩
  · rw [BitVec.getLsbD_or, h0, Bool.or_false]
    decide
  · have h63 : (nat (2 ^ 63) ||| low w 35).toNat = 2 ^ 63 + fld w 0 35 := by
      rw [BitVec.toNat_or, hn, show (nat (2 ^ 63)).toNat = 2 ^ 63 from rfl]
      exact (Nat.two_pow_add_eq_or_of_lt (show fld w 0 35 < 2 ^ 63 by omega) 1).symm
    rw [fld_zero, h63, show (2 ^ 63 + fld w 0 35) % 2 ^ 35 = fld w 0 35 by omega]
    rfl

theorem hqmapWritten (s : State) (w : W) :
    let i := s.selWin; let h := low w 35; let t := s.writeHqmap w
    (w.getLsbD 63 = false → (t.readHigh 0xE01).1 = h ∧ t.window (i / 64) (i % 64) = none) ∧
    (w.getLsbD 63 = true → (∀ x q, s.vfCtx (i / 64) = some x → s.findQueue x h = some q → (s.queue q).scope ≠ 4) → (t.readHigh 0xE01).1 = 0#64 ∧ t.window (i / 64) (i % 64) = none) ∧
    (w.getLsbD 63 = true → ∀ x q, s.vfCtx (i / 64) = some x → s.findQueue x h = some q → (s.queue q).scope = 4 →
      (t.readHigh 0xE01).1 = nat (2 ^ 63) ||| h ∧ t.window (i / 64) (i % 64) = some (x, h) ∧ ((Tbl.get 0#64 s.links.hqmap i).getLsbD 63 = false → (t.queue q).hostEnds = (s.queue q).hostEnds + 1)) := by
  intro i h t
  obtain ⟨hlow, hset, hback⟩ := low_word w
  have hs := sameQueues_unmapped s
  have ht : t = _ := State.writeHqmap_eq
  have hrefused (hm : s.mappable w = false) (v : W) (hv : v.getLsbD 63 = false) (he : (if w.getLsbD 63 then 0#64 else low w 35) = v) :
      (t.readHigh 0xE01).1 = v ∧ t.window (i / 64) (i % 64) = none := by
    rw [hm, if_neg Bool.false_ne_true, he] at ht
    rw [ht, State.window_selected s.selWin_lt]
    exact ⟨State.read_setWindow hs.links _ _, State.mapped_setWindow_none hv _ _⟩
  refine ⟨fun h63 => hrefused (State.not_mappable fun h => by rw [h63] at h; cases h) h hlow (if_neg (by rw [h63]; decide)),
    fun h63 hno => hrefused (State.not_mappable fun _ => hno) 0#64 rfl (if_pos h63), fun h63 x q hx hq h4 => ?_⟩
  rw [State.mappable_of h63 hx hq h4, if_pos rfl, hx, Option.getD_some] at ht
  have hux : s.unmapped.vfCtx (i / 64) = some x := (State.vfCtx_congr (by rw [hs.links]) _).trans hx
  obtain ⟨hread, hmap⟩ := State.selected_congr (sameQueues_hostEnd (s.unmapped.setWindow s.selWin (nat (2 ^ 63) ||| low w 35) (some x)) x (low w 35) true).links
  rw [ht, State.window_selected s.selWin_lt, hread, hmap]
  refine ⟨State.read_setWindow hs.links _ _, ?_, fun hold => ?_⟩
  · rw [State.mapped_setWindow_some hset hux, hback]
  · have hu : s.unmapped = s := if_neg (by rw [hold]; decide)
    have hq' : (s.setWindow s.selWin (nat (2 ^ 63) ||| low w 35) (some x)).findQueue x (low w 35) = some q := (State.findQueue_congr rfl rfl x _).trans hq
    rw [hu, State.hostEnd_some hq', State.queue_modQueue]
    rfl

/-! CKCTL -/

section
variable {s : State}

theorem State.read_ckctl (s : State) : (s.readHigh 0xE23).1 = nat (s.links.ckst * 2 ^ 62 + (if s.links.ckerr then 2 ^ 61 else 0) + s.links.ckbytes % 2 ^ 44) := rfl

theorem State.checkpoint_refused (h : s.links.ckst = 1 ∨ ∃ e ∈ s.ctxs, e.2.active = true ∧ e.2.frz ≠ 3) : s.checkpoint = s.modLinks fun l => { l with ckerr := true } :=
  if_pos (h.imp id fun h => List.any_eq_true.2 (by simpa using h))

theorem State.checkpoint_starts (h : s.links.ckst ≠ 1) (ha : ∀ e ∈ s.ctxs, e.2.active = true → e.2.frz = 3) :
    s.checkpoint = s.modLinks fun l => { l with ckst := 1, ckerr := false, ckres := false, ckbytes := 0 } := by
  refine if_neg ?_
  rintro (hc | hc)
  · exact h hc
  · obtain ⟨e, he, hx⟩ := List.any_eq_true.1 hc
    simp only [Bool.and_eq_true, decide_eq_true_eq] at hx
    exact hx.2 (ha e he hx.1)

theorem State.ckRestore_refused (h : s.links.ckst = 1 ∨ ∃ e ∈ s.ctxs, e.2.active = true) : s.ckRestore = s.modLinks fun l => { l with ckerr := true } :=
  if_pos (h.imp id fun h => List.any_eq_true.2 (by simpa using h))

theorem State.ckRestore_starts (h : s.links.ckst ≠ 1) (ha : ∀ e ∈ s.ctxs, e.2.active = false) :
    s.ckRestore = s.modLinks fun l => { l with ckst := 1, ckerr := false, ckres := true, ckbytes := 0 } := by
  refine if_neg ?_
  rintro (hc | hc)
  · exact h hc
  · obtain ⟨e, he, hx⟩ := List.any_eq_true.1 hc
    exact Bool.false_ne_true ((ha e he).symm.trans hx)

/-- ERR stands at bit 61 whatever the state is. -/
theorem State.read_ckerr : ((s.modLinks fun l => { l with ckerr := true }).readHigh 0xE23).1.getLsbD 61 = true := by
  have h : ∀ a b, (nat (a * 2 ^ 62 + 2 ^ 61 + b % 2 ^ 44)).getLsbD 61 = true := fun a b => by
    rw [nat, BitVec.getLsbD, BitVec.toNat_ofNat, Nat.testBit_eq_decide_div_mod_eq]
    simp only [decide_eq_true_eq]
    omega
  exact h _ _

end

theorem firmwareTables : Rules.FirmwareTables := by
  intro s w key
  refine ⟨fun e he hwf hc hw => ⟨fun hs => ?_, fun hs => State.exDone_failed he hwf hc hw hs, fun hs => State.exDone_evicted he hwf hc hs,
      fun hs hp hk => State.exEvict_begins hk he hwf hc hs hp, State.exDone_notFetching he, State.exDone_notEvicting he, fun hs hk => State.exEvict_refused hk he hs⟩,
    State.exDone_none, fun a ha => State.exDone_other ha, hqmapWritten s w, fun h => ⟨State.checkpoint_refused h, ?_⟩, fun h ha => ?_, State.ckRestore_refused, fun h ha => ?_⟩
  · obtain ⟨hent, hnet⟩ := State.exDone_done he hwf hc hw hs
    exact ⟨(congrArg Entry.st hent :), (congrArg Entry.loc hent :), (congrArg Entry.refs hent :), (congrArg Entry.turn hent :), hnet⟩
  · rw [State.checkpoint_refused h]
    exact State.read_ckerr
  · rw [State.checkpoint_starts h ha, State.read_ckctl]
    simp [State.modLinks]
  · rw [State.ckRestore_starts h ha, State.read_ckctl]
    simp [State.modLinks]

/-- Settles O59: the rows of firmware, what its registers do, the errors, the placement map and the windows, and the tables that commands leave. -/
theorem firmwareRegisters : Obligations.FirmwareRegisters := ⟨firmwareRows, firmwareTable, errorResults, firmwarePlacement, firmwareTables⟩

end Sys2Proof.Machine
end

section
/-! Settles O22. The scalar floating-point instructions (R67, R108 to R111): each one is `State.fpOp` on the encodings of its operands. -/

namespace Sys2Proof.Machine

/-- What an FP instruction completes with, for the operands that its fields deliver. -/
theorem givesF {i : Instr} {d : R6} {srcs : List R6} {p : BitVec 2} {hold : Nat} {r : Nat → Bool → List Nat → FRes}
    (hx : ∀ s, exec i s = .next (s.fpOp srcs d (precFmt p) hold r)) : GivesF i d srcs p hold r := fun s s1 vs ho => by
  rw [Ends, hx, State.fpOp, State.regOp, State.withOps_reach ho]
  rfl

/-- Settles O22: what each instruction computes is the function that `State.fpOp` is given; ICVTF takes its operand as an integer. -/
theorem fpResults : Obligations.FpResults := by
  intro d a b p t
  refine ⟨givesF fun _ => rfl, givesF fun _ => rfl, givesF fun _ => rfl, givesF fun _ => rfl, givesF fun _ => rfl, givesF fun _ => rfl, givesF fun _ => rfl, givesF fun _ => rfl,
    givesF fun _ => rfl, givesF fun _ => rfl, givesF fun _ => rfl, givesF fun _ => rfl, givesF fun _ => rfl, givesF fun _ => rfl, givesF fun _ => rfl, givesF fun _ => rfl,
    givesF fun _ => rfl, fun s s1 v ho => ?_⟩
  show execIcvtf d a p s = _
  rw [execIcvtf, State.regOp, State.withOps_reach ho]
  rfl

end Sys2Proof.Machine
end

section
/-! Settles O35. Floating-point lanes (R171, R172, R174, R175): the park, the trap or the lanes that `State.vfp` ends with. -/

namespace Sys2Proof.Machine

/-! Flags and subnormals by lane -/

theorem zipIdx_map_range {α : Type} (g : Nat → α) (n : Nat) : ((List.range n).map g).zipIdx = (List.range n).map fun i => (g i, i) :=
  List.ext_getElem (by simp) fun i _ _ => by simp

/-- The results of the enabled lanes. -/
def enabledResults (n : Nat) (p : Nat → Bool) (g : Nat → FRes) : List (Option FRes) := (List.range n).map fun i => if p i then some (g i) else none

/-- The lanes that are written: a result where there is one, else the old lane. -/
def resultLanes (old : Nat → Nat) (rs : List (Option FRes)) : List Nat := rs.zipIdx.map fun (r, i) => match r with | some r => r.bits | none => old i

section
variable (n : Nat) (p : Nat → Bool) (g : Nat → FRes)

theorem flagsOf_enabled : flagsOf (enabledResults n p g) = ((List.range n).filter p).map fun i => (i, (g i).flags) := by
  rw [flagsOf, enabledResults, zipIdx_map_range, List.filterMap_map, ← List.filterMap_eq_map, List.filterMap_filter]
  refine List.filterMap_congr fun i _ => ?_
  cases hp : p i <;> simp [hp]

theorem anySub_enabled : anySub (enabledResults n p g) = ((List.range n).filter p).any fun i => (g i).sub := by
  rw [anySub, enabledResults, List.any_map, List.any_filter]
  refine congrArg ((List.range n).any ·) (funext fun i => ?_)
  cases hp : p i <;> simp [hp]

theorem getD_resultLanes {old : Nat → Nat} {j : Nat} (hj : j < n) : (resultLanes old (enabledResults n p g)).getD j 0 = if p j then (g j).bits else old j := by
  rw [resultLanes, enabledResults, zipIdx_map_range, List.map_map, getD_map_range, if_pos hj]
  cases hp : p j <;> simp [hp]

end

/-! The lane that a trap reports -/

theorem foldl_min_eq (l : List Nat) (a : Nat) : l.foldl Nat.min a = a ∨ l.foldl Nat.min a ∈ l := by
  induction l generalizing a with
  | nil => exact .inl rfl
  | cons b l ih =>
    rw [List.foldl_cons]
    rcases ih (Nat.min a b) with h | h
    · rw [h]
      rcases Nat.le_total a b with hab | hab
      · exact .inl (Nat.min_eq_left hab)
      · exact .inr (by simp [Nat.min_eq_right hab])
    · exact .inr (List.mem_cons_of_mem _ h)

theorem foldl_min_le (l : List Nat) (a : Nat) : l.foldl Nat.min a ≤ a ∧ ∀ b ∈ l, l.foldl Nat.min a ≤ b := by
  induction l generalizing a with
  | nil => simp
  | cons b l ih =>
    obtain ⟨h0, h⟩ := ih (Nat.min a b)
    refine ⟨h0.trans (Nat.min_le_left ..), fun c hc => ?_⟩
    rcases List.mem_cons.1 hc with rfl | hc
    · exact h0.trans (Nat.min_le_right ..)
    · exact h c hc

theorem testBit_orAll (l : List Nat) (j : Nat) : (orAll l).testBit j = l.any (·.testBit j) := by
  suffices h : ∀ a, (l.foldl (· ||| ·) a).testBit j = (a.testBit j || l.any (·.testBit j)) by simp [orAll, h]
  induction l with
  | nil => simp
  | cons b l ih => intro a; simp [ih, Bool.or_assoc]

/-- The trap's cause names a flag that is raised. -/
theorem fpTrap_testBit {sl : Slot} {f c : Nat} (h : sl.fpTrap f = some c) : f.testBit (164 - c) = true := by
  have hb : ∀ j, (f &&& (sl.ftrap.toNat % 32)).testBit j = true → f.testBit j = true := fun j hj => by
    rw [Nat.testBit_and, Bool.and_eq_true] at hj
    exact hj.1
  have hlt : f &&& (sl.ftrap.toNat % 32) < 2 ^ 5 := Nat.and_lt_two_pow _ (Nat.mod_lt _ (by decide))
  simp only [Slot.fpTrap] at h
  split at h
  · cases h
  next hz =>
  simp only [Bool.or_eq_true, decide_eq_true_eq, not_or] at hz
  set x := f &&& (sl.ftrap.toNat % 32)
  by_cases h4 : x.testBit 4 = true
  · rw [if_pos h4] at h; cases h; exact hb 4 h4
  by_cases h3 : x.testBit 3 = true
  · rw [if_neg h4, if_pos h3] at h; cases h; exact hb 3 h3
  by_cases h2 : x.testBit 2 = true
  · rw [if_neg h4, if_neg h3, if_pos h2] at h; cases h; exact hb 2 h2
  by_cases h1 : x.testBit 1 = true
  · rw [if_neg h4, if_neg h3, if_neg h2, if_pos h1] at h; cases h; exact hb 1 h1
  rw [if_neg h4, if_neg h3, if_neg h2, if_neg h1] at h
  cases h
  refine hb 0 ?_
  by_contra h0
  refine hz.2 (Nat.eq_of_testBit_eq fun j => ?_)
  rw [Nat.zero_testBit]
  rcases Nat.lt_or_ge j 5 with hj | hj
  · rw [Bool.not_eq_true] at h0 h1 h2 h3 h4
    obtain rfl | rfl | rfl | rfl | rfl : j = 0 ∨ j = 1 ∨ j = 2 ∨ j = 3 ∨ j = 4 := by omega
    all_goals assumption
  · exact Nat.testBit_lt_two_pow (hlt.trans_le (Nat.pow_le_pow_right (by decide) hj))

/-- The reported lane is the lowest that raised the flag of the cause. -/
theorem trapLane_lowest {en : List Nat} {g : Nat → Nat} {c : Nat} (hlt : ∀ j ∈ en, j < 63) (h : (orAll (en.map g)).testBit (164 - c) = true) :
    let l := trapLane (en.map fun j => (j, g j)) c
    l ∈ en ∧ (g l).testBit (164 - c) = true ∧ ∀ j ∈ en, j < l → (g j).testBit (164 - c) = false := by
  intro l
  set m := en.filter fun j => (g j).testBit (164 - c) with hm
  have hl : l = m.foldl Nat.min 63 := by
    simp only [l, trapLane, List.filter_map, List.map_map, hm]
    congr 1
    exact List.map_id _
  rw [testBit_orAll, List.any_map, List.any_eq_true] at h
  obtain ⟨k, hk, hb⟩ := h
  have hkm : k ∈ m := List.mem_filter.2 ⟨hk, hb⟩
  have hle := (foldl_min_le m 63).2
  have hmem : l ∈ m := by
    rcases foldl_min_eq m 63 with h | h
    · have := hle k hkm
      have := hlt k hk
      omega
    · rwa [hl]
  obtain ⟨hen, hbit⟩ := List.mem_filter.1 hmem
  refine ⟨hen, hbit, fun j hj hjl => ?_⟩
  by_contra hne
  have := hle j (List.mem_filter.2 ⟨hj, by simpa using hne⟩)
  omega

/-! The end of an instruction with FP lanes -/

/-- The write of a vector register, with flags that are noted, ends an instruction. -/
theorem State.vset_flags_retires (s : State) (r f : Nat) (v : V512) :
    let u := if f = 0 then s else s.upd fun sl => sl.orFlags f
    let t := (u.vset u.cur r v).retire 4
    OnlyV s t r ∧ t.me.fflags = s.me.fflags ||| nat (f % 32) ∧ t.vget s.cur r = v := by
  intro u t
  obtain ⟨fl, hfl, hu⟩ : ∃ fl, fl = s.me.fflags ||| nat (f % 32) ∧ u.vset u.cur r v = s.upd fun sl => { sl with v := sl.v.put r v, fflags := fl } := by
    by_cases h0 : f = 0
    · refine ⟨s.me.fflags, by simp [h0, nat], ?_⟩
      rw [show u = s from if_pos h0]
      rfl
    · refine ⟨_, rfl, ?_⟩
      rw [show u = s.upd fun sl => sl.orFlags f from if_neg h0]
      exact State.upd_upd ..
  have hs : s.Elsewhere (s.upd fun sl => { sl with v := sl.v.put r v, fflags := fl }) := .upd s _
  have hme := State.me_upd s fun sl => { sl with v := sl.v.put r v, fflags := fl }
  obtain ⟨h, hr⟩ := State.retire_ends hs (by rw [hme])
  rw [hme] at hr
  have ht : t = (s.upd fun sl => { sl with v := sl.v.put r v, fflags := fl }).retire 4 := congrArg (·.retire 4) hu
  rw [ht]
  refine ⟨onlyV_of_retired h hr rfl rfl rfl fun r' hn => by rw [Tbl.get_put, if_neg hn], by rw [Elsewhere.me h, hr.fflags, hfl], ?_⟩
  rw [State.vget, hr.same.v, Tbl.get_put, if_pos rfl]

theorem tyF_lanes (t : BitVec 2) : 512 / (tyF t).bits ≤ 32 := by
  have : ∀ t : BitVec 2, 512 / (tyF t).bits ≤ 32 := by decide
  exact this t

/-- An FP lane instruction on a, b and the old destination. -/
theorem laneFpOp {i : Instr} {v a b : BitVec 5} {m : BitVec 3} {t : BitVec 2} {r : Fmt → Nat → Bool → Nat → Nat → Nat → FRes}
    (hx : ∀ s, exec i s = .next (s.vflanes v a b m (tyF t).bits (r (tyF t)))) : LaneFpOp i v a b m t r := by
  intro s en fl sub
  set w := (tyF t).bits with hw
  set g : Nat → FRes := fun j => r (tyF t) s.me.rm s.me.ftz (s.ln a w j) (s.ln b w j) (s.ln v w j) with hg
  set rs := enabledResults (512 / w) (s.on m) g with hrs
  set vec : V512 := vecOf w (resultLanes (ln (s.lanes v w)) rs) with hvec
  have hend : exec i s = .next (s.vfp (flagsOf rs) (anySub rs) fun s => s.vset s.cur v.toNat vec) := by
    have : (List.range (512 / w)).map (fun i => if s.on m i then
        some (r (tyF t) s.me.rm s.me.ftz (ln (s.lanes a w) i) (ln (s.lanes b w) i) (ln (s.lanes v w) i)) else none) = rs :=
      List.map_congr_left fun j hj => by
        have hj := List.mem_range.1 hj
        rw [ln_lanes a hj, ln_lanes b hj, ln_lanes v hj]
    rw [hx]
    exact congrArg (fun rs => Host.Outcome.next (s.vfp (flagsOf rs) (anySub rs) fun s' => s'.vset s'.cur v.toNat (vecOf w (resultLanes (ln (s.lanes v w)) rs)))) this
  have hflags : flagsOf rs = en.map fun j => (j, (g j).flags) := flagsOf_enabled _ _ _
  have hsub : anySub rs = sub := anySub_enabled _ _ _
  have hor : orAll ((flagsOf rs).map (·.2)) = fl := by rw [hflags, List.map_map]; rfl
  rw [hend, State.vfp, hor, hsub]
  refine ⟨fun h1 h2 h3 => ?_, fun hq => ?_⟩
  · simp [h1, h2, h3]
  have hpark : ¬ (sub && !s.me.ftz && s.me.latch.res.isNone) = true := by
    rcases hq with h | h | h
    · simp [h]
    · simp [h]
    · simp [Option.isNone_eq_false_iff.2 h]
  simp only [if_neg hpark]
  refine ⟨fun c hc => ?_, fun hn => ?_⟩
  · obtain ⟨h1, h2, h3⟩ := trapLane_lowest (en := en) (g := fun j => (g j).flags) (c := c)
      (fun j hj => (List.mem_range.1 (List.mem_filter.1 hj).1).trans_le ((tyF_lanes t).trans (by decide))) (fpTrap_testBit hc)
    refine ⟨_, h1, h2, h3, ?_⟩
    rw [hc, hflags]
  · rw [hn]
    obtain ⟨ho, hf, hv⟩ := s.vset_flags_retires v.toNat fl vec
    refine ⟨_, rfl, ho, hf, fun j hj => ?_⟩
    rw [hv, hvec, lane_vecOf _ (lane_within hj), hrs, getD_resultLanes _ _ _ hj]
    cases hon : s.on m j
    · exact (congrArg (· % 2 ^ w) (ln_lanes v hj)).trans (Nat.mod_eq_of_lt (lane_lt _ _ _))
    · rfl

/-- Settles O35: each lane instruction is `State.vflanes` with its operation; VFABS and VFNEG write every lane. -/
theorem vectorFp : Obligations.VectorFp := by
  intro v a b m t
  have every {f : Nat → Nat} {j : Nat} {s : State} (hj : j < 512 / (tyF t).bits) :
      ((s.lanes a (tyF t).bits).map f).getD j 0 % 2 ^ (tyF t).bits = f (s.ln a (tyF t).bits j) % 2 ^ (tyF t).bits := by
    rw [State.lanes, lanesOf, List.map_map, getD_map_range, if_pos hj]
    rfl
  refine ⟨laneFpOp fun _ => rfl, laneFpOp fun _ => rfl, laneFpOp fun _ => rfl, laneFpOp fun _ => rfl, laneFpOp fun _ => rfl, laneFpOp fun _ => rfl, laneFpOp fun _ => rfl,
    laneFpOp fun _ => rfl, laneFpOp fun _ => rfl, fun s => ?_, fun s => ?_⟩
  all_goals
    obtain ⟨ho, hfl, hv⟩ := s.vset_retires v.toNat (vecOf (tyF t).bits ((s.lanes a (tyF t).bits).map _))
    refine ⟨_, rfl, ho, hfl, fun j hj => ?_⟩
    rw [State.vdone, hv, lane_vecOf _ (lane_within hj), every hj]

end Sys2Proof.Machine
end

section
/-! SUPPORT. Encodings of floating-point formats, taken apart into sign and magnitude code (R53, R54). -/

namespace Sys2Proof.Machine

/-- What every format of Table 02-2 has. -/
structure Fmt.Wf (f : Fmt) : Prop where
  eb : 2 ≤ f.eb
  mb : 1 ≤ f.mb
  mb_le : f.mb ≤ 52
  inf : f.inf = true ↔ f.nan = 0

theorem wf_of_mem {f : Fmt} (h : f ∈ formats) : f.Wf := by
  simp only [formats, List.mem_cons, List.not_mem_nil, or_false] at h
  rcases h with rfl | rfl | rfl | rfl | rfl | rfl | rfl | rfl | rfl <;> exact ⟨by decide, by decide, by decide, by decide⟩

/-- The code of the infinities in a format that has them. -/
def Fmt.infMag (f : Fmt) : Nat := (2 ^ f.eb - 1) * 2 ^ f.mb

/-- The significand of a finite magnitude code, in units of its last place. -/
def Fmt.sig (f : Fmt) (c : Nat) : Nat := if c < 2 ^ f.mb then c else 2 ^ f.mb + c % 2 ^ f.mb

/-- The exponent of the last place of a finite magnitude code. -/
def Fmt.ulpExp (f : Fmt) (c : Nat) : Int := if c < 2 ^ f.mb then 1 - (f.bias : Int) - f.mb else ((c / 2 ^ f.mb : Nat) : Int) - f.bias - f.mb

theorem Fmt.sig_lt (f : Fmt) (c : Nat) : f.sig c < 2 ^ (f.mb + 1) := by
  have := Nat.mod_lt c (Nat.two_pow_pos f.mb)
  rw [Fmt.sig, Nat.pow_succ]
  split <;> omega

theorem Fmt.mag_eq (f : Fmt) (c : Nat) : f.mag c = f.sig c * (2 : ℝ) ^ f.ulpExp c := by
  unfold Fmt.mag Fmt.sig Fmt.ulpExp
  split <;> rfl

section
variable {f : Fmt} {s : Bool} {c b : Nat}

theorem two_pow_split (f : Fmt) : 2 ^ (f.eb + f.mb) = 2 ^ f.mb * 2 ^ f.eb := by rw [Nat.add_comm, Nat.pow_add]

theorem bits_eq (f : Fmt) : f.bits = f.eb + f.mb + 1 := by rw [Fmt.bits]; omega

theorem exists_signed (h : b < 2 ^ f.bits) : ∃ s c, c < 2 ^ (f.eb + f.mb) ∧ b = signed f s c := by
  rw [bits_eq, Nat.pow_succ] at h
  by_cases hb : b < 2 ^ (f.eb + f.mb)
  · exact ⟨false, b, hb, (Nat.zero_add b).symm⟩
  · refine ⟨true, b - 2 ^ (f.eb + f.mb), by omega, ?_⟩
    rw [signed, if_pos rfl]
    omega

theorem signed_eq (f : Fmt) (s : Bool) (c : Nat) : signed f s c = c + 2 ^ (f.eb + f.mb) * (if s then 1 else 0) := by
  cases s <;> simp [signed, Nat.add_comm]

theorem fraction_signed (f : Fmt) (s : Bool) (c : Nat) : bitsOf (signed f s c) 0 f.mb = c % 2 ^ f.mb := by
  rw [bitsOf, Nat.shiftRight_zero, signed_eq, two_pow_split, Nat.mul_assoc, Nat.add_mul_mod_self_left]

section
variable (hc : c < 2 ^ (f.eb + f.mb))
include hc

theorem signed_mod : signed f s c % 2 ^ (f.eb + f.mb) = c := by
  rw [signed_eq, Nat.add_mul_mod_self_left, Nat.mod_eq_of_lt hc]

theorem signed_div : signed f s c / 2 ^ (f.eb + f.mb) = if s then 1 else 0 := by
  rw [signed_eq, Nat.add_mul_div_left _ _ (Nat.two_pow_pos _), Nat.div_eq_of_lt hc, Nat.zero_add]

theorem signed_lt : signed f s c < 2 ^ f.bits := by
  rw [signed_eq, bits_eq, Nat.pow_succ]
  cases s <;> simp <;> omega

theorem minus_signed : f.minus (signed f s c) = s := by
  cases s <;> simp [Fmt.minus, signed, hc]

theorem sign_signed : (bitsOf (signed f s c) (f.eb + f.mb) 1 == 1) = s := by
  rw [bitsOf, Nat.shiftRight_eq_div_pow, signed_div hc]
  cases s <;> rfl

theorem exponent_signed : bitsOf (signed f s c) f.mb f.eb = c / 2 ^ f.mb := by
  rw [bitsOf, Nat.shiftRight_eq_div_pow, signed_eq, two_pow_split, Nat.mul_assoc, Nat.add_mul_div_left _ _ (Nat.two_pow_pos _), Nat.add_mul_mod_self_left]
  exact Nat.mod_eq_of_lt (Nat.div_lt_of_lt_mul (two_pow_split f ▸ hc))

theorem exponent_lt : c / 2 ^ f.mb < 2 ^ f.eb := Nat.div_lt_of_lt_mul (two_pow_split f ▸ hc)

theorem subnormal_signed : f.subnormal (signed f s c) = true ↔ 0 < c ∧ c < 2 ^ f.mb := by
  rw [Fmt.subnormal, exponent_signed hc, fraction_signed f s c, Bool.and_eq_true, beq_iff_eq, decide_eq_true_eq, Nat.div_eq_zero_iff_lt (Nat.two_pow_pos _)]
  constructor
  · rintro ⟨h, hne⟩
    rw [Nat.mod_eq_of_lt h] at hne
    exact ⟨Nat.pos_of_ne_zero hne, h⟩
  · rintro ⟨h0, h⟩
    rw [Nat.mod_eq_of_lt h]
    exact ⟨h, h0.ne'⟩

end

theorem maxCode_nan0 (h : f.nan = 0) : f.maxCode = f.infMag - 1 := by simp [Fmt.maxCode, Fmt.infMag, h]
theorem maxCode_nan1 (h : f.nan = 1) : f.maxCode = 2 ^ (f.eb + f.mb) - 2 := by simp [Fmt.maxCode, h]
theorem maxCode_nan2 (h0 : f.nan ≠ 0) (h1 : f.nan ≠ 1) : f.maxCode = 2 ^ (f.eb + f.mb) - 1 := by
  unfold Fmt.maxCode
  split
  · contradiction
  · contradiction
  · rfl

theorem infMag_lt (f : Fmt) : f.infMag + 2 ^ f.mb = 2 ^ (f.eb + f.mb) := by
  rw [Fmt.infMag, ← Nat.succ_mul, two_pow_split, Nat.mul_comm]
  congr 1
  exact Nat.sub_add_cancel (Nat.two_pow_pos _)

theorem Fmt.Wf.le_infMag (hf : f.Wf) : 2 ^ f.mb < f.infMag := by
  have h1 := Nat.pow_le_pow_right (n := 2) (by decide) hf.eb
  have h2 := Nat.mul_le_mul_right (2 ^ f.mb) (show 2 ≤ 2 ^ f.eb - 1 by omega)
  have := Nat.two_pow_pos f.mb
  rw [Fmt.infMag]
  omega

theorem Fmt.Wf.maxCode_lt (hf : f.Wf) : f.maxCode < 2 ^ (f.eb + f.mb) := by
  have hi := hf.le_infMag
  have hp := Nat.two_pow_pos f.mb
  by_cases h0 : f.nan = 0
  · rw [maxCode_nan0 h0, ← infMag_lt]; omega
  by_cases h1 : f.nan = 1
  · rw [maxCode_nan1 h1, ← infMag_lt]; omega
  · rw [maxCode_nan2 h0 h1, ← infMag_lt]; omega

/-- Subnormal codes are finite. -/
theorem Fmt.Wf.pow_le_maxCode (hf : f.Wf) : 2 ^ f.mb ≤ f.maxCode := by
  have := hf.le_infMag
  have := infMag_lt f
  have := Nat.pow_le_pow_right (n := 2) (by decide) hf.mb
  by_cases h0 : f.nan = 0
  · rw [maxCode_nan0 h0]; omega
  by_cases h1 : f.nan = 1
  · rw [maxCode_nan1 h1]; omega
  · rw [maxCode_nan2 h0 h1]; omega

/-! Values of encodings -/

theorem value_finite (hf : f.Wf) (hm : c ≤ f.maxCode) : f.value (signed f s c) = .fin s (f.sig c) (f.ulpExp c) := by
  have hc := hm.trans_lt hf.maxCode_lt
  have hdm := Nat.div_add_mod c (2 ^ f.mb)
  have hi := hf.le_infMag
  have hs := infMag_lt f
  have h0 : ¬ (f.nan = 0 ∧ c / 2 ^ f.mb = 2 ^ f.eb - 1) := fun ⟨hn, he⟩ => by
    rw [maxCode_nan0 hn] at hm
    rw [he, Nat.mul_comm, ← Fmt.infMag] at hdm
    omega
  have h1 : ¬ (f.nan = 1 ∧ c / 2 ^ f.mb = 2 ^ f.eb - 1 ∧ c % 2 ^ f.mb = 2 ^ f.mb - 1) := fun ⟨hn, he, hr⟩ => by
    rw [maxCode_nan1 hn] at hm
    rw [he, hr, Nat.mul_comm, ← Fmt.infMag] at hdm
    omega
  simp only [Fmt.value, sign_signed hc, exponent_signed hc, fraction_signed f s c, if_neg h0, if_neg h1]
  by_cases hlt : c < 2 ^ f.mb
  · rw [if_pos ((Nat.div_eq_zero_iff_lt (Nat.two_pow_pos _)).2 hlt), Fmt.sig, Fmt.ulpExp, if_pos hlt, if_pos hlt, Nat.mod_eq_of_lt hlt]
  · rw [if_neg fun h => hlt ((Nat.div_eq_zero_iff_lt (Nat.two_pow_pos _)).1 h), Fmt.sig, Fmt.ulpExp, if_neg hlt, if_neg hlt]

theorem value_infinite (h0 : f.nan = 0) : f.value (signed f s f.infMag) = .inf s := by
  have hc : f.infMag < 2 ^ (f.eb + f.mb) := by have := infMag_lt f; have := Nat.two_pow_pos f.mb; omega
  simp only [Fmt.value, sign_signed hc, exponent_signed hc, fraction_signed]
  rw [Fmt.infMag, Nat.mul_div_cancel _ (Nat.two_pow_pos _), if_pos ⟨h0, rfl⟩, Nat.mul_mod_left, if_pos rfl]

theorem value_nan (h0 : f.nan = 0) (h : f.infMag < c) (hc : c < 2 ^ (f.eb + f.mb)) :
    f.value (signed f s c) = .nan (f.mb ≠ 2 && bitsOf (c % 2 ^ f.mb) (f.mb - 1) 1 == 0) := by
  have hs := infMag_lt f
  have he : c / 2 ^ f.mb = 2 ^ f.eb - 1 := by
    rw [Nat.div_eq_iff (Nat.two_pow_pos _), ← Fmt.infMag]
    omega
  have hr : c % 2 ^ f.mb ≠ 0 := fun hr => by
    have hdm := Nat.div_add_mod c (2 ^ f.mb)
    rw [he, hr, Nat.mul_comm, ← Fmt.infMag] at hdm
    omega
  simp only [Fmt.value, sign_signed hc, exponent_signed hc, fraction_signed f s c]
  rw [if_pos ⟨h0, he⟩, if_neg hr]

/-- The number that a value is; of infinities and NaN, 0. -/
noncomputable def FV.real : FV → ℝ
  | .fin n m e => (if n then -1 else 1) * (m * (2 : ℝ) ^ e)
  | _ => 0

/-! Operands under FTZ -/

theorem real_signed (ftz : Bool) (hc : c < 2 ^ (f.eb + f.mb)) :
    f.real ftz (signed f s c) = if ftz && f.wide && f.subnormal (signed f s c) then 0 else (if s then -1 else 1) * f.mag c := by
  rw [Fmt.real, minus_signed hc, signed_mod hc]

theorem valueFtz_finite (hf : f.Wf) (ftz : Bool) (h : f.Finite b) : ∃ m e, f.valueFtz ftz b = .fin (f.minus b) m e ∧ FV.real (.fin (f.minus b) m e) = f.real ftz b ∧ m < 2 ^ (f.mb + 1) := by
  obtain ⟨hb, hm⟩ := h
  obtain ⟨s, c, hc, rfl⟩ := exists_signed hb
  rw [signed_mod hc] at hm
  rw [real_signed ftz hc, minus_signed hc, Fmt.valueFtz, sign_signed hc]
  cases hz : ftz && f.wide && f.subnormal (signed f s c)
  · exact ⟨f.sig c, f.ulpExp c, value_finite hf hm, by rw [FV.real, Fmt.mag_eq]; rfl, f.sig_lt c⟩
  · exact ⟨0, 0, rfl, by simp [FV.real], by simp⟩

theorem finite_of_subnormal (hf : f.Wf) (hb : b < 2 ^ f.bits) (h : f.subnormal b = true) : f.Finite b := by
  obtain ⟨s, c, hc, rfl⟩ := exists_signed hb
  refine ⟨hb, ?_⟩
  rw [signed_mod hc]
  exact ((subnormal_signed hc).1 h).2.le.trans hf.pow_le_maxCode

/-- FTZ leaves all but finite numbers alone. -/
theorem valueFtz_of_not_fin (hf : f.Wf) (ftz : Bool) (hb : b < 2 ^ f.bits) (h : (f.value b).isFin = false) : f.valueFtz ftz b = f.value b := by
  refine if_neg fun hz => ?_
  rw [Bool.and_eq_true] at hz
  obtain ⟨s, c, hc, rfl⟩ := exists_signed hb
  have hm := (finite_of_subnormal hf hb hz.2).2
  rw [signed_mod hc] at hm
  rw [value_finite hf hm] at h
  exact Bool.noConfusion h

theorem valueFtz_infinite (hf : f.Wf) (ftz : Bool) (h : f.Inf b) : f.valueFtz ftz b = .inf (f.minus b) := by
  obtain ⟨hi, hb, hm⟩ := h
  obtain ⟨s, c, hc, rfl⟩ := exists_signed hb
  rw [signed_mod hc] at hm
  have hv : f.value (signed f s c) = .inf s := by rw [hm]; exact value_infinite (hf.inf.1 hi)
  rw [valueFtz_of_not_fin hf ftz hb (by rw [hv]; rfl), hv, minus_signed hc]

end

end Sys2Proof.Machine
end

section
/-! SUPPORT. RoundFP of an exact magnitude (R64 to R66): the code that it truncates to, and the rest above that code in units of its last place. -/

namespace Sys2Proof.Machine

section
variable {f : Fmt}

/-- The exponent of the last place of subnormal numbers. -/
def Fmt.minExp (f : Fmt) : Int := 1 - (f.bias : Int) - f.mb

theorem two_zpow_pos (e : Int) : (0 : ℝ) < (2 : ℝ) ^ e := zpow_pos two_pos e

theorem two_zpow_add (a b : Int) : (2 : ℝ) ^ (a + b) = 2 ^ a * 2 ^ b := zpow_add₀ two_ne_zero a b

/-- The magnitude of `kept` units of the place n above the lowest. -/
theorem mag_code {n kept : Nat} (h : kept ≤ 2 ^ (f.mb + 1)) (hn : 2 ^ f.mb ≤ kept ∨ n = 0) :
    f.mag (n * 2 ^ f.mb + kept) = kept * (2 : ℝ) ^ (n + f.minExp) := by
  have hp := Nat.two_pow_pos f.mb
  rw [Nat.pow_succ] at h
  by_cases hlt : kept < 2 ^ f.mb
  · obtain rfl : n = 0 := hn.resolve_left (by omega)
    rw [Nat.zero_mul, Nat.zero_add, Fmt.mag, if_pos hlt, Nat.cast_zero, zero_add, Fmt.minExp]
  · obtain ⟨r, rfl⟩ := Nat.exists_eq_add_of_le (Nat.not_lt.1 hlt)
    have hk : n * 2 ^ f.mb + (2 ^ f.mb + r) = r + 2 ^ f.mb * (n + 1) := by ring
    rw [hk, Fmt.mag, if_neg (by nlinarith), Nat.add_mul_div_left _ _ hp, Nat.add_mul_mod_self_left]
    rcases Nat.lt_or_ge r (2 ^ f.mb) with hr | hr
    · rw [Nat.mod_eq_of_lt hr, Nat.div_eq_of_lt hr]
      congr 2
      push_cast
      rw [Fmt.minExp]
      ring
    · obtain rfl : r = 2 ^ f.mb := by omega
      rw [Nat.mod_self, Nat.div_self hp, Fmt.minExp, show (((1 + (n + 1) : Nat) : Int) - f.bias - f.mb) = 1 + (n + (1 - f.bias - f.mb)) by push_cast; ring, two_zpow_add]
      push_cast
      ring

/-- Every code is so many units of some place, and the next code is one more. -/
theorem code_eq (f : Fmt) (k : Nat) : ∃ n kept, k = n * 2 ^ f.mb + kept ∧ kept < 2 ^ (f.mb + 1) ∧ (2 ^ f.mb ≤ kept ∨ n = 0) := by
  have hp := Nat.two_pow_pos f.mb
  have hm := Nat.mod_lt k hp
  have hdm := Nat.div_add_mod' k (2 ^ f.mb)
  rw [Nat.pow_succ]
  cases hd : k / 2 ^ f.mb with
  | zero => exact ⟨0, k, by omega, by rw [hd] at hdm; omega, .inr rfl⟩
  | succ n =>
    rw [hd, Nat.succ_mul] at hdm
    exact ⟨n, 2 ^ f.mb + k % 2 ^ f.mb, by omega, by omega, .inl (by omega)⟩

theorem mag_strictMono (f : Fmt) : StrictMono f.mag := by
  refine strictMono_nat_of_lt_succ fun k => ?_
  obtain ⟨n, kept, rfl, hk, hn⟩ := code_eq f k
  rw [Nat.add_assoc, mag_code hk.le hn, mag_code hk (hn.imp_left fun h => h.trans (Nat.le_succ _)), Nat.cast_succ]
  exact mul_lt_mul_of_pos_right (lt_add_one _) (two_zpow_pos _)

theorem mag_zero (f : Fmt) : f.mag 0 = 0 := by
  rw [Fmt.mag, if_pos (Nat.two_pow_pos _), Nat.cast_zero, zero_mul]

/-- The least normal number. -/
theorem mag_normal (f : Fmt) : f.mag (2 ^ f.mb) = (2 : ℝ) ^ (1 - (f.bias : Int)) := by
  have h := mag_code (f := f) (n := 0) (kept := 2 ^ f.mb) (Nat.pow_le_pow_right (by decide) (Nat.le_succ _)) (.inr rfl)
  rw [Nat.zero_mul, Nat.zero_add] at h
  rw [h, Nat.cast_pow, Nat.cast_ofNat, ← zpow_natCast, ← two_zpow_add, Fmt.minExp]
  congr 1
  push_cast
  ring

/-- A magnitude lies between the codes k and k + 1 for one k only. -/
theorem mag_unique {x : ℝ} {k l : Nat} (hk : f.mag k ≤ x) (hk' : x < f.mag (k + 1)) (hl : f.mag l ≤ x) (hl' : x < f.mag (l + 1)) : k = l := by
  have h1 := (mag_strictMono f).lt_iff_lt.1 (hk.trans_lt hl')
  have h2 := (mag_strictMono f).lt_iff_lt.1 (hl.trans_lt hk')
  omega

end

/-! Magnitudes with a sticky bit -/

/-- The real number x lies from m units of 2^e to m + 1; it is m units unless `st` says that it lies above. -/
structure Mag.Is (x : Mag) (r : ℝ) : Prop where
  pos : 0 < x.m
  low : (x.m : ℝ) * (2 : ℝ) ^ x.e ≤ r
  high : r < (x.m + 1 : ℝ) * (2 : ℝ) ^ x.e
  exact_iff : x.st = false ↔ r = (x.m : ℝ) * (2 : ℝ) ^ x.e

theorem Mag.is_exact {m : Nat} (e : Int) (h : 0 < m) : Mag.Is ⟨m, e, false⟩ ((m : ℝ) * (2 : ℝ) ^ e) where
  pos := h
  low := le_refl _
  high := mul_lt_mul_of_pos_right (lt_add_one _) (two_zpow_pos e)
  exact_iff := iff_of_true rfl rfl

section
variable {f : Fmt} {x : Mag} {r : ℝ}

/-- The leading bit is that of the number. -/
theorem Mag.Is.lead (h : x.Is r) : (2 : ℝ) ^ x.lead ≤ r ∧ r < (2 : ℝ) ^ (x.lead + 1) := by
  have h2 : (2 : ℝ) ^ Nat.log2 x.m ≤ x.m := by exact_mod_cast Nat.log2_self_le h.pos.ne'
  have h3 : (x.m + 1 : ℝ) ≤ 2 ^ (Nat.log2 x.m + 1) := by exact_mod_cast Nat.lt_log2_self
  have hp := (two_zpow_pos x.e).le
  constructor
  · refine le_trans ?_ h.low
    rw [Mag.lead, two_zpow_add, zpow_natCast]
    exact mul_le_mul_of_nonneg_right h2 hp
  · refine h.high.trans_le ?_
    rw [Mag.lead, add_right_comm, two_zpow_add, ← Nat.cast_succ, ← Nat.cast_succ, zpow_natCast, Nat.cast_succ]
    exact mul_le_mul_of_nonneg_right h3 hp

theorem Mag.Is.positive (h : x.Is r) : 0 < r := (two_zpow_pos _).trans_le h.lead.1

/-- Below the least normal number: tiny (R67). -/
theorem Mag.Is.tiny_iff (h : x.Is r) : x.lead < 1 - (f.bias : Int) ↔ r < f.mag (2 ^ f.mb) := by
  rw [mag_normal]
  constructor
  · intro hl
    exact h.lead.2.trans_le (zpow_le_zpow_right₀ one_le_two (by omega))
  · intro hr
    exact (zpow_lt_zpow_iff_right₀ one_lt_two).1 (h.lead.1.trans_lt hr)

theorem cut_rem_lt (f : Fmt) (x : Mag) : (f.cut x).2.1 < 2 ^ (f.cut x).2.2 := by
  by_cases h : x.e ≥ f.quantum x
  · rw [show f.cut x = (x.m * 2 ^ (x.e - f.quantum x).toNat, 0, 0) from if_pos h]
    exact Nat.one_pos
  · rw [show f.cut x = (x.m >>> (f.quantum x - x.e).toNat, x.m % 2 ^ (f.quantum x - x.e).toNat, (f.quantum x - x.e).toNat) from if_neg h]
    exact Nat.mod_lt _ (Nat.two_pow_pos _)

/-- What truncation keeps of x, and the rest in units of the last place kept. -/
structure Truncates (f : Fmt) (x : Mag) (r rest : ℝ) : Prop where
  eq : r = ((f.cut x).1 + rest) * (2 : ℝ) ^ f.quantum x
  low : ((f.cut x).2.1 : ℝ) ≤ rest * 2 ^ (f.cut x).2.2
  high : rest * 2 ^ (f.cut x).2.2 < (f.cut x).2.1 + 1
  exact_iff : x.st = false ↔ rest * 2 ^ (f.cut x).2.2 = (f.cut x).2.1
  digits : x.st = true → 0 < (f.cut x).2.2

theorem truncates (h : x.Is r) (hst : x.st = true → x.e < f.quantum x) : ∃ rest, Truncates f x r rest := by
  have hp := two_zpow_pos x.e
  by_cases hq : x.e ≥ f.quantum x
  · have hcut : f.cut x = (x.m * 2 ^ (x.e - f.quantum x).toNat, 0, 0) := if_pos hq
    have hf : x.st = false := by
      by_contra hs
      have := hst (by simpa using hs)
      omega
    have hr := h.exact_iff.1 hf
    refine ⟨0, ?_⟩
    constructor <;> rw [hcut]
    · rw [hr, add_zero]
      push_cast
      rw [mul_assoc, ← zpow_natCast, ← two_zpow_add]
      congr 2
      omega
    · simp
    · simp
    · simp [hf]
    · simp [hf]
  · rw [ge_iff_le, not_le] at hq
    set sh := (f.quantum x - x.e).toNat with hsh
    have hcut : f.cut x = (x.m >>> sh, x.m % 2 ^ sh, sh) := if_neg (not_le.2 hq)
    have hexp : (2 : ℝ) ^ f.quantum x = 2 ^ sh * 2 ^ x.e := by
      rw [← zpow_natCast, ← two_zpow_add]
      congr 1
      omega
    have hdm : ((x.m >>> sh : Nat) : ℝ) * 2 ^ sh + (x.m % 2 ^ sh : Nat) = x.m := by
      rw [Nat.shiftRight_eq_div_pow]
      exact_mod_cast Nat.div_add_mod' x.m (2 ^ sh)
    have hrest : (r / 2 ^ f.quantum x - (x.m >>> sh : Nat)) * 2 ^ sh = r / 2 ^ x.e - x.m + (x.m % 2 ^ sh : Nat) := by
      have h0 : r / 2 ^ f.quantum x * 2 ^ sh = r / 2 ^ x.e := by rw [hexp]; field_simp
      rw [sub_mul, h0]
      linarith
    have hlow := (le_div_iff₀ hp).2 h.low
    have hhigh := (div_lt_iff₀ hp).2 h.high
    refine ⟨r / 2 ^ f.quantum x - (x.m >>> sh : Nat), ?_⟩
    constructor <;> rw [hcut]
    · rw [add_sub_cancel, div_mul_cancel₀ _ (two_zpow_pos _).ne']
    · simp only [hrest]; linarith
    · simp only [hrest]; linarith
    · simp only [hrest]
      rw [h.exact_iff, ← div_eq_iff hp.ne']
      constructor <;> intro h <;> linarith
    · intro _; show 0 < sh; omega

/-- The code of the truncated magnitude. -/
def Fmt.floorCode (f : Fmt) (x : Mag) : Nat := f.codeOf x (f.cut x).1

theorem quantum_eq (f : Fmt) (x : Mag) : f.quantum x = (f.quantum x - f.minExp).toNat + f.minExp := by
  have : f.minExp ≤ f.quantum x := le_max_right _ _
  omega

section
variable {rest : ℝ} (ht : Truncates f x r rest)
include ht

theorem Truncates.rest_nonneg : 0 ≤ rest := by
  have h : (0 : ℝ) ≤ rest * 2 ^ (f.cut x).2.2 := (Nat.cast_nonneg _).trans ht.low
  exact nonneg_of_mul_nonneg_left h (by positivity)

theorem Truncates.rest_lt : rest < 1 := by
  have h : rest * 2 ^ (f.cut x).2.2 < 1 * 2 ^ (f.cut x).2.2 := by
    rw [one_mul]
    exact ht.high.trans_le (by exact_mod_cast cut_rem_lt f x)
  exact lt_of_mul_lt_mul_right h (by positivity)

theorem Truncates.kept_lt (h : x.Is r) : (f.cut x).1 < 2 ^ (f.mb + 1) := by
  have hq : x.lead + 1 ≤ (f.mb + 1 : Nat) + f.quantum x := by
    have : x.lead - f.mb ≤ f.quantum x := le_max_left _ _
    push_cast
    omega
  have h1 : r < 2 ^ (f.mb + 1) * (2 : ℝ) ^ f.quantum x := by
    refine h.lead.2.trans_le ?_
    rw [← zpow_natCast, ← two_zpow_add]
    exact zpow_le_zpow_right₀ one_le_two hq
  rw [ht.eq] at h1
  have h2 := lt_of_mul_lt_mul_right h1 (two_zpow_pos _).le
  have h3 := ht.rest_nonneg
  have : ((f.cut x).1 : ℝ) < (2 ^ (f.mb + 1) : Nat) := by push_cast; linarith
  exact_mod_cast this

theorem Truncates.kept_ge (h : x.Is r) : 2 ^ f.mb ≤ (f.cut x).1 ∨ (f.quantum x - f.minExp).toNat = 0 := by
  refine or_iff_not_imp_right.2 fun hn => ?_
  have hq : f.quantum x = x.lead - f.mb := by
    rcases max_choice (x.lead - f.mb) (1 - (f.bias : Int) - f.mb) with hm | hm
    · exact hm
    · refine absurd ?_ hn
      rw [show f.quantum x = f.minExp from hm]
      omega
  have h1 : 2 ^ f.mb * (2 : ℝ) ^ f.quantum x ≤ r := by
    refine le_trans (le_of_eq ?_) h.lead.1
    rw [← zpow_natCast, ← two_zpow_add, hq]
    congr 1
    omega
  rw [ht.eq] at h1
  have h2 := le_of_mul_le_mul_right h1 (two_zpow_pos _)
  have h3 := ht.rest_lt
  have : ((2 ^ f.mb : Nat) : ℝ) < ((f.cut x).1 + 1 : Nat) := by push_cast; linarith
  exact Nat.lt_succ_iff.1 (by exact_mod_cast this)

theorem Truncates.mag_floor (h : x.Is r) : f.mag (f.floorCode x) = (f.cut x).1 * (2 : ℝ) ^ f.quantum x := by
  rw [quantum_eq]
  exact mag_code (ht.kept_lt h).le (ht.kept_ge h)

theorem Truncates.mag_next (h : x.Is r) : f.mag (f.floorCode x + 1) = ((f.cut x).1 + 1) * (2 : ℝ) ^ f.quantum x := by
  have := mag_code (f := f) (n := (f.quantum x - f.minExp).toNat) (kept := (f.cut x).1 + 1) (ht.kept_lt h) ((ht.kept_ge h).imp_left fun h => h.trans (Nat.le_succ _))
  rw [← quantum_eq, Nat.cast_succ] at this
  exact this

/-- The number lies from the truncated code up to the next. -/
theorem Truncates.between (h : x.Is r) : f.mag (f.floorCode x) ≤ r ∧ r < f.mag (f.floorCode x + 1) := by
  have hp := two_zpow_pos (f.quantum x)
  rw [ht.mag_floor h, ht.mag_next h, ht.eq]
  exact ⟨mul_le_mul_of_nonneg_right (by linarith [ht.rest_nonneg]) hp.le, mul_lt_mul_of_pos_right (by linarith [ht.rest_lt]) hp⟩

theorem Truncates.rest_eq (h : x.Is r) : r - f.mag (f.floorCode x) = rest * (f.mag (f.floorCode x + 1) - f.mag (f.floorCode x)) := by
  rw [ht.mag_next h, ht.mag_floor h]
  conv_lhs => rw [ht.eq]
  ring

theorem Truncates.inexact_iff : (decide ((f.cut x).2.1 ≠ 0) || x.st) = true ↔ 0 < rest := by
  have hp : (0 : ℝ) < 2 ^ (f.cut x).2.2 := by positivity
  rw [Bool.or_eq_true, decide_eq_true_eq, ← not_iff_not]
  simp only [not_or, not_not, Bool.not_eq_true]
  rw [ht.exact_iff, not_lt]
  constructor
  · rintro ⟨h0, h1⟩
    rw [h0, Nat.cast_zero] at h1
    exact (mul_eq_zero.1 h1).resolve_right hp.ne' |>.le
  · intro h0
    obtain rfl : rest = 0 := le_antisymm h0 ht.rest_nonneg
    have hl := ht.low
    rw [zero_mul] at hl ⊢
    have : (f.cut x).2.1 = 0 := by exact_mod_cast le_antisymm hl (Nat.cast_nonneg _)
    exact ⟨this, by rw [this, Nat.cast_zero]⟩

/-- Rounding to nearest: above half, or half of an odd code. -/
theorem Truncates.nearest_iff : (decide (2 * (f.cut x).2.1 > 2 ^ (f.cut x).2.2) || (2 * (f.cut x).2.1 == 2 ^ (f.cut x).2.2 && (x.st || (f.cut x).1 % 2 == 1))) = true ↔
    1 < 2 * rest ∨ 1 = 2 * rest ∧ (f.cut x).1 % 2 = 1 := by
  set rem := (f.cut x).2.1
  set sh := (f.cut x).2.2
  have hp : (0 : ℝ) < 2 ^ sh := by positivity
  have hlow : (rem : ℝ) ≤ rest * 2 ^ sh := ht.low
  have hhigh : rest * 2 ^ sh < rem + 1 := ht.high
  have hlt : 1 < 2 * rest ↔ (2 : ℝ) ^ sh < 2 * (rest * 2 ^ sh) := by
    rw [← mul_lt_mul_iff_of_pos_right hp, one_mul, mul_assoc]
  have heq : 1 = 2 * rest ↔ (2 : ℝ) ^ sh = 2 * (rest * 2 ^ sh) := by
    rw [← mul_left_inj' hp.ne', one_mul, mul_assoc]
  rw [hlt, heq]
  simp only [Bool.or_eq_true, Bool.and_eq_true, decide_eq_true_eq, beq_iff_eq, gt_iff_lt]
  rcases lt_trichotomy (2 * rem) (2 ^ sh) with h | h | h
  · -- half is a whole number of units, or the number has no fraction of a unit
    have hr : 2 * (rest * 2 ^ sh) < 2 ^ sh := by
      by_cases h0 : sh = 0
      · have hs : x.st = false := by
          by_contra hs
          exact (ht.digits (by simpa using hs)).ne' h0
        rw [show rest * 2 ^ sh = rem from ht.exact_iff.1 hs]
        exact_mod_cast h
      · obtain ⟨k, hk⟩ := Nat.exists_eq_succ_of_ne_zero h0
        rw [hk, Nat.pow_succ] at h
        have : (2 * (rem + 1) : ℝ) ≤ 2 ^ sh := by
          rw [hk, pow_succ]
          exact_mod_cast (show 2 * (rem + 1) ≤ 2 ^ k * 2 by omega)
        linarith
    exact iff_of_false (by rintro (h' | ⟨h', -⟩) <;> omega) (by rintro (h' | ⟨h', -⟩) <;> linarith)
  · have hc : (2 * rem : ℝ) = 2 ^ sh := by exact_mod_cast h
    cases hs : x.st
    · have hr : rest * 2 ^ sh = rem := ht.exact_iff.1 hs
      simp [hr, hc, h]
    · have hr : rest * 2 ^ sh ≠ rem := fun hr => by simp [ht.exact_iff.2 hr] at hs
      have := lt_of_le_of_ne hlow hr.symm
      exact iff_of_true (.inr ⟨h, .inl rfl⟩) (.inl (by linarith))
  · have hc : (2 ^ sh : ℝ) < 2 * rem := by exact_mod_cast h
    exact iff_of_true (.inl h) (.inl (by linarith))

/-- The digit of R65: the first 16 bits of the rest. -/
theorem Truncates.digit (hx : 0 < x.m) (hs : x.st = false) : (f.maxCode < f.floorCode x → f.d16 x = 0) ∧
    (f.floorCode x ≤ f.maxCode → (f.d16 x : ℝ) ≤ rest * 2 ^ 16 ∧ rest * 2 ^ 16 < f.d16 x + 1) := by
  set rem := (f.cut x).2.1 with hrem
  set sh := (f.cut x).2.2 with hsh
  have heq : rest * 2 ^ sh = rem := ht.exact_iff.1 hs
  have hd : f.d16 x = if f.floorCode x > f.maxCode then 0 else if sh ≥ 16 then rem >>> (sh - 16) else rem * 2 ^ (16 - sh) := if_neg hx.ne'
  refine ⟨fun h => by rw [hd, if_pos h], fun h => ?_⟩
  rw [hd, if_neg (Nat.not_lt.2 h)]
  by_cases h16 : sh ≥ 16
  · obtain ⟨k, hk⟩ := Nat.exists_eq_add_of_le' h16
    have hk0 : (0 : ℝ) < 2 ^ k := by positivity
    have hr : rest * 2 ^ 16 = (rem : ℝ) / 2 ^ k := by
      rw [eq_div_iff hk0.ne', ← heq, hk, pow_add]
      ring
    rw [if_pos h16, hk, Nat.add_sub_cancel, Nat.shiftRight_eq_div_pow, hr]
    have h1 := Nat.div_mul_le_self rem (2 ^ k)
    have h2 := Nat.lt_div_mul_add (a := rem) (Nat.two_pow_pos k)
    refine ⟨(le_div_iff₀ hk0).2 (by exact_mod_cast h1), (div_lt_iff₀ hk0).2 ?_⟩
    rw [add_mul, one_mul]
    exact_mod_cast h2
  · obtain ⟨k, hk⟩ := Nat.exists_eq_add_of_le (Nat.le_of_not_le h16)
    have hr : rest * 2 ^ 16 = rem * 2 ^ k := by
      rw [← heq, hk, pow_add]
      ring
    rw [if_neg h16, hr, show 16 - sh = k by omega]
    push_cast
    exact ⟨le_refl _, lt_add_one _⟩

/-- Rounding up, as `Fmt.roundMag` has it. -/
def Fmt.roundsUp (f : Fmt) (mode : Nat) (neg : Bool) (x : Mag) (r : Nat) : Bool :=
  match mode with
  | 1 => false
  | 2 => (decide ((f.cut x).2.1 ≠ 0) || x.st) && !neg
  | 3 => (decide ((f.cut x).2.1 ≠ 0) || x.st) && neg
  | 4 => r < f.d16 x
  | _ => decide (2 * (f.cut x).2.1 > 2 ^ (f.cut x).2.2) || (2 * (f.cut x).2.1 == 2 ^ (f.cut x).2.2 && (x.st || (f.cut x).1 % 2 == 1))

end

theorem odd_floorCode (hf : f.Wf) (x : Mag) : f.floorCode x % 2 = (f.cut x).1 % 2 := by
  obtain ⟨k, hk⟩ := Nat.exists_eq_add_of_le' hf.mb
  rw [Fmt.floorCode, Fmt.codeOf, hk, Nat.pow_succ, ← Nat.mul_assoc, Nat.add_comm, Nat.add_mul_mod_self_right]

section
variable {rest : ℝ} (ht : Truncates f x r rest) (h : x.Is r)
include ht h

theorem Truncates.roundsUp_iff (hf : f.Wf) {mode : Nat} (hm : mode ≤ 4) (h4 : mode = 4 → x.st = false) (neg : Bool) (d : Nat) :
    f.roundsUp mode neg x d = true ↔ f.RoundsUp mode neg r (f.floorCode x) d := by
  have hulp : 0 < f.mag (f.floorCode x + 1) - f.mag (f.floorCode x) := sub_pos.2 (mag_strictMono f (Nat.lt_succ_self _))
  have hpos : 0 < r - f.mag (f.floorCode x) ↔ 0 < rest := by rw [ht.rest_eq h, mul_pos_iff_of_pos_right hulp]
  simp only [Fmt.RoundsUp, hpos]
  obtain rfl | rfl | rfl | rfl | rfl : mode = 0 ∨ mode = 1 ∨ mode = 2 ∨ mode = 3 ∨ mode = 4 := by omega
  · refine ht.nearest_iff.trans ?_
    rw [odd_floorCode hf, ht.rest_eq h]
    set u := f.mag (f.floorCode x + 1) - f.mag (f.floorCode x)
    have h1 : 1 < 2 * rest ↔ u < 2 * (rest * u) := by rw [← mul_lt_mul_iff_of_pos_right hulp, one_mul, mul_assoc]
    have h2 : 1 = 2 * rest ↔ u = 2 * (rest * u) := by rw [← mul_left_inj' hulp.ne', one_mul, mul_assoc]
    rw [h1, h2]
    simp
  · simp [Fmt.roundsUp]
  · rw [Fmt.roundsUp, Bool.and_eq_true, ht.inexact_iff]
    simp [and_comm]
  · rw [Fmt.roundsUp, Bool.and_eq_true, ht.inexact_iff]
    simp [and_comm]
  · obtain ⟨hd0, hd⟩ := ht.digit h.pos (h4 rfl)
    rw [Fmt.roundsUp, decide_eq_true_eq, ht.rest_eq h]
    set u := f.mag (f.floorCode x + 1) - f.mag (f.floorCode x)
    have hc : (d + 1 : ℝ) * u ≤ rest * u * 2 ^ 16 ↔ (d + 1 : ℝ) ≤ rest * 2 ^ 16 := by rw [mul_right_comm, mul_le_mul_iff_of_pos_right hulp]
    rw [hc]
    rcases Nat.lt_or_ge f.maxCode (f.floorCode x) with ho | ho
    · simp [hd0 ho, Nat.not_le.2 ho]
    · obtain ⟨h1, h2⟩ := hd ho
      have : d < f.d16 x ↔ (d + 1 : ℝ) ≤ rest * 2 ^ 16 := by
        constructor
        · intro hlt
          exact le_trans (by exact_mod_cast hlt) h1
        · intro hle
          have := hle.trans_lt h2
          exact_mod_cast (add_lt_add_iff_right (1 : ℝ)).1 this
      simp [this, ho]

end

theorem over_eq (f : Fmt) {mode : Nat} (hm : mode ≤ 4) (neg sat : Bool) :
    f.over mode neg sat = signed f neg (if f.inf = true ∧ sat = false ∧ (mode = 0 ∨ mode = 4 ∨ mode = 2 ∧ neg = false ∨ mode = 3 ∧ neg = true) then (2 ^ f.eb - 1) * 2 ^ f.mb else f.maxCode) := by
  have hi : f.infCode neg = signed f neg ((2 ^ f.eb - 1) * 2 ^ f.mb) := rfl
  unfold Fmt.over
  cases f.inf <;> cases sat <;> try rfl
  obtain rfl | rfl | rfl | rfl | rfl : mode = 0 ∨ mode = 1 ∨ mode = 2 ∨ mode = 3 ∨ mode = 4 := by omega
  all_goals cases neg <;> simp [hi]

/-- `Fmt.roundMag` on a magnitude that is not 0. -/
theorem roundMag_eq (f : Fmt) (mode : Nat) (neg : Bool) {x : Mag} (hx : 0 < x.m) (d : Nat) (sat : Bool) :
    f.roundMag mode neg x d sat = if f.maxCode < f.floorCode x + (if f.roundsUp mode neg x d then 1 else 0) then ⟨f.over mode neg sat, 5, decide (x.lead < 1 - (f.bias : Int))⟩
      else ⟨signed f neg (f.floorCode x + if f.roundsUp mode neg x d then 1 else 0),
        if decide ((f.cut x).2.1 ≠ 0) || x.st then (if x.lead < 1 - (f.bias : Int) then 3 else 1) else 0, decide (x.lead < 1 - (f.bias : Int))⟩ := by
  have hup : ∀ u, f.codeOf x ((f.cut x).1 + u) = f.floorCode x + u := fun u => (Nat.add_assoc _ _ _).symm
  rw [Fmt.roundMag, if_neg hx.ne']
  simp only [← hup, Fmt.roundsUp, decide_eq_true_eq]
  rfl

/-- A magnitude is rounded to the encodings beside it (R64, R66). -/
theorem roundsTo_roundMag (hf : f.Wf) {mode : Nat} (hm : mode ≤ 4) (h : x.Is r) (hst : x.st = true → x.e < f.quantum x ∧ mode ≠ 4) (neg : Bool) (d : Nat) (sat : Bool) :
    f.RoundsTo mode neg r d sat (f.roundMag mode neg x d sat).bits (f.roundMag mode neg x d sat).flags := by
  intro k c hk hk' hup hdown
  obtain ⟨rest, ht⟩ := truncates h fun hs => (hst hs).1
  obtain ⟨hb, hb'⟩ := ht.between h
  obtain rfl := mag_unique hk hk' hb hb'
  have hiff := ht.roundsUp_iff h hf hm (fun h4 => by by_contra hs; exact (hst (by simpa using hs)).2 h4) neg d
  have hc : c = f.floorCode x + if f.roundsUp mode neg x d then 1 else 0 := by
    cases hu : f.roundsUp mode neg x d
    · exact hdown fun h => by simp [hiff.2 h] at hu
    · exact hup (hiff.1 hu)
  have hulp : 0 < f.mag (f.floorCode x + 1) - f.mag (f.floorCode x) := sub_pos.2 (mag_strictMono f (Nat.lt_succ_self _))
  have hexact : r = f.mag (f.floorCode x) ↔ ¬ 0 < rest := by
    rw [← sub_eq_zero, ht.rest_eq h, mul_eq_zero, or_iff_left hulp.ne', not_lt]
    exact ⟨le_of_eq, fun h => le_antisymm h ht.rest_nonneg⟩
  rw [roundMag_eq f mode neg h.pos, ← hc]
  refine ⟨fun hle => ?_, fun hlt => ?_⟩
  · rw [if_neg (Nat.not_lt.2 hle)]
    refine ⟨rfl, fun he => ?_, fun he htiny => ?_, fun he htiny => ?_⟩
    · exact if_neg (by rw [ht.inexact_iff]; exact hexact.1 he)
    · exact (if_pos (by rw [ht.inexact_iff]; exact not_not.1 (mt hexact.2 he))).trans (if_pos (h.tiny_iff.2 htiny))
    · exact (if_pos (by rw [ht.inexact_iff]; exact not_not.1 (mt hexact.2 he))).trans (if_neg (by rw [h.tiny_iff]; exact not_lt.2 htiny))
  · rw [if_pos hlt]
    exact ⟨rfl, over_eq f hm neg sat⟩

theorem tiny_roundMag (h : x.Is r) (mode : Nat) (neg : Bool) (d : Nat) (sat : Bool) : (f.roundMag mode neg x d sat).tiny = true ↔ r < f.mag (2 ^ f.mb) := by
  rw [← h.tiny_iff, roundMag_eq f mode neg h.pos, apply_ite Rounded.tiny, ite_self, decide_eq_true_eq]

/-- With FTZ a tiny result is flushed (R67). -/
theorem gives_flush (hf : f.Wf) {mode : Nat} (hm : mode ≤ 4) {z : ℝ} (h : x.Is |z|) (hst : x.st = true → x.e < f.quantum x ∧ mode ≠ 4) {neg : Bool} (hneg : neg = true ↔ z < 0) (ftz : Bool) (d : Nat) :
    f.Gives mode ftz z d (f.flush ftz neg (f.roundMag mode neg x d)).bits (f.flush ftz neg (f.roundMag mode neg x d)).flags := by
  intro n hn
  obtain rfl : n = neg := Bool.eq_iff_iff.2 (hn.trans hneg.symm)
  refine ⟨fun h1 h2 h3 => ?_, fun hor => ?_⟩
  · rw [Fmt.flush, if_pos (by simp [h1, h2, (tiny_roundMag h mode n d false).2 h3])]
    exact ⟨rfl, rfl⟩
  · rw [Fmt.flush, if_neg]
    · exact roundsTo_roundMag hf hm h hst n d false
    · rw [Bool.and_eq_true, Bool.and_eq_true, tiny_roundMag h]
      rintro ⟨⟨h1, h2⟩, h3⟩
      rcases hor with h | h | h
      · simp [h] at h1
      · simp [h] at h2
      · exact h3.not_ge h

end

end Sys2Proof.Machine
end

section
/-! SUPPORT. Exact arithmetic on values, as numbers (R64, R108), and the result that rounds it. -/

namespace Sys2Proof.Machine

/-! Numbers of finite values -/

section
variable {n : Bool} {m : Nat} {e : Int}

theorem abs_real_fin (n : Bool) (m : Nat) (e : Int) : |FV.real (.fin n m e)| = m * (2 : ℝ) ^ e := by
  have : (0 : ℝ) ≤ m * (2 : ℝ) ^ e := mul_nonneg (Nat.cast_nonneg _) (two_zpow_pos e).le
  cases n <;> simp [FV.real, abs_of_nonneg this]

theorem real_fin_eq_zero : FV.real (.fin n m e) = 0 ↔ m = 0 := by
  rw [← abs_eq_zero, abs_real_fin, mul_eq_zero, or_iff_left (two_zpow_pos e).ne', Nat.cast_eq_zero]

theorem real_fin_neg_iff (h : 0 < m) : n = true ↔ FV.real (.fin n m e) < 0 := by
  have hp : (0 : ℝ) < m * (2 : ℝ) ^ e := mul_pos (Nat.cast_pos.2 h) (two_zpow_pos e)
  cases n <;> simp [FV.real, hp, hp.le]

theorem real_negate (n : Bool) (m : Nat) (e : Int) : FV.real (.fin (!n) m e) = -FV.real (.fin n m e) := by
  cases n <;> simp [FV.real]

end

theorem units_fin {n : Bool} {m : Nat} {e e0 : Int} (h : e0 ≤ e) : ((FV.fin n m e).units e0 : ℝ) * (2 : ℝ) ^ e0 = FV.real (.fin n m e) := by
  have hp : (2 : ℝ) ^ e = 2 ^ (e - e0).toNat * 2 ^ e0 := by
    rw [← zpow_natCast, ← two_zpow_add]
    congr 1
    omega
  rw [FV.real, hp]
  cases n <;> simp [FV.units, mul_assoc]

theorem add_fin (n m : Bool) (ma mb : Nat) (ea eb : Int) (rdn : Bool) :
    ∃ i : Int, ∃ e, (FV.fin n ma ea).add (.fin m mb eb) rdn = (ofUnits i e (if ma = 0 ∧ mb = 0 then (n == m && n) || (n != m && rdn) else rdn), 0) ∧
      (i : ℝ) * (2 : ℝ) ^ e = FV.real (.fin n ma ea) + FV.real (.fin m mb eb) :=
  ⟨_, _, rfl, by rw [Int.cast_add, add_mul, units_fin (min_le_left _ _), units_fin (min_le_right _ _)]⟩

theorem ofUnits_real {i e : Int} {z : Bool} (h : i ≠ 0) : ∃ n m, ofUnits i e z = .fin n m e ∧ 0 < m ∧ FV.real (.fin n m e) = i * (2 : ℝ) ^ e := by
  refine ⟨decide (i < 0), i.natAbs, if_neg h, Int.natAbs_pos.2 h, ?_⟩
  have hc : ((i.natAbs : Nat) : ℝ) = |(i : ℝ)| := by rw [← Int.cast_abs, Int.abs_eq_natAbs, Int.cast_natCast]
  rw [FV.real, hc]
  rcases lt_or_gt_of_ne h with h0 | h0
  · have : (i : ℝ) < 0 := Int.cast_lt_zero.2 h0
    simp [h0, abs_of_neg this]
  · have : (0 : ℝ) < i := Int.cast_pos.2 h0
    simp [not_lt.2 h0.le, abs_of_pos this]

/-- An exact sum that is not 0. -/
theorem add_ne_zero_real {n m : Bool} {ma mb : Nat} {ea eb : Int} {rdn : Bool} (h : FV.real (.fin n ma ea) + FV.real (.fin m mb eb) ≠ 0) :
    ∃ k l e, (FV.fin n ma ea).add (.fin m mb eb) rdn = (.fin k l e, 0) ∧ 0 < l ∧ FV.real (.fin k l e) = FV.real (.fin n ma ea) + FV.real (.fin m mb eb) := by
  obtain ⟨i, e, hadd, hr⟩ := add_fin n m ma mb ea eb rdn
  have hi : i ≠ 0 := fun h0 => h (by rw [← hr, h0, Int.cast_zero, zero_mul])
  obtain ⟨k, l, hu, hl, hk⟩ := ofUnits_real (e := e) hi
  exact ⟨k, l, e, by rw [hadd, hu], hl, hk.trans hr⟩

/-- An exact sum that is 0: its sign. -/
theorem add_eq_zero_real {n m : Bool} {ma mb : Nat} {ea eb : Int} (rdn : Bool) (h : FV.real (.fin n ma ea) + FV.real (.fin m mb eb) = 0) :
    (FV.fin n ma ea).add (.fin m mb eb) rdn = (.fin (if FV.real (.fin n ma ea) = 0 ∧ n = m then n else rdn) 0 0, 0) := by
  obtain ⟨i, e, hadd, hr⟩ := add_fin n m ma mb ea eb rdn
  have hi : i = 0 := by
    rw [h, mul_eq_zero, or_iff_left (two_zpow_pos e).ne'] at hr
    exact_mod_cast hr
  rw [hadd, hi, ofUnits, if_pos rfl]
  by_cases hz : ma = 0
  · have hz' : mb = 0 := by
      rw [real_fin_eq_zero.2 hz, zero_add] at h
      exact real_fin_eq_zero.1 h
    rw [if_pos ⟨hz, hz'⟩]
    cases n <;> cases m <;> simp [real_fin_eq_zero.2 hz]
  · rw [if_neg fun h => hz h.1, if_neg fun h => hz (real_fin_eq_zero.1 h.1)]

theorem mul_fin (n m : Bool) (ma mb : Nat) (ea eb : Int) : (FV.fin n ma ea).mul (.fin m mb eb) = (.fin (n != m) (ma * mb) (ea + eb), 0) ∧
    FV.real (.fin (n != m) (ma * mb) (ea + eb)) = FV.real (.fin n ma ea) * FV.real (.fin m mb eb) := by
  refine ⟨rfl, ?_⟩
  simp only [FV.real, two_zpow_add, Nat.cast_mul]
  cases n <;> cases m <;> simp <;> ring

/-! Results -/

section
variable {f : Fmt} {mode : Nat}

/-- A value that is a number other than 0 is rounded. -/
theorem gives_result (hf : f.Wf) (hm : mode ≤ 4) {n : Bool} {m : Nat} {e : Int} (h : 0 < m) (ftz : Bool) (d : Nat) :
    f.Gives mode ftz (FV.real (.fin n m e)) d (f.result mode ftz (.fin n m e) 0 d).bits (f.result mode ftz (.fin n m e) 0 d).flags := by
  have hx : Mag.Is ⟨m, e, false⟩ |FV.real (.fin n m e)| := by
    rw [abs_real_fin]
    exact Mag.is_exact e h
  have hg := gives_flush hf hm hx (fun hs => Bool.noConfusion hs) (real_fin_neg_iff h) ftz d
  have hfl : (f.result mode ftz (.fin n m e) 0 d).flags = (f.flush ftz n (f.roundMag mode n ⟨m, e, false⟩ d)).flags := Nat.or_zero _
  rw [hfl]
  exact hg

theorem result_zero (f : Fmt) (mode : Nat) (ftz n : Bool) (e : Int) (fl d : Nat) : (f.result mode ftz (.fin n 0 e) fl d).Is (signed f n 0) fl := by
  have : f.flush ftz n (f.round mode (.fin n 0 e) d) = ⟨signed f n 0, 0, false⟩ := by
    rw [show f.round mode (.fin n 0 e) d = ⟨signed f n 0, 0, false⟩ from rfl, Fmt.flush, if_neg (by simp)]
  rw [FRes.Is, Fmt.result, show FV.neg (.fin n 0 e) = n from rfl, this]
  exact ⟨rfl, Nat.zero_or _⟩

theorem flush_not_tiny {ftz n : Bool} {r : Rounded} (h : r.tiny = false) : f.flush ftz n r = r := if_neg (by simp [h])

theorem result_nan (f : Fmt) (mode : Nat) (ftz sig : Bool) (fl d : Nat) : (f.result mode ftz (.nan sig) fl d).Is f.canon ((if sig then 16 else 0) ||| fl) := by
  rw [FRes.Is, Fmt.result, flush_not_tiny rfl]
  exact ⟨rfl, rfl⟩

theorem result_inf (hi : f.inf = true) (mode : Nat) (ftz n : Bool) (fl d : Nat) : (f.result mode ftz (.inf n) fl d).Is (f.infCode n) fl := by
  have hr : f.round mode (.inf n) d = ⟨f.infCode n, 0, false⟩ := if_pos hi
  rw [FRes.Is, Fmt.result, hr, flush_not_tiny rfl]
  exact ⟨rfl, Nat.zero_or _⟩

end

/-! Quotients and square roots, to more bits than a format keeps -/

theorem Mag.log2_lt_lead {f : Fmt} {x : Mag} (h : 2 ^ (f.mb + 1) ≤ x.m) : x.e < f.quantum x := by
  have h1 : f.mb + 1 ≤ Nat.log2 x.m := (Nat.le_log2 (by have := Nat.two_pow_pos (f.mb + 1); omega)).2 h
  have h2 : x.lead - f.mb ≤ f.quantum x := le_max_left _ _
  rw [Mag.lead] at h2
  omega

/-- The quotient of two magnitudes. -/
theorem magDiv_is {f : Fmt} (hf : f.Wf) {ma mb : Nat} (ea eb : Int) (ha : 0 < ma) (hb : 0 < mb) (hlt : mb < 2 ^ (f.mb + 1)) :
    Mag.Is (magDiv ma ea mb eb) (ma * (2 : ℝ) ^ ea / (mb * (2 : ℝ) ^ eb)) ∧ (magDiv ma ea mb eb).e < f.quantum (magDiv ma ea mb eb) := by
  have hbig : 2 ^ (f.mb + 1) ≤ ma * 2 ^ 140 / mb := by
    rw [Nat.le_div_iff_mul_le hb]
    have h1 : 2 ^ (f.mb + 1) * mb ≤ 2 ^ (f.mb + 1) * 2 ^ (f.mb + 1) := Nat.mul_le_mul_left _ hlt.le
    have h2 : 2 ^ (f.mb + 1) * 2 ^ (f.mb + 1) ≤ 2 ^ 140 := by
      rw [← Nat.pow_add]
      exact Nat.pow_le_pow_right (by decide) (by have := hf.mb_le; omega)
    exact (h1.trans h2).trans (Nat.le_mul_of_pos_left _ ha)
  have hB : (0 : ℝ) < mb := Nat.cast_pos.2 hb
  have hp : (0 : ℝ) < 2 ^ (ea - eb - 140) := two_zpow_pos _
  have hx : (ma * (2 : ℝ) ^ ea / (mb * (2 : ℝ) ^ eb)) = ((ma * 2 ^ 140 : Nat) : ℝ) / mb * 2 ^ (ea - eb - 140) := by
    rw [show ea - eb - 140 = ea + -eb + -(140 : Nat) by push_cast; ring, two_zpow_add, two_zpow_add, zpow_neg, zpow_neg, zpow_natCast, Nat.cast_mul, Nat.cast_pow,
      Nat.cast_ofNat]
    have hk : (2 : ℝ) ^ 140 ≠ 0 := by positivity
    generalize (2 : ℝ) ^ 140 = k at hk
    field_simp
  have hq : ((ma * 2 ^ 140 / mb : Nat) : ℝ) ≤ ((ma * 2 ^ 140 : Nat) : ℝ) / mb := Nat.cast_div_le
  have hq' : ((ma * 2 ^ 140 : Nat) : ℝ) / mb < ((ma * 2 ^ 140 / mb : Nat) : ℝ) + 1 := by
    rw [div_lt_iff₀ hB]
    have := Nat.lt_div_mul_add (a := ma * 2 ^ 140) hb
    rw [add_mul, one_mul]
    exact_mod_cast this
  refine ⟨⟨lt_of_lt_of_le (Nat.two_pow_pos _) hbig, ?_, ?_, ?_⟩, Mag.log2_lt_lead hbig⟩
  · rw [hx]
    exact mul_le_mul_of_nonneg_right hq hp.le
  · rw [hx]
    exact mul_lt_mul_of_pos_right hq' hp
  · simp only [hx, magDiv, mul_left_inj' hp.ne', div_eq_iff hB.ne', ne_eq, decide_eq_false_iff_not, not_not]
    rw [← Nat.cast_mul, Nat.cast_inj]
    have := Nat.div_add_mod' (ma * 2 ^ 140) mb
    omega

theorem isqrtGo_spec (n b r : Nat) (h1 : r * r ≤ n) (h2 : n < (r + 2 ^ b) * (r + 2 ^ b)) :
    isqrtGo n b r * isqrtGo n b r ≤ n ∧ n < (isqrtGo n b r + 1) * (isqrtGo n b r + 1) := by
  induction b generalizing r with
  | zero => exact ⟨h1, h2⟩
  | succ b ih =>
    rw [isqrtGo]
    by_cases h : (r + 2 ^ b) * (r + 2 ^ b) ≤ n
    · rw [if_pos h]
      refine ih _ h ?_
      rwa [Nat.add_assoc, ← Nat.two_mul, Nat.mul_comm 2, ← Nat.pow_succ]
    · rw [if_neg h]
      exact ih _ h1 (Nat.not_le.1 h)

theorem isqrt_eq_sqrt (n : Nat) : isqrt n = Nat.sqrt n := by
  have h2 : n < (0 + 2 ^ (Nat.log2 n / 2 + 1)) * (0 + 2 ^ (Nat.log2 n / 2 + 1)) := by
    rw [Nat.zero_add, ← Nat.pow_add]
    exact Nat.lt_log2_self.trans_le (Nat.pow_le_pow_right (by decide) (by omega))
  obtain ⟨h1, h2⟩ := isqrtGo_spec n _ 0 (by simp) h2
  exact (Nat.eq_sqrt.2 ⟨h1, h2⟩)

/-- The square root of a magnitude. -/
theorem magSqrt_is {f : Fmt} (hf : f.Wf) {m : Nat} (e : Int) (hm : 0 < m) :
    Mag.Is (magSqrt m e) (Real.sqrt (m * (2 : ℝ) ^ e)) ∧ (magSqrt m e).e < f.quantum (magSqrt m e) := by
  set m' := (if e % 2 = 0 then m else 2 * m) * 2 ^ 140 with hm'
  set h := (if e % 2 = 0 then e else e - 1) / 2 with hh
  have hmag : magSqrt m e = ⟨Nat.sqrt m', h - 70, decide (Nat.sqrt m' * Nat.sqrt m' ≠ m')⟩ := by
    rw [← isqrt_eq_sqrt]
    rfl
  have hx : (m * (2 : ℝ) ^ e) = m' * ((2 : ℝ) ^ (h - 70)) ^ 2 := by
    have h2 : ((2 : ℝ) ^ (h - 70)) ^ 2 = (2 : ℝ) ^ (2 * h + -(140 : Nat)) := by
      rw [← zpow_natCast, ← zpow_mul]
      congr 1
      push_cast
      ring
    rw [h2, two_zpow_add, zpow_neg, zpow_natCast, hm', Nat.cast_mul, Nat.cast_pow, Nat.cast_ofNat]
    have hk : (2 : ℝ) ^ 140 ≠ 0 := by positivity
    generalize (2 : ℝ) ^ 140 = k at hk
    by_cases he : e % 2 = 0
    · rw [if_pos he]
      have : 2 * h = e := by rw [hh, if_pos he]; omega
      rw [this]
      field_simp
    · rw [if_neg he]
      have : e = 2 * h + 1 := by rw [hh, if_neg he]; omega
      rw [this, two_zpow_add, zpow_one]
      push_cast
      field_simp
  have hp : (0 : ℝ) < 2 ^ (h - 70) := two_zpow_pos _
  have hs : Real.sqrt (m * (2 : ℝ) ^ e) = Real.sqrt m' * 2 ^ (h - 70) := by
    rw [hx, Real.sqrt_mul (Nat.cast_nonneg _), Real.sqrt_sq hp.le]
  have hpos : 2 ^ 140 ≤ m' := Nat.le_mul_of_pos_left _ (by split <;> omega)
  have hbig : 2 ^ (f.mb + 1) ≤ Nat.sqrt m' := by
    rw [Nat.le_sqrt, ← Nat.pow_add]
    exact (Nat.pow_le_pow_right (by decide) (by have := hf.mb_le; omega)).trans hpos
  rw [hmag, hs]
  refine ⟨⟨lt_of_lt_of_le (Nat.two_pow_pos _) hbig, ?_, ?_, ?_⟩, Mag.log2_lt_lead hbig⟩
  · exact mul_le_mul_of_nonneg_right Real.nat_sqrt_le_real_sqrt hp.le
  · exact mul_lt_mul_of_pos_right Real.real_sqrt_lt_nat_sqrt_succ hp
  · rw [mul_left_inj' hp.ne', Real.sqrt_eq_iff_mul_self_eq (Nat.cast_nonneg _) (Nat.cast_nonneg _)]
    simp only [ne_eq, decide_eq_false_iff_not, not_not]
    exact_mod_cast eq_comm

end Sys2Proof.Machine
end

section
/-! Settles O60. Rounding by real numbers (R53, R54, R64 to R68, R108, R110). -/

namespace Sys2Proof.Machine

theorem roundExact : Rules.RoundExact := by
  intro f mode m r b neg sat sig e hmem hm x
  have hf := wf_of_mem hmem
  refine ⟨fun hb => ?_, fun h0 => ?_, ⟨rfl, rfl⟩, ⟨rfl, rfl⟩, fun hi => ?_, ?_, fun k h0 hk hk' => ?_⟩
  · obtain ⟨s, c, hc, rfl⟩ := exists_signed hb.1
    have hmax := hb.2
    rw [signed_mod hc] at hmax ⊢
    rw [minus_signed hc]
    exact ⟨_, _, value_finite hf hmax, (f.mag_eq c).symm⟩
  · exact roundsTo_roundMag hf hm (Mag.is_exact e h0) (fun h => Bool.noConfusion h) neg r sat
  · rw [Fmt.round, if_pos hi]
    exact ⟨rfl, rfl⟩
  · rintro rfl
    exact ⟨rfl, rfl⟩
  · have hx := Mag.is_exact e h0
    obtain ⟨rest, ht⟩ := truncates (f := f) hx fun h => Bool.noConfusion h
    obtain rfl := mag_unique hk hk' (ht.between hx).1 (ht.between hx).2
    intro ulp d
    have hulp : 0 < ulp := sub_pos.2 (mag_strictMono f (Nat.lt_succ_self _))
    obtain ⟨hover, hd⟩ := ht.digit h0 rfl
    refine ⟨hover, fun hle => ?_⟩
    obtain ⟨h1, h2⟩ := hd hle
    rw [ht.rest_eq hx, mul_right_comm]
    exact ⟨mul_le_mul_of_nonneg_right h1 hulp.le, mul_lt_mul_of_pos_right h2 hulp⟩

/-! Arithmetic on values -/

theorem armMode_le {rm : Nat} (h : rm ≤ 4) : armMode rm ≤ 4 := by
  unfold armMode
  split <;> omega

/-- The formats that the arithmetic has. -/
structure Fmt.Arith (f : Fmt) : Prop extends f.Wf where
  infinite : f.inf = true
  bias : f.mb + 1 ≤ f.bias

theorem arith_of {f : Fmt} (h : f = fp64 ∨ f = fp32 ∨ f = fp16 ∨ f = bf16) : f.Arith := by
  rcases h with rfl | rfl | rfl | rfl <;> exact ⟨wf_of_mem (by decide), by decide, by decide⟩

/-- The rounded sum of two values. -/
def Fmt.sum (f : Fmt) (rm : Nat) (ftz : Bool) (u v : FV) : FRes := f.result (armMode rm) ftz (u.add v (rm == 3)).1 (u.add v (rm == 3)).2

/-- The rounded product of two values. -/
def Fmt.product (f : Fmt) (rm : Nat) (ftz : Bool) (u v : FV) : FRes := f.result (armMode rm) ftz (u.mul v).1 (u.mul v).2

section
variable {f : Fmt} {rm : Nat} {n m : Bool} {ma mb : Nat} {ea eb : Int} {x y : ℝ}

/-- The sum of two numbers, and its sign where it is 0. -/
theorem sum_finite (hf : f.Wf) (hrm : rm ≤ 4) (ftz : Bool) (hx : FV.real (.fin n ma ea) = x) (hy : FV.real (.fin m mb eb) = y) :
    let z := f.sum rm ftz (.fin n ma ea) (.fin m mb eb)
    (x + y ≠ 0 → f.Gives (armMode rm) ftz (x + y) 0 z.bits z.flags) ∧ (x + y = 0 → x = 0 → n = m → z.Is (signed f n 0) 0) ∧
      (x + y = 0 → x ≠ 0 ∨ n ≠ m → z.Is (signed f (rm == 3) 0) 0) := by
  subst hx hy
  intro z
  have hzero (h0 : FV.real (.fin n ma ea) + FV.real (.fin m mb eb) = 0) : z.Is (signed f (if FV.real (.fin n ma ea) = 0 ∧ n = m then n else rm == 3) 0) 0 := by
    simp only [z, Fmt.sum, add_eq_zero_real (rm == 3) h0]
    exact result_zero f _ ftz _ 0 0 0
  refine ⟨fun h0 => ?_, fun h0 hx hs => ?_, fun h0 hor => ?_⟩
  · obtain ⟨k, l, e, hadd, hl, hr⟩ := add_ne_zero_real (rdn := rm == 3) h0
    simp only [z, Fmt.sum, hadd, ← hr]
    exact gives_result hf (armMode_le hrm) hl ftz 0
  · have := hzero h0
    rwa [if_pos ⟨hx, hs⟩] at this
  · have := hzero h0
    rwa [if_neg (by tauto)] at this

/-- The product of two numbers. -/
theorem product_finite (hf : f.Wf) (hrm : rm ≤ 4) (ftz : Bool) (hx : FV.real (.fin n ma ea) = x) (hy : FV.real (.fin m mb eb) = y) :
    let z := f.product rm ftz (.fin n ma ea) (.fin m mb eb)
    (x * y ≠ 0 → f.Gives (armMode rm) ftz (x * y) 0 z.bits z.flags) ∧ (x * y = 0 → z.Is (signed f (n != m) 0) 0) := by
  subst hx hy
  obtain ⟨hmul, hr⟩ := mul_fin n m ma mb ea eb
  simp only [Fmt.product, hmul, ← hr]
  refine ⟨fun h0 => ?_, fun h0 => ?_⟩
  · exact gives_result hf (armMode_le hrm) (Nat.pos_of_ne_zero fun h => h0 (real_fin_eq_zero.2 h)) ftz 0
  · rw [real_fin_eq_zero.1 h0]
    exact result_zero f _ ftz _ _ 0 0

end

/-! The operations on encodings -/

section
variable (f : Fmt) (rm a b c : Nat) (ftz : Bool)

theorem fadd_is : (f.fadd rm ftz a b).Is (f.sum rm ftz (f.valueFtz ftz a) (f.valueFtz ftz b)).bits (f.sum rm ftz (f.valueFtz ftz a) (f.valueFtz ftz b)).flags := ⟨rfl, rfl⟩

theorem fsub_is : (f.fsub rm ftz a b).Is (f.sum rm ftz (f.valueFtz ftz a) (f.valueFtz ftz b).negate).bits (f.sum rm ftz (f.valueFtz ftz a) (f.valueFtz ftz b).negate).flags :=
  ⟨rfl, rfl⟩

theorem fmul_is : (f.fmul rm ftz a b).Is (f.product rm ftz (f.valueFtz ftz a) (f.valueFtz ftz b)).bits (f.product rm ftz (f.valueFtz ftz a) (f.valueFtz ftz b)).flags := ⟨rfl, rfl⟩

/-- The exact product of the operands of FMA, with its flags. -/
def Fmt.exactProduct : FV × Nat := (f.valueFtz ftz a).mul (f.valueFtz ftz b)

theorem fma_bits : (f.fma rm ftz a b c).bits = (f.sum rm ftz (f.exactProduct a b ftz).1 (f.valueFtz ftz c)).bits := rfl

theorem fma_flags : (f.fma rm ftz a b c).flags =
    (f.result (armMode rm) ftz ((f.exactProduct a b ftz).1.add (f.valueFtz ftz c) (rm == 3)).1
      ((f.exactProduct a b ftz).2 ||| ((f.exactProduct a b ftz).1.add (f.valueFtz ftz c) (rm == 3)).2)).flags := rfl

end

section
variable {f : Fmt} {rm a b c : Nat} {ftz : Bool}

/-- FDIV on two numbers. -/
theorem fdiv_finite (hf : f.Wf) (hrm : rm ≤ 4) (ha : f.Finite a) (hb : f.Finite b) :
    let x := f.real ftz a; let y := f.real ftz b; let div := f.fdiv rm ftz a b; let s := f.minus a != f.minus b
    (x ≠ 0 → y ≠ 0 → f.Gives (armMode rm) ftz (x / y) 0 div.bits div.flags) ∧ (x = 0 → y ≠ 0 → div.Is (signed f s 0) 0) ∧
      (x ≠ 0 → y = 0 → div.Is (f.infCode s) 8) ∧ (x = 0 → y = 0 → div.Is f.canon 16) := by
  obtain ⟨ma, ea, hva, hxa, -⟩ := valueFtz_finite hf ftz ha
  obtain ⟨mb, eb, hvb, hxb, hlt⟩ := valueFtz_finite hf ftz hb
  intro x y div s
  have hx : x = 0 ↔ ma = 0 := by rw [show x = _ from hxa.symm, real_fin_eq_zero]
  have hy : y = 0 ↔ mb = 0 := by rw [show y = _ from hxb.symm, real_fin_eq_zero]
  have hdiv : div = if mb = 0 then (if ma = 0 then ⟨f.canon, fNV, f.subnormal a || f.subnormal b⟩ else ⟨f.infCode s, fDZ, f.subnormal a || f.subnormal b⟩)
      else if ma = 0 then ⟨signed f s 0, 0, f.subnormal a || f.subnormal b⟩
      else let r := f.flush ftz s (f.roundMag (armMode rm) s (magDiv ma ea mb eb) 0); ⟨r.bits, r.flags, (f.subnormal a || f.subnormal b) || (f.wide && r.tiny)⟩ := by
    simp only [div, Fmt.fdiv, hva, hvb]
    rfl
  rw [hdiv]
  refine ⟨fun h1 h2 => ?_, fun h1 h2 => ?_, fun h1 h2 => ?_, fun h1 h2 => ?_⟩
  · rw [Ne, hx] at h1
    rw [Ne, hy] at h2
    have h1' := Nat.pos_of_ne_zero h1
    have h2' := Nat.pos_of_ne_zero h2
    obtain ⟨his, hq⟩ := magDiv_is hf ea eb h1' h2' hlt
    rw [← abs_real_fin (f.minus a), ← abs_real_fin (f.minus b), hxa, hxb, ← abs_div] at his
    have hneg : s = true ↔ x / y < 0 := by
      have hsa := real_fin_neg_iff (n := f.minus a) (e := ea) h1'
      have hsb := real_fin_neg_iff (n := f.minus b) (e := eb) h2'
      rw [hxa] at hsa
      rw [hxb] at hsb
      have hx0 : x ≠ 0 := mt hx.1 h1
      have hy0 : y ≠ 0 := mt hy.1 h2
      rw [div_neg_iff, bne_iff_ne, Ne, Bool.eq_iff_iff, hsa, hsb]
      have := lt_or_gt_of_ne hx0
      have := lt_or_gt_of_ne hy0
      grind
    rw [if_neg h2, if_neg h1]
    have harm : armMode rm ≠ 4 := by
      unfold armMode
      split <;> omega
    exact gives_flush hf (armMode_le hrm) his (fun _ => ⟨hq, harm⟩) hneg ftz 0
  · rw [if_neg (mt hy.2 h2), if_pos (hx.1 h1)]
    exact ⟨rfl, rfl⟩
  · rw [if_pos (hy.1 h2), if_neg (mt hx.2 h1)]
    exact ⟨rfl, rfl⟩
  · rw [if_pos (hy.1 h2), if_pos (hx.1 h1)]
    exact ⟨rfl, rfl⟩

/-- No square root of a number of the format is tiny. -/
theorem sqrt_normal (hf : f.Arith) (ha : a < 2 ^ f.bits) (h : 0 < f.real ftz a) : f.mag (2 ^ f.mb) ≤ Real.sqrt (f.real ftz a) := by
  obtain ⟨s, c, hc, rfl⟩ := exists_signed ha
  rw [real_signed ftz hc] at h ⊢
  split at h
  · exact absurd h (lt_irrefl _)
  next hz =>
  rw [if_neg hz]
  cases s
  · rw [if_neg Bool.false_ne_true, one_mul] at h ⊢
    have hc0 : 0 < c := by
      by_contra h0
      rw [Nat.eq_zero_of_not_pos h0, mag_zero] at h
      exact lt_irrefl _ h
    have h1 : f.mag 1 = (2 : ℝ) ^ (1 - (f.bias : Int) - f.mb) := by
      rw [Fmt.mag, if_pos (Nat.one_lt_two_pow (by have := hf.mb; omega)), Nat.cast_one, one_mul]
    refine Real.le_sqrt_of_sq_le ?_
    refine le_trans ?_ ((mag_strictMono f).monotone hc0)
    rw [h1, mag_normal, ← zpow_natCast, ← zpow_mul]
    refine zpow_le_zpow_right₀ one_le_two ?_
    have := hf.bias
    push_cast
    omega
  · rw [if_pos rfl] at h
    have : 0 ≤ f.mag c := by
      rw [← mag_zero f]
      exact (mag_strictMono f).monotone (Nat.zero_le c)
    linarith

/-- FSQRT of a number, with the root abstract: nothing is gained by computing it. -/
theorem fsqrt_fin {n : Bool} {m : Nat} {e : Int} (hv : f.valueFtz ftz a = .fin n m e) : ∃ x : Rounded, x = f.roundMag (armMode rm) false (magSqrt m e) 0 ∧
    f.fsqrt rm ftz a = if m = 0 then ⟨signed f n 0, 0, f.subnormal a⟩ else if n then ⟨f.canon, fNV, f.subnormal a⟩ else ⟨x.bits, x.flags, f.subnormal a⟩ := by
  refine ⟨_, rfl, ?_⟩
  unfold Fmt.fsqrt
  generalize magSqrt = root
  simp only [hv]

/-- FSQRT on a number. -/
theorem fsqrt_finite (hf : f.Arith) (hrm : rm ≤ 4) (ha : f.Finite a) :
    let x := f.real ftz a; let sqrt := f.fsqrt rm ftz a
    (0 < x → f.Gives (armMode rm) ftz (Real.sqrt x) 0 sqrt.bits sqrt.flags) ∧ (x = 0 → sqrt.Is (signed f (f.minus a) 0) 0) ∧ (x < 0 → sqrt.Is f.canon 16) := by
  obtain ⟨m, e, hva, hxa, -⟩ := valueFtz_finite hf.toWf ftz ha
  intro x sqrt
  have hx : x = 0 ↔ m = 0 := by rw [show x = _ from hxa.symm, real_fin_eq_zero]
  obtain ⟨r, hr, hsqrt⟩ := fsqrt_fin (rm := rm) hva
  rw [show sqrt = _ from hsqrt]
  refine ⟨fun h => ?_, fun h => ?_, fun h => ?_⟩
  · have hm : m ≠ 0 := mt hx.2 h.ne'
    have hpos := Nat.pos_of_ne_zero hm
    have hs : f.minus a = false := by
      by_contra hs
      have := (real_fin_neg_iff (n := f.minus a) (e := e) hpos).1 (by simpa using hs)
      rw [hxa] at this
      exact lt_asymm h this
    obtain ⟨his, hq⟩ := magSqrt_is hf.toWf e hpos
    rw [← abs_real_fin (f.minus a), hxa, abs_of_pos h] at his
    have harm : armMode rm ≠ 4 := by
      unfold armMode
      split <;> omega
    rw [if_neg hm, hs, if_neg Bool.false_ne_true]
    intro neg hneg
    have hsq : 0 ≤ Real.sqrt x := Real.sqrt_nonneg x
    obtain rfl : neg = false := by
      by_contra hn
      exact (hneg.1 (by simpa using hn)).not_ge hsq
    have hto := roundsTo_roundMag hf.toWf (armMode_le hrm) his (fun _ => ⟨hq, harm⟩) false 0 false
    rw [← hr] at hto
    rw [abs_of_nonneg hsq]
    exact ⟨fun _ _ ht => absurd ht (not_lt.2 (sqrt_normal hf ha.1 h)), fun _ => hto⟩
  · rw [if_pos (hx.1 h)]
    exact ⟨rfl, rfl⟩
  · have hm : m ≠ 0 := mt hx.2 h.ne
    have hs : f.minus a = true := (real_fin_neg_iff (e := e) (Nat.pos_of_ne_zero hm)).2 (hxa ▸ h)
    rw [if_neg hm, if_pos hs]
    exact ⟨rfl, rfl⟩

/-- The sum, the difference, the product and FMA on numbers. -/
theorem sums_finite (hf : f.Wf) (hrm : rm ≤ 4) (ha : f.Finite a) (hb : f.Finite b) :
    let x := f.real ftz a; let y := f.real ftz b; let sa := f.minus a; let sb := f.minus b; let add := f.fadd rm ftz a b; let sub := f.fsub rm ftz a b; let mul := f.fmul rm ftz a b
    ((x + y ≠ 0 → f.Gives (armMode rm) ftz (x + y) 0 add.bits add.flags) ∧ (x + y = 0 → x = 0 → sa = sb → add.Is (signed f sa 0) 0) ∧
      (x + y = 0 → x ≠ 0 ∨ sa ≠ sb → add.Is (signed f (rm == 3) 0) 0)) ∧
    ((x - y ≠ 0 → f.Gives (armMode rm) ftz (x - y) 0 sub.bits sub.flags) ∧ (x - y = 0 → x = 0 → sa ≠ sb → sub.Is (signed f sa 0) 0) ∧
      (x - y = 0 → x ≠ 0 ∨ sa = sb → sub.Is (signed f (rm == 3) 0) 0)) ∧
    ((x * y ≠ 0 → f.Gives (armMode rm) ftz (x * y) 0 mul.bits mul.flags) ∧ (x * y = 0 → mul.Is (signed f (sa != sb) 0) 0)) ∧
    (f.Finite c → let z := f.real ftz c; let fma := f.fma rm ftz a b c
      (x * y + z ≠ 0 → f.Gives (armMode rm) ftz (x * y + z) 0 fma.bits fma.flags) ∧ (x * y + z = 0 → x * y = 0 → (sa != sb) = f.minus c → fma.Is (signed f (f.minus c) 0) 0) ∧
      (x * y + z = 0 → x * y ≠ 0 ∨ (sa != sb) ≠ f.minus c → fma.Is (signed f (rm == 3) 0) 0)) := by
  obtain ⟨ma, ea, hva, hxa, -⟩ := valueFtz_finite hf ftz ha
  obtain ⟨mb, eb, hvb, hxb, -⟩ := valueFtz_finite hf ftz hb
  have hn : ∀ p q : Bool, (p = !q ↔ p ≠ q) ∧ (p ≠ !q ↔ p = q) := by decide
  refine ⟨?_, ?_, ?_, fun hc => ?_⟩
  · have h := sum_finite hf hrm ftz hxa hxb
    rw [← hva, ← hvb] at h
    exact h
  · have h := sum_finite hf hrm ftz hxa ((real_negate _ _ _).trans (congrArg Neg.neg hxb))
    rw [← hva, show FV.fin (!f.minus b) mb eb = (f.valueFtz ftz b).negate by rw [hvb]; rfl, (hn _ _).1, (hn _ _).2] at h
    simp only [sub_eq_add_neg]
    exact h
  · have h := product_finite hf hrm ftz hxa hxb
    rw [← hva, ← hvb] at h
    exact h
  · obtain ⟨mc, ec, hvc, hxc, -⟩ := valueFtz_finite hf ftz hc
    obtain ⟨hmul, hr⟩ := mul_fin (f.minus a) (f.minus b) ma mb ea eb
    rw [hxa, hxb] at hr
    have h := sum_finite hf hrm ftz hr hxc
    have hp : f.exactProduct a b ftz = (.fin (f.minus a != f.minus b) (ma * mb) (ea + eb), 0) := by rw [Fmt.exactProduct, hva, hvb, hmul]
    have hfl : (f.fma rm ftz a b c).flags = (f.sum rm ftz (.fin (f.minus a != f.minus b) (ma * mb) (ea + eb)) (.fin (f.minus c) mc ec)).flags := by
      rw [fma_flags, hp, hvc, Nat.zero_or]
      rfl
    intro z fma
    rw [FRes.Is, FRes.Is, fma_bits, hfl, hp, hvc]
    refine ⟨h.1, fun h1 h2 h3 => ?_, h.2.2⟩
    have := h.2.1 h1 h2 h3
    rw [show signed f (f.minus a != f.minus b) 0 = signed f (f.minus c) 0 by rw [h3]] at this
    exact this

end

end Sys2Proof.Machine
end

section
/-! Settles O60, second part. Infinities, NaN and conversions (R54, R64 to R68, R110). -/

namespace Sys2Proof.Machine

section
variable {f : Fmt} {rm a b c : Nat} {ftz : Bool}

theorem infCode_eq (f : Fmt) (n : Bool) : f.infCode n = signed f n f.infMag := rfl

theorem eq_infCode (h : f.Inf a) : a = f.infCode (f.minus a) := by
  obtain ⟨-, ha, hm⟩ := h
  obtain ⟨s, c, hc, rfl⟩ := exists_signed ha
  rw [signed_mod hc] at hm
  rw [minus_signed hc, hm]
  rfl

theorem not_fin_of_inf (hf : f.Wf) (h : f.Inf a) : (f.value a).isNan = false := by
  have h' := valueFtz_infinite hf false h
  rw [show f.valueFtz false a = f.value a from rfl] at h'
  rw [h']
  rfl

/-! Sums and products with an infinity -/

theorem sum_inf_fin (hi : f.inf = true) (rm : Nat) (ftz n m : Bool) (k : Nat) (e : Int) : (f.sum rm ftz (.inf n) (.fin m k e)).Is (f.infCode n) 0 := result_inf hi _ ftz n 0 0

theorem sum_fin_inf (hi : f.inf = true) (rm : Nat) (ftz n m : Bool) (k : Nat) (e : Int) : (f.sum rm ftz (.fin m k e) (.inf n)).Is (f.infCode n) 0 := result_inf hi _ ftz n 0 0

theorem sum_inf_same (hi : f.inf = true) (rm : Nat) (ftz n : Bool) : (f.sum rm ftz (.inf n) (.inf n)).Is (f.infCode n) 0 := by
  rw [Fmt.sum, FV.add, if_pos rfl]
  exact result_inf hi _ ftz n 0 0

theorem sum_inf_opposite (f : Fmt) (rm : Nat) (ftz : Bool) {n m : Bool} (h : n ≠ m) : (f.sum rm ftz (.inf n) (.inf m)).Is f.canon 16 := by
  rw [Fmt.sum, FV.add, if_neg h]
  exact result_nan f _ ftz false fNV 0

/-- What a product with an infinity gives: a NaN where the other factor is 0. -/
theorem product_infinite (hi : f.inf = true) (rm : Nat) (ftz n m : Bool) : (f.product rm ftz (.inf n) (.inf m)).Is (f.infCode (n != m)) 0 ∧
    (∀ k e, (f.product rm ftz (.inf n) (.fin m k e)).Is (if k = 0 then f.canon else f.infCode (n != m)) (if k = 0 then 16 else 0)) ∧
    (∀ k e, (f.product rm ftz (.fin n k e) (.inf m)).Is (if k = 0 then f.canon else f.infCode (n != m)) (if k = 0 then 16 else 0)) := by
  refine ⟨result_inf hi _ ftz _ 0 0, fun k e => ?_, fun k e => ?_⟩
  all_goals
    by_cases h : k = 0
    · rw [if_pos h, if_pos h, Fmt.product, FV.mul, if_pos h]
      exact result_nan f _ ftz false fNV 0
    · rw [if_neg h, if_neg h, Fmt.product, FV.mul, if_neg h]
      exact result_inf hi _ ftz _ 0 0

/-- An infinity as the first operand. -/
theorem infinite_left (hf : f.Arith) (ha : f.Inf a) :
    let y := f.real ftz b; let sa := f.minus a; let sb := f.minus b; let add := f.fadd rm ftz a b; let sub := f.fsub rm ftz a b; let mul := f.fmul rm ftz a b
    let div := f.fdiv rm ftz a b; let sqrt := f.fsqrt rm ftz a
    sqrt.Is (if sa then f.canon else a) (if sa then 16 else 0) ∧
    (f.Finite b → add.Is a 0 ∧ sub.Is a 0 ∧ div.Is (f.infCode (sa != sb)) 0 ∧ (y = 0 → mul.Is f.canon 16) ∧ (y ≠ 0 → mul.Is (f.infCode (sa != sb)) 0)) ∧
    (f.Inf b → (sa = sb → add.Is a 0 ∧ sub.Is f.canon 16) ∧ (sa ≠ sb → add.Is f.canon 16 ∧ sub.Is a 0) ∧ mul.Is (f.infCode (sa != sb)) 0 ∧ div.Is f.canon 16) := by
  have hva := valueFtz_infinite hf.toWf ftz ha
  have hca := eq_infCode ha
  intro y sa sb add sub mul div sqrt
  refine ⟨?_, fun hb => ?_, fun hb => ?_⟩
  · simp only [sqrt, Fmt.fsqrt, hva]
    cases hs : f.minus a
    · rw [hs] at hca
      simp only [sa, hs]
      exact ⟨hca.symm, rfl⟩
    · simp only [sa, hs]
      exact ⟨rfl, rfl⟩
  · obtain ⟨m, e, hvb, hxb, -⟩ := valueFtz_finite hf.toWf ftz hb
    have hy : y = 0 ↔ m = 0 := by rw [show y = _ from hxb.symm, real_fin_eq_zero]
    have hadd := sum_inf_fin hf.infinite rm ftz (f.minus a) (f.minus b) m e
    have hsub := sum_inf_fin hf.infinite rm ftz (f.minus a) (!f.minus b) m e
    have hneg : FV.fin (!f.minus b) m e = (f.valueFtz ftz b).negate := by rw [hvb]; rfl
    have h3 := (product_infinite hf.infinite rm ftz (f.minus a) (f.minus b)).2.1 m e
    rw [← hva, ← hca] at hadd hsub
    rw [← hvb] at hadd
    rw [hneg] at hsub
    rw [← hva, ← hvb] at h3
    refine ⟨hadd, hsub, ?_, fun h => ?_, fun h => ?_⟩
    · simp only [div, Fmt.fdiv, hva, hvb]
      exact ⟨rfl, rfl⟩
    · rwa [if_pos (hy.1 h), if_pos (hy.1 h)] at h3
    · rwa [if_neg (mt hy.2 h), if_neg (mt hy.2 h)] at h3
  · have hvb := valueFtz_infinite hf.toWf ftz hb
    have hmul := (product_infinite hf.infinite rm ftz (f.minus a) (f.minus b)).1
    rw [← hva, ← hvb] at hmul
    have hadd := fadd_is f rm a b ftz
    have hsub := fsub_is f rm a b ftz
    rw [hva, hvb] at hadd hsub
    have hn : ∀ p q : Bool, (p ≠ q → p = !q) ∧ (p = q → p ≠ !q) := by decide
    have hsame := sum_inf_same hf.infinite rm ftz (f.minus a)
    rw [← hca] at hsame
    refine ⟨fun h => ⟨?_, ?_⟩, fun h => ⟨?_, ?_⟩, hmul, ?_⟩
    · rw [← show f.minus a = f.minus b from h] at hadd
      exact ⟨hadd.1.trans hsame.1, hadd.2.trans hsame.2⟩
    · have := sum_inf_opposite f rm ftz ((hn _ _).2 h)
      exact ⟨hsub.1.trans this.1, hsub.2.trans this.2⟩
    · have := sum_inf_opposite f rm ftz h
      exact ⟨hadd.1.trans this.1, hadd.2.trans this.2⟩
    · rw [FV.negate, ← (hn _ _).1 h] at hsub
      exact ⟨hsub.1.trans hsame.1, hsub.2.trans hsame.2⟩
    · simp only [div, Fmt.fdiv, hva, hvb]
      exact ⟨rfl, rfl⟩

/-- A number and an infinity. -/
theorem infinite_right (hf : f.Arith) (ha : f.Finite a) (hb : f.Inf b) :
    let x := f.real ftz a; let sa := f.minus a; let sb := f.minus b; let mul := f.fmul rm ftz a b
    (f.fadd rm ftz a b).Is b 0 ∧ (f.fsub rm ftz a b).Is (f.infCode (!sb)) 0 ∧ (f.fdiv rm ftz a b).Is (signed f (sa != sb) 0) 0 ∧ (x = 0 → mul.Is f.canon 16) ∧
      (x ≠ 0 → mul.Is (f.infCode (sa != sb)) 0) := by
  obtain ⟨m, e, hva, hxa, -⟩ := valueFtz_finite hf.toWf ftz ha
  have hvb := valueFtz_infinite hf.toWf ftz hb
  have hcb := eq_infCode hb
  intro x sa sb mul
  have hx : x = 0 ↔ m = 0 := by rw [show x = _ from hxa.symm, real_fin_eq_zero]
  have hadd := sum_fin_inf hf.infinite rm ftz (f.minus b) (f.minus a) m e
  have hsub := sum_fin_inf hf.infinite rm ftz (!f.minus b) (f.minus a) m e
  have hmul := (product_infinite hf.infinite rm ftz (f.minus a) (f.minus b)).2.2 m e
  rw [← hva, ← hvb, ← hcb] at hadd
  rw [← hva, show FV.inf (!f.minus b) = (f.valueFtz ftz b).negate by rw [hvb]; rfl] at hsub
  rw [← hva, ← hvb] at hmul
  refine ⟨hadd, hsub, ?_, fun h => ?_, fun h => ?_⟩
  · simp only [Fmt.fdiv, hva, hvb]
    exact ⟨rfl, rfl⟩
  · rwa [if_pos (hx.1 h), if_pos (hx.1 h)] at hmul
  · rwa [if_neg (mt hx.2 h), if_neg (mt hx.2 h)] at hmul

/-! NaN -/

/-- The flag that NaN operands raise. -/
def nanFlags (u v : FV) : Nat := if u.isSnan || v.isSnan then 16 else 0

theorem add_nan {u v : FV} (h : u.isNan = true ∨ v.isNan = true) (rdn : Bool) : u.add v rdn = (.nan false, nanFlags u v) := by
  cases u <;> cases v <;> simp_all [FV.isNan, FV.add, nanFlags, FV.isSnan, fNV]

theorem mul_nan {u v : FV} (h : u.isNan = true ∨ v.isNan = true) : u.mul v = (.nan false, nanFlags u v) := by
  cases u <;> cases v <;> simp_all [FV.isNan, FV.mul, nanFlags, FV.isSnan, fNV]

theorem fdiv_nan (h : (f.valueFtz ftz a).isNan = true ∨ (f.valueFtz ftz b).isNan = true) :
    (f.fdiv rm ftz a b).Is f.canon (nanFlags (f.valueFtz ftz a) (f.valueFtz ftz b)) := by
  unfold Fmt.fdiv
  generalize magDiv = quotient
  generalize f.valueFtz ftz a = u at *
  generalize f.valueFtz ftz b = v at *
  have hor (s : Bool) : (if s then fNV else 0) = if s || false then 16 else 0 := by rw [Bool.or_false]; rfl
  cases u with
  | nan s =>
    cases v with
    | nan t => exact ⟨rfl, rfl⟩
    | inf m => exact ⟨rfl, hor s⟩
    | fin m k e => exact ⟨rfl, hor s⟩
  | inf n =>
    cases v with
    | nan t => exact ⟨rfl, rfl⟩
    | inf m => simp [FV.isNan] at h
    | fin m k e => simp [FV.isNan] at h
  | fin n k e =>
    cases v with
    | nan t => exact ⟨rfl, rfl⟩
    | inf m => simp [FV.isNan] at h
    | fin m l d => simp [FV.isNan] at h

/-- FTZ changes neither what is a NaN nor which NaN signals. -/
theorem nan_valueFtz (hf : f.Wf) (ftz : Bool) (ha : a < 2 ^ f.bits) : (f.valueFtz ftz a).isNan = (f.value a).isNan ∧ (f.valueFtz ftz a).isSnan = (f.value a).isSnan := by
  cases hv : f.value a with
  | nan g => rw [valueFtz_of_not_fin hf ftz ha (by rw [hv]; rfl), hv]; exact ⟨rfl, rfl⟩
  | inf n => rw [valueFtz_of_not_fin hf ftz ha (by rw [hv]; rfl), hv]; exact ⟨rfl, rfl⟩
  | fin n m e =>
    rw [Fmt.valueFtz, hv]
    split <;> exact ⟨rfl, rfl⟩

/-- A NaN operand: the canonical NaN, NV for one that signals. -/
theorem nan_operand (hf : f.Wf) (ha : a < 2 ^ f.bits) (hb : b < 2 ^ f.bits) (h : (f.value a).isNan = true ∨ (f.value b).isNan = true) :
    let fl := if (f.value a).isSnan || (f.value b).isSnan then 16 else 0
    (f.fadd rm ftz a b).Is f.canon fl ∧ (f.fsub rm ftz a b).Is f.canon fl ∧ (f.fmul rm ftz a b).Is f.canon fl ∧ (f.fdiv rm ftz a b).Is f.canon fl ∧ (f.fma rm ftz a b c).bits = f.canon := by
  obtain ⟨hna, hsa⟩ := nan_valueFtz hf ftz ha
  obtain ⟨hnb, hsb⟩ := nan_valueFtz hf ftz hb
  rw [← hna, ← hnb] at h
  rw [← hsa, ← hsb]
  have hneg : ∀ v : FV, v.negate.isNan = v.isNan ∧ v.negate.isSnan = v.isSnan := fun v => by cases v <;> exact ⟨rfl, rfl⟩
  have hcanon (fl : Nat) : (f.result (armMode rm) ftz (.nan false) fl).Is f.canon fl := by simpa using result_nan f (armMode rm) ftz false fl 0
  refine ⟨?_, ?_, ?_, ?_, ?_⟩
  · have := fadd_is f rm a b ftz
    rw [Fmt.sum, add_nan h] at this
    exact ⟨this.1.trans (hcanon _).1, this.2.trans (hcanon _).2⟩
  · have := fsub_is f rm a b ftz
    rw [Fmt.sum, add_nan (by rwa [(hneg _).1]), nanFlags, (hneg _).2] at this
    exact ⟨this.1.trans (hcanon _).1, this.2.trans (hcanon _).2⟩
  · have := fmul_is f rm a b ftz
    rw [Fmt.product, mul_nan h] at this
    exact ⟨this.1.trans (hcanon _).1, this.2.trans (hcanon _).2⟩
  · exact fdiv_nan h
  · rw [fma_bits, Fmt.exactProduct, mul_nan h, Fmt.sum, add_nan (.inl rfl)]
    exact (hcanon _).1

theorem roundArithmetic : Rules.RoundArithmetic := by
  intro f rm a b c ftz hmem hrm ha hb hc x y z mode zero sa sb sc add sub mul div sqrt fma
  have hf := arith_of hmem
  refine ⟨fun hfa hfb => ?_, fun hia => infinite_left hf hia, fun hfa hib => infinite_right hf hfa hib, fun h => nan_operand hf.toWf ha hb h, fun h => ?_, fun h => ?_, fun hia hfb hy => ?_⟩
  · obtain ⟨⟨a1, a2, a3⟩, ⟨s1, s2, s3⟩, ⟨m1, m2⟩, hfma⟩ := sums_finite (c := c) (ftz := ftz) hf.toWf hrm hfa hfb
    obtain ⟨d1, d2, d3, d4⟩ := fdiv_finite (ftz := ftz) hf.toWf hrm hfa hfb
    obtain ⟨q1, q2, q3⟩ := fsqrt_finite (ftz := ftz) hf hrm hfa
    exact ⟨a1, a2, a3, s1, s2, s3, m1, m2, d1, d2, d3, d4, q1, q2, q3, hfma⟩
  · obtain ⟨hn, hs⟩ := nan_valueFtz hf.toWf ftz ha
    rw [← hn] at h
    rw [← hs]
    cases hv : f.valueFtz ftz a with
    | nan g => simp only [sqrt, Fmt.fsqrt, hv]; exact ⟨rfl, rfl⟩
    | inf n => rw [hv] at h; cases h
    | fin n m e => rw [hv] at h; cases h
  · rw [← (nan_valueFtz hf.toWf ftz hc).1] at h
    rw [show fma.bits = _ from fma_bits .., Fmt.sum, add_nan (.inr h)]
    exact (result_nan f _ ftz false _ 0).1
  · obtain ⟨m, e, hvb, hxb, -⟩ := valueFtz_finite hf.toWf ftz hfb
    have hm : m = 0 := by rwa [← real_fin_eq_zero, hxb]
    have hp : f.exactProduct a b ftz = (.nan false, fNV) := by
      rw [Fmt.exactProduct, valueFtz_infinite hf.toWf ftz hia, hvb, FV.mul, if_pos hm]
    have hsum := add_nan (u := .nan false) (v := f.valueFtz ftz c) (.inl rfl) (rm == 3)
    refine ⟨?_, ?_⟩
    · rw [show fma.bits = _ from fma_bits .., Fmt.sum, hp, hsum]
      exact (result_nan f _ ftz false _ 0).1
    · rw [show fma.flags = _ from fma_flags .., hp, hsum]
      refine (result_nan f _ ftz false _ 0).2.trans ?_
      show 0 ||| (16 ||| nanFlags _ _) = 16
      rw [nanFlags]
      split <;> rfl

end

end Sys2Proof.Machine
end

section
/-! Settles O60, last part. Conversions: between formats, from integers, to integers, and in groups of eight (R64 to R68, R110). -/

namespace Sys2Proof.Machine

/-! The hash of R65 -/

theorem scalarHash_eq (d : Nat) : scalarHash d = 0 := by simp [scalarHash, hash16, rotl16]

theorem d16_lt (f : Fmt) (x : Mag) : f.d16 x < 2 ^ 16 := by
  have hrem := cut_rem_lt f x
  unfold Fmt.d16
  split
  · exact Nat.two_pow_pos 16
  rw [show f.cut x = ((f.cut x).1, (f.cut x).2.1, (f.cut x).2.2) from rfl]
  simp only
  split
  · exact Nat.two_pow_pos 16
  split
  next h =>
    rw [Nat.shiftRight_eq_div_pow]
    refine Nat.div_lt_of_lt_mul ?_
    rwa [← Nat.pow_add, Nat.sub_add_cancel h]
  next h =>
    have := Nat.mul_lt_mul_of_pos_right hrem (Nat.two_pow_pos (16 - (f.cut x).2.2))
    rwa [← Nat.pow_add, Nat.add_sub_cancel' (Nat.le_of_not_le h)] at this

theorem d_lt (f : Fmt) (v : FV) : f.d v < 2 ^ 16 := by
  unfold Fmt.d
  split
  · exact d16_lt _ _
  · exact Nat.two_pow_pos 16

theorem rotl16_five {v : Nat} (h : v < 2 ^ 16) : rotl16 v 5 = v % 2 ^ 11 * 2 ^ 5 + v / 2 ^ 11 := by
  unfold rotl16
  omega

/-! Between formats -/

section
variable {q t : Fmt} {mode b : Nat} {ftz : Bool}

theorem convert_is (q t : Fmt) (mode : Nat) (ftz : Bool) (b : Nat) :
    (convert q t mode ftz b).Is (t.result mode ftz (q.valueFtz ftz b) 0 0).bits (t.result mode ftz (q.valueFtz ftz b) 0 0).flags := by
  rw [convert, scalarHash_eq]
  exact ⟨rfl, rfl⟩

theorem convert_finite (hq : q.Wf) (ht : t.Wf) (hm : mode ≤ 4) (h : q.Finite b) :
    let x := q.real ftz b; let y := convert q t mode ftz b
    (x ≠ 0 → t.Gives mode ftz x 0 y.bits y.flags) ∧ (x = 0 → y.Is (signed t (q.minus b) 0) 0) := by
  obtain ⟨m, e, hv, hx, -⟩ := valueFtz_finite hq ftz h
  intro x y
  have hy := convert_is q t mode ftz b
  rw [FRes.Is, hv] at hy
  rw [FRes.Is, show y.bits = _ from hy.1, show y.flags = _ from hy.2, show x = _ from hx.symm, Ne, real_fin_eq_zero]
  refine ⟨fun h0 => gives_result ht hm (Nat.pos_of_ne_zero h0) ftz 0, fun h0 => ?_⟩
  rw [h0]
  exact result_zero t mode ftz _ e 0 0

theorem convert_nan (hq : q.Wf) (hb : b < 2 ^ q.bits) (h : (q.value b).isNan = true) : (convert q t mode ftz b).Is t.canon (if (q.value b).isSnan then 16 else 0) := by
  obtain ⟨hn, hs⟩ := nan_valueFtz hq ftz hb
  have hy := convert_is q t mode ftz b
  rw [← hn] at h
  rw [← hs]
  cases hv : q.valueFtz ftz b with
  | nan g =>
    rw [hv] at hy
    have hr := result_nan t mode ftz g 0 0
    rw [Nat.or_zero] at hr
    exact ⟨hy.1.trans hr.1, hy.2.trans hr.2⟩
  | inf n => rw [hv] at h; cases h
  | fin n m e => rw [hv] at h; cases h

/-- An infinity in a format that has none. -/
theorem result_no_inf {f : Fmt} (hi : f.inf = false) (mode : Nat) (ftz n : Bool) (d : Nat) : (f.result mode ftz (.inf n) 0 d).Is f.canon 16 := by
  have hr : f.round mode (.inf n) d = ⟨f.canon, fNV, false⟩ := if_neg (by simp [hi])
  rw [FRes.Is, Fmt.result, hr, flush_not_tiny rfl]
  exact ⟨rfl, Nat.or_zero _⟩

theorem convert_inf (hq : q.Wf) (h : q.Inf b) : (t.inf = true → (convert q t mode ftz b).Is (t.infCode (q.minus b)) 0) ∧ (t = e4m3 → (convert q t mode ftz b).Is 127 16) := by
  have hy := convert_is q t mode ftz b
  rw [valueFtz_infinite hq ftz h] at hy
  refine ⟨fun hi => ?_, ?_⟩
  · have hr := result_inf hi mode ftz (q.minus b) 0 0
    exact ⟨hy.1.trans hr.1, hy.2.trans hr.2⟩
  · rintro rfl
    have hr := result_no_inf (f := e4m3) rfl mode ftz (q.minus b) 0
    exact ⟨hy.1.trans hr.1, hy.2.trans hr.2⟩

/-- FCVTF to the same format (log 17). -/
theorem sameFormat_is (hq : q.Wf) (hb : b < 2 ^ q.bits) :
    (q.Finite b ∨ q.Inf b → ftz = false ∨ q.subnormal b = false → (sameFormat q ftz b).Is b 0) ∧ (q.subnormal b = true → ftz = true → (sameFormat q ftz b).Is (signed q (q.minus b) 0) 0) ∧
      ((q.value b).isNan = true → (sameFormat q ftz b).Is q.canon (if (q.value b).isSnan then 16 else 0)) := by
  have hnum (h : q.Finite b ∨ q.Inf b) : (q.value b).isNan = false ∧ (q.value b).neg = q.minus b := by
    have hz : q.valueFtz false b = q.value b := rfl
    rcases h with h | h
    · obtain ⟨m, e, hv, -⟩ := valueFtz_finite hq false h
      rw [← hz, hv]
      exact ⟨rfl, rfl⟩
    · rw [← hz, valueFtz_infinite hq false h]
      exact ⟨rfl, rfl⟩
  refine ⟨fun h h' => ?_, fun h h' => ?_, fun h => ?_⟩
  · rw [sameFormat, if_neg (by simp [(hnum h).1]), if_neg (by rcases h' with h' | h' <;> simp [h'])]
    exact ⟨rfl, rfl⟩
  · obtain ⟨hn, hs⟩ := hnum (.inl (finite_of_subnormal hq hb h))
    rw [sameFormat, if_neg (by simp [hn]), if_pos (by simp [h, h']), hs]
    exact ⟨rfl, rfl⟩
  · rw [sameFormat, if_pos h]
    exact ⟨rfl, rfl⟩

end

/-! To integers -/

/-- The integer beside z = ±(kept + rest) that a mode rounds to. -/
theorem roundInt_eq {mode : Nat} (hm : mode ≤ 4) (n : Bool) (m : Nat) (e : Int) : ∃ kept : Nat, ∃ rest : ℝ, ∃ up : Bool, 0 ≤ rest ∧ rest < 1 ∧ (m : ℝ) * (2 : ℝ) ^ e = kept + rest ∧
    (roundInt mode n m e).1 = (if n then -1 else 1) * ((kept + if up then 1 else 0 : Nat) : Int) ∧ ((roundInt mode n m e).2 = true ↔ 0 < rest) ∧
    (mode = 1 → up = false) ∧ (mode = 2 → (up = true ↔ 0 < rest ∧ n = false)) ∧ (mode = 3 → (up = true ↔ 0 < rest ∧ n = true)) ∧
    (mode = 0 ∨ mode = 4 → (up = true ↔ 1 < 2 * rest ∨ 1 = 2 * rest ∧ kept % 2 = 1)) := by
  by_cases he : e ≥ 0
  · refine ⟨m * 2 ^ e.toNat, 0, false, le_refl _, one_pos, ?_, ?_, ?_, fun _ => rfl, ?_, ?_, ?_⟩
    · rw [add_zero]
      push_cast
      rw [← zpow_natCast, Int.toNat_of_nonneg he]
    · rw [roundInt, if_pos he]
      simp
    · rw [roundInt, if_pos he]
      simp
    · simp
    · simp
    · norm_num
  · set sh := (-e).toNat with hsh
    set rem := m % 2 ^ sh with hrem
    have hp : (0 : ℝ) < 2 ^ sh := by positivity
    have hlt : rem < 2 ^ sh := Nat.mod_lt _ (Nat.two_pow_pos _)
    have hpos : (0 : ℝ) < rem / 2 ^ sh ↔ rem ≠ 0 := by rw [lt_div_iff₀ hp, zero_mul, Nat.cast_pos, Nat.pos_iff_ne_zero]
    have hexp : (2 : ℝ) ^ e = (2 ^ sh)⁻¹ := by
      rw [← zpow_natCast, ← zpow_neg]
      congr 1
      omega
    have hsum : (m : ℝ) * (2 : ℝ) ^ e = (m >>> sh : Nat) + (rem : ℝ) / 2 ^ sh := by
      have : ((m >>> sh : Nat) : ℝ) * 2 ^ sh + rem = m := by
        rw [Nat.shiftRight_eq_div_pow]
        exact_mod_cast Nat.div_add_mod' m (2 ^ sh)
      rw [hexp, ← this]
      field_simp
    have hhalf : (decide (2 * rem > 2 ^ sh) || (2 * rem == 2 ^ sh && (m >>> sh) % 2 == 1)) = true ↔ 1 < 2 * ((rem : ℝ) / 2 ^ sh) ∨ 1 = 2 * ((rem : ℝ) / 2 ^ sh) ∧ (m >>> sh) % 2 = 1 := by
      have h1 : 1 < 2 * ((rem : ℝ) / 2 ^ sh) ↔ 2 * rem > 2 ^ sh := by
        rw [← mul_div_assoc, lt_div_iff₀ hp, one_mul]
        exact_mod_cast Iff.rfl
      have h2 : 1 = 2 * ((rem : ℝ) / 2 ^ sh) ↔ 2 * rem = 2 ^ sh := by
        rw [← mul_div_assoc, eq_div_iff hp.ne', one_mul, eq_comm]
        exact_mod_cast Iff.rfl
      simp [h1, h2]
    have hr0 : (0 : ℝ) ≤ rem / 2 ^ sh := by positivity
    have hr1 : (rem : ℝ) / 2 ^ sh < 1 := by
      rw [div_lt_one hp]
      exact_mod_cast hlt
    have hri : ∀ up : Bool, up = (match armMode mode with
        | 1 => false
        | 2 => rem ≠ 0 && !n
        | 3 => rem ≠ 0 && n
        | _ => 2 * rem > 2 ^ sh || (2 * rem == 2 ^ sh && (m >>> sh) % 2 == 1)) →
        roundInt mode n m e = ((if n then -1 else 1) * ((m >>> sh + if up then 1 else 0 : Nat) : Int), decide (rem ≠ 0)) := by
      rintro up rfl
      exact if_neg he
    have hdec : decide (rem ≠ 0) = true ↔ 0 < (rem : ℝ) / 2 ^ sh := by rw [decide_eq_true_eq, hpos]
    refine ⟨m >>> sh, rem / 2 ^ sh, _, hr0, hr1, hsum, congrArg Prod.fst (hri _ rfl), by rw [hri _ rfl]; exact hdec, ?_, ?_, ?_, ?_⟩
    · rintro rfl; rfl
    · rintro rfl
      show (decide (rem ≠ 0) && !n) = true ↔ _
      rw [Bool.and_eq_true, hdec, Bool.not_eq_true']
    · rintro rfl
      show (decide (rem ≠ 0) && n) = true ↔ _
      rw [Bool.and_eq_true, hdec]
    · rintro (rfl | rfl)
      · exact hhalf
      · exact hhalf

theorem roundInt_real {mode : Nat} (hm : mode ≤ 4) (n : Bool) (m : Nat) (e : Int) :
    let z : ℝ := (if n then -1 else 1) * (m * (2 : ℝ) ^ e); let p := roundInt mode n m e
    (p.2 = true ↔ z ≠ p.1) ∧ (mode = 1 → p.1 = if n then ⌈z⌉ else ⌊z⌋) ∧ (mode = 2 → p.1 = ⌈z⌉) ∧ (mode = 3 → p.1 = ⌊z⌋) ∧
      (mode = 0 ∨ mode = 4 → |z - p.1| ≤ 1 / 2 ∧ (|z - p.1| = 1 / 2 → Even p.1)) := by
  obtain ⟨kept, rest, up, h0, h1, hz, hp1, hp2, hm1, hm2, hm3, hm0⟩ := roundInt_eq hm n m e
  intro z p
  have hup : rest = 0 → up = false := by
    rintro rfl
    by_contra h
    rw [Bool.not_eq_false] at h
    obtain rfl | rfl | rfl | rfl | rfl : mode = 0 ∨ mode = 1 ∨ mode = 2 ∨ mode = 3 ∨ mode = 4 := by omega
    · have := (hm0 (.inl rfl)).1 h
      norm_num at this
    · simp [hm1 rfl] at h
    · exact lt_irrefl _ ((hm2 rfl).1 h).1
    · exact lt_irrefl _ ((hm3 rfl).1 h).1
    · have := (hm0 (.inr rfl)).1 h
      norm_num at this
  have hfloor : ⌊(kept + rest : ℝ)⌋ = kept := by
    rw [Int.floor_eq_iff]
    exact ⟨by simpa using h0, by simpa using h1⟩
  have hceil : ⌈(kept + rest : ℝ)⌉ = kept + if 0 < rest then 1 else 0 := by
    rw [Int.ceil_eq_iff]
    split
    · push_cast
      constructor <;> linarith
    · push_cast
      constructor <;> linarith
  set k : Nat := kept + if up then 1 else 0 with hk
  have hzw : z = if n then -(kept + rest : ℝ) else kept + rest := by
    simp only [z, hz]
    cases n <;> simp
  have hpk : p.1 = if n then -(k : Int) else k := by
    rw [show p.1 = _ from hp1]
    cases n <;> simp
  have hk1 : mode = 1 → k = kept := fun h => by rw [hk, hm1 h]; rfl
  have hk2 (v : Bool) (h : up = true ↔ 0 < rest ∧ n = v) : (n = v → (k : Int) = kept + if 0 < rest then 1 else 0) ∧ (n ≠ v → k = kept) := by
    refine ⟨fun hn => ?_, fun hn => ?_⟩
    · have : up = decide (0 < rest) := Bool.eq_iff_iff.2 (by rw [h, decide_eq_true_eq]; exact and_iff_left hn)
      rw [hk, this]
      split <;> simp_all
    · have : up = false := by
        by_contra hu
        exact hn (h.1 (by simpa using hu)).2
      rw [hk, this]
      rfl
  have hdist : |z - p.1| = |kept + rest - k| := by
    rw [hzw, hpk]
    cases n
    · simp
    · rw [if_pos rfl, if_pos rfl, Int.cast_neg, ← neg_add', abs_neg, Int.cast_natCast, ← sub_eq_add_neg]
  have hkr : (k : ℝ) = kept + if up then 1 else 0 := by
    rw [hk]
    cases up <;> simp
  refine ⟨hp2.trans ?_, fun h => ?_, fun h => ?_, fun h => ?_, fun h => ?_⟩
  · rw [Ne, ← sub_eq_zero, ← abs_eq_zero, hdist, abs_eq_zero, sub_eq_zero, hkr]
    constructor
    · intro hr he
      cases hu : up <;> simp [hu] at he <;> linarith
    · intro hne
      refine lt_of_le_of_ne h0 fun hr => hne ?_
      simp [← hr, hup hr.symm]
  · rw [hpk, hzw, hk1 h]
    cases n
    · exact hfloor.symm
    · rw [if_pos rfl, if_pos rfl, if_pos rfl, Int.ceil_neg, hfloor]
  · rw [hpk, hzw]
    obtain ⟨hs, hd⟩ := hk2 false (hm2 h)
    cases n
    · exact (hs rfl).trans hceil.symm
    · rw [if_pos rfl, if_pos rfl, Int.ceil_neg, hfloor, hd (by decide)]
  · rw [hpk, hzw]
    obtain ⟨hs, hd⟩ := hk2 true (hm3 h)
    cases n
    · rw [hd (by decide)]
      exact hfloor.symm
    · rw [if_pos rfl, if_pos rfl, Int.floor_neg, hceil, hs rfl]
  · have heven : Even p.1 ↔ Even k := by
      rw [hpk]
      cases n <;> simp
    rw [hdist, heven, hkr]
    have hn := hm0 h
    cases hu : up
    · rw [hu] at hn
      have hle : 2 * rest ≤ 1 := by
        by_contra hlt
        exact Bool.false_ne_true (hn.2 (.inl (not_le.1 hlt)))
      have habs : |(kept + rest - (kept + if false = true then 1 else 0) : ℝ)| = rest := by simp [abs_of_nonneg h0]
      rw [habs, hk, hu]
      refine ⟨by linarith, fun he => ?_⟩
      rw [if_neg Bool.false_ne_true, Nat.add_zero, Nat.even_iff]
      by_contra hodd
      exact Bool.false_ne_true (hn.2 (.inr ⟨by linarith, by omega⟩))
    · have hge := hn.1 hu
      have habs : |(kept + rest - (kept + if true = true then 1 else 0) : ℝ)| = 1 - rest := by
        rw [if_pos rfl, abs_sub_comm, abs_of_pos] <;> linarith
      rw [habs, hk, hu]
      refine ⟨by rcases hge with h | h <;> linarith [h], fun he => ?_⟩
      obtain h | ⟨-, h⟩ := hge
      · linarith
      · rw [if_pos rfl, Nat.even_iff]
        omega

/-! In groups of eight -/

theorem convGroup_getElem (t : Fmt) (mode : Nat) (ftz : Bool) {xs : List (FV × Bool)} {i : Nat} {v : FV} {sub : Bool} (h : xs[i]? = some (v, sub)) :
    ∃ y, (convGroup t mode ftz xs)[i]? = some y ∧ y.Is (t.result mode ftz v 0 (hash16 ((List.range 8).map fun j => ln (xs.map fun p => t.d p.1) (i / 8 * 8 + j)) (i % 8))).bits
      (t.result mode ftz v 0 (hash16 ((List.range 8).map fun j => ln (xs.map fun p => t.d p.1) (i / 8 * 8 + j)) (i % 8))).flags := by
  set r := t.result mode ftz v 0 (hash16 ((List.range 8).map fun j => ln (xs.map fun p => t.d p.1) (i / 8 * 8 + j)) (i % 8)) with hr
  refine ⟨{ r with sub := r.sub || sub }, ?_, rfl, rfl⟩
  rw [convGroup, List.getElem?_map, List.getElem?_zipIdx, h]
  simp [hr]

/-- r of R65 for the element i of a group. -/
theorem hash16_group (t : Fmt) (xs : List (FV × Bool)) (i : Nat) :
    let ds := (List.range 8).map fun j => ((xs[i / 8 * 8 + j]?).map fun p => t.d p.1).getD 0
    let rotl5 (v : Nat) : Nat := v % 2 ^ 11 * 2 ^ 5 + v / 2 ^ 11
    hash16 ((List.range 8).map fun j => ln (xs.map fun p => t.d p.1) (i / 8 * 8 + j)) (i % 8) =
      ((ds.getD ((i % 8 + 1) % 8) 0 ^^^ rotl5 (ds.getD ((i % 8 + 7) % 8) 0)) * 0x6F4B + 0x3A91 * (i % 8)) % 2 ^ 16 := by
  intro ds rotl5
  have hds : ((List.range 8).map fun j => ln (xs.map fun p => t.d p.1) (i / 8 * 8 + j)) = ds :=
    List.map_congr_left fun j _ => by rw [ln, List.getD_eq_getElem?_getD, List.getElem?_map]
  have hlt : ∀ k, ds.getD k 0 < 2 ^ 16 := fun k => by
    rw [getD_map_range]
    split
    · cases xs[i / 8 * 8 + k]? with
      | none => exact Nat.two_pow_pos 16
      | some p => exact d_lt t p.1
    · exact Nat.two_pow_pos 16
  rw [hds, hash16, rotl16_five (hlt _)]
  rfl

theorem roundConversions : Rules.RoundConversions := by
  intro q t mode b ftz hq ht hm hb x y nv
  have hwq := wf_of_mem hq
  have hwt := wf_of_mem ht
  refine ⟨convert_finite hwq hwt hm, convert_nan hwq hb, convert_inf hwq, fun _ => sameFormat_is hwq hb, fun i => ?_, roundInt_real hm, fun xs i m n sub e hi h0 => ?_⟩
  · intro v
    have hv : v = t.roundMag mode (decide (i < 0)) ⟨i.natAbs, 0, false⟩ 0 false := by
      simp only [v, scalarHash_eq]
      rfl
    refine ⟨fun h0 neg hneg => ?_, ?_⟩
    · have hx := Mag.is_exact 0 (Int.natAbs_pos.2 h0)
      rw [zpow_zero, mul_one] at hx
      obtain rfl : neg = decide (i < 0) := Bool.eq_iff_iff.2 (hneg.trans decide_eq_true_iff.symm)
      rw [hv]
      exact roundsTo_roundMag hwt hm hx (fun h => Bool.noConfusion h) _ 0 false
    · rintro rfl
      rw [hv]
      exact ⟨rfl, rfl⟩
  · intro ds rotl5
    obtain ⟨y, hy, hbits, hflags⟩ := convGroup_getElem t mode ftz hi
    rw [hash16_group] at hbits hflags
    refine ⟨y, hy, ?_⟩
    rw [hbits, hflags]
    exact gives_result hwt hm h0 ftz _

/-- Settles O60: exact values, the arithmetic on them, and the conversions, each rounded once. -/
theorem fpRounding : Obligations.FpRounding := ⟨roundExact, roundArithmetic, roundConversions⟩

end Sys2Proof.Machine
end

section
/-! Settles O23. The order of numbers by their encodings, NaN operands and classes (R109, R54, R67). -/

namespace Sys2Proof.Machine

/-- The formats of the scalar comparisons. -/
structure Fmt.Scalar (f : Fmt) : Prop extends f.Wf where
  ieee : f.nan = 0
  wide : f.wide = true
  quiet : f.mb ≠ 2

theorem scalar_of {f : Fmt} (h : f = fp32 ∨ f = fp64) : f.Scalar := by
  rcases h with rfl | rfl <;> exact ⟨wf_of_mem (by decide), by decide, by decide, by decide⟩

/-! What an encoding is -/

/-- An encoding that is a number, by sign and magnitude code. -/
theorem number_signed {f : Fmt} (hf : f.Scalar) {s : Bool} {c : Nat} (hc : c < 2 ^ (f.eb + f.mb)) : (f.value (signed f s c)).isNan = false ↔ c ≤ f.infMag := by
  have hi := hf.le_infMag
  rcases lt_trichotomy c f.infMag with h | rfl | h
  · rw [value_finite hf.toWf (by rw [maxCode_nan0 hf.ieee]; omega)]
    exact iff_of_true rfl h.le
  · rw [value_infinite hf.ieee]
    exact iff_of_true rfl (le_refl _)
  · rw [value_nan hf.ieee h hc]
    exact iff_of_false (fun h => Bool.noConfusion h) (by omega)

theorem valueFtz_false (f : Fmt) (b : Nat) : f.valueFtz false b = f.value b := rfl

section
variable {f : Fmt} {s t : Bool} {c d : Nat}

theorem fpPlace_signed (hc : c < 2 ^ (f.eb + f.mb)) : fpPlace f (signed f s c) = if s then -(c : Int) else c := by
  rw [fpPlace, show f.bits - 1 = f.eb + f.mb by rw [bits_eq]; omega]
  cases s
  · simp [signed, hc]
  · simp [signed]

theorem real_value (hf : f.Scalar) (h : c < f.infMag) : ∃ m e, f.value (signed f s c) = .fin s m e ∧ FV.real (.fin s m e) = (if s then -1 else 1) * f.mag c ∧ (m = 0 ↔ c = 0) := by
  have hm : c ≤ f.maxCode := by rw [maxCode_nan0 hf.ieee]; omega
  refine ⟨_, _, value_finite hf.toWf hm, by rw [FV.real, Fmt.mag_eq], ?_⟩
  have hp := Nat.two_pow_pos f.mb
  rw [Fmt.sig]
  split <;> omega

theorem signed_mag_lt : (if s then -1 else 1) * f.mag c < (if t then -1 else 1) * f.mag d ↔ (if s then -(c : Int) else c) < if t then -(d : Int) else d := by
  have hlt := (mag_strictMono f).lt_iff_lt (a := c) (b := d)
  have hgt := (mag_strictMono f).lt_iff_lt (a := d) (b := c)
  have h0 : ∀ k, 0 ≤ f.mag k := fun k => by
    rw [← mag_zero f]
    exact (mag_strictMono f).monotone (Nat.zero_le k)
  have hz : ∀ k, f.mag k = 0 ↔ k = 0 := fun k => by rw [← mag_zero f, (mag_strictMono f).injective.eq_iff]
  have hc := h0 c
  have hd := h0 d
  cases s <;> cases t
  · simpa using hlt
  · simp only [if_true, Bool.false_eq_true, if_false]
    exact iff_of_false (by linarith) (by omega)
  · simp only [if_true, Bool.false_eq_true, if_false]
    constructor
    · intro h
      have : ¬ (c = 0 ∧ d = 0) := fun ⟨h1, h2⟩ => by
        rw [(hz c).2 h1, (hz d).2 h2] at h
        linarith
      omega
    · intro h
      have : f.mag c ≠ 0 ∨ f.mag d ≠ 0 := by
        rw [Ne, Ne, hz, hz]
        omega
      rcases this with h | h
      · have := lt_of_le_of_ne hc h.symm
        linarith
      · have := lt_of_le_of_ne hd h.symm
        linarith
  · simpa using hgt

/-! The comparison of values -/

theorem compare_congr {a b i j : Int} (h1 : a < b ↔ i < j) (h2 : b < a ↔ j < i) : compare a b = compare i j := by
  rcases lt_trichotomy a b with h | h | h
  · rw [compare_lt_iff_lt.2 h, compare_lt_iff_lt.2 (h1.1 h)]
  · rw [compare_eq_iff_eq.2 h, compare_eq_iff_eq.2]
    exact le_antisymm (not_lt.1 (mt h2.2 h.le.not_gt)) (not_lt.1 (mt h1.2 h.ge.not_gt))
  · rw [compare_gt_iff_gt.2 h, compare_gt_iff_gt.2 (h2.1 h)]

theorem units_lt {n m : Bool} {ma mb : Nat} {ea eb : Int} : (FV.fin n ma ea).units (min ea eb) < (FV.fin m mb eb).units (min ea eb) ↔ FV.real (.fin n ma ea) < FV.real (.fin m mb eb) := by
  rw [← units_fin (min_le_left ea eb), ← units_fin (min_le_right ea eb), mul_lt_mul_iff_of_pos_right (two_zpow_pos _), Int.cast_lt]

theorem units_gt {n m : Bool} {ma mb : Nat} {ea eb : Int} : (FV.fin m mb eb).units (min ea eb) < (FV.fin n ma ea).units (min ea eb) ↔ FV.real (.fin m mb eb) < FV.real (.fin n ma ea) := by
  rw [min_comm]
  exact units_lt

/-- Two finite values compare as their numbers do. -/
theorem cmp_fin {n m : Bool} {ma mb : Nat} {ea eb i j : Int} (h1 : FV.real (.fin n ma ea) < FV.real (.fin m mb eb) ↔ i < j)
    (h2 : FV.real (.fin m mb eb) < FV.real (.fin n ma ea) ↔ j < i) : (FV.fin n ma ea).cmp (.fin m mb eb) = compare i j :=
  compare_congr (units_lt.trans h1) (units_gt.trans h2)

/-- The comparison is of the numbers alone. -/
theorem cmp_fin_congr {n m n' m' : Bool} {ma mb ma' mb' : Nat} {ea eb ea' eb' : Int} (h1 : FV.real (.fin n ma ea) = FV.real (.fin n' ma' ea'))
    (h2 : FV.real (.fin m mb eb) = FV.real (.fin m' mb' eb')) : (FV.fin n ma ea).cmp (.fin m mb eb) = (FV.fin n' ma' ea').cmp (.fin m' mb' eb') :=
  cmp_fin (by rw [h1, h2]; exact units_lt.symm) (by rw [h1, h2]; exact units_gt.symm)

/-- Comparing two numbers is comparing their places. -/
theorem cmp_signed (hf : f.Scalar) (hc : c ≤ f.infMag) (hd : d ≤ f.infMag) : (f.value (signed f s c)).cmp (f.value (signed f t d)) =
    compare (if s then -(c : Int) else c) (if t then -(d : Int) else d) := by
  have hinf : ∀ s, f.value (signed f s f.infMag) = .inf s := fun s => value_infinite hf.ieee
  have hpos : 0 < f.infMag := (Nat.zero_le _).trans_lt hf.le_infMag
  rcases Nat.lt_or_eq_of_le hc with hc | rfl <;> rcases Nat.lt_or_eq_of_le hd with hd | rfl
  · obtain ⟨m, e, hv, hr, -⟩ := real_value (s := s) hf hc
    obtain ⟨m', e', hv', hr', -⟩ := real_value (s := t) hf hd
    rw [hv, hv']
    refine cmp_fin ?_ ?_ <;> rw [hr, hr', signed_mag_lt]
  · obtain ⟨m, e, hv, -, -⟩ := real_value (s := s) hf hc
    rw [hv, hinf]
    cases t
    · exact (compare_lt_iff_lt.2 (by cases s <;> simp <;> omega)).symm
    · exact (compare_gt_iff_gt.2 (by cases s <;> simp <;> omega)).symm
  · obtain ⟨m, e, hv, -, -⟩ := real_value (s := t) hf hd
    rw [hv, hinf]
    cases s
    · exact (compare_gt_iff_gt.2 (by cases t <;> simp <;> omega)).symm
    · exact (compare_lt_iff_lt.2 (by cases t <;> simp <;> omega)).symm
  · rw [hinf, hinf, FV.cmp]
    cases s <;> cases t
    · exact (compare_eq_iff_eq.2 rfl).symm
    · exact (compare_gt_iff_gt.2 (by simp; omega)).symm
    · exact (compare_lt_iff_lt.2 (by simp; omega)).symm
    · exact (compare_eq_iff_eq.2 rfl).symm

theorem isZero_signed (hf : f.Scalar) (hc : c < 2 ^ (f.eb + f.mb)) : (f.value (signed f s c)).isZero = decide (c = 0) := by
  have hi := hf.le_infMag
  rcases lt_trichotomy c f.infMag with h | rfl | h
  · obtain ⟨m, e, hv, -, hz⟩ := real_value (s := s) hf h
    rw [hv]
    cases m with
    | zero => simp [FV.isZero, ← hz]
    | succ m => simp [FV.isZero, ← hz]
  · rw [value_infinite hf.ieee]
    exact (decide_eq_false (Nat.ne_of_gt ((Nat.zero_le _).trans_lt hi))).symm
  · rw [value_nan hf.ieee h hc]
    exact (decide_eq_false (by omega)).symm

theorem neg_signed (hf : f.Scalar) (hc : c ≤ f.infMag) : (f.value (signed f s c)).neg = s := by
  rcases Nat.lt_or_eq_of_le hc with h | rfl
  · obtain ⟨m, e, hv, -, -⟩ := real_value (s := s) hf h
    rw [hv]
    rfl
  · rw [value_infinite hf.ieee]
    rfl

end

/-! FMIN and FMAX -/

section
variable {f : Fmt} {a b : Nat}

/-- The encoding that FMIN and FMAX give of an operand. -/
def Fmt.operand (f : Fmt) (v : FV) (a : Nat) : Nat := if v.isZero then signed f v.neg 0 else a % 2 ^ f.bits

/-- The operand a comes first: it is below b, or it is -0 and b is +0. -/
def FV.before (u v : FV) : Bool := u.cmp v == .lt || (u.isZero && v.isZero && u.neg && !v.neg)

theorem fminmax_eq (f : Fmt) (mx ftz : Bool) (a b : Nat) :
    let u := f.valueFtz ftz a; let v := f.valueFtz ftz b
    (f.fminmax mx ftz a b).bits = (if u.isNan && v.isNan then f.canon else if u.isNan then f.operand v b else if v.isNan then f.operand u a
      else if u.before v != mx then f.operand u a else f.operand v b) ∧ (f.fminmax mx ftz a b).flags = if u.isSnan || v.isSnan then 16 else 0 := by
  intro u v
  set fl := if u.isSnan || v.isSnan then 16 else 0
  have h : f.fminmax mx ftz a b = if u.isNan && v.isNan then ⟨f.canon, fl, f.subnormal a || f.subnormal b⟩ else if u.isNan then ⟨f.operand v b, fl, f.subnormal a || f.subnormal b⟩
      else if v.isNan then ⟨f.operand u a, fl, f.subnormal a || f.subnormal b⟩ else ⟨if u.before v != mx then f.operand u a else f.operand v b, fl, f.subnormal a || f.subnormal b⟩ := rfl
  rw [h]
  by_cases h1 : (u.isNan && v.isNan) = true
  · simp only [if_pos h1, and_self]
  by_cases h2 : u.isNan = true
  · simp only [if_neg h1, if_pos h2, and_self]
  by_cases h3 : v.isNan = true
  · simp only [if_neg h1, if_neg h2, if_pos h3, and_self]
  · simp only [if_neg h1, if_neg h2, if_neg h3, and_self]

theorem operand_value (hf : f.Scalar) (ha : a < 2 ^ f.bits) : f.operand (f.value a) a = a := by
  obtain ⟨s, c, hc, rfl⟩ := exists_signed ha
  rw [Fmt.operand, isZero_signed hf hc, Nat.mod_eq_of_lt ha]
  by_cases h0 : c = 0
  · subst h0
    rw [if_pos (decide_eq_true rfl), neg_signed hf (Nat.zero_le _)]
  · rw [if_neg (by simpa using h0)]

/-- The order of numbers, -0 below +0. -/
theorem before_iff (hf : f.Scalar) (ha : a < 2 ^ f.bits) (hb : b < 2 ^ f.bits) (hna : (f.value a).isNan = false) (hnb : (f.value b).isNan = false) :
    (f.value a).before (f.value b) = true ↔ fpPlace f a < fpPlace f b ∨ (fpPlace f a = fpPlace f b ∧ b < a) := by
  obtain ⟨s, c, hc, rfl⟩ := exists_signed ha
  obtain ⟨t, d, hd, rfl⟩ := exists_signed hb
  have hc' := (number_signed hf hc).1 hna
  have hd' := (number_signed hf hd).1 hnb
  rw [FV.before, cmp_signed hf hc' hd', isZero_signed hf hc, isZero_signed hf hd, neg_signed hf hc', neg_signed hf hd', fpPlace_signed hc, fpPlace_signed hd,
    Bool.or_eq_true, beq_iff_eq, compare_lt_iff_lt]
  refine or_congr_right ?_
  have hp := Nat.two_pow_pos (f.eb + f.mb)
  cases s <;> cases t <;> simp [signed] <;> omega

/-! The comparisons -/

/-- The answer of FEQ, FLT and FLE on an order. -/
def ordAnswer (op : Nat) (o : Ordering) : Bool := match op with | 0 => o == .eq | 1 => o == .lt | _ => o != .gt

theorem fcmp_eq (f : Fmt) (op : Nat) (ftz : Bool) (a b : Nat) :
    let u := f.valueFtz ftz a; let v := f.valueFtz ftz b
    (u.isNan = true ∨ v.isNan = true → (f.fcmp op ftz a b).Is 0 (if op ≠ 0 || u.isSnan || v.isSnan then 16 else 0)) ∧
      (u.isNan = false → v.isNan = false → (f.fcmp op ftz a b).Is (if ordAnswer op (u.cmp v) then 1 else 0) 0) := by
  intro u v
  have h : f.fcmp op ftz a b = if u.isNan || v.isNan then ⟨0, if op ≠ 0 || u.isSnan || v.isSnan then fNV else 0, f.subnormal a || f.subnormal b⟩
      else ⟨if ordAnswer op (u.cmp v) then 1 else 0, 0, f.subnormal a || f.subnormal b⟩ := rfl
  rw [h]
  refine ⟨fun hn => ?_, fun h1 h2 => ?_⟩
  · rw [if_pos (by simpa using hn)]
    exact ⟨rfl, rfl⟩
  · rw [if_neg (by simp [h1, h2])]
    exact ⟨rfl, rfl⟩

theorem cmp_value (hf : f.Scalar) (ha : a < 2 ^ f.bits) (hb : b < 2 ^ f.bits) (hna : (f.value a).isNan = false) (hnb : (f.value b).isNan = false) :
    (f.value a).cmp (f.value b) = compare (fpPlace f a) (fpPlace f b) := by
  obtain ⟨s, c, hc, rfl⟩ := exists_signed ha
  obtain ⟨t, d, hd, rfl⟩ := exists_signed hb
  rw [cmp_signed hf ((number_signed hf hc).1 hna) ((number_signed hf hd).1 hnb), fpPlace_signed hc, fpPlace_signed hd]

theorem ordAnswer_compare (i j : Int) : (ordAnswer 0 (compare i j) = true ↔ i = j) ∧ (ordAnswer 1 (compare i j) = true ↔ i < j) ∧ (ordAnswer 2 (compare i j) = true ↔ i ≤ j) :=
  ⟨beq_iff_eq.trans compare_eq_iff_eq, beq_iff_eq.trans compare_lt_iff_lt, bne_iff_ne.trans compare_le_iff_le⟩

/-! Subnormal operands under FTZ -/

/-- Two values that no comparison tells apart: they are equal, or zeros of one sign. -/
inductive SameNumber : FV → FV → Prop where
  | refl (v : FV) : SameNumber v v
  | zero (n : Bool) (e e' : Int) : SameNumber (.fin n 0 e) (.fin n 0 e')

theorem SameNumber.isNan {u v : FV} (h : SameNumber u v) : u.isNan = v.isNan := by cases h <;> rfl
theorem SameNumber.isZero {u v : FV} (h : SameNumber u v) : u.isZero = v.isZero := by cases h <;> rfl
theorem SameNumber.neg {u v : FV} (h : SameNumber u v) : u.neg = v.neg := by cases h <;> rfl

theorem real_zero (n : Bool) (e e' : Int) : FV.real (.fin n 0 e) = FV.real (.fin n 0 e') := by rw [real_fin_eq_zero.2 rfl, real_fin_eq_zero.2 rfl]

theorem SameNumber.cmp {u u' v v' : FV} (hu : SameNumber u u') (hv : SameNumber v v') : u.cmp v = u'.cmp v' := by
  cases hu with
  | refl =>
    cases hv with
    | refl => rfl
    | zero n e e' =>
      cases u with
      | nan g => rfl
      | inf m => rfl
      | fin m k d => exact cmp_fin_congr rfl (real_zero n e e')
  | zero n e e' =>
    cases hv with
    | refl =>
      cases v with
      | nan g => rfl
      | inf m => rfl
      | fin m k d => exact cmp_fin_congr (real_zero n e e') rfl
    | zero m d d' => exact cmp_fin_congr (real_zero n e e') (real_zero m d d')

theorem SameNumber.before {u u' v v' : FV} (hu : SameNumber u u') (hv : SameNumber v v') : u.before v = u'.before v' := by
  rw [FV.before, FV.before, hu.cmp hv, hu.isZero, hv.isZero, hu.neg, hv.neg]

/-- Under FTZ an operand is read as the encoding `flushed` is without. -/
theorem flushed_value (hf : f.Scalar) (ha : a < 2 ^ f.bits) : SameNumber (f.valueFtz true a) (f.value (flushed f a)) ∧ flushed f a < 2 ^ f.bits ∧
    f.operand (f.valueFtz true a) a = f.operand (f.value (flushed f a)) (flushed f a) := by
  obtain ⟨s, c, hc, rfl⟩ := exists_signed ha
  have hpos := Nat.two_pow_pos (f.eb + f.mb)
  by_cases hs : f.subnormal (signed f s c) = true
  · have hfl : flushed f (signed f s c) = signed f s 0 := by
      rw [flushed, if_pos hs, show f.bits - 1 = f.eb + f.mb by rw [bits_eq]; omega, signed_div hc]
      cases s <;> simp [signed]
    have hv : f.valueFtz true (signed f s c) = .fin s 0 0 := by
      rw [Fmt.valueFtz, if_pos (by simp [hf.wide, hs]), sign_signed hc]
      rfl
    have hv' : f.value (signed f s 0) = .fin s 0 (f.ulpExp 0) := by
      rw [value_finite hf.toWf (Nat.zero_le _), Fmt.sig, if_pos (Nat.two_pow_pos _)]
    rw [hfl, hv, hv']
    exact ⟨.zero s _ _, signed_lt hpos, rfl⟩
  · have hfl : flushed f (signed f s c) = signed f s c := if_neg hs
    have hv : f.valueFtz true (signed f s c) = f.value (signed f s c) := if_neg (by simp [hs])
    rw [hfl, hv]
    exact ⟨.refl _, ha, rfl⟩

end

theorem fpNans : Rules.FpNans := by
  intro f a b mx op hf ha hb
  replace hf := scalar_of hf
  obtain ⟨hbits, hflags⟩ := fminmax_eq f mx false a b
  obtain ⟨hcn, hc⟩ := fcmp_eq f op false a b
  rw [valueFtz_false, valueFtz_false] at hbits hflags hcn hc
  refine ⟨fun h1 h2 => ?_, fun h1 h2 => ?_, fun h1 h2 => ?_, hflags, ?_, fun h => (hcn h).1, fun h => ⟨if_pos h, if_pos h⟩⟩
  · rw [hbits, if_pos (by rw [h1, h2]; rfl)]
  · rw [hbits, if_neg (by rw [h1, h2]; decide), if_pos h1, operand_value hf hb]
  · rw [hbits, if_neg (by rw [h1, h2]; decide), if_neg (by rw [h1]; decide), if_pos h2, operand_value hf ha]
  · cases h1 : (f.value a).isNan
    · cases h2 : (f.value b).isNan
      · rw [(hc h1 h2).1]
        split <;> decide
      · rw [(hcn (.inr h2)).1]
        decide
    · rw [(hcn (.inl h1)).1]
      decide

theorem fpOrder : Rules.FpOrder := by
  intro f a b hf ha hb
  replace hf := scalar_of hf
  refine ⟨fun hna hnb => ?_, fun hn => ?_, fun op mx => ?_⟩
  · have hmin (mx : Bool) : (f.fminmax mx false a b).bits = if (f.value a).before (f.value b) != mx then a else b := by
      have h := (fminmax_eq f mx false a b).1
      rw [valueFtz_false, valueFtz_false, if_neg (by simp [hna]), if_neg (by simp [hna]), if_neg (by simp [hnb]), operand_value hf ha, operand_value hf hb] at h
      exact h
    have hcmp (op : Nat) : (f.fcmp op false a b).Is (if ordAnswer op (compare (fpPlace f a) (fpPlace f b)) then 1 else 0) 0 := by
      rw [← cmp_value hf ha hb hna hnb]
      exact (fcmp_eq f op false a b).2 hna hnb
    have hb4 := before_iff hf ha hb hna hnb
    obtain ⟨h0, h1, h2⟩ := ordAnswer_compare (fpPlace f a) (fpPlace f b)
    have hsame (h : (f.value a).before (f.value b) = false) (hor : fpPlace f a < fpPlace f b ∨ (fpPlace f a = fpPlace f b ∧ b ≤ a)) : a = b := by
      have hnot : ¬ (fpPlace f a < fpPlace f b ∨ (fpPlace f a = fpPlace f b ∧ b < a)) := fun h' => by simp [hb4.2 h'] at h
      omega
    refine ⟨?_, ?_, ?_, ?_, ?_, fun op => (hcmp op).2⟩
    · rw [hmin]
      cases hbef : (f.value a).before (f.value b)
      · show b = _
        split
        · next hor => exact (hsame hbef hor).symm
        · rfl
      · exact (if_pos ((hb4.1 hbef).imp_right (And.imp_right Nat.le_of_lt))).symm
    · rw [hmin]
      cases hbef : (f.value a).before (f.value b)
      · show a = _
        split
        · next hor => exact hsame hbef hor
        · rfl
      · exact (if_pos ((hb4.1 hbef).imp_right (And.imp_right Nat.le_of_lt))).symm
    · rw [(hcmp 0).1]
      exact if_congr h0 rfl rfl
    · rw [(hcmp 1).1]
      exact if_congr h1 rfl rfl
    · rw [(hcmp 2).1]
      exact if_congr h2 rfl rfl
  · have hc (op : Nat) := ((fcmp_eq f op false a b).1 hn).2
    exact ⟨hc 0, hc 1, hc 2⟩
  · obtain ⟨hsa, hfa, hoa⟩ := flushed_value hf ha
    obtain ⟨hsb, hfb, hob⟩ := flushed_value hf hb
    obtain ⟨hn, hv⟩ := fcmp_eq f op true a b
    obtain ⟨hn', hv'⟩ := fcmp_eq f op false (flushed f a) (flushed f b)
    rw [valueFtz_false, valueFtz_false] at hn' hv'
    constructor
    · by_cases h : (f.value (flushed f a)).isNan = true ∨ (f.value (flushed f b)).isNan = true
      · rw [(hn' h).1, (hn (by rwa [hsa.isNan, hsb.isNan])).1]
      · simp only [not_or, Bool.not_eq_true] at h
        rw [(hv' h.1 h.2).1, (hv (hsa.isNan.trans h.1) (hsb.isNan.trans h.2)).1, hsa.cmp hsb]
    · rw [(fminmax_eq f mx true a b).1, (fminmax_eq f mx false (flushed f a) (flushed f b)).1, valueFtz_false, valueFtz_false, hsa.isNan, hsb.isNan, hoa, hob, hsa.before hsb]

/-- The class of an encoding, by sign and magnitude code. -/
theorem fclass_signed {f : Fmt} (hf : f.Scalar) (s : Bool) {c : Nat} (hc : c < 2 ^ (f.eb + f.mb)) : f.fclass (signed f s c) =
    if f.infMag < c then (if bitsOf (c % 2 ^ f.mb) (f.mb - 1) 1 = 0 then 256 else 512) else if c = f.infMag then (if s then 1 else 128)
      else if c = 0 then (if s then 8 else 16) else if c < 2 ^ f.mb then (if s then 4 else 32) else if s then 2 else 64 := by
  have hi := hf.le_infMag
  have hq : decide (f.mb ≠ 2) = true := decide_eq_true hf.quiet
  rcases lt_trichotomy c f.infMag with h | rfl | h
  · obtain ⟨m, e, hv, -, hz⟩ := real_value (s := s) hf h
    have hsub := subnormal_signed (f := f) (s := s) hc
    rw [if_neg (Nat.not_lt.2 h.le), if_neg h.ne]
    by_cases h0 : c = 0
    · simp only [Fmt.fclass, hv]
      rw [if_pos (hz.2 h0), if_pos h0]
    · simp only [Fmt.fclass, hv]
      rw [if_neg (mt hz.1 h0), if_neg h0]
      by_cases hlt : c < 2 ^ f.mb
      · rw [if_pos (hsub.2 ⟨Nat.pos_of_ne_zero h0, hlt⟩), if_pos hlt]
      · rw [if_neg fun h => hlt (hsub.1 h).2, if_neg hlt]
  · rw [if_neg (lt_irrefl _), if_pos rfl]
    simp only [Fmt.fclass, value_infinite hf.ieee]
  · rw [if_pos h]
    simp only [Fmt.fclass, value_nan hf.ieee h hc, hq, Bool.true_and, beq_iff_eq]

theorem fclassBits : Rules.FclassBits := by
  intro f b hf hb neg ex fr
  replace hf := scalar_of hf
  obtain ⟨s, c, hc, rfl⟩ := exists_signed hb
  have hp := Nat.two_pow_pos f.mb
  have hneg : neg = s := by
    simp only [neg, show f.bits - 1 = f.eb + f.mb by rw [bits_eq]; omega, signed_div hc]
    cases s <;> rfl
  have hex : ex = c / 2 ^ f.mb := by
    have := exponent_signed (s := s) hc
    rwa [bitsOf, Nat.shiftRight_eq_div_pow] at this
  have hfr : fr = c % 2 ^ f.mb := fraction_signed f s c
  have hdm := Nat.div_add_mod' c (2 ^ f.mb)
  have hmod := Nat.mod_lt c hp
  have hlt := exponent_lt hc
  have hi := hf.le_infMag
  have hspec : f.infMag ≤ c ↔ ex = 2 ^ f.eb - 1 := by
    rw [hex, Fmt.infMag, ← Nat.le_div_iff_mul_le hp]
    omega
  have hinf : c = f.infMag ↔ ex = 2 ^ f.eb - 1 ∧ fr = 0 := by
    rw [← hspec, hfr]
    refine ⟨?_, fun ⟨h1, h2⟩ => ?_⟩
    · rintro rfl
      exact ⟨le_refl _, Nat.mul_mod_left _ _⟩
    · rw [hspec, hex] at h1
      rw [h2, h1, ← Fmt.infMag, Nat.add_zero] at hdm
      exact hdm.symm
  have hsubn : c < 2 ^ f.mb ↔ ex = 0 := by rw [hex, Nat.div_eq_zero_iff_lt hp]
  have hzero : c = 0 ↔ ex = 0 ∧ fr = 0 := by
    rw [← hsubn, hfr]
    refine ⟨?_, fun ⟨h1, h2⟩ => by rwa [Nat.mod_eq_of_lt h1] at h2⟩
    rintro rfl
    exact ⟨hp, Nat.zero_mod _⟩
  have hquiet : bitsOf (c % 2 ^ f.mb) (f.mb - 1) 1 = fr / 2 ^ (f.mb - 1) := by
    rw [bitsOf, Nat.shiftRight_eq_div_pow, hfr]
    refine Nat.mod_eq_of_lt (Nat.div_lt_of_lt_mul ?_)
    rwa [← Nat.pow_add, Nat.sub_add_cancel hf.mb]
  rw [fclass_signed hf s hc, hquiet, hneg]
  by_cases h1 : ex = 2 ^ f.eb - 1
  · rw [if_pos h1]
    by_cases h2 : fr = 0
    · have := hinf.2 ⟨h1, h2⟩
      rw [if_neg (by omega), if_pos this, if_pos h2]
      cases s <;> rfl
    · have := hspec.2 h1
      rw [if_pos (by by_contra h; exact h2 (hinf.1 (by omega)).2), if_neg h2]
      split <;> rfl
  · have := mt hspec.1 h1
    rw [if_neg (by omega), if_neg (by omega), if_neg h1]
    by_cases h2 : ex = 0
    · rw [if_pos h2, if_pos (hsubn.2 h2)]
      by_cases h3 : fr = 0
      · rw [if_pos h3, if_pos (hzero.2 ⟨h2, h3⟩)]
        cases s <;> rfl
      · rw [if_neg h3, if_neg fun h => h3 (hzero.1 h).2]
        cases s <;> rfl
    · rw [if_neg h2, if_neg fun h => h2 (hzero.1 h).1, if_neg (mt hsubn.1 h2)]
      cases s <;> rfl

/-- Settles O23: NaN operands, the order of numbers by their places, and the classes by the fields of an encoding. -/
theorem fpClasses : Obligations.FpClasses := ⟨fpNans, fpOrder, fclassBits⟩

end Sys2Proof.Machine
end

section
/-! Settles O55. What ends a wait (R67, R137, R138, R222, R258, R270, R322), and parades (R265, R266, R328). -/

namespace Sys2Proof.Machine

/-! Waits -/

/-- The waits that an answer as a whole ends. -/
theorem exec_reply_whole {s : State} {n k : Nat} {m : Msg} {r : Answer} (hn : s.net[n]? = some m) (hb : m.body = .reply k 0 r)
    (hw : (s.slot k).wait ∈ [.queue, .group, .system, .engine, .fe, .bbar, .resv]) :
    exec (.reply n) s = .next (match r with | .val v => (s.without n).complete k v | .fault c t => (s.without n).raiseAt k c t) := by
  show execReply n s = _
  simp only [List.mem_cons, List.not_mem_nil, or_false] at hw
  rcases hw with hw | hw | hw | hw | hw | hw | hw <;> simp only [execReply, hn, hb, hw] <;> rfl

theorem exec_reply_part {s : State} {n k p : Nat} {m : Msg} {r : Answer} (hn : s.net[n]? = some m) (hb : m.body = .reply k p r)
    (hw : (s.slot k).wait = .reply) : exec (.reply n) s = .next ((s.without n).partReply k p r) := by
  show execReply n s = _
  simp only [execReply, hn, hb, hw]
  rfl

theorem exec_acknowledgement {s : State} {n k vc : Nat} {m : Msg} (hn : s.net[n]? = some m) (hb : m.body = .ack k vc) :
    exec (.acknowledgement n) s = .next (((s.without n).modSlot k fun sl => { sl with acks := sl.acks.erase vc }).ackWake k) := by
  show execAcknowledgement n s = _
  simp only [execAcknowledgement, hn, hb]
  rfl

theorem exec_refusalResend {s : State} {n due : Nat} {m : Msg} (hn : s.net[n]? = some m) (hb : m.back = some due) :
    exec (.refusalResend n) s = .next (if due ≤ s.senderCyc m then { s with net := s.net.modify n fun m => { m with back := none } } else s) := by
  show execRefusalResend n s = _
  simp only [execRefusalResend, hn, hb, ge_iff_le]

theorem exec_monitorTimeout {s : State} {k t : Nat} (hw : (s.slot k).wait = .monitor t) (hm : (s.slot k).monto ≠ 0#64) :
    exec (.monitorTimeout k) s =
      .next (if t + (s.slot k).monto.toNat ≤ (s.core (coreOf k)).cyc then s.complete k (BitVec.ofNat 512 (2 ^ 63)) else s) := by
  show execMonitorTimeout k s = _
  simp only [execMonitorTimeout, hw, ge_iff_le, and_iff_right hm]
  split <;> rfl

theorem exec_waitmsgTimeout {s : State} {k t o : Nat} (hw : (s.slot k).wait = .message t o false)
    (hm : (s.slot k).monto ≠ 0#64) (ht : t + (s.slot k).monto.toNat ≤ (s.core (coreOf k)).cyc) :
    exec (.waitmsgTimeout k) s = .next (s.complete k 0#512) := by
  show execWaitmsgTimeout k s = _
  simp only [execWaitmsgTimeout, hw]
  exact if_pos ⟨hm, ht⟩

/-- A normaliser without a further slot in its list takes up nothing. -/
theorem State.normNext_nil {s : State} {c : Nat} (h : (s.core c).normQ = []) : s.normNext c = s := by
  simp only [State.normNext, h]

theorem exec_normaliserDone {s : State} {c k t : Nat} (hq : (s.core c).normQ = [k]) (hw : (s.slot k).wait = .norm (some t))
    (ht : t + 32 ≤ (s.core c).cyc) :
    exec (.normaliserDone c) s = .next ((s.modCore c fun co => { co with normQ := [] }).complete k 0#512) := by
  have hnil : ((s.modCore c fun co => { co with normQ := [] }).core c).normQ = [] := by rw [State.core_modCore, if_pos rfl]
  show execNormaliserDone c s = _
  simp only [execNormaliserDone, hq, hw, if_neg (Nat.not_lt.2 ht), State.normNext_nil hnil]

theorem exec_injectedFaultTaken {s : State} {k : Nat} {f} (hc : coreOf k < 1024) (hs : s.inStep (coreOf k) = true)
    (hf : (s.slot k).inj = some f) (he : (s.slot k).err = none) (hr : s.runs (coreOf k) = true) (ho : s.turnOwner (coreOf k) = k)
    (hi : s.issues (coreOf k) = true) :
    exec (.injectedFaultTaken k) s = .next { (s.beginCycle (coreOf k)).takeInjected k f with ending := some (coreOf k) } := by
  have hall : (decide (coreOf k < 1024) && s.inStep (coreOf k) && s.runs (coreOf k) && s.turnOwner (coreOf k) == k && s.issues (coreOf k) &&
      (s.slot k).err.isNone) = true := by
    rw [decide_eq_true hc, hs, hr, ho, hi, he, beq_self_eq_true]
    rfl
  show execInjectedFaultTaken k s = _
  simp only [execInjectedFaultTaken, hf, hall, if_true]

theorem waitsEnd : Rules.WaitsEnd := by
  intro s n k m
  refine ⟨fun v hn hb hw => exec_reply_whole hn hb hw, fun c t hn hb hw => exec_reply_whole hn hb hw, fun p r hn hb hw => exec_reply_part hn hb hw,
    fun vc hn hb => exec_acknowledgement hn hb, fun due hn hb => ⟨fun hd => ?_, fun hd => ?_⟩, fun t hw hm => ⟨fun ht => ?_, fun ht => ?_⟩,
    fun t o hw hm ht => exec_waitmsgTimeout hw hm ht, fun c q t hq hqs hw ht => ?_, fun f hc hs hf he hr ho hi => exec_injectedFaultTaken hc hs hf he hr ho hi⟩
  · rw [exec_refusalResend hn hb, if_pos hd]
  · rw [exec_refusalResend hn hb, if_neg (Nat.not_le.2 hd)]
  · rw [exec_monitorTimeout hw hm, if_pos ht]
  · rw [exec_monitorTimeout hw hm, if_neg (Nat.not_le.2 ht)]
  · rw [hqs]
    exact exec_normaliserDone hq hw ht

/-! Parades -/

/-- The end of the waits of a parade's slots. -/
def State.endParade (s : State) (ks : List Nat) : State :=
  ks.foldl (fun s k => if (s.slot k).wait = .parade then s.complete k 0#512 else s) s

theorem State.ctx_endParade (s : State) (ks : List Nat) (x : Nat) : (s.endParade ks).ctx x = s.ctx x :=
  foldl_keeps (P := fun t : State => t.ctx x = s.ctx x) (fun t k h => by split <;> exact h) ks s rfl

/-- A slot that runs with its result stays so: it waits for no parade any more. -/
theorem State.endParade_ended {k : Nat} (ks : List Nat) {s : State}
    (h : (s.slot k).wait = .none ∧ (s.slot k).st = .run ∧ (s.slot k).latch.res = some 0#512) :
    ((s.endParade ks).slot k).wait = .none ∧ ((s.endParade ks).slot k).st = .run ∧ ((s.endParade ks).slot k).latch.res = some 0#512 := by
  refine foldl_keeps (P := fun t : State => (t.slot k).wait = .none ∧ (t.slot k).st = .run ∧ (t.slot k).latch.res = some 0#512) (fun t j ht => ?_) ks s h
  split
  · rw [State.slot_complete]
    split
    · exact ⟨rfl, rfl, rfl⟩
    · exact ht
  · exact ht

theorem State.endParade_wakes {k : Nat} (ks : List Nat) {s : State} (hk : k ∈ ks) (hw : (s.slot k).wait = .parade) :
    ((s.endParade ks).slot k).st = .run ∧ ((s.endParade ks).slot k).latch.res = some 0#512 := by
  induction ks generalizing s with
  | nil => cases hk
  | cons j ks ih =>
    have hstep : s.endParade (j :: ks) = (if (s.slot j).wait = .parade then s.complete j 0#512 else s).endParade ks := rfl
    rw [hstep]
    by_cases hj : k = j
    · subst hj
      rw [if_pos hw]
      have hdone : ((s.complete k 0#512).slot k).wait = .none ∧ ((s.complete k 0#512).slot k).st = .run ∧
          ((s.complete k 0#512).slot k).latch.res = some 0#512 := by
        rw [State.slot_complete, if_pos rfl]
        exact ⟨rfl, rfl, rfl⟩
      exact (State.endParade_ended ks hdone).2
    · refine ih ((List.mem_cons.1 hk).resolve_left hj) ?_
      split
      · rw [State.slot_complete, if_neg hj, hw]
      · exact hw

/-- A group's circuit that adds up to nothing ends the parade. -/
theorem State.circuitEnd_quiet {s : State} {x : Nat} {p : Parade} (hk : p.kind = 0) (hs : p.sum = 0) (hb : p.black = false) (hj : p.joined = []) :
    s.circuitEnd x p = (s.endParade p.waiters, none) := by
  simp [State.circuitEnd, State.endParade, hk, hs, hb, hj]

@[simp] theorem State.slot_keepParade (s : State) (x j : Nat) (q : Option Parade) (k : Nat) : (s.keepParade x j q).slot k = s.slot k := rfl

theorem State.parades_keepParade_some (s : State) (x j : Nat) (q : Parade) :
    ((s.keepParade x j (some q)).ctx x).parades = (s.ctx x).parades.set j q := by
  rw [State.keepParade, State.ctx_modCtx, if_pos rfl]

theorem State.parades_keepParade_none (s : State) (x j : Nat) :
    ((s.keepParade x j none).ctx x).parades = (s.ctx x).parades.eraseIdx j := by
  rw [State.keepParade, State.ctx_modCtx, if_pos rfl]

/-- The colour of an interface is cleared. -/
def State.clearBlack (s : State) (x ix : Nat) : State := s.modCtx x fun cx => { cx with blacks := Tbl.set false cx.blacks ix false }

@[simp] theorem State.parades_clearBlack (s : State) (x ix : Nat) : ((s.clearBlack x ix).ctx x).parades = (s.ctx x).parades := by
  rw [State.clearBlack, State.ctx_modCtx, if_pos rfl]

/-- Parade p of a group after its visit to interface i. -/
def Parade.visit (p : Parade) (cx : Ctx) (i : Nat) (rest : List Nat) : Parade :=
  { p with todo := rest, sum := p.sum + Tbl.get 0 cx.counts (counterIx p.scope p.inst i)
           black := p.black || Tbl.get false cx.blacks (counterIx p.scope p.inst i) }

theorem exec_paradeVisit_nil {s : State} {x j : Nat} {p : Parade} (hp : (s.ctx x).parades[j]? = some p) (ht : p.todo = []) :
    exec (.paradeVisit x j) s = .next ((s.circuitEnd x p).1.keepParade x j (s.circuitEnd x p).2) := by
  show execParadeVisit x j s = _
  simp only [execParadeVisit, hp, ht]

theorem exec_paradeVisit_cons {s : State} {x j i : Nat} {p : Parade} {r : List Nat} (hp : (s.ctx x).parades[j]? = some p)
    (ht : p.todo = i :: r) (hk : p.kind = 0) :
    exec (.paradeVisit x j) s = .next (
      let t := s.clearBlack x (counterIx p.scope p.inst i)
      let q := p.visit (s.ctx x) i r
      if r.isEmpty then (t.circuitEnd x q).1.keepParade x j (t.circuitEnd x q).2 else t.keepParade x j (some q)) := by
  have h01 : ¬ p.kind = 1 := by omega
  show execParadeVisit x j s = _
  simp only [execParadeVisit, hp, ht, if_neg h01, State.clearBlack, Parade.visit]
  split <;> rfl

/-- What the end of a quiet circuit leaves. -/
theorem State.paradeOver (s u : State) (x j : Nat) (ks : List Nat) (hu : (u.ctx x).parades = (s.ctx x).parades) (hs : ∀ k, u.slot k = s.slot k) :
    (((u.endParade ks).keepParade x j none).ctx x).parades = (s.ctx x).parades.eraseIdx j ∧
    ∀ k ∈ ks, (s.slot k).wait = .parade →
      (((u.endParade ks).keepParade x j none).slot k).st = .run ∧ (((u.endParade ks).keepParade x j none).slot k).latch.res = some 0#512 := by
  refine ⟨?_, fun k hk hw => ?_⟩
  · rw [State.parades_keepParade_none, State.ctx_endParade, hu]
  · rw [State.slot_keepParade]
    exact State.endParade_wakes ks hk (by rw [hs, hw])

/-- The watch that a stuck queue starts for its context. -/
def State.newWatch (s : State) (q : Nat) : Parade :=
  { scope := 3, inst := 0, route := rotateTo (s.qcore q) (s.interfaces (s.qctx q) 3 0), todo := rotateTo (s.qcore q) (s.interfaces (s.qctx q) 3 0),
    kind := 1, base := s.allPops (s.qctx q) }

/-- A stuck queue of a context without a watch starts one. -/
theorem exec_queueStuckTimeout {s : State} {cl q t : Nat} (hq : q < 64) (hst : (s.queue (cl * 64 + q)).stuckAt = some t)
    (ht : t + 4096 ≤ (s.core (s.qcore (cl * 64 + q))).cyc) (hp : ∀ p ∈ (s.ctx (s.qctx (cl * 64 + q))).parades, p.kind ≠ 1) :
    exec (.queueStuckTimeout cl q) s =
      .next (s.modCtx (s.qctx (cl * 64 + q)) fun cx => { cx with parades := cx.parades ++ [s.newWatch (cl * 64 + q)] }) := by
  have hany : ¬ ((s.ctx (s.qctx (cl * 64 + q))).parades.any fun p => p.kind = 1) = true := by
    simpa using hp
  show execQueueStuckTimeout cl q s = _
  simp only [execQueueStuckTimeout, Nat.mod_eq_of_lt hq, hst, if_neg (Nat.not_lt.2 ht), if_neg hany]
  rfl

theorem paradeResults : Rules.ParadeResults := by
  intro s x j i p r hp
  refine ⟨fun ht hk hs hb hj => ?_, fun ht hk hr => ?_, fun ht hk hr hs hb hbl hj => ?_, fun cl q t hst hq ht hpar => ?_⟩
  · rw [exec_paradeVisit_nil hp ht, State.circuitEnd_quiet hk hs hb hj]
    exact ⟨_, rfl, State.paradeOver s s x j _ rfl fun _ => rfl⟩
  · rw [exec_paradeVisit_cons hp ht hk, if_neg (by rwa [List.isEmpty_iff])]
    exact ⟨_, rfl, rfl, rfl, by rw [State.parades_keepParade_some, State.parades_clearBlack]; rfl⟩
  · have hq : (p.visit (s.ctx x) i r).black = false := by rw [Parade.visit, hb, hbl]; rfl
    have hsum : (p.visit (s.ctx x) i r).sum = 0 := hs
    have hkind : (p.visit (s.ctx x) i r).kind = 0 := hk
    have hjoin : (p.visit (s.ctx x) i r).joined = [] := hj
    rw [exec_paradeVisit_cons hp ht hk, if_pos (List.isEmpty_iff.2 hr), State.circuitEnd_quiet hkind hsum hq hjoin]
    exact ⟨_, rfl, State.paradeOver s _ x j _ (State.parades_clearBlack ..) fun _ => rfl⟩
  · exact ⟨_, exec_queueStuckTimeout hq hst ht hpar, rfl, by rw [State.ctx_modCtx, if_pos rfl, List.length_append, List.length_singleton]⟩

/-- Settles O55: each wait by the event that ends it, each circuit of a parade by its last visit. -/
theorem waitsAndParades : Obligations.WaitsAndParades := ⟨waitsEnd, paradeResults⟩

end Sys2Proof.Machine
end

section
/-! SUPPORT. Loads of several pieces: where they park or fault, and what the body gets (R116, R132, R255). -/

namespace Sys2Proof.Machine

section
variable {s : State} {ps ok : List Piece} {err bad : Option (Nat × W)} {bring : List Nat} {irr : Bool} {body : List (List Byte) → State → State}

/-- A fault is met only where every line before it is held. -/
theorem StopsAt.bring_of_bad {wr : Bool} {c : Nat × W} (h : StopsAt s wr ps err ok bring (some c)) : bring = [] := by
  by_cases hall : ok = ps
  · exact (h.all hall).1
  · obtain ⟨rest, hrest⟩ := h.ahead
    cases rest with
    | nil => exact absurd (by simpa using hrest) hall
    | cons p rest =>
      have hp : ps[ok.length]? = some p := by simp [← hrest]
      cases hh : s.holds p with
      | true => exact (h.fault p hp hh).choose_spec.2.1
      | false => cases (h.lines p hp hh).2

/-- Where a load of several pieces parks or faults. -/
theorem loadParks {E : State → Prop} (hE : E (s.loadAll irr ps body err)) : LoadParks E s irr ps err := by
  refine ⟨fun hb => ?_, fun hb ok bring bad h => ⟨fun hf => ?_, fun hf hne => ?_, fun c t hf hbad => ?_⟩⟩
  · rwa [State.loadAll, if_pos hb] at hE
  all_goals
    simp only [State.loadAll, hb, State.judge_of_stopsAt h, Bool.false_eq_true, if_false] at hE
  · rwa [if_pos (by simpa using hf)] at hE
  · rwa [hf, if_neg (by simp), if_pos (by simpa using hne)] at hE
  · subst hbad
    rwa [hf, h.bring_of_bad, if_neg (by simp), if_neg (by simp)] at hE

/-- The lines of pieces are marked as read, where the load belongs to a chunk. -/
def State.readMarked (s : State) (irr : Bool) (ps : List Piece) : State := if irr then s else s.markRead (ps.flatMap (·.lines))

/-- A load of several pieces that nothing stops. -/
theorem State.loadAll_done (hb : s.behind irr ps = false) (ha : s.allows false ps) (hr : s.replied ps) :
    s.loadAll irr ps body = body (ps.map s.pieceBytes) (s.readMarked irr ps) := by
  have hfar : (ps.filter fun p => p.tgt.remote && (s.me.latch.parts.find p.part).isNone) = [] := by
    refine List.filter_eq_nil_iff.2 fun p hp => ?_
    cases hrem : p.tgt.remote with
    | false => simp
    | true => simpa using Option.isSome_iff_ne_none.1 (hr p hp hrem)
  simp only [State.loadAll, hb, State.judge_allowed ha, hfar, Bool.false_eq_true, if_false, List.isEmpty_nil, Bool.not_true]
  rfl

end

/-- A load inside a chunk changes the chunk of its slot alone. -/
theorem State.readMarked_keeps (s : State) (irr : Bool) (ps : List Piece) :
    s.Elsewhere (s.readMarked irr ps) ∧ ∃ ch, (s.readMarked irr ps).me = { s.me with chunk := ch } := by
  unfold State.readMarked
  split
  · exact ⟨.refl s, s.me.chunk, rfl⟩
  · exact ⟨.upd s _, _, State.me_upd s _⟩

/-- The end of an instruction without a scalar result: inside its chunk, or outside. -/
abbrev State.done (s : State) : State := if s.me.latch.stage ≠ 0 then s.retireIrr 4 else s.retire 4

/-- An instruction that has changed its slot alone, neither its PC nor its scalar registers, ends. -/
theorem State.done_ends {s u : State} (hu : s.Elsewhere u) (hpc : u.me.pc = s.me.pc) (hx : u.me.x = s.me.x) :
    u.done.cur = s.cur ∧ u.done.me.pc = s.me.pc + 4#64 ∧ SameMemory s u.done ∧ SameSlot u.me u.done.me ∧ ∀ k r, u.done.xget k r = s.xget k r := by
  obtain ⟨he, hr, -⟩ := u.ends (u.me.latch.stage ≠ 0) (u.me.pc + nat 4)
  have ht := hu.trans he
  have hme : u.done.me = u.done.slot u.cur := congrArg u.done.slot he.cur
  have hsx : (u.done.slot s.cur).x = s.me.x := by rw [← hu.cur]; exact hr.x.trans hx
  refine ⟨ht.cur, ?_, ht.mem, ?_, Elsewhere.xget ht hsx⟩
  · rw [hme, ← hpc]
    exact hr.pc
  · rw [hme]
    exact hr.same

end Sys2Proof.Machine
end

section
/-! What of O32 holds for every state, first part. VLDB's checks, and the transfers of the operand extension registers (R133, R134). -/

namespace Sys2Proof.Machine

section
variable {s s1 : State} {p : W} {ps : List Piece}

/-! Pieces that are all formed -/

theorem allPieces_ok {l : List (Except (Nat × W) Piece)} (h : allPieces l = .ok ps) : l = ps.map .ok := by
  induction l generalizing ps with
  | nil => cases h; rfl
  | cons e l ih =>
    cases e with
    | error c => cases h
    | ok q =>
      simp only [allPieces] at h
      split at h
      · cases h
      · next qs hqs =>
        cases h
        rw [ih hqs, List.map_cons]

/-- A piece that is formed: its pointer, its target and its length. -/
theorem State.piece_ok {part al n : Nat} {data : List Byte} {q : Piece} (h : s.piece part p al n data = .ok q) :
    q.ptr = p ∧ s.access s.myCore p al n = .ok q.tgt ∧ q.n = n := by
  unfold State.piece at h
  split at h
  · cases h
  · next t ht =>
    cases h
    exact ⟨rfl, ht, rfl⟩

/-- The eight words of ELD and EST. -/
theorem State.extPieces_ok {data : Nat → List Byte} (h : s.extPieces p data = .ok ps) :
    ps.length = 8 ∧ ∀ j < 8, ∃ q, ps[j]? = some q ∧ ptrAdd p (8 * j : Nat) = some q.ptr ∧ s.access s.myCore q.ptr 8 8 = .ok q.tgt := by
  unfold State.extPieces at h
  split at h
  · cases h
  · have hl := allPieces_ok h
    have hlen : ps.length = 8 := by simpa using (congrArg List.length hl).symm
    refine ⟨hlen, fun j hj => ⟨ps[j]'(hlen ▸ hj), List.getElem?_eq_getElem _, ?_⟩⟩
    have hj' := congrArg (·[j]?) hl
    simp only [List.getElem?_map, List.getElem?_range hj, List.getElem?_eq_getElem (hlen ▸ hj : j < ps.length), Option.map_some, Option.some.injEq] at hj'
    split at hj'
    · cases hj'
    · next q hq =>
      obtain ⟨h1, h2, -⟩ := State.piece_ok hj'
      rw [h1]
      exact ⟨hq, h1 ▸ h2⟩

/-! The operand extension registers -/

/-- The registers from k on take the values of a list. -/
def State.esets (s : State) (l : List (List Byte × Nat)) : State := l.foldl (fun s (b, j) => s.eset s.cur j (nat (leNat b))) s

theorem State.esets_sets (l : List (List Byte)) (k : Nat) (s : State) : s.Elsewhere (s.esets (l.zipIdx k)) ∧ ∃ e, (s.esets (l.zipIdx k)).me = { s.me with e := e } ∧
    ∀ j, Tbl.get 0#64 e j = match l[j - k]? with | some b => if k ≤ j then nat (leNat b) else Tbl.get 0#64 s.me.e j | none => Tbl.get 0#64 s.me.e j := by
  induction l generalizing k s with
  | nil => exact ⟨.refl s, s.me.e, rfl, fun j => rfl⟩
  | cons b l ih =>
    have hme : (s.eset s.cur k (nat (leNat b))).me = { s.me with e := s.me.e.put k (nat (leNat b)) } := State.me_upd s _
    obtain ⟨hu, e, he, hg⟩ := ih (k + 1) (s.eset s.cur k (nat (leNat b)))
    refine ⟨State.Elsewhere.trans (.upd s _) hu, e, he.trans (by rw [hme]), fun j => ?_⟩
    rw [hg, hme]
    rcases Nat.lt_trichotomy j k with h | rfl | h
    · have h1 : ¬ k ≤ j := by omega
      have h2 : ¬ k + 1 ≤ j := by omega
      simp only [if_neg h1, if_neg h2, Tbl.get_put, if_neg (Nat.ne_of_lt h)]
      split <;> split <;> rfl
    · have h2 : ¬ j + 1 ≤ j := by omega
      simp only [if_neg h2, Tbl.get_put, if_true, Nat.sub_self, List.getElem?_cons_zero, Nat.le_refl]
      split <;> rfl
    · obtain ⟨i, rfl⟩ := Nat.exists_eq_add_of_lt h
      have h1 : k ≤ k + i + 1 := by omega
      have h2 : k + 1 ≤ k + i + 1 := by omega
      have h3 : k + i + 1 - k = i + 1 := by omega
      have h4 : k + i + 1 - (k + 1) = i := by omega
      simp only [if_pos h1, if_pos h2, h3, h4, List.getElem?_cons_succ, Tbl.get_put, if_neg (show ¬ k + i + 1 = k by omega)]

/-- ELD on eight words that nothing stops. -/
theorem State.eld_done {bs : List (List Byte)} {u : State} (hu : s.Elsewhere u) (hch : ∃ ch, u.me = { s.me with chunk := ch }) :
    let t := (u.esets bs.zipIdx).done
    t.me.pc = s.me.pc + 4#64 ∧ SameMemory s t ∧ ∀ j b, bs[j]? = some b → t.eget s.cur j = nat (leNat b) := by
  obtain ⟨ch, hch⟩ := hch
  obtain ⟨he, e, hme, hg⟩ := State.esets_sets bs 0 u
  obtain ⟨hcur, hpc, hmem, hsame, -⟩ := State.done_ends (hu.trans he) (by rw [hme, hch]) (by rw [hme, hch])
  refine ⟨hpc, hmem, fun j b hj => ?_⟩
  have he' : ∀ t : State, t.cur = s.cur → t.eget s.cur j = Tbl.get 0#64 t.me.e j := fun t ht => by rw [← ht]; rfl
  rw [he' _ hcur, hsame.e, hme, hg]
  simp only [Nat.sub_zero, hj, if_pos (Nat.zero_le j)]

/-- EMOV's end. -/
theorem State.emov_done (s : State) (r : Nat) (v : W) : let t := (s.eset s.cur r v).done
    t.me.pc = s.me.pc + 4#64 ∧ t.eget s.cur r = v ∧ (∀ r', r' ≠ r → t.eget s.cur r' = s.eget s.cur r') ∧ (∀ r', t.xget s.cur r' = s.xget s.cur r') ∧ SameMemory s t := by
  have hme : (s.eset s.cur r v).me = { s.me with e := s.me.e.put r v } := State.me_upd s _
  obtain ⟨hcur, hpc, hmem, hsame, hx⟩ := State.done_ends (u := s.eset s.cur r v) (.upd s _) (by rw [hme]) (by rw [hme])
  have he : ∀ t : State, t.cur = s.cur → ∀ j, t.eget s.cur j = Tbl.get 0#64 t.me.e j := fun t ht j => by rw [← ht]; rfl
  refine ⟨hpc, ?_, fun r' hn => ?_, hx s.cur, hmem⟩
  · rw [he _ hcur, hsame.e, hme, Tbl.get_put, if_pos rfl]
  · rw [he _ hcur, hsame.e, hme, Tbl.get_put, if_neg hn]
    rfl

end

/-- VLDB's checks, and the transfers of the operand extension registers. -/
theorem blockAndExtension : Rules.BlockAndExtension := by
  intro v y x d m e s s1 p
  refine ⟨fun ho => ?_, fun ho => ?_⟩
  · have hcur := ho.cur
    have hbody : ∀ body : List W → State → State, s.withOps 4 [x] none false none body = body [p] s1 := fun body =>
      (State.withOps_reach ho).trans (State.kept_done (.inl rfl))
    have hvldb : exec (.vldb v x y m) s = .next (match s1.vldbCheck p (nat (lane (s1.vget s1.cur y.toNat) 64 1)) (lane (s1.vget s1.cur y.toNat) 64 0) with
        | some (c, t) => s1.raise c t
        | none => s1.vldb v m p (nat (lane (s1.vget s1.cur y.toNat) 64 1)) (lane (s1.vget s1.cur y.toNat) 64 0)) := congrArg Host.Outcome.next (hbody _)
    have held : exec (.eld x) s = .next (s1.onPieces (s1.extPieces p fun _ => []) fun ps s => s.loadAll (decide (s.me.latch.stage ≠ 0)) ps fun bs s =>
        (s.esets bs.zipIdx).done) := congrArg Host.Outcome.next (hbody _)
    have hest : exec (.est x) s = .next (s1.onPieces (s1.extPieces p fun j => leBytes (s1.eget s1.cur j).toNat 8) fun ps s => s.store 4 ps) :=
      congrArg Host.Outcome.next (hbody _)
    have hemov : exec (.emov e x) s = .next (s1.eset s1.cur e.toNat p).done := congrArg Host.Outcome.next (hbody _)
    rw [hcur] at hvldb hest hemov
    refine ⟨fun c t hc => ?_, fun hc => ?_, fun c t hc => ?_, fun ps hps => ?_, fun ps hps hb ha hr => ?_, fun ps hps => storesAt ?_, ?_⟩
    · rw [hvldb, hc]
    · rw [hvldb, hc]
    · rw [held, hc, State.onPieces]
    · rw [held, hps, State.onPieces]
      exact loadParks (E := fun t => Host.Outcome.next _ = Host.Outcome.next t) rfl
    · obtain ⟨hlen, hq⟩ := State.extPieces_ok hps
      obtain ⟨hu, hch⟩ := s1.readMarked_keeps (decide (s1.me.latch.stage ≠ 0)) ps
      obtain ⟨hpc, hmem, hget⟩ := State.eld_done (bs := ps.map s1.pieceBytes) hu hch
      rw [held, hps, State.onPieces, State.loadAll_done hb ha hr]
      refine ⟨_, rfl, hpc, hmem, hlen, fun j hj => ?_⟩
      obtain ⟨q, hqj, hptr, hacc⟩ := hq j hj
      refine ⟨q, List.mem_of_getElem? hqj, hptr, hacc, ?_⟩
      rw [← hcur]
      exact hget j _ (by rw [List.getElem?_map, hqj]; rfl)
    · rw [hest, hps, State.onPieces]
    · obtain ⟨hpc, hr, hn, hx, hmem⟩ := s1.emov_done e.toNat p
      rw [hcur] at hpc hr hn hx hmem
      exact ⟨_, hemov, hpc, hr, hn, hx, hmem⟩
  · show Host.Outcome.next _ = Host.Outcome.next _
    rw [State.regOp, State.withOps_reach ho, ho.cur]

end Sys2Proof.Machine
end

section
/-! What of O32 holds for every state, second part. The bytes that readers of ranges give, and the lanes of VLDB for plain and block formats (R51, R52, R56, R133). -/

namespace Sys2Proof.Machine

/-! The bytes read -/

theorem get_putRange (t : Tbl Byte) (k : Nat) (bs : List Byte) (a : Nat) :
    Tbl.get 0#8 (putRange t k bs) a = if k ≤ a then (bs[a - k]?).getD (Tbl.get 0#8 t a) else Tbl.get 0#8 t a := by
  suffices h : ∀ (l : List Byte) (n : Nat) (t : Tbl Byte), Tbl.get 0#8 ((l.zipIdx n).foldl (fun t (b, i) => t.put (k + i) b) t) a =
      if k + n ≤ a then (l[a - (k + n)]?).getD (Tbl.get 0#8 t a) else Tbl.get 0#8 t a from h bs 0 t
  intro l
  induction l with
  | nil => intro n t; simp
  | cons b l ih =>
    intro n t
    rw [List.zipIdx_cons, List.foldl_cons, ih, Tbl.get_put]
    rcases Nat.lt_trichotomy a (k + n) with h | rfl | h
    · rw [if_neg (by omega), if_neg (by omega), if_neg (by omega)]
    · rw [if_neg (by omega), if_pos rfl, if_pos (Nat.le_refl _), Nat.sub_self]
      rfl
    · obtain ⟨i, rfl⟩ := Nat.exists_eq_add_of_lt h
      rw [if_pos (by omega), if_neg (by omega), if_pos (by omega), show k + n + i + 1 - (k + (n + 1)) = i by omega, show k + n + i + 1 - (k + n) = i + 1 by omega,
        List.getElem?_cons_succ]

/-- Two runs of bytes agree where they overlap. -/
def AgreeOn (e e' : Nat × List Byte) : Prop := ∀ i i' x x', e.1 + i = e'.1 + i' → e.2[i]? = some x → e'.2[i']? = some x' → x = x'

theorem AgreeOn.symm {e e' : Nat × List Byte} (h : AgreeOn e e') : AgreeOn e' e := fun i i' x x' hi hx hx' => (h i' i x' x hi.symm hx' hx).symm

theorem AgreeOn.refl (e : Nat × List Byte) : AgreeOn e e := fun i i' x x' hi hx hx' => by
  obtain rfl : i = i' := by omega
  exact Option.some_inj.1 (hx.symm.trans hx')

/-- Of runs that agree each byte is read as it stands. -/
theorem get_putRanges {l : List (Nat × List Byte)} (h : ∀ e ∈ l, ∀ e' ∈ l, AgreeOn e e') {e : Nat × List Byte} (he : e ∈ l) {i : Nat} {x : Byte}
    (hx : e.2[i]? = some x) : Tbl.get 0#8 (l.foldl (fun t (k, b) => putRange t k b) []) (e.1 + i) = x := by
  induction l using List.reverseRecOn with
  | nil => cases he
  | append_singleton l e' ih =>
    have hlast : e' ∈ l ++ [e'] := List.mem_append_right _ (List.mem_singleton.2 rfl)
    rw [List.foldl_append, List.foldl_cons, List.foldl_nil, get_putRange]
    by_cases hin : e ∈ l
    · have hrest := ih (fun a ha b hb => h a (List.mem_append_left _ ha) b (List.mem_append_left _ hb)) hin
      rw [hrest]
      split
      · next hk =>
        cases hy : e'.2[e.1 + i - e'.1]? with
        | none => rfl
        | some y => exact (h e he e' hlast i _ x y (by omega) hx hy).symm
      · rfl
    · obtain rfl : e = e' := by simpa [hin] using he
      rw [if_pos (Nat.le_add_right ..), Nat.add_sub_cancel_left, hx, Option.getD_some]

/-! The pieces of ranges -/

/-- The parts of a range that are read in one piece: array, byte offset, bytes. -/
def Range.parts (r : Range) : List Range := (List.range (ceilDiv r.2.2 64)).map fun j => (r.1, r.2.1 + 64 * j, Nat.min 64 (r.2.2 - 64 * j))

/-- Where a part of an array stands in the table of a reader. -/
def Range.key (r : Range) : Nat := (if r.1 then 2 ^ 60 else 0) + r.2.1

/-- The piece of a part. -/
def State.partPiece (s : State) (b aux : W) (i : Nat) (r : Range) : Except (Nat × W) Piece :=
  match ptrAdd (if r.1 then aux else b) (r.2.1 : Nat) with
  | none => .error (71, if r.1 then aux else b)
  | some p => s.piece i p 1 r.2.2

theorem State.rangePieces_eq (s : State) (b aux : W) (i : Nat) (rs : List Range) :
    s.rangePieces b aux i rs = ((rs.flatMap Range.parts).zipIdx i).map fun (r, k) => s.partPiece b aux k r := by
  induction rs generalizing i with
  | nil => rfl
  | cons r rs ih =>
    obtain ⟨x, off, n⟩ := r
    have hone : ∀ k, ((List.range k).map fun j => (match ptrAdd (if x then aux else b) (off + 64 * j : Nat) with
        | none => .error (71, if x then aux else b)
        | some p => s.piece (i + j) p 1 (Nat.min 64 (n - 64 * j)) : Except (Nat × W) Piece)) =
        (((List.range k).map fun j => ((x, off + 64 * j, Nat.min 64 (n - 64 * j)) : Range)).zipIdx i).map fun (r, k) => s.partPiece b aux k r := fun k => by
      refine List.ext_getElem? fun j => ?_
      by_cases hj : j < k
      · simp [hj]
        rfl
      · simp [hj]
    rw [State.rangePieces, List.flatMap_cons, List.zipIdx_append, List.map_append, ih]
    refine congrArg₂ (· ++ ·) (hone _) ?_
    rw [Range.parts, List.length_map, List.length_range]

section
variable {s : State} {b aux : W} {rs : List Range} {ps : List Piece}

/-- The pieces of ranges, one by one. -/
theorem State.rangePieces_ok (h : allPieces (s.rangePieces b aux 0 rs) = .ok ps) {k : Nat} {r : Range} (hr : (rs.flatMap Range.parts)[k]? = some r) :
    ∃ q, ps[k]? = some q ∧ ptrAdd (if r.1 then aux else b) (r.2.1 : Nat) = some q.ptr ∧ s.access s.myCore q.ptr 1 r.2.2 = .ok q.tgt ∧ q.n = r.2.2 := by
  have hl := congrArg (·[k]?) (allPieces_ok h)
  simp only [State.rangePieces_eq, List.getElem?_map, List.getElem?_zipIdx, hr, Option.map_some] at hl
  obtain ⟨q, hq, hqk⟩ := Option.map_eq_some_iff.1 hl.symm
  refine ⟨q, hq, ?_⟩
  unfold State.partPiece at hqk
  split at hqk
  · cases hqk
  · next p hp =>
    obtain ⟨h1, h2, h3⟩ := State.piece_ok hqk.symm
    rw [h1]
    exact ⟨hp, h1 ▸ h2, h3⟩

theorem State.length_pieceBytes (s : State) (p : Piece) : (s.pieceBytes p).length = p.n := by
  unfold State.pieceBytes
  split
  · exact length_leBytes _ _
  · simp

/-- The runs of bytes that the pieces of ranges read. -/
def State.byteRuns (s : State) (rs : List Range) (ps : List Piece) : List (Nat × List Byte) := ((rs.flatMap Range.parts).map Range.key).zip (ps.map s.pieceBytes)

/-- The table that a reader of ranges reads. -/
def State.readTable (s : State) (rs : List Range) (ps : List Piece) : Tbl Byte := (s.byteRuns rs ps).foldl (fun t (k, b) => putRange t k b) []

/-- A run is that of a part of a range and its piece. -/
theorem State.mem_byteRuns {e : Nat × List Byte} (he : e ∈ s.byteRuns rs ps) : ∃ (k : Nat) (r : Range) (q : Piece), (rs.flatMap Range.parts)[k]? = some r ∧ ps[k]? = some q ∧
    e = (Range.key r, s.pieceBytes q) := by
  obtain ⟨k, hk⟩ := List.mem_iff_getElem?.1 he
  obtain ⟨hy, hz⟩ := List.getElem?_zip_eq_some.1 hk
  rw [List.getElem?_map] at hy hz
  obtain ⟨r, hr, hkey⟩ := Option.map_eq_some_iff.1 hy
  obtain ⟨q, hq, hbytes⟩ := Option.map_eq_some_iff.1 hz
  exact ⟨k, r, q, hr, hq, Prod.ext hkey.symm hbytes.symm⟩

/-- Byte i of a range lies in its part i / 64. -/
theorem part_of_range {r : Range} (hr : r ∈ rs) {i : Nat} (hi : i < r.2.2) :
    ∃ k : Nat, (rs.flatMap Range.parts)[k]? = some ((r.1, r.2.1 + 64 * (i / 64), Nat.min 64 (r.2.2 - 64 * (i / 64))) : Range) := by
  refine List.mem_iff_getElem?.1 (List.mem_flatMap.2 ⟨r, hr, List.mem_map.2 ⟨i / 64, List.mem_range.2 ?_, rfl⟩⟩)
  unfold ceilDiv
  omega

/-- Each byte of a range is read from its piece, where the runs agree. -/
theorem State.readTable_get (h : allPieces (s.rangePieces b aux 0 rs) = .ok ps) (hag : ∀ e ∈ s.byteRuns rs ps, ∀ e' ∈ s.byteRuns rs ps, AgreeOn e e')
    {r : Range} (hr : r ∈ rs) {i : Nat} (hi : i < r.2.2) :
    ∃ (k : Nat) (q : Piece), ps[k]? = some q ∧ (rs.flatMap Range.parts)[k]? = some ((r.1, r.2.1 + 64 * (i / 64), Nat.min 64 (r.2.2 - 64 * (i / 64))) : Range) ∧
      ptrAdd (if r.1 then aux else b) ((r.2.1 + i / 64 * 64 : Nat) : Int) = some q.ptr ∧ (s.pieceBytes q)[i % 64]? = some (Tbl.get 0#8 (s.readTable rs ps) (Range.key r + i)) := by
  obtain ⟨k, hk⟩ := part_of_range hr hi
  obtain ⟨q, hq, hptr, -, hn⟩ := State.rangePieces_ok h hk
  have hlen : i % 64 < (s.pieceBytes q).length := by
    rw [State.length_pieceBytes, hn]
    exact lt_min (Nat.mod_lt _ (by decide)) (by omega)
  have hmem : (Range.key r + 64 * (i / 64), s.pieceBytes q) ∈ s.byteRuns rs ps := by
    refine List.mem_iff_getElem?.2 ⟨k, List.getElem?_zip_eq_some.2 ⟨?_, ?_⟩⟩
    · rw [List.getElem?_map, hk, Option.map_some, Range.key, Range.key, Nat.add_assoc]
    · rw [List.getElem?_map, hq, Option.map_some]
  have hget := get_putRanges hag hmem (List.getElem?_eq_getElem hlen)
  refine ⟨k, q, hq, hk, ?_, ?_⟩
  · rw [Nat.mul_comm (i / 64)]
    exact hptr
  · rw [List.getElem?_eq_getElem hlen, ← hget, State.readTable, Nat.add_assoc, Nat.div_add_mod]

/-- Ranges are read as the body asks for them. -/
theorem State.readRanges_done {body : (Bool → Nat → Nat → Nat) → State → State} (h : allPieces (s.rangePieces b aux 0 rs) = .ok ps)
    (hb : s.behind (decide (s.me.latch.stage ≠ 0)) ps = false) (ha : s.allows false ps) (hr : s.replied ps) :
    s.readRanges b aux rs body = body (reader (s.readTable rs ps)) (s.readMarked (decide (s.me.latch.stage ≠ 0)) ps) := by
  have hkeys : (rs.flatMap fun (x, off, n) => (List.range (ceilDiv n 64)).map fun j => (if x then 2 ^ 60 else 0) + off + 64 * j) =
      (rs.flatMap Range.parts).map Range.key := by
    rw [List.map_flatMap]
    refine congrArg₂ List.flatMap (funext fun r => ?_) rfl
    rw [Range.parts, List.map_map]
    exact List.map_congr_left fun j _ => Nat.add_assoc ..
  rw [State.readRanges, h, State.onPieces, State.loadAll_done hb ha hr, hkeys]
  rfl

/-! Ranges of one array that do not overlap -/

/-- Two ranges of the data array have no byte in common. -/
def Range.Apart (r r' : Range) : Prop := r.1 = false ∧ r'.1 = false ∧ ∀ i < r.2.2, ∀ i' < r'.2.2, r.2.1 + i ≠ r'.2.1 + i'

/-- Runs of ranges that do not overlap agree. -/
theorem State.byteRuns_agree (h : allPieces (s.rangePieces b aux 0 rs) = .ok ps) (hd : rs.Pairwise Range.Apart) (hf : ∀ r ∈ rs, r.1 = false) :
    ∀ e ∈ s.byteRuns rs ps, ∀ e' ∈ s.byteRuns rs ps, AgreeOn e e' := by
  have hparts : (rs.flatMap Range.parts).Pairwise Range.Apart := by
    refine List.pairwise_flatMap.2 ⟨fun r hr => ?_, hd.imp fun {r r'} ⟨h1, h2, hne⟩ => ?_⟩
    · refine List.pairwise_map.2 (List.pairwise_lt_range.imp fun {j j'} hj => ⟨hf r hr, hf r hr, fun i hi i' hi' => ?_⟩)
      have := hi.trans_le (Nat.min_le_left ..)
      dsimp only
      omega
    · intro p hp p' hp'
      obtain ⟨j, -, rfl⟩ := List.mem_map.1 hp
      obtain ⟨j', -, rfl⟩ := List.mem_map.1 hp'
      refine ⟨h1, h2, fun i hi i' hi' => ?_⟩
      have h3 := hi.trans_le (Nat.min_le_right ..)
      have h4 := hi'.trans_le (Nat.min_le_right ..)
      have := hne (64 * j + i) (by omega) (64 * j' + i') (by omega)
      dsimp only
      omega
  have hlater : ∀ {k k' : Nat} {r r' : Range} {q q' : Piece}, (rs.flatMap Range.parts)[k]? = some r → (rs.flatMap Range.parts)[k']? = some r' →
      ps[k]? = some q → ps[k']? = some q' → k < k' → AgreeOn (Range.key r, s.pieceBytes q) (Range.key r', s.pieceBytes q') := by
    intro k k' r r' q q' hr hr' hq hq' hk i i' x x' hi hx hx'
    obtain ⟨hkl, rfl⟩ := List.getElem?_eq_some_iff.1 hr
    obtain ⟨hkl', rfl⟩ := List.getElem?_eq_some_iff.1 hr'
    obtain ⟨h1, h2, hne⟩ := List.pairwise_iff_getElem.1 hparts k k' hkl hkl' hk
    have hlen : ∀ {k : Nat} {r : Range} {q : Piece} {i : Nat} {x : Byte}, (rs.flatMap Range.parts)[k]? = some r → ps[k]? = some q →
        (s.pieceBytes q)[i]? = some x → i < r.2.2 := by
      intro k r q i x hr hq hx
      obtain ⟨q1, hq1, -, -, hn⟩ := State.rangePieces_ok h hr
      obtain rfl : q1 = q := Option.some_inj.1 (hq1.symm.trans hq)
      rw [← hn, ← State.length_pieceBytes]
      exact (List.getElem?_eq_some_iff.1 hx).1
    refine absurd ?_ (hne i (hlen hr hq hx) i' (hlen hr' hq' hx'))
    simpa [Range.key, h1, h2] using hi
  intro e he e' he'
  obtain ⟨k, r, q, hr, hq, rfl⟩ := State.mem_byteRuns he
  obtain ⟨k', r', q', hr', hq', rfl⟩ := State.mem_byteRuns he'
  rcases Nat.lt_trichotomy k k' with hk | rfl | hk
  · exact hlater hr hr' hq hq' hk
  · obtain rfl : r = r' := Option.some_inj.1 (hr.symm.trans hr')
    obtain rfl : q = q' := Option.some_inj.1 (hq.symm.trans hq')
    exact .refl _
  · exact (hlater hr' hr hq' hq hk).symm

/-- The lanes that VLDB ends with. -/
theorem State.vldbDone_lanes {u : State} (hu : s.Elsewhere u) (hch : ∃ ch, u.me = { s.me with chunk := ch }) (v : BitVec 5) (m : BitVec 3) (f : Nat → FV) :
    (u.vldbDone v m f).me.pc = s.me.pc + 4#64 ∧ SameMemory s (u.vldbDone v m f) ∧ ∀ j < 16, lane ((u.vldbDone v m f).vget s.cur v.toNat) 32 j =
      if (s.mask s.cur m.toNat).getLsbD j then (fp32.round 0 (f j)).bits % 2 ^ 32 else lane (s.vget s.cur v.toNat) 32 j := by
  obtain ⟨ch, hch⟩ := hch
  set vv := vecOf 32 ((List.range 16).map fun j => if (u.mask u.cur m.toNat).getLsbD j then (fp32.round 0 (f j)).bits else
    ((List.range 16).map (lane (u.vget u.cur v.toNat) 32)).getD j 0) with hvv
  have hme : (u.vset u.cur v.toNat vv).me = { s.me with chunk := ch, v := s.me.v.put v.toNat vv } := by
    have h := State.me_upd u fun sl => { sl with v := sl.v.put v.toNat vv }
    rw [hch] at h
    exact h
  have hset : s.Elsewhere (u.vset u.cur v.toNat vv) := hu.trans (.upd u fun sl => { sl with v := sl.v.put v.toNat vv })
  obtain ⟨hcur, hpc, hmem, hsame, -⟩ := State.done_ends hset (by rw [hme]) (by rw [hme])
  have hdone : u.vldbDone v m f = (u.vset u.cur v.toNat vv).done := rfl
  have hv : (u.vldbDone v m f).vget s.cur v.toNat = vv := by
    rw [hdone, ← hcur]
    show Tbl.get 0#512 (u.vset u.cur v.toNat vv).done.me.v v.toNat = vv
    rw [hsame.v, hme, Tbl.get_put, if_pos rfl]
  have hold : u.vget u.cur v.toNat = s.vget s.cur v.toNat := by
    show Tbl.get 0#512 u.me.v v.toNat = Tbl.get 0#512 s.me.v v.toNat
    rw [hch]
  have hmask : u.mask u.cur m.toNat = s.mask s.cur m.toNat := by
    show (if m.toNat = 0 then BitVec.allOnes 64 else Tbl.get 0#64 u.me.m m.toNat) = if m.toNat = 0 then BitVec.allOnes 64 else Tbl.get 0#64 s.me.m m.toNat
    rw [hch]
  refine ⟨hpc, hmem, fun j hj => ?_⟩
  rw [hv, hvv, lane_vecOf _ (lane_within hj), getD_map_range, if_pos hj, getD_map_range, if_pos hj, hmask, hold]
  split
  · rfl
  · exact Nat.mod_eq_of_lt (lane_lt _ _ _)

end

/-! The ranges of the plain and of the block formats -/

/-- The scales and the data of two neighbouring element blocks lie apart. -/
theorem mxRanges_apart (f q : Nat) : ([q, q + 1].flatMap fun q => ([(false, mxScale f q, 1), (false, mxData f q, (mxFmt f).bits)] : List Range)).Pairwise Range.Apart := by
  have hw : (mxFmt f).bits = 8 ∨ (mxFmt f).bits = 6 ∨ (mxFmt f).bits = 4 := by
    unfold mxFmt
    split <;> decide
  simp only [List.flatMap_cons, List.flatMap_nil, List.append_nil, List.cons_append, List.nil_append, List.pairwise_cons, List.mem_cons, List.not_mem_nil, or_false,
    forall_eq_or_imp, forall_eq, Range.Apart, mxScale, mxData, mxGroup, List.Pairwise.nil, and_true, true_and, false_imp_iff, implies_true]
  have hq : (q + 1) / 8 = q / 8 ∧ (q + 1) % 8 = q % 8 + 1 ∨ (q + 1) / 8 = q / 8 + 1 ∧ (q + 1) % 8 = 0 := by omega
  have hlt : q % 8 < 8 := Nat.mod_lt _ (by decide)
  rcases hq with ⟨hd, hm⟩ | ⟨hd, hm⟩ <;> rw [hd, hm] <;> rcases hw with hw | hw | hw <;> rw [hw] <;> and_intros <;> intros <;> omega

/-- The ranges that VLDB reads of an array whose elements lie in place. -/
def placedRanges (f n0 : Nat) : List Range :=
  if 12 ≤ f ∧ f ≤ 16 then [n0 / 8, n0 / 8 + 1].flatMap fun q => [(false, mxScale f q, 1), (false, mxData f q, (mxFmt f).bits)]
  else if f = 22 then [(false, n0 / 2, 8)] else [(false, n0 * plainBytes f, 16 * plainBytes f)]

theorem placedRanges_apart (f n0 : Nat) : (placedRanges f n0).Pairwise Range.Apart ∧ ∀ r ∈ placedRanges f n0, r.1 = false := by
  unfold placedRanges
  split
  · exact ⟨mxRanges_apart f _, by simp⟩
  · split <;> simp

/-- The value of element n0 + j of such an array. -/
def placedValue (f n0 : Nat) (rd : Nat → Nat → Nat) (j : Nat) : FV :=
  if 12 ≤ f ∧ f ≤ 16 then blockValue (mxFmt f) (mxBlock f rd (n0 / 8 + j / 8)).1 ((mxBlock f rd (n0 / 8 + j / 8)).2.getD (j % 8) 0)
  else plainValue f (plainCode f rd (n0 + j))

theorem placedValue_mx {f : Nat} (h : 12 ≤ f ∧ f ≤ 16) (n0 : Nat) (rd : Nat → Nat → Nat) : placedValue f n0 rd = fun j =>
    blockValue (mxFmt f) (mxBlock f rd (n0 / 8 + j / 8)).1 ((mxBlock f rd (n0 / 8 + j / 8)).2.getD (j % 8) 0) := funext fun _ => if_pos h

theorem placedValue_plain {f : Nat} (h : ¬ (12 ≤ f ∧ f ≤ 16)) (n0 : Nat) (rd : Nat → Nat → Nat) : placedValue f n0 rd = fun j => plainValue f (plainCode f rd (n0 + j)) :=
  funext fun _ => if_neg h

theorem State.vldb_placed (s : State) (v : BitVec 5) (m : BitVec 3) (b x : W) (n0 : Nat) (h : ¬ (17 ≤ fmtOf b ∧ fmtOf b ≤ 20)) :
    s.vldb v m b x n0 = s.readRanges b x (placedRanges (fmtOf b) n0) fun rd s => s.vldbDone v m (placedValue (fmtOf b) n0 (rd false)) := by
  by_cases hmx : 12 ≤ fmtOf b ∧ fmtOf b ≤ 16
  · simp only [State.vldb, placedRanges, placedValue_mx hmx, if_pos hmx]
  · have h17 : ¬ fmtOf b = 17 := by omega
    have h18 : ¬ (fmtOf b = 18 ∨ fmtOf b = 19) := by omega
    have h20 : ¬ fmtOf b = 20 := by omega
    by_cases h22 : fmtOf b = 22
    · simp only [State.vldb, placedRanges, placedValue_plain hmx, if_neg hmx, if_neg h17, if_neg h18, if_neg h20, if_pos h22]
    · simp only [State.vldb, placedRanges, placedValue_plain hmx, if_neg hmx, if_neg h17, if_neg h18, if_neg h20, if_neg h22]

/-- The lanes of VLDB for the plain formats, for INT4 and for the block formats. -/
theorem blockLanes : Rules.BlockLanes := by
  intro s v m b x n0 rs ps _ hrs hf hps hb ha hr
  obtain rfl : rs = placedRanges (fmtOf b) n0 := hrs
  obtain ⟨hd, hdata⟩ := placedRanges_apart (fmtOf b) n0
  have hag := State.byteRuns_agree hps hd hdata
  refine ⟨fun a => Tbl.get 0#8 (s.readTable (placedRanges (fmtOf b) n0) ps) a, fun z o n hz i hi => ?_, ?_⟩
  · obtain ⟨k, q, hq, -, hptr, hbyte⟩ := State.readTable_get hps hag hz hi
    obtain rfl : z = false := hdata _ hz
    refine ⟨q, List.mem_of_getElem? hq, hptr, ?_⟩
    rw [hbyte, Range.key, if_neg Bool.false_ne_true, Nat.zero_add]
  · rintro rd t rfl
    have hread : reader (s.readTable (placedRanges (fmtOf b) n0) ps) false = rd := by
      funext o n
      simp only [reader, rd, if_neg Bool.false_ne_true, Nat.zero_add]
    obtain ⟨hu, hch⟩ := s.readMarked_keeps (decide (s.me.latch.stage ≠ 0)) ps
    rw [State.vldb_placed s v m b x n0 hf, State.readRanges_done hps hb ha hr, hread]
    exact State.vldbDone_lanes hu hch v m _

end Sys2Proof.Machine
end

section
/-! What of O32 holds on the cores of a device, first part. Arrays in TCM are read at once, byte by byte as they stand (R41, R133). -/

namespace Sys2Proof.Machine

/-! Pointers into TCM -/

section
variable {s : State} {b aux p : W} {o n : Nat}

theorem toNat_setFld_add (h : fld p 0 18 + o < 2 ^ 18) : (setFld p 0 18 (fld p 0 18 + o)).toNat = p.toNat + o := by
  have hp := p.isLt
  rw [fld_zero] at h
  simp only [setFld, nat, fld_zero, BitVec.toNat_ofNat, Nat.shiftRight_eq_div_pow, Nat.zero_add, Nat.pow_zero, Nat.mod_one, Nat.mul_one, Nat.mod_eq_of_lt h]
  omega

theorem spc_eq (p : W) : spc p = p.toNat / 2 ^ 52 % 2 ^ 3 := by rw [spc, fld, bitsOf, Nat.shiftRight_eq_div_pow]

/-- A pointer into TCM moved within it. -/
theorem ptrAdd_tcm (h3 : spc p = 3) (hf : offOf p / 2 ^ 18 = 0) (ho : fld p 0 18 + o < 2 ^ 18) :
    ∃ q, ptrAdd p (o : Nat) = some q ∧ spc q = 3 ∧ Fits q ∧ fld q 0 18 = fld p 0 18 + o := by
  have hw : offWidth (spc p) = 18 := by rw [h3]; rfl
  have hq := toNat_setFld_add ho
  have hlow := fld_zero p 18
  rw [spc_eq] at h3
  rw [offOf, fld_zero] at hf
  have hsp : spc (setFld p 0 18 (fld p 0 18 + o)) = 3 := by
    rw [spc_eq, hq]
    omega
  refine ⟨_, ?_, hsp, ?_, ?_⟩
  · simp only [ptrAdd, hw]
    rw [if_neg (by omega)]
    congr 2
  · rw [Fits, hsp, offOf, fld_zero, hq]
    show (p.toNat + o) % 2 ^ 52 / 2 ^ 18 = 0
    omega
  · rw [fld_zero, hq]
    omega

/-- An access within the core's TCM succeeds. -/
theorem State.access_tcm (h3 : spc p = 3) (hf : Fits p) (hn : fld p 0 18 + n ≤ 2 ^ 18) :
    s.access s.myCore p 1 n = .ok ⟨tcmBase s.myCore, fld p 0 18, 18, 2 ^ 18, false, s.vcl s.myCore⟩ := by
  have hr := State.resolve_tcm (s := s) (c := s.myCore) h3 hf
  rw [h3] at hr
  rw [State.access_aligned hr (Nat.mod_one _)]
  exact Tgt.extent_within hn hn

/-! Arrays in TCM -/

theorem mem_wordsOf {a n w : Nat} : w ∈ wordsOf a n ↔ 0 < n ∧ w % 8 = 0 ∧ a / 8 ≤ w / 8 ∧ w / 8 ≤ (a + n - 1) / 8 := by
  unfold wordsOf
  split
  · simp_all
  · simp only [List.mem_map, List.mem_range]
    constructor
    · rintro ⟨i, hi, rfl⟩
      omega
    · rintro ⟨-, h1, h2, h3⟩
      exact ⟨w / 8 - a / 8, by omega, by omega⟩

/-- The words of a part of a run are words of the run. -/
theorem wordsOf_part {a o n m : Nat} (h : o + n ≤ m) {w : Nat} (hw : w ∈ wordsOf (a + o) n) : w ∈ wordsOf a m := by
  rw [mem_wordsOf] at hw ⊢
  omega

theorem State.tcmHolds.mono {m : Nat} (h : s.tcmHolds p m) (hn : n ≤ m) : s.tcmHolds p n := by
  obtain ⟨h3, hf, hm, hw⟩ := h
  exact ⟨h3, hf, by omega, fun w hin => hw w (wordsOf_part (o := 0) (by omega) hin)⟩

/-- The array that a range belongs to. -/
abbrev Range.array (b aux : W) (r : Range) : W := if r.1 then aux else b

/-- The piece of a part of an array in TCM. -/
theorem State.partPiece_tcm {i : Nat} {r : Range} (h : s.tcmHolds (Range.array b aux r) (r.2.1 + r.2.2)) (hn : 0 < r.2.2) :
    ∃ q, s.partPiece b aux i r = .ok q ∧ q.n = r.2.2 ∧ q.tgt.remote = false ∧ q.tgt.at_ = tcmBase s.myCore + fld (Range.array b aux r) 0 18 + r.2.1 := by
  obtain ⟨h3, hf, hm, -⟩ := h
  obtain ⟨p, hp, hp3, hpf, hlow⟩ := ptrAdd_tcm (o := r.2.1) h3 hf (by omega)
  have hacc := State.access_tcm (s := s) (n := r.2.2) hp3 hpf (by omega)
  refine ⟨⟨i, p, ⟨tcmBase s.myCore, fld p 0 18, 18, 2 ^ 18, false, s.vcl s.myCore⟩, r.2.2, []⟩, ?_, rfl, rfl, ?_⟩
  · simp only [State.partPiece, hp, State.piece, hacc]
  · rw [Tgt.at_, hlow, Nat.add_assoc]

/-- A piece in the core's TCM whose words hold no poison can be read. -/
theorem State.fine_local {ps : List Piece} {q : Piece} (hr : q.tgt.remote = false) (hg : isGlobal q.tgt.at_ = false)
    (hw : ∀ w ∈ wordsOf q.tgt.at_ q.n, s.poisonSeen s.cur w = false) : s.fine false ps q := by
  have hl : q.lines = [] := by rw [Piece.lines, hg, if_neg Bool.false_ne_true]
  have hp : (wordsOf q.tgt.at_ q.n).any (s.poisonSeen s.cur) = false := List.any_eq_false.2 fun w h => by simp [hw w h]
  refine ⟨by rw [State.holds, hl]; rfl, ?_⟩
  simp [State.pieceErr, State.pieceDeny, State.piecePoison, hl, hr, hp]

theorem allPieces_of_formed {l : List (Except (Nat × W) Piece)} (h : ∀ e ∈ l, ∃ q, e = .ok q) : ∃ ps, allPieces l = .ok ps := by
  induction l with
  | nil => exact ⟨[], rfl⟩
  | cons e l ih =>
    obtain ⟨q, rfl⟩ := h e List.mem_cons_self
    obtain ⟨ps, hps⟩ := ih fun e he => h e (List.mem_cons_of_mem _ he)
    exact ⟨q :: ps, by simp only [allPieces, hps]⟩

/-! Reading them -/

section
variable {rs : List Range} {ps : List Piece} (hc : s.myCore < 1024) (h : ∀ r ∈ rs, s.tcmHolds (Range.array b aux r) (r.2.1 + r.2.2))

/-- A part of a range holds bytes, all of them in the range. -/
theorem part_within {r p : Range} (hp : p ∈ Range.parts r) : p.1 = r.1 ∧ 0 < p.2.2 ∧ p.2.1 + p.2.2 ≤ r.2.1 + r.2.2 := by
  obtain ⟨j, hj, rfl⟩ := List.mem_map.1 hp
  have hj' : 64 * j < r.2.2 := by
    rw [List.mem_range, ceilDiv] at hj
    omega
  refine ⟨rfl, lt_min (by decide) (by omega), ?_⟩
  have : Nat.min 64 (r.2.2 - 64 * j) ≤ r.2.2 - 64 * j := Nat.min_le_right ..
  dsimp only
  omega

include h

theorem State.tcmHolds_part {p : Range} (hp : p ∈ rs.flatMap Range.parts) : 0 < p.2.2 ∧ s.tcmHolds (Range.array b aux p) (p.2.1 + p.2.2) := by
  obtain ⟨r, hr, hpr⟩ := List.mem_flatMap.1 hp
  obtain ⟨h1, h2, h3⟩ := part_within hpr
  refine ⟨h2, ?_⟩
  rw [Range.array, h1]
  exact (h r hr).mono h3

theorem State.rangePieces_tcm : ∃ ps, allPieces (s.rangePieces b aux 0 rs) = .ok ps := by
  refine allPieces_of_formed fun e he => ?_
  rw [State.rangePieces_eq] at he
  obtain ⟨⟨p, k⟩, hp, rfl⟩ := List.mem_map.1 he
  obtain ⟨hn, ht⟩ := State.tcmHolds_part h (List.fst_mem_of_mem_zipIdx hp)
  obtain ⟨q, hq, -⟩ := State.partPiece_tcm (i := k) ht hn
  exact ⟨q, hq⟩

/-- Each piece is one of a part. -/
theorem State.piece_tcm (hps : allPieces (s.rangePieces b aux 0 rs) = .ok ps) {k : Nat} {q : Piece} (hq : ps[k]? = some q) :
    ∃ r, (rs.flatMap Range.parts)[k]? = some r ∧ 0 < r.2.2 ∧ s.tcmHolds (Range.array b aux r) (r.2.1 + r.2.2) ∧ q.n = r.2.2 ∧ q.tgt.remote = false ∧
      q.tgt.at_ = tcmBase s.myCore + fld (Range.array b aux r) 0 18 + r.2.1 := by
  have hl := congrArg (·[k]?) (allPieces_ok hps)
  simp only [State.rangePieces_eq, List.getElem?_map, List.getElem?_zipIdx, hq, Option.map_some, Option.map_map, Option.map_eq_some_iff] at hl
  obtain ⟨r, hr, hrq⟩ := hl
  obtain ⟨hn, ht⟩ := State.tcmHolds_part h (List.mem_of_getElem? hr)
  obtain ⟨q', hq', h1, h2, h3⟩ := State.partPiece_tcm (i := 0 + k) ht hn
  obtain rfl : q' = q := Except.ok.inj (hq'.symm.trans hrq)
  exact ⟨r, hr, hn, ht, h1, h2, h3⟩

include hc

/-- Nothing stops the read, and no line is marked. -/
theorem State.allows_tcm (hps : allPieces (s.rangePieces b aux 0 rs) = .ok ps) :
    (∀ irr, s.behind irr ps = false) ∧ s.allows false ps ∧ s.replied ps ∧ ps.flatMap (·.lines) = [] := by
  have hq : ∀ q ∈ ps, q.tgt.remote = false ∧ isGlobal q.tgt.at_ = false ∧ ∀ w ∈ wordsOf q.tgt.at_ q.n, s.poisonSeen s.cur w = false := fun q hq => by
    obtain ⟨k, hk⟩ := List.mem_iff_getElem?.1 hq
    obtain ⟨r, -, hn, ⟨-, -, hm, hw⟩, hqn, hrem, hat⟩ := State.piece_tcm h hps hk
    refine ⟨hrem, ?_, fun w hin => hw w ?_⟩
    · rw [hat, Nat.add_assoc]
      exact isGlobal_tcmBase hc (by omega)
    · rw [hat, hqn] at hin
      exact wordsOf_part (Nat.le_refl _) hin
  refine ⟨fun irr => ?_, fun q hin => ?_, fun q hin hrem => ?_, List.flatMap_eq_nil_iff.2 fun q hin => ?_⟩
  · have : (ps.any fun p => isGlobal p.tgt.at_) = false := List.any_eq_false.2 fun q hin => by simp [(hq q hin).2.1]
    rw [State.behind, this, Bool.and_false]
  · obtain ⟨h1, h2, h3⟩ := hq q hin
    exact State.fine_local h1 h2 h3
  · rw [(hq q hin).1] at hrem
    cases hrem
  · rw [Piece.lines, (hq q hin).2.1, if_neg Bool.false_ne_true]

omit hc

theorem State.byteRuns_tcm (hps : allPieces (s.rangePieces b aux 0 rs) = .ok ps) {e : Nat × List Byte} (he : e ∈ s.byteRuns rs ps) :
    ∃ r : Range, e.1 = Range.key r ∧ r.2.1 + r.2.2 ≤ 2 ^ 18 ∧
      ∀ i x, e.2[i]? = some x → i < r.2.2 ∧ x = s.seen s.cur (tcmBase s.myCore + fld (Range.array b aux r) 0 18 + (r.2.1 + i)) := by
  obtain ⟨k, r, q, hr, hq, rfl⟩ := State.mem_byteRuns he
  obtain ⟨r', hr', -, ⟨-, -, hm, -⟩, hqn, hrem, hat⟩ := State.piece_tcm h hps hq
  obtain rfl : r' = r := Option.some_inj.1 (hr'.symm.trans hr)
  refine ⟨r', rfl, by omega, fun i x hx => ?_⟩
  rw [State.pieceBytes, hrem, if_neg Bool.false_ne_true, List.getElem?_map] at hx
  obtain ⟨j, hj, rfl⟩ := Option.map_eq_some_iff.1 hx
  obtain ⟨hi, rfl⟩ := List.getElem?_eq_some_iff.1 hj
  rw [List.length_range] at hi
  exact ⟨hqn ▸ hi, by rw [List.getElem_range, hat, Nat.add_assoc]⟩

/-- Runs of bytes in TCM agree: what is read of one place is the same. -/
theorem State.agree_tcm (hps : allPieces (s.rangePieces b aux 0 rs) = .ok ps) : ∀ e ∈ s.byteRuns rs ps, ∀ e' ∈ s.byteRuns rs ps, AgreeOn e e' := by
  intro e he e' he' i i' x x' hi hx hx'
  obtain ⟨r, hk, hn, hb⟩ := State.byteRuns_tcm h hps he
  obtain ⟨r', hk', hn', hb'⟩ := State.byteRuns_tcm h hps he'
  obtain ⟨hlt, rfl⟩ := hb i x hx
  obtain ⟨hlt', rfl⟩ := hb' i' x' hx'
  rw [hk, hk', Range.key, Range.key] at hi
  have hsame : r.1 = r'.1 ∧ r.2.1 + i = r'.2.1 + i' := by
    cases h1 : r.1 <;> cases h2 : r'.1 <;> simp [h1, h2] at hi ⊢ <;> omega
  rw [Range.array, Range.array, hsame.1, hsame.2]

end

/-- The state in which the body of a read from TCM acts: inside a chunk no line has been added to those read. -/
abbrev State.read0 (s : State) : State := if s.me.latch.stage ≠ 0 then s else s.markRead []

/-- Ranges of arrays in the core's TCM are read at once, and read as they stand. -/
theorem State.readRanges_tcm {rs : List Range} (hc : s.myCore < 1024) (h : ∀ r ∈ rs, s.tcmHolds (Range.array b aux r) (r.2.1 + r.2.2)) :
    ∃ rd : Bool → Nat → Nat → Nat, (∀ r ∈ rs, ∀ o n, r.2.1 ≤ o → o + n ≤ r.2.1 + r.2.2 → rd r.1 o n = s.tcmNum (Range.array b aux r) o n) ∧
      ∀ body, s.readRanges b aux rs body = body rd s.read0 := by
  obtain ⟨ps, hps⟩ := State.rangePieces_tcm h
  obtain ⟨hb, ha, hr, hl⟩ := State.allows_tcm hc h hps
  refine ⟨reader (s.readTable rs ps), fun r hr o n ho hn => ?_, fun body => ?_⟩
  · rw [reader, State.tcmNum]
    refine congrArg leNat (List.map_congr_left fun i hi => ?_)
    have hi' := List.mem_range.1 hi
    obtain ⟨k, q, hq, hk, -, hbyte⟩ := State.readTable_get hps (State.agree_tcm h hps) hr (i := o + i - r.2.1) (by omega)
    obtain ⟨p, hp, -, -, -, hrem, hat⟩ := State.piece_tcm h hps hq
    obtain rfl := Option.some_inj.1 (hp.symm.trans hk)
    rw [State.pieceBytes, hrem, if_neg Bool.false_ne_true, List.getElem?_map] at hbyte
    obtain ⟨j, hj, hval⟩ := Option.map_eq_some_iff.1 hbyte
    obtain ⟨hin, rfl⟩ := List.getElem?_eq_some_iff.1 hj
    have hplace : q.tgt.at_ + (o + i - r.2.1) % 64 = tcmBase s.myCore + fld (Range.array b aux r) 0 18 + o + i := by
      rw [hat]
      show _ + fld (Range.array b aux r) 0 18 + (r.2.1 + 64 * ((o + i - r.2.1) / 64)) + _ = _
      omega
    have hkey : Range.key r + (o + i - r.2.1) = (if r.1 then 2 ^ 60 else 0) + o + i := by
      rw [Range.key]
      omega
    rw [← hkey, ← hval, List.getElem_range, hplace]
  · rw [State.readRanges_done hps (hb _) ha hr, State.readMarked, hl]
    by_cases hst : s.me.latch.stage = 0 <;> simp [State.read0, hst]

end

end Sys2Proof.Machine
end

section
/-! What of O32 holds on the cores of a device, second part. VLDB of SP24, SP24B and BMP8 arrays in TCM (R61, R62, R133). -/

namespace Sys2Proof.Machine

/-! Reading again -/

section
variable (s : State)

theorem State.read0_eq : s.read0 = s.readMarked (decide (s.me.latch.stage ≠ 0)) [] := by
  simp only [State.read0, State.readMarked, decide_eq_true_eq]
  rfl

theorem State.read0_keeps : s.Elsewhere s.read0 ∧ ∃ ch, s.read0.me = { s.me with chunk := ch } := by
  rw [State.read0_eq]
  exact s.readMarked_keeps _ []

theorem State.read0_read0 : s.read0.read0 = s.read0 := by
  by_cases h : s.me.latch.stage = 0
  · have h0 : s.read0 = s.markRead [] := if_neg (not_not.2 h)
    have h1 : (s.markRead []).me.latch.stage = 0 := by rw [State.markRead, State.me_upd, h]
    rw [h0, State.read0, if_neg (not_not.2 h1), State.markRead, State.markRead, State.upd_upd]
    rfl
  · have h0 : s.read0 = s := if_pos h
    rw [h0, h0]

theorem State.stores_read0 : s.read0.me.chunk.stores = s.me.chunk.stores := by
  unfold State.read0
  split
  · rfl
  · rw [State.markRead, State.me_upd]

theorem State.myCore_read0 : s.read0.myCore = s.myCore := congrArg coreOf s.read0_keeps.1.cur

theorem State.seen_read0 (a : Nat) : s.read0.seen s.read0.cur a = s.seen s.cur a := by
  show (match s.read0.me.chunk.stores.find a with | some b => b | none => s.read0.byteAt a) = match s.me.chunk.stores.find a with | some b => b | none => s.byteAt a
  rw [State.stores_read0, s.read0_keeps.1.mem.bytes]

theorem State.poisonSeen_read0 (w : Nat) : s.read0.poisonSeen s.read0.cur w = s.poisonSeen s.cur w := by
  show (s.read0.poisonAt w && !((List.range 8).all fun i => (s.read0.me.chunk.stores.find (w + i)).isSome)) = _
  rw [State.stores_read0, s.read0_keeps.1.mem.poison]
  rfl

variable {s} {b aux : W} {rs : List Range}

/-- Ranges in TCM are read at first or once more: a read changes nothing that a further one sees. -/
theorem State.readRanges_first_or_again {u : State} (hu : u = s ∨ u = s.read0) (hc : s.myCore < 1024)
    (h : ∀ r ∈ rs, s.tcmHolds (Range.array b aux r) (r.2.1 + r.2.2)) :
    ∃ rd : Bool → Nat → Nat → Nat, (∀ r ∈ rs, ∀ o n, r.2.1 ≤ o → o + n ≤ r.2.1 + r.2.2 → rd r.1 o n = s.tcmNum (Range.array b aux r) o n) ∧
      ∀ body, u.readRanges b aux rs body = body rd s.read0 := by
  rcases hu with rfl | rfl
  · exact State.readRanges_tcm hc h
  have hnum : ∀ p o n, s.read0.tcmNum p o n = s.tcmNum p o n := fun p o n => by
    simp only [State.tcmNum, State.seen_read0, State.myCore_read0]
  have hold : ∀ r ∈ rs, s.read0.tcmHolds (Range.array b aux r) (r.2.1 + r.2.2) := fun r hr => by
    simp only [State.tcmHolds, State.poisonSeen_read0, State.myCore_read0]
    exact h r hr
  obtain ⟨rd, hrd, hbody⟩ := State.readRanges_tcm (by rwa [State.myCore_read0]) hold
  refine ⟨rd, fun r hr o n h1 h2 => ?_, fun body => ?_⟩
  · rw [hrd r hr o n h1 h2, hnum]
  · rw [hbody, State.read0_read0]

end

/-- VLDB ends with the values g in the enabled lanes of v. -/
def State.Decodes (s t : State) (v : BitVec 5) (m : BitVec 3) (g : Nat → FV) : Prop :=
  t.me.pc = s.me.pc + 4#64 ∧ SameMemory s t ∧ ∀ j < 16, lane (t.vget s.cur v.toNat) 32 j =
    if (s.mask s.cur m.toNat).getLsbD j then (fp32.round 0 (g j)).bits % 2 ^ 32 else lane (s.vget s.cur v.toNat) 32 j

section
variable {s : State} {v : BitVec 5} {m : BitVec 3} {b x : W} {n0 : Nat}

theorem State.decodes_read0 {f g : Nat → FV} (h : ∀ j < 16, f j = g j) : s.Decodes (s.read0.vldbDone v m f) v m g := by
  obtain ⟨hu, hch⟩ := s.read0_keeps
  obtain ⟨hpc, hmem, hl⟩ := State.vldbDone_lanes hu hch v m f
  exact ⟨hpc, hmem, fun j hj => by rw [hl j hj, h j hj]⟩

/-! SP24 and SP24B -/

/-- Elements read alike are of one value. -/
theorem spValue_congr {f n : Nat} {rd rd' md md' : Nat → Nat → Nat} (hmd : md (8 * (n / 4 / 16)) 8 = md' (8 * (n / 4 / 16)) 8)
    (hrd : ∀ i < 2, ∀ w, w = (if f = 18 then 1 else 2) → rd ((2 * (n / 4) + i) * w) w = rd' ((2 * (n / 4) + i) * w) w) : spValue f rd md n = spValue f rd' md' n := by
  have h0 := hrd 0 (by decide) _ rfl
  have h1 := hrd 1 (by decide) _ rfl
  have hnib : spNibble md (n / 4) = spNibble md' (n / 4) := by rw [spNibble, spNibble, hmd]
  rw [Nat.add_zero] at h0
  unfold spValue
  extract_lets g nib w nib'
  rw [show nib = nib' from hnib, show rd (2 * g * w) w = rd' (2 * g * w) w from h0, show rd ((2 * g + 1) * w) w = rd' ((2 * g + 1) * w) w from h1]

/-- The byte ranges of the eight pairs of a sparse array that VLDB reads, and of their metadata. -/
theorem State.vldb_sparse {w : Nat} (hc : s.myCore < 1024) (hn : n0 % 8 = 0) (hf : (fmtOf b = 18 ∧ w = 1) ∨ (fmtOf b = 19 ∧ w = 2))
    (hb : s.tcmHolds b (n0 / 2 * w + 8 * w)) (hx : s.tcmHolds x (8 * (n0 / 64) + if n0 % 64 = 56 then 16 else 8)) :
    ((∃ i < 4, spBad (spNibble (s.tcmNum x) (n0 / 4 + i)) = true) → s.vldb v m b x n0 = s.read0.raiseOpen 75) ∧
    ((∀ i < 4, spBad (spNibble (s.tcmNum x) (n0 / 4 + i)) = false) → s.Decodes (s.vldb v m b x n0) v m fun j => spValue (fmtOf b) (s.tcmNum b) (s.tcmNum x) (n0 + j)) := by
  have hw : (if fmtOf b = 18 then 1 else 2) = w := by
    rcases hf with ⟨h, rfl⟩ | ⟨h, rfl⟩ <;> simp [h]
  set ms := if n0 / 4 % 16 = 14 then [n0 / 4 / 16, n0 / 4 / 16 + 1] else [n0 / 4 / 16] with hms
  have hmem : ∀ i < 4, (n0 / 4 + i) / 16 ∈ ms := fun i hi => by
    rw [hms]
    split
    · have : (n0 / 4 + i) / 16 = n0 / 4 / 16 ∨ (n0 / 4 + i) / 16 = n0 / 4 / 16 + 1 := by omega
      simpa using this
    · have : (n0 / 4 + i) / 16 = n0 / 4 / 16 := by omega
      simpa using this
  have hin : ∀ i ∈ ms, 8 * i + 8 ≤ 8 * (n0 / 64) + if n0 % 64 = 56 then 16 else 8 := fun i hi => by
    rw [hms] at hi
    by_cases h14 : n0 / 4 % 16 = 14
    · rw [if_pos h14] at hi
      have : i = n0 / 4 / 16 ∨ i = n0 / 4 / 16 + 1 := by simpa using hi
      rw [if_pos (by omega)]
      omega
    · rw [if_neg h14] at hi
      have : i = n0 / 4 / 16 := by simpa using hi
      rw [if_neg (by omega)]
      omega
  have hhold : ∀ r ∈ (ms.map fun i => ((true, 8 * i, 8) : Range)) ++ [(false, 2 * (n0 / 4) * w, 8 * w)], s.tcmHolds (Range.array b x r) (r.2.1 + r.2.2) := fun r hr => by
    rcases List.mem_append.1 hr with hr | hr
    · obtain ⟨i, hi, rfl⟩ := List.mem_map.1 hr
      exact hx.mono (hin i hi)
    · obtain rfl := List.mem_singleton.1 hr
      have hhalf : 2 * (n0 / 4) = n0 / 2 := by omega
      show s.tcmHolds b (2 * (n0 / 4) * w + 8 * w)
      rwa [hhalf]
  obtain ⟨rd, hrd, hbody⟩ := State.readRanges_tcm hc hhold
  have haux : ∀ i < 4, rd true (8 * ((n0 / 4 + i) / 16)) 8 = s.tcmNum x (8 * ((n0 / 4 + i) / 16)) 8 := fun i hi =>
    hrd _ (List.mem_append_left _ (List.mem_map.2 ⟨_, hmem i hi, rfl⟩)) _ _ (Nat.le_refl _) (Nat.le_refl _)
  have hdata : ∀ k < 8, rd false ((2 * (n0 / 4) + k) * w) w = s.tcmNum b ((2 * (n0 / 4) + k) * w) w := fun k hk => by
    refine hrd (false, 2 * (n0 / 4) * w, 8 * w) (List.mem_append_right _ (List.mem_singleton.2 rfl)) _ _ (Nat.mul_le_mul_right w (Nat.le_add_right ..)) ?_
    rw [← Nat.succ_mul, ← Nat.add_mul]
    exact Nat.mul_le_mul_right w (by omega)
  have hnib : ∀ i < 4, spNibble (rd true) (n0 / 4 + i) = spNibble (s.tcmNum x) (n0 / 4 + i) := fun i hi => by
    rw [spNibble, haux i hi]
    rfl
  have hvldb : s.vldb v m b x n0 = if (List.range 4).any (fun i => spBad (spNibble (rd true) (n0 / 4 + i))) then s.read0.raiseOpen 75
      else s.read0.vldbDone v m fun j => spValue (fmtOf b) (rd false) (rd true) (n0 + j) := by
    have h12 : ¬ (12 ≤ fmtOf b ∧ fmtOf b ≤ 16) := by omega
    have h17 : ¬ fmtOf b = 17 := by omega
    have h18 : fmtOf b = 18 ∨ fmtOf b = 19 := by omega
    simp only [State.vldb, if_neg h12, if_neg h17, if_pos h18, hw, ← hms]
    rw [hbody]
  refine ⟨fun ⟨i, hi, hbad⟩ => ?_, fun hgood => ?_⟩
  · rw [hvldb, if_pos (List.any_eq_true.2 ⟨i, List.mem_range.2 hi, by rw [hnib i hi, hbad]⟩)]
  · have hnone : ¬ (List.range 4).any (fun i => spBad (spNibble (rd true) (n0 / 4 + i))) = true := by
      rw [Bool.not_eq_true, List.any_eq_false]
      intro i hi
      rw [hnib i (List.mem_range.1 hi), hgood i (List.mem_range.1 hi)]
      exact Bool.false_ne_true
    rw [hvldb, if_neg hnone]
    refine State.decodes_read0 fun j hj => spValue_congr ?_ fun i hi w' hw' => ?_
    · have := haux (j / 4) (by omega)
      rwa [show n0 / 4 + j / 4 = (n0 + j) / 4 by omega] at this
    · obtain rfl : w' = w := hw'.trans hw
      have := hdata (2 * (j / 4) + i) (by omega)
      rwa [show 2 * (n0 / 4) + (2 * (j / 4) + i) = 2 * ((n0 + j) / 4) + i by omega] at this

/-! BMP8 -/

theorem popNat_le_of_testBit {m j : Nat} (hj : j < 64) (h : m.testBit j = true) : popNat (m % 2 ^ j) < popNat m := by
  have hsub : ((List.range 64).filter (m % 2 ^ j).testBit).Sublist ((List.range 64).filter m.testBit) := by
    refine List.monotone_filter_right _ fun i hi => ?_
    rw [Nat.testBit_mod_two_pow] at hi
    exact (Bool.and_eq_true_iff.1 hi).2
  refine lt_of_le_of_ne hsub.length_le fun heq => ?_
  have hmem : j ∈ (List.range 64).filter (m % 2 ^ j).testBit := by
    rw [hsub.eq_of_length heq]
    exact List.mem_filter.2 ⟨List.mem_range.2 hj, h⟩
  have := (List.mem_filter.1 hmem).2
  rw [Nat.testBit_mod_two_pow] at this
  simp at this

/-- Element j of a unit is read within the unit. -/
theorem bmpValue_congr {rd rd' : Nat → Nat → Nat} {u u' j : Nat} (hu : u = u') (hj : j < 64) (hm : rd u 8 = rd' u 8)
    (hb : ∀ i, u + 8 ≤ i → i + 1 ≤ u + bmpSize (rd' u 8) → rd i 1 = rd' i 1) : bmpValue rd u j = bmpValue rd' u' j := by
  subst hu
  unfold bmpValue
  rw [hm]
  dsimp only
  split
  · next h =>
    have hlt := popNat_le_of_testBit hj h
    rw [hb _ (by omega) (by unfold bmpSize ceilDiv; omega)]
  · rfl

theorem le_bmpSize (m : Nat) : 8 ≤ bmpSize m := Nat.le_add_right ..

theorem unitAt_mono (rd : Nat → Nat → Nat) {i j : Nat} (h : i ≤ j) : unitAt rd i ≤ unitAt rd j := by
  induction h with
  | refl => exact Nat.le_refl _
  | step _ ih => exact ih.trans (Nat.le_add_right ..)

/-- The bitmaps of the first n units. -/
def unitHeads (rd : Nat → Nat → Nat) (n : Nat) : List Range := (List.range n).map fun i => (false, unitAt rd i, 8)

theorem mem_unitHeads (rd : Nat → Nat → Nat) {i n : Nat} (h : i < n) : (false, unitAt rd i, 8) ∈ unitHeads rd n :=
  List.mem_map.2 ⟨i, List.mem_range.2 h, rfl⟩

theorem unitHeads_succ (rd : Nat → Nat → Nat) (n : Nat) : unitHeads rd (n + 1) = unitHeads rd n ++ [(false, unitAt rd n, 8)] := by
  rw [unitHeads, unitHeads, List.range_succ, List.map_append]
  rfl

section
variable {k : Nat} (hc : s.myCore < 1024) (h : s.tcmHolds b (unitAt (s.tcmNum b) k))
include h

/-- The ranges of the units before the k-th are held. -/
theorem State.holds_unitHeads {n : Nat} (hn : n ≤ k) {aux : W} {r : Range} (hr : r ∈ unitHeads (s.tcmNum b) n) : s.tcmHolds (Range.array b aux r) (r.2.1 + r.2.2) := by
  obtain ⟨i, hi, rfl⟩ := List.mem_map.1 hr
  have hi' : i + 1 ≤ k := (List.mem_range.1 hi).trans_le hn
  exact h.mono ((Nat.add_le_add_left (le_bmpSize _) _).trans (unitAt_mono (s.tcmNum b) hi'))

include hc

/-- The walk comes to the unit that it was asked for. -/
theorem State.bmpWalk_eq (body : Nat → List Range → State → State) (d : Nat) {i : Nat} {u : State} (hu : u = s ∨ u = s.read0) (hi : i + d ≤ k) :
    ∃ u', (u' = s ∨ u' = s.read0) ∧ State.bmpWalk b d (unitAt (s.tcmNum b) i) (unitHeads (s.tcmNum b) i) u body =
      body (unitAt (s.tcmNum b) (i + d)) (unitHeads (s.tcmNum b) (i + d)) u' := by
  induction d generalizing i u with
  | zero => exact ⟨u, hu, rfl⟩
  | succ d ih =>
    obtain ⟨rd, hrd, hbody⟩ := State.readRanges_first_or_again (aux := b) hu hc fun r hr => State.holds_unitHeads h (show i + 1 ≤ k by omega) hr
    have hhead : rd false (unitAt (s.tcmNum b) i) 8 = s.tcmNum b (unitAt (s.tcmNum b) i) 8 :=
      hrd _ (mem_unitHeads _ (Nat.lt_succ_self i)) _ _ (Nat.le_refl _) (Nat.le_refl _)
    obtain ⟨u', hu', hwalk⟩ := ih (i := i + 1) (.inr rfl) (by omega)
    refine ⟨u', hu', ?_⟩
    rw [State.bmpWalk, ← unitHeads_succ, hbody, hhead, show i + (d + 1) = i + 1 + d by omega]
    exact hwalk

end

/-- The ranges of unit q and, where `two`, of the bitmap of the next unit, after those of the bitmaps before it. -/
def unitRanges (num : Nat → Nat → Nat) (q : Nat) (two : Prop) [Decidable two] : List Range :=
  unitHeads num q ++ [(false, unitAt num q, 8), (false, unitAt num q + 8, bmpSize (num (unitAt num q) 8) - 8)] ++
    if two then [(false, unitAt num (q + 1), 8)] else []

/-- The bytes of the next unit, where the lanes reach into it. -/
def nextSize (num : Nat → Nat → Nat) (q : Nat) (two : Prop) [Decidable two] : Nat := if two then bmpSize (num (unitAt num (q + 1)) 8) else 8

/-- All that VLDB reads of a BMP8 array. -/
def allUnitRanges (num : Nat → Nat → Nat) (q : Nat) (two : Prop) [Decidable two] : List Range :=
  unitRanges num q two ++ if nextSize num q two = 8 then [] else [(false, unitAt num (q + 1) + 8, nextSize num q two - 8)]

section
variable {num : Nat → Nat → Nat} {q : Nat} {two : Prop} [Decidable two]

/-- Every range that VLDB reads of a BMP8 array ends within the units. -/
theorem allUnitRanges_within {r : Range} (hr : r ∈ allUnitRanges num q two) :
    r.1 = false ∧ r.2.1 + r.2.2 ≤ unitAt num (q + if two then 2 else 1) := by
  have hnext : unitAt num (q + 1) = unitAt num q + bmpSize (num (unitAt num q) 8) := rfl
  have hz := le_bmpSize (num (unitAt num q) 8)
  have hz2 := le_bmpSize (num (unitAt num (q + 1)) 8)
  have hend : unitAt num (q + if two then 2 else 1) = unitAt num (q + 1) + if two then bmpSize (num (unitAt num (q + 1)) 8) else 0 := by
    split <;> rfl
  have hheads : r ∈ unitHeads num q → r.1 = false ∧ r.2.1 + r.2.2 ≤ unitAt num (q + 1) := fun hr => by
    obtain ⟨i, hi, rfl⟩ := List.mem_map.1 hr
    exact ⟨rfl, (Nat.add_le_add_left (le_bmpSize _) _).trans (unitAt_mono num (show i + 1 ≤ q + 1 by have := List.mem_range.1 hi; omega))⟩
  rw [hend]
  simp only [allUnitRanges, unitRanges, nextSize, List.mem_append, List.mem_cons, List.not_mem_nil, or_false] at hr
  by_cases ht : two
  · simp only [if_pos ht, List.mem_singleton] at hr ⊢
    rcases hr with ((hr | hr | hr) | hr) | hr
    · exact ⟨(hheads hr).1, (hheads hr).2.trans (Nat.le_add_right ..)⟩
    · subst hr; exact ⟨rfl, by dsimp only; omega⟩
    · subst hr; exact ⟨rfl, by dsimp only; omega⟩
    · subst hr; exact ⟨rfl, by dsimp only; omega⟩
    · split at hr
      · cases hr
      · obtain rfl := List.mem_singleton.1 hr
        exact ⟨rfl, by dsimp only; omega⟩
  · simp only [if_neg ht, if_true, List.not_mem_nil, or_false] at hr ⊢
    rcases hr with hr | hr | hr
    · exact hheads hr
    · subst hr; exact ⟨rfl, by dsimp only; omega⟩
    · subst hr; exact ⟨rfl, by dsimp only; omega⟩

theorem mem_unitRanges : (false, unitAt num q, 8) ∈ unitRanges num q two ∧ (false, unitAt num q + 8, bmpSize (num (unitAt num q) 8) - 8) ∈ unitRanges num q two ∧
    (two → (false, unitAt num (q + 1), 8) ∈ unitRanges num q two) := by
  refine ⟨by simp [unitRanges], by simp [unitRanges], fun ht => ?_⟩
  rw [unitRanges, if_pos ht]
  exact List.mem_append_right _ (List.mem_singleton.2 rfl)

/-- Byte i of a unit after its bitmap lies in a range of one. -/
theorem mem_allUnitRanges_next (ht : two) {i : Nat} (h1 : unitAt num (q + 1) + 8 ≤ i) (h2 : i + 1 ≤ unitAt num (q + 1) + bmpSize (num (unitAt num (q + 1)) 8)) :
    (false, unitAt num (q + 1) + 8, nextSize num q two - 8) ∈ allUnitRanges num q two ∧ i + 1 ≤ unitAt num (q + 1) + 8 + (nextSize num q two - 8) := by
  have hz : nextSize num q two = bmpSize (num (unitAt num (q + 1)) 8) := if_pos ht
  refine ⟨?_, by rw [hz]; omega⟩
  rw [allUnitRanges, if_neg (by rw [hz]; omega)]
  exact List.mem_append_right _ (List.mem_singleton.2 rfl)

end

/-- What VLDB does from the unit of its first element on: the reads of that unit and of the next one, and the lanes. -/
def State.unitLanes (v : BitVec 5) (m : BitVec 3) (b x : W) (n0 u : Nat) (rs : List Range) (s : State) : State :=
  s.readRanges b x (rs ++ [(false, u, 8)]) fun rd s =>
    let z := bmpSize (rd false u 8)
    let two := n0 % 64 = 56
    let r2 : List Range := rs ++ [(false, u, 8), (false, u + 8, z - 8)] ++ if two then [(false, u + z, 8)] else []
    s.readRanges b x r2 fun rd s =>
      let z2 := if two then bmpSize (rd false (u + z) 8) else 8
      s.readRanges b x (r2 ++ if z2 = 8 then [] else [(false, u + z + 8, z2 - 8)]) fun rd s =>
        s.vldbDone v m fun j => let e := n0 % 64 + j; if e < 64 then bmpValue (rd false) u e else bmpValue (rd false) (u + z) (e - 64)

theorem State.vldb_bmp (h20 : fmtOf b = 20) : s.vldb v m b x n0 = State.bmpWalk b (n0 / 64) 0 [] s (State.unitLanes v m b x n0) := by
  have h12 : ¬ (12 ≤ fmtOf b ∧ fmtOf b ≤ 16) := by omega
  have h17 : ¬ fmtOf b = 17 := by omega
  have h18 : ¬ (fmtOf b = 18 ∨ fmtOf b = 19) := by omega
  simp only [State.vldb, if_neg h12, if_neg h17, if_neg h18, if_pos h20]
  rfl

/-- The lanes are those of a reader that reads the units as they stand. -/
theorem State.unitLanes_eq {u : State} {q : Nat} (hu : u = s ∨ u = s.read0) (hc : s.myCore < 1024)
    (h : s.tcmHolds b (unitAt (s.tcmNum b) (q + if n0 % 64 = 56 then 2 else 1))) :
    ∃ rd : Nat → Nat → Nat, (∀ r ∈ allUnitRanges (s.tcmNum b) q (n0 % 64 = 56), ∀ o n, r.2.1 ≤ o → o + n ≤ r.2.1 + r.2.2 → rd o n = s.tcmNum b o n) ∧
      State.unitLanes v m b x n0 (unitAt (s.tcmNum b) q) (unitHeads (s.tcmNum b) q) u = s.read0.vldbDone v m fun j =>
        if n0 % 64 + j < 64 then bmpValue rd (unitAt (s.tcmNum b) q) (n0 % 64 + j) else bmpValue rd (unitAt (s.tcmNum b) (q + 1)) (n0 % 64 + j - 64) := by
  have hhold : ∀ r ∈ allUnitRanges (s.tcmNum b) q (n0 % 64 = 56), s.tcmHolds (Range.array b x r) (r.2.1 + r.2.2) := fun r hr => by
    obtain ⟨hf, hle⟩ := allUnitRanges_within hr
    rw [Range.array, hf]
    exact h.mono hle
  have hk : q + 1 ≤ q + if n0 % 64 = 56 then 2 else 1 := by split <;> omega
  obtain ⟨rd1, hrd1, hbody1⟩ := State.readRanges_first_or_again (aux := x) hu hc fun r hr => State.holds_unitHeads h hk hr
  obtain ⟨rd2, hrd2, hbody2⟩ := State.readRanges_first_or_again (.inr rfl) hc fun r hr => hhold r (List.mem_append_left _ hr)
  obtain ⟨rd3, hrd3, hbody3⟩ := State.readRanges_first_or_again (.inr rfl) hc hhold
  have hhead : rd1 false (unitAt (s.tcmNum b) q) 8 = s.tcmNum b (unitAt (s.tcmNum b) q) 8 :=
    hrd1 _ (mem_unitHeads _ (Nat.lt_succ_self q)) _ _ (Nat.le_refl _) (Nat.le_refl _)
  have hnext : unitAt (s.tcmNum b) q + bmpSize (s.tcmNum b (unitAt (s.tcmNum b) q) 8) = unitAt (s.tcmNum b) (q + 1) := rfl
  have hsize : (if n0 % 64 = 56 then bmpSize (rd2 false (unitAt (s.tcmNum b) (q + 1)) 8) else 8) = nextSize (s.tcmNum b) q (n0 % 64 = 56) := by
    rw [nextSize]
    split
    · next ht =>
      have hread : rd2 false (unitAt (s.tcmNum b) (q + 1)) 8 = s.tcmNum b (unitAt (s.tcmNum b) (q + 1)) 8 :=
        hrd2 _ (mem_unitRanges.2.2 ht) _ _ (Nat.le_refl _) (Nat.le_refl _)
      rw [hread]
    · rfl
  refine ⟨rd3 false, fun r hr o n ho hn => ?_, ?_⟩
  · have hread := hrd3 r hr o n ho hn
    rwa [Range.array, (allUnitRanges_within hr).1] at hread
  · rw [State.unitLanes, ← unitHeads_succ, hbody1]
    simp only [hhead, hnext]
    refine (hbody2 _).trans ?_
    simp only [hsize]
    exact hbody3 _

/-- VLDB of a BMP8 array whose first units lie in TCM. -/
theorem State.vldb_units (hc : s.myCore < 1024) (hn : n0 % 8 = 0) (h20 : fmtOf b = 20)
    (h : s.tcmHolds b (unitAt (s.tcmNum b) (n0 / 64 + if n0 % 64 = 56 then 2 else 1))) :
    s.Decodes (s.vldb v m b x n0) v m fun j => bmpValue (s.tcmNum b) (unitAt (s.tcmNum b) ((n0 + j) / 64)) ((n0 + j) % 64) := by
  obtain ⟨u, hu, hwalk⟩ := State.bmpWalk_eq (i := 0) hc h (State.unitLanes v m b x n0) (n0 / 64) (.inl rfl) (by omega)
  rw [Nat.zero_add] at hwalk
  obtain ⟨rd, hrd, hlanes⟩ := State.unitLanes_eq (v := v) (m := m) (x := x) hu hc h
  have hvldb := (State.vldb_bmp (s := s) (v := v) (m := m) (x := x) (n0 := n0) h20).trans (hwalk.trans hlanes)
  rw [hvldb]
  refine State.decodes_read0 fun j hj => ?_
  obtain ⟨hm1, hb1, hm2⟩ := mem_unitRanges (num := s.tcmNum b) (q := n0 / 64) (two := n0 % 64 = 56)
  by_cases he : n0 % 64 + j < 64
  · have hunit : n0 / 64 = (n0 + j) / 64 := by omega
    have hel : n0 % 64 + j = (n0 + j) % 64 := by omega
    rw [if_pos he, ← hel]
    refine bmpValue_congr (congrArg _ hunit) he (hrd _ (List.mem_append_left _ hm1) _ _ (Nat.le_refl _) (Nat.le_refl _)) fun i h1 h2 =>
      hrd _ (List.mem_append_left _ hb1) _ _ h1 ?_
    dsimp only
    omega
  · have h56 : n0 % 64 = 56 := by omega
    have hunit : n0 / 64 + 1 = (n0 + j) / 64 := by omega
    have hel : n0 % 64 + j - 64 = (n0 + j) % 64 := by omega
    rw [if_neg he, ← hel]
    refine bmpValue_congr (congrArg _ hunit) (by omega) (hrd _ (List.mem_append_left _ (hm2 h56)) _ _ (Nat.le_refl _) (Nat.le_refl _)) fun i h1 h2 => ?_
    obtain ⟨hin, hle⟩ := mem_allUnitRanges_next h56 h1 h2
    exact hrd _ hin _ _ h1 hle

end

end Sys2Proof.Machine
end

section
/-! What of O32 holds on the cores of a device, last part. VLDB of KEF8 arrays in TCM (R59, R60, R133). -/

namespace Sys2Proof.Machine

/-- The low half of a word in memory. -/
theorem State.tcmNum_half (s : State) (p : W) (o : Nat) : s.tcmNum p o 2 = s.tcmNum p o 4 % 65536 := by
  simp only [State.tcmNum, List.range_succ, List.range_zero, List.nil_append, List.cons_append, List.map_cons, List.map_nil, leNat]
  generalize hb0 : s.seen s.cur (tcmBase s.myCore + fld p 0 18 + o + 0) = b0
  generalize hb1 : s.seen s.cur (tcmBase s.myCore + fld p 0 18 + o + 1) = b1
  have := b0.isLt
  have := b1.isLt
  omega

theorem kefLength_some {h len : Nat} (hl : kefLength h = some len) : len = h % 65536 ∧ 12 ≤ len := by
  unfold kefLength at hl
  split at hl
  · cases hl
  · cases hl
    omega

section
variable {s : State} {v : BitVec 5} {m : BitVec 3} {b x : W} {n0 : Nat}

/-- The strips that hold elements n0 to n0 + 15. -/
def stripsOf (n0 : Nat) : List Nat := if n0 % 256 = 248 then [n0 / 256, n0 / 256 + 1] else [n0 / 256]

/-- The entries of the strip table for strips ts. -/
def tableRanges (ts : List Nat) : List Range := ts.map fun t => (true, 4 * t, 4)

/-- A strip, from a reader of its header word and of the bytes after it. -/
def stripAtOff (rd : Nat → Nat → Nat) (o : Nat) (len : Nat) : Option (List (Nat × List Nat)) :=
  kefStrip (rd o 4) ((List.range len).map fun i => rd (o + 4 + i) 1)

/-- What VLDB does once it has the offsets of its strips. -/
def State.stripLanes (v : BitVec 5) (m : BitVec 3) (b x : W) (n0 : Nat) (r1 : List Range) (offs : List Nat) (s : State) : State :=
  let r2 : List Range := r1 ++ offs.map fun o => (false, o, 4)
  s.readRanges b x r2 fun rd s =>
    match offs.find? fun o => (kefLength (rd false o 4)).isNone with
    | some o => s.raise 74 (stripAt b o)
    | none =>
      let len (o : Nat) : Nat := (kefLength (rd false o 4)).getD 12 - 4
      s.readRanges b x (r2 ++ offs.map fun o => (false, o + 4, len o)) fun rd s =>
        match offs.find? fun o => (stripAtOff (rd false) o (len o)).isNone with
        | some o => s.raise 74 (stripAt b o)
        | none => s.vldbDone v m fun j =>
          let n := n0 + j
          let (sc, cs) := ((stripAtOff (rd false) (offs.getD (n / 256 - n0 / 256) 0) (len (offs.getD (n / 256 - n0 / 256) 0))).getD []).getD (n % 256 / 8) (0, [])
          blockValue e4m3 sc (cs.getD (n % 8) 0)

theorem State.vldb_kef (h17 : fmtOf b = 17) : s.vldb v m b x n0 = s.readRanges b x (tableRanges (stripsOf n0)) fun rd s =>
    match ((stripsOf n0).map fun t => rd true (4 * t) 4).find? (· % 4 ≠ 0) with
    | some _ => s.raiseOpen 76
    | none => State.stripLanes v m b x n0 (tableRanges (stripsOf n0)) ((stripsOf n0).map fun t => rd true (4 * t) 4) s := by
  have h12 : ¬ (12 ≤ fmtOf b ∧ fmtOf b ≤ 16) := by omega
  simp only [State.vldb, if_neg h12, if_pos h17]
  rfl

/-- The strip at an offset of an array in TCM (R60). -/
def State.tcmStrip (s : State) (b : W) (o : Nat) : Option (List (Nat × List Nat)) :=
  kefStrip (s.tcmNum b o 4) ((List.range (s.tcmNum b o 2 - 4)).map fun i => s.tcmNum b (o + 4 + i) 1)

/-- Lane j reaches no further than the strips that are read. -/
theorem stripsOf_reach {j : Nat} (hn : n0 % 8 = 0) (hj : j < 16) : (n0 + j) / 256 - n0 / 256 < (stripsOf n0).length := by
  unfold stripsOf
  split
  · show _ < 2
    omega
  · show _ < 1
    omega

theorem stripsOf_le {t : Nat} (ht : t ∈ stripsOf n0) : 4 * t + 4 ≤ 4 * (n0 / 256) + 4 * (stripsOf n0).length := by
  unfold stripsOf at ht ⊢
  split at ht
  · next h =>
    have : t = n0 / 256 ∨ t = n0 / 256 + 1 := by simpa using ht
    rw [if_pos h]
    show _ ≤ _ + 4 * 2
    omega
  · next h =>
    have : t = n0 / 256 := by simpa using ht
    rw [if_neg h]
    show _ ≤ _ + 4 * 1
    omega

section
variable (hc : s.myCore < 1024) (hx : s.tcmHolds x (4 * (n0 / 256) + 4 * (stripsOf n0).length))
include hx

theorem State.holds_tableRanges {r : Range} (hr : r ∈ tableRanges (stripsOf n0)) : s.tcmHolds (Range.array b x r) (r.2.1 + r.2.2) := by
  obtain ⟨t, ht, rfl⟩ := List.mem_map.1 hr
  exact hx.mono (stripsOf_le ht)

include hc

/-- The entries of the strip table. -/
theorem State.vldb_kef_table {offs : List Nat} (h17 : fmtOf b = 17) (hoffs : offs = (stripsOf n0).map fun t => s.tcmNum x (4 * t) 4) :
    ((∃ o ∈ offs, o % 4 ≠ 0) → s.vldb v m b x n0 = s.read0.raiseOpen 76) ∧
    ((∀ o ∈ offs, o % 4 = 0) → s.vldb v m b x n0 = State.stripLanes v m b x n0 (tableRanges (stripsOf n0)) offs s.read0) := by
  obtain ⟨rd, hrd, hbody⟩ := State.readRanges_tcm (b := b) hc fun r hr => State.holds_tableRanges hx hr
  have hread : ((stripsOf n0).map fun t => rd true (4 * t) 4) = offs := by
    rw [hoffs]
    exact List.map_congr_left fun t ht => hrd (true, 4 * t, 4) (List.mem_map.2 ⟨t, ht, rfl⟩) _ _ (Nat.le_refl _) (Nat.le_refl _)
  rw [State.vldb_kef h17, hbody, hread]
  refine ⟨fun ⟨o, ho, hbad⟩ => ?_, fun hgood => ?_⟩
  · obtain ⟨o', ho'⟩ : ∃ o', offs.find? (· % 4 ≠ 0) = some o' :=
      Option.isSome_iff_exists.1 (List.find?_isSome.2 ⟨o, ho, by simpa using hbad⟩)
    rw [ho']
  · have hnone : offs.find? (· % 4 ≠ 0) = none := List.find?_eq_none.2 fun o ho => by simpa using hgood o ho
    rw [hnone]

/-- The strips at offsets offs. -/
theorem State.stripLanes_eq {offs : List Nat} (h4 : ∀ o ∈ offs, s.tcmHolds b (o + 4)) :
    (∀ o, offs.find? (fun o => (kefLength (s.tcmNum b o 4)).isNone) = some o →
      State.stripLanes v m b x n0 (tableRanges (stripsOf n0)) offs s.read0 = s.read0.raise 74 (stripAt b o)) ∧
    ((∀ o ∈ offs, ∃ len, kefLength (s.tcmNum b o 4) = some len ∧ s.tcmHolds b (o + len)) →
      (∀ o, offs.find? (fun o => (s.tcmStrip b o).isNone) = some o →
        State.stripLanes v m b x n0 (tableRanges (stripsOf n0)) offs s.read0 = s.read0.raise 74 (stripAt b o)) ∧
      ((∀ o ∈ offs, (s.tcmStrip b o).isSome = true) → (∀ j < 16, (n0 + j) / 256 - n0 / 256 < offs.length) →
        s.Decodes (State.stripLanes v m b x n0 (tableRanges (stripsOf n0)) offs s.read0) v m fun j =>
          let q := ((s.tcmStrip b (offs.getD ((n0 + j) / 256 - n0 / 256) 0)).getD []).getD ((n0 + j) % 256 / 8) (0, [])
          blockValue e4m3 q.1 (q.2.getD ((n0 + j) % 8) 0))) := by
  have hold2 : ∀ r ∈ tableRanges (stripsOf n0) ++ offs.map fun o => ((false, o, 4) : Range), s.tcmHolds (Range.array b x r) (r.2.1 + r.2.2) := fun r hr => by
    rcases List.mem_append.1 hr with hr | hr
    · exact State.holds_tableRanges hx hr
    · obtain ⟨o, ho, rfl⟩ := List.mem_map.1 hr
      exact h4 o ho
  obtain ⟨rd2, hrd2, hbody2⟩ := State.readRanges_first_or_again (.inr rfl) hc hold2
  have hhead2 : ∀ o ∈ offs, rd2 false o 4 = s.tcmNum b o 4 := fun o ho =>
    hrd2 (false, o, 4) (List.mem_append_right _ (List.mem_map.2 ⟨o, ho, rfl⟩)) _ _ (Nat.le_refl _) (Nat.le_refl _)
  have hfind2 : (offs.find? fun o => (kefLength (rd2 false o 4)).isNone) = offs.find? fun o => (kefLength (s.tcmNum b o 4)).isNone :=
    List.find?_congr fun o ho => by rw [hhead2 o ho]
  refine ⟨fun o ho => ?_, fun hlen => ?_⟩
  · rw [State.stripLanes, hbody2, hfind2, ho]
  have hnone : (offs.find? fun o => (kefLength (s.tcmNum b o 4)).isNone) = none := List.find?_eq_none.2 fun o ho => by
    obtain ⟨len, hl, -⟩ := hlen o ho
    simp [hl]
  set len : Nat → Nat := fun o => (kefLength (rd2 false o 4)).getD 12 - 4 with hlendef
  have hlenIs : ∀ o ∈ offs, len o = s.tcmNum b o 2 - 4 ∧ s.tcmHolds b (o + 4 + len o) := fun o ho => by
    obtain ⟨l, hl, hh⟩ := hlen o ho
    obtain ⟨hmod, h12⟩ := kefLength_some hl
    have hlo : len o = l - 4 := by rw [hlendef]; simp only [hhead2 o ho, hl, Option.getD_some]
    rw [hlo, State.tcmNum_half, ← hmod]
    exact ⟨rfl, by rwa [show o + 4 + (l - 4) = o + l by omega]⟩
  have hold3 : ∀ r ∈ (tableRanges (stripsOf n0) ++ offs.map fun o => ((false, o, 4) : Range)) ++ offs.map fun o => ((false, o + 4, len o) : Range),
      s.tcmHolds (Range.array b x r) (r.2.1 + r.2.2) := fun r hr => by
    rcases List.mem_append.1 hr with hr | hr
    · exact hold2 r hr
    · obtain ⟨o, ho, rfl⟩ := List.mem_map.1 hr
      exact (hlenIs o ho).2
  obtain ⟨rd3, hrd3, hbody3⟩ := State.readRanges_first_or_again (.inr rfl) hc hold3
  have hstrip : ∀ o ∈ offs, stripAtOff (rd3 false) o (len o) = s.tcmStrip b o := fun o ho => by
    have hhead : rd3 false o 4 = s.tcmNum b o 4 :=
      hrd3 (false, o, 4) (List.mem_append_left _ (List.mem_append_right _ (List.mem_map.2 ⟨o, ho, rfl⟩))) _ _ (Nat.le_refl _) (Nat.le_refl _)
    rw [stripAtOff, State.tcmStrip, hhead, ← (hlenIs o ho).1]
    refine congrArg (kefStrip _) (List.map_congr_left fun i hi => ?_)
    have hi' := List.mem_range.1 hi
    exact hrd3 (false, o + 4, len o) (List.mem_append_right _ (List.mem_map.2 ⟨o, ho, rfl⟩)) _ _ (Nat.le_add_right ..) (by dsimp only; omega)
  have hfind3 : (offs.find? fun o => (stripAtOff (rd3 false) o (len o)).isNone) = offs.find? fun o => (s.tcmStrip b o).isNone :=
    List.find?_congr fun o ho => by rw [hstrip o ho]
  have hthird : State.stripLanes v m b x n0 (tableRanges (stripsOf n0)) offs s.read0 = match offs.find? fun o => (s.tcmStrip b o).isNone with
      | some o => s.read0.raise 74 (stripAt b o)
      | none => s.read0.vldbDone v m fun j =>
        let q := ((stripAtOff (rd3 false) (offs.getD ((n0 + j) / 256 - n0 / 256) 0) (len (offs.getD ((n0 + j) / 256 - n0 / 256) 0))).getD []).getD ((n0 + j) % 256 / 8) (0, [])
        blockValue e4m3 q.1 (q.2.getD ((n0 + j) % 8) 0) := by
    rw [State.stripLanes, hbody2, hfind2, hnone, ← hfind3]
    exact hbody3 _
  refine ⟨fun o ho => ?_, fun hall hreach => ?_⟩
  · rw [hthird, ho]
  · have hnone3 : (offs.find? fun o => (s.tcmStrip b o).isNone) = none := List.find?_eq_none.2 fun o ho => by
      rw [Option.isNone_iff_eq_none]
      exact Option.isSome_iff_ne_none.1 (hall o ho)
    rw [hthird, hnone3]
    refine State.decodes_read0 fun j hj => ?_
    have hin : offs.getD ((n0 + j) / 256 - n0 / 256) 0 ∈ offs := by
      rw [List.getD_eq_getElem _ _ (hreach j hj)]
      exact List.getElem_mem _
    simp only [hstrip _ hin]

end

/-- VLDB of a KEF8 array whose strip table and strips lie in TCM. -/
theorem State.vldb_strips {offs : List Nat} (hc : s.myCore < 1024) (hn : n0 % 8 = 0) (h17 : fmtOf b = 17)
    (hx : s.tcmHolds x (4 * (n0 / 256) + 4 * (stripsOf n0).length)) (hoffs : offs = (stripsOf n0).map fun t => s.tcmNum x (4 * t) 4) :
    ((∃ o ∈ offs, o % 4 ≠ 0) → s.vldb v m b x n0 = s.read0.raiseOpen 76) ∧
    ((∀ o ∈ offs, o % 4 = 0 ∧ s.tcmHolds b (o + 4)) →
      (∀ o, offs.find? (fun o => (kefLength (s.tcmNum b o 4)).isNone) = some o → s.vldb v m b x n0 = s.read0.raise 74 (stripAt b o)) ∧
      ((∀ o ∈ offs, ∃ len, kefLength (s.tcmNum b o 4) = some len ∧ s.tcmHolds b (o + len)) →
        (∀ o, offs.find? (fun o => (s.tcmStrip b o).isNone) = some o → s.vldb v m b x n0 = s.read0.raise 74 (stripAt b o)) ∧
        ((∀ o ∈ offs, (s.tcmStrip b o).isSome = true) → s.Decodes (s.vldb v m b x n0) v m fun j =>
          let q := ((s.tcmStrip b (offs.getD ((n0 + j) / 256 - n0 / 256) 0)).getD []).getD ((n0 + j) % 256 / 8) (0, [])
          blockValue e4m3 q.1 (q.2.getD ((n0 + j) % 8) 0)))) := by
  obtain ⟨hbad, hgood⟩ := State.vldb_kef_table (v := v) (m := m) hc hx h17 hoffs
  refine ⟨hbad, fun ho => ?_⟩
  obtain ⟨hlen, hstrip⟩ := State.stripLanes_eq (v := v) (m := m) hc hx fun o h => (ho o h).2
  rw [hgood fun o h => (ho o h).1]
  refine ⟨hlen, fun hl => ⟨(hstrip hl).1, fun hall => (hstrip hl).2 hall fun j hj => ?_⟩⟩
  rw [hoffs, List.length_map]
  exact stripsOf_reach hn hj

end

end Sys2Proof.Machine
end

section
/-! Refutes O32. VLDB of a BMP8 array in TCM, where the issuing slot has a number that no device has (R41, R62, R133). -/

namespace Sys2Proof.Machine

/-- A device after reset in which a slot of core 2^43 issues: the place of that core's TCM is 2^62, where the global places begin. -/
def farCore : State := { State.reset with cur := 2 ^ 47 }

/-- A BMP8 array at offset 0 of the TCM. -/
def farUnits : W := nat (20 * 2 ^ 58 + 3 * 2 ^ 52)

/-- The array's first unit is the bitmap 0. -/
theorem farCore_unitAt : unitAt (farCore.tcmNum farUnits) 1 = 8 := by decide

theorem farCore_tcmHolds : farCore.tcmHolds farUnits 8 :=
  ⟨by decide, by decide, by decide, by decide⟩

/-- VLDB parks there until the lines of a global place have come. -/
theorem farCore_vldb_pc : (farCore.vldb 0#5 0#3 farUnits 0#64 0).me.pc = 0#64 := by decide

/-- Refutes O32: the rule for arrays in TCM does not bound the number of the issuing core, as O28 does (below 1,024). From core 2^43 on the places of a
TCM are global ones, so VLDB asks for their lines and does not complete. What the rule says holds of a device's cores (`State.vldb_strips`,
`State.vldb_sparse`, `State.vldb_units`), and the other two rules hold (`blockAndExtension`, `blockLanes`). -/
theorem not_blockInstructions : ¬ Obligations.BlockInstructions := by
  rintro ⟨-, -, h⟩
  obtain ⟨-, -, hunits⟩ := h farCore 0#5 0#3 farUnits 0#64 0 rfl rfl
  obtain ⟨t, ht, hpc, -⟩ := hunits (by decide) (farCore_unitAt.symm ▸ farCore_tcmHolds)
  rw [← ht, farCore_vldb_pc] at hpc
  exact absurd hpc (by decide)

end Sys2Proof.Machine
end

section
/-! SUPPORT. Words and halfwords as sequences of fields (R71, R73 to R76, Table 03-1), and the checks of R82. -/

namespace Sys2Proof

theorem extractLsb'_extractLsb' {k s l t m : Nat} {x : BitVec k} (h : t + m ≤ l) : (x.extractLsb' s l).extractLsb' t m = x.extractLsb' (s + t) m := by
  ext j hj
  simp [Nat.add_assoc, show t + j < l by omega]

/-- A word is the concatenation of its two fields. -/
theorem eq_append_iff {m n : Nat} {x : BitVec (m + n)} {hi : BitVec m} {lo : BitVec n} :
    x = hi ++ lo ↔ x.extractLsb' n m = hi ∧ x.extractLsb' 0 n = lo := by
  constructor
  · rintro rfl
    exact ⟨BitVec.extractLsb'_append_eq_left, BitVec.extractLsb'_append_eq_right⟩
  · rintro ⟨rfl, rfl⟩
    exact BitVec.extractLsb'_append_extractLsb'.symm

/-- The same for a field that is cut in two. -/
theorem extractLsb'_eq_append_iff {k s m n : Nat} {x : BitVec k} {hi : BitVec m} {lo : BitVec n} :
    x.extractLsb' s (m + n) = hi ++ lo ↔ x.extractLsb' (s + n) m = hi ∧ x.extractLsb' s n = lo := by
  rw [eq_append_iff, extractLsb'_extractLsb' (by omega), extractLsb'_extractLsb' (by omega), Nat.add_zero]

/-- A register number that fits into m bits is not changed by a field of m bits. -/
@[simp] theorem setWidth_setWidth_of_toNat_le {n m : Nat} {x : BitVec n} (h : x.toNat ≤ 2 ^ m - 1) : (x.setWidth m).setWidth n = x := by
  have hm : x.toNat < 2 ^ m := by have := Nat.two_pow_pos m; omega
  apply BitVec.eq_of_toNat_eq
  rw [BitVec.toNat_setWidth, BitVec.toNat_setWidth, Nat.mod_eq_of_lt hm, Nat.mod_eq_of_lt x.isLt]

/-- A register number of n bits, read in a wider field, passes the check on its range. -/
@[simp] theorem not_lt_toNat_mod {n j k : Nat} {x : BitVec n} (h : 2 ^ n ≤ k + 1) : ¬k < x.toNat % j := by
  have hx := x.isLt
  have hj := Nat.mod_le x.toNat j
  omega

theorem ofNat_toNat_self {n : Nat} (x : BitVec n) : BitVec.ofNat n x.toNat = x := by rw [BitVec.ofNat_toNat, BitVec.setWidth_eq]

theorem extractLsb'_one {k : Nat} (x : BitVec k) (j : Nat) : x.extractLsb' j 1 = BitVec.ofBool (x.getLsbD j) := by
  ext l hl
  simp [show l = 0 by omega]

theorem extractLsb'_one_eq {k j : Nat} {x : BitVec k} {c : Bool} : x.extractLsb' j 1 = BitVec.ofBool c ↔ x.getLsbD j = c := by
  rw [extractLsb'_one]
  cases x.getLsbD j <;> cases c <;> decide

/-! Formats -/

/-- The immediate of a shift: operation, reserved bits, amount (R75). -/
theorem eq_shiftFields_iff {n : BitVec 13} {q : BitVec 2} {sh : BitVec 6} :
    n = q ++ 0#5 ++ sh ↔ n.extractLsb' 11 2 = q ∧ n.extractLsb' 6 5 = 0#5 ∧ n.extractLsb' 0 6 = sh := by
  simp only [eq_append_iff (m := 7) (n := 6), extractLsb'_eq_append_iff (m := 2) (n := 5), and_assoc, Nat.reduceAdd]

section
variable {w : BitVec 32} {maj d a b : R6} {fn : BitVec 7} {i : BitVec 13} {i19 : BitVec 19} {i25 : BitVec 25} {v a5 b5 fn5 : BitVec 5} {m : BitVec 3} {t : BitVec 2}

theorem eq_encF3_iff : w = encF3 maj d a b fn ↔ w.extractLsb' 31 1 = 1#1 ∧ w.extractLsb' 25 6 = maj ∧
    w.extractLsb' 19 6 = d ∧ w.extractLsb' 13 6 = a ∧ w.extractLsb' 7 6 = b ∧ w.extractLsb' 0 7 = fn := by
  simp only [encF3, eq_append_iff (m := 25) (n := 7), extractLsb'_eq_append_iff (m := 19) (n := 6), extractLsb'_eq_append_iff (m := 13) (n := 6),
    extractLsb'_eq_append_iff (m := 7) (n := 6), extractLsb'_eq_append_iff (m := 1) (n := 6), and_assoc, Nat.reduceAdd]

theorem eq_encFI_iff : w = encFI maj d a i ↔ w.extractLsb' 31 1 = 1#1 ∧ w.extractLsb' 25 6 = maj ∧
    w.extractLsb' 19 6 = d ∧ w.extractLsb' 13 6 = a ∧ w.extractLsb' 0 13 = i := by
  simp only [encFI, eq_append_iff (m := 19) (n := 13), extractLsb'_eq_append_iff (m := 13) (n := 6),
    extractLsb'_eq_append_iff (m := 7) (n := 6), extractLsb'_eq_append_iff (m := 1) (n := 6), and_assoc, Nat.reduceAdd]

theorem eq_encFL_iff : w = encFL maj d i19 ↔ w.extractLsb' 31 1 = 1#1 ∧ w.extractLsb' 25 6 = maj ∧ w.extractLsb' 19 6 = d ∧ w.extractLsb' 0 19 = i19 := by
  simp only [encFL, eq_append_iff (m := 13) (n := 19), extractLsb'_eq_append_iff (m := 7) (n := 6), extractLsb'_eq_append_iff (m := 1) (n := 6),
    and_assoc, Nat.reduceAdd]

theorem eq_encFJ_iff : w = encFJ maj i25 ↔ w.extractLsb' 31 1 = 1#1 ∧ w.extractLsb' 25 6 = maj ∧ w.extractLsb' 0 25 = i25 := by
  simp only [encFJ, eq_append_iff (m := 7) (n := 25), extractLsb'_eq_append_iff (m := 1) (n := 6), and_assoc, Nat.reduceAdd]

theorem eq_encFV_iff : w = encFV maj v a5 b5 m fn5 t ↔ w.extractLsb' 31 1 = 1#1 ∧ w.extractLsb' 25 6 = maj ∧
    w.extractLsb' 20 5 = v ∧ w.extractLsb' 15 5 = a5 ∧ w.extractLsb' 10 5 = b5 ∧ w.extractLsb' 7 3 = m ∧ w.extractLsb' 2 5 = fn5 ∧ w.extractLsb' 0 2 = t := by
  simp only [encFV, eq_append_iff (m := 30) (n := 2), extractLsb'_eq_append_iff (m := 25) (n := 5), extractLsb'_eq_append_iff (m := 22) (n := 3),
    extractLsb'_eq_append_iff (m := 17) (n := 5), extractLsb'_eq_append_iff (m := 12) (n := 5), extractLsb'_eq_append_iff (m := 7) (n := 5),
    extractLsb'_eq_append_iff (m := 1) (n := 6), and_assoc, Nat.reduceAdd]

theorem eq_encFM_iff : w = encFM maj v a b m fn5 ↔ w.extractLsb' 31 1 = 1#1 ∧ w.extractLsb' 25 6 = maj ∧
    w.extractLsb' 20 5 = v ∧ w.extractLsb' 14 6 = a ∧ w.extractLsb' 8 6 = b ∧ w.extractLsb' 5 3 = m ∧ w.extractLsb' 0 5 = fn5 := by
  simp only [encFM, eq_append_iff (m := 27) (n := 5), extractLsb'_eq_append_iff (m := 24) (n := 3), extractLsb'_eq_append_iff (m := 18) (n := 6),
    extractLsb'_eq_append_iff (m := 12) (n := 6), extractLsb'_eq_append_iff (m := 7) (n := 5), extractLsb'_eq_append_iff (m := 1) (n := 6), and_assoc, Nat.reduceAdd]

theorem eq_encC_iff {h : BitVec 16} {op : BitVec 4} {f : BitVec 11} :
    h = encC op f ↔ h.extractLsb' 15 1 = 0#1 ∧ h.extractLsb' 11 4 = op ∧ h.extractLsb' 0 11 = f := by
  simp only [encC, eq_append_iff (m := 5) (n := 11), extractLsb'_eq_append_iff (m := 1) (n := 4), and_assoc, Nat.reduceAdd]

end

/-! The checks -/

@[simp] theorem firstErr_nil : firstErr [] = none := rfl

@[simp] theorem firstErr_cons_eq_none {c : Bool} {k : Nat} {l : List (Bool × Nat)} : firstErr ((c, k) :: l) = none ↔ c = false ∧ firstErr l = none := by
  cases c <;> simp [firstErr]

@[simp] theorem checked_cons_false {k : Nat} {l : List (Bool × Nat)} {i : Instr} : checked ((false, k) :: l) i = checked l i := rfl

theorem checked_eq_ok {raw : List (Bool × Nat)} {i j : Instr} : checked raw j = .ok i ↔ firstErr raw = none ∧ j.wf = true ∧ j = i := by
  rw [checked, Instr.wf]
  cases firstErr raw <;> cases fieldErr j <;> simp

end Sys2Proof
end

section
/-! Settles O2. What decodes is the one encoding of a well-formed instruction (R71, R79, R80, R82): table by table. -/

namespace Sys2Proof

/-- The instruction is well-formed and e is its encoding. -/
def Encodes (i : Instr) (e : Enc) : Prop := i.wf = true ∧ encode i = some e

/-- One row of a table: its check on unused fields makes the words that were decoded those of the instruction. -/
theorem encodes_of_checked {raw : List (Bool × Nat)} {i j : Instr} {e x : Enc} (h : checked raw j = .ok i) (hx : encode j = some x)
    (hraw : firstErr raw = none → x = e) : Encodes i e := by
  obtain ⟨hr, hwf, rfl⟩ := checked_eq_ok.1 h
  exact ⟨hwf, hraw hr ▸ hx⟩

/-! Tables of scalar formats -/

section
variable {d a b : R6} {fn : Nat} {i : Instr}

theorem decode01_encodes (h : decode01 d a b fn = .ok i) : Encodes i (.word (encF3 0x01#6 d a b (BitVec.ofNat 7 fn))) := by
  unfold decode01 at h
  split at h
  case h_34 => cases h
  all_goals exact encodes_of_checked h rfl (by simp +contextual)

theorem decode0B_encodes (h : decode0B d a b fn = .ok i) : Encodes i (.word (encF3 0x0B#6 d a b (BitVec.ofNat 7 fn))) := by
  unfold decode0B at h
  split at h
  case h_10 => cases h
  all_goals exact encodes_of_checked h rfl (by simp +contextual)

theorem decode1B_encodes (h : decode1B d a b fn = .ok i) : Encodes i (.word (encF3 0x1B#6 d a b (BitVec.ofNat 7 fn))) := by
  unfold decode1B at h
  split at h
  case h_8 => cases h
  all_goals exact encodes_of_checked h rfl (by simp +contextual)

theorem decode1D_encodes (h : decode1D d a b fn = .ok i) : Encodes i (.word (encF3 0x1D#6 d a b (BitVec.ofNat 7 fn))) := by
  unfold decode1D at h
  split at h
  case h_9 => cases h
  all_goals exact encodes_of_checked h rfl (by simp +contextual)

theorem decode1F_encodes (h : decode1F d a b fn = .ok i) : Encodes i (.word (encF3 0x1F#6 d a b (BitVec.ofNat 7 fn))) := by
  unfold decode1F at h
  split at h
  case h_5 => cases h
  all_goals exact encodes_of_checked h rfl (by simp +contextual)

theorem decode2B_encodes (h : decode2B d a b fn = .ok i) : Encodes i (.word (encF3 0x2B#6 d a b (BitVec.ofNat 7 fn))) := by
  unfold decode2B at h
  split at h
  case h_15 => cases h
  all_goals exact encodes_of_checked h rfl (by simp +contextual)

theorem decode2C_encodes (h : decode2C d a b fn = .ok i) : Encodes i (.word (encF3 0x2C#6 d a b (BitVec.ofNat 7 fn))) := by
  unfold decode2C at h
  split at h
  case h_9 => cases h
  all_goals exact encodes_of_checked h rfl (by simp +contextual)

theorem decode2E_encodes (h : decode2E d a b fn = .ok i) : Encodes i (.word (encF3 0x2E#6 d a b (BitVec.ofNat 7 fn))) := by
  unfold decode2E at h
  split at h
  case h_3 => cases h
  all_goals exact encodes_of_checked h rfl (by simp +contextual)

theorem decode37_encodes (h : decode37 d a b fn = .ok i) : Encodes i (.word (encF3 0x37#6 d a b (BitVec.ofNat 7 fn))) := by
  unfold decode37 at h
  split at h
  case h_13 => cases h
  all_goals exact encodes_of_checked h rfl (by simp +contextual)

theorem decode38_encodes (h : decode38 d a b fn = .ok i) : Encodes i (.word (encF3 0x38#6 d a b (BitVec.ofNat 7 fn))) := by
  unfold decode38 at h
  split at h
  case h_10 => cases h
  all_goals exact encodes_of_checked h rfl (by simp +contextual)

theorem decode39_encodes (h : decode39 d a b fn = .ok i) : Encodes i (.word (encF3 0x39#6 d a b (BitVec.ofNat 7 fn))) := by
  unfold decode39 at h
  split at h
  case h_7 => cases h
  all_goals exact encodes_of_checked h rfl (by simp +contextual)

theorem decode3B_encodes (h : decode3B d a b fn = .ok i) : Encodes i (.word (encF3 0x3B#6 d a b (BitVec.ofNat 7 fn))) := by
  unfold decode3B at h
  split at h
  case h_12 => cases h
  all_goals exact encodes_of_checked h rfl (by simp +contextual)

theorem decode1C_encodes {o : BitVec 2} {red : Bool} (h : decode1C d a b fn o red = .ok i) :
    Encodes i (.word (encF3 0x1C#6 d a b (BitVec.ofBool red ++ o ++ BitVec.ofNat 4 fn))) := by
  unfold decode1C at h
  split at h
  case h_25 => cases h
  all_goals exact encodes_of_checked h rfl (by simp +contextual)

theorem decode2D_encodes {p : BitVec 2} (h : decode2D d a b fn p = .ok i) : Encodes i (.word (encF3 0x2D#6 d a b (p ++ BitVec.ofNat 5 fn))) := by
  unfold decode2D at h
  split at h
  case h_19 => cases h
  all_goals exact encodes_of_checked h rfl (by simp +contextual)

theorem decode1E_encodes {v : BitVec 5} {m : BitVec 3} (h : decode1E v a b m fn = .ok i) : Encodes i (.word (encFM 0x1E#6 v a b m (BitVec.ofNat 5 fn))) := by
  unfold decode1E at h
  split at h
  case h_8 => cases h
  all_goals exact encodes_of_checked h rfl (by simp +contextual)

theorem decode06_encodes {n : BitVec 13} (h : decode06 d a n = .ok i) : Encodes i (.word (encFI 0x06#6 d a n)) := by
  have hq : ∀ q : BitVec 2, q = 0#2 ∨ q = 1#2 ∨ q = 2#2 ∨ q = 3#2 := by decide
  have hn : firstErr [(decide (n.extractLsb' 6 5 ≠ 0#5), 19)] = none → n.extractLsb' 11 2 ++ 0#5 ++ n.extractLsb' 0 6 = n := fun hr =>
    (eq_shiftFields_iff.2 ⟨rfl, by simpa using hr, rfl⟩).symm
  obtain hk | hk | hk | hk := hq (n.extractLsb' 11 2)
  all_goals
    simp only [decode06, hk] at h
    exact encodes_of_checked h rfl fun hr => by rw [← hk, hn hr]

end

/-! Tables of format FV -/

section
variable {v a b : BitVec 5} {m : BitVec 3} {t : BitVec 2} {fn : Nat} {i : Instr}

theorem decode30_encodes (h : decode30 v a b m fn t = .ok i) : Encodes i (.word (encFV 0x30#6 v a b m (BitVec.ofNat 5 fn) t)) := by
  unfold decode30 at h
  split at h
  case h_11 => cases h
  all_goals exact encodes_of_checked h rfl (by simp +contextual)

theorem decode31_encodes (h : decode31 v a b m fn t = .ok i) : Encodes i (.word (encFV 0x31#6 v a b m (BitVec.ofNat 5 fn) t)) := by
  unfold decode31 at h
  split at h
  case h_9 => cases h
  all_goals exact encodes_of_checked h rfl (by simp +contextual)

theorem decode32_encodes (h : decode32 v a b m fn t = .ok i) : Encodes i (.word (encFV 0x32#6 v a b m (BitVec.ofNat 5 fn) t)) := by
  unfold decode32 at h
  split at h
  case h_12 => cases h
  all_goals exact encodes_of_checked h rfl (by simp +contextual)

theorem decode33_encodes (h : decode33 v a b m fn t = .ok i) : Encodes i (.word (encFV 0x33#6 v a b m (BitVec.ofNat 5 fn) t)) := by
  unfold decode33 at h
  split at h
  case h_14 => cases h
  all_goals exact encodes_of_checked h rfl (by simp +contextual)

theorem decode34_encodes (h : decode34 v a b m fn t = .ok i) : Encodes i (.word (encFV 0x34#6 v a b m (BitVec.ofNat 5 fn) t)) := by
  unfold decode34 at h
  split at h
  case h_16 => cases h
  all_goals exact encodes_of_checked h rfl (by simp +contextual)

theorem decode35_encodes (h : decode35 v a b m fn t = .ok i) : Encodes i (.word (encFV 0x35#6 v a b m (BitVec.ofNat 5 fn) t)) := by
  unfold decode35 at h
  split at h
  case h_8 => cases h
  all_goals exact encodes_of_checked h rfl (by simp +contextual)

end

/-! Words -/

section
variable {w : BitVec 32} {k : Nat} (hw : w.extractLsb' 31 1 = 1#1) (hk : (w.extractLsb' 25 6).toNat = k)
include hw hk

theorem encF3_fields {fn : BitVec 7} (hf : w.extractLsb' 0 7 = fn) :
    encF3 (BitVec.ofNat 6 k) (w.extractLsb' 19 6) (w.extractLsb' 13 6) (w.extractLsb' 7 6) fn = w :=
  (eq_encF3_iff.2 ⟨hw, by rw [← hk, ofNat_toNat_self], rfl, rfl, rfl, hf⟩).symm

theorem encFI_fields {d a : R6} (hd : w.extractLsb' 19 6 = d) (ha : w.extractLsb' 13 6 = a) : encFI (BitVec.ofNat 6 k) d a (w.extractLsb' 0 13) = w :=
  (eq_encFI_iff.2 ⟨hw, by rw [← hk, ofNat_toNat_self], hd, ha, rfl⟩).symm

theorem encFL_fields : encFL (BitVec.ofNat 6 k) (w.extractLsb' 19 6) (w.extractLsb' 0 19) = w :=
  (eq_encFL_iff.2 ⟨hw, by rw [← hk, ofNat_toNat_self], rfl, rfl⟩).symm

theorem encFJ_fields : encFJ (BitVec.ofNat 6 k) (w.extractLsb' 0 25) = w := (eq_encFJ_iff.2 ⟨hw, by rw [← hk, ofNat_toNat_self], rfl⟩).symm

theorem encFV_fields : encFV (BitVec.ofNat 6 k) (w.extractLsb' 20 5) (w.extractLsb' 15 5) (w.extractLsb' 10 5) (w.extractLsb' 7 3)
    (BitVec.ofNat 5 (w.extractLsb' 2 5).toNat) (w.extractLsb' 0 2) = w :=
  (eq_encFV_iff.2 ⟨hw, by rw [← hk, ofNat_toNat_self], rfl, rfl, rfl, rfl, (ofNat_toNat_self _).symm, rfl⟩).symm

theorem encFM_fields : encFM (BitVec.ofNat 6 k) (w.extractLsb' 20 5) (w.extractLsb' 14 6) (w.extractLsb' 8 6) (w.extractLsb' 5 3)
    (BitVec.ofNat 5 (w.extractLsb' 0 5).toNat) = w :=
  (eq_encFM_iff.2 ⟨hw, by rw [← hk, ofNat_toNat_self], rfl, rfl, rfl, rfl, (ofNat_toNat_self _).symm⟩).symm

end

/-- fn7 of an atomic: the no-return form, the ordering, the operation (R76). -/
theorem extractLsb'_amo (w : BitVec 32) : w.extractLsb' 0 7 =
    BitVec.ofBool (w.getLsbD 6) ++ w.extractLsb' 4 2 ++ BitVec.ofNat 4 (w.extractLsb' 0 4).toNat := by
  rw [ofNat_toNat_self, ← extractLsb'_one]
  exact (extractLsb'_eq_append_iff (s := 0) (m := 3) (n := 4)).2 ⟨(extractLsb'_eq_append_iff (s := 4) (m := 1) (n := 2)).2 ⟨rfl, rfl⟩, rfl⟩

/-- fn7 of a scalar floating-point instruction: the precision, the function (R76). -/
theorem extractLsb'_fp (w : BitVec 32) : w.extractLsb' 0 7 = w.extractLsb' 5 2 ++ BitVec.ofNat 5 (w.extractLsb' 0 5).toNat := by
  rw [ofNat_toNat_self]
  exact (extractLsb'_eq_append_iff (s := 0) (m := 2) (n := 5)).2 ⟨rfl, rfl⟩

/-- Each table of a major and each major with one instruction; what the cases do not name are the instructions of format FI that use every field. -/
theorem decodeWord_encodes {w : BitVec 32} {i : Instr} (hw : w.extractLsb' 31 1 = 1#1) (h : decodeWord w = .ok i) : Encodes i (.word w) := by
  unfold decodeWord at h
  split at h
  case h_1 => cases h
  case h_2 _ hk => exact encF3_fields hw hk (ofNat_toNat_self _).symm ▸ decode01_encodes h
  case h_7 _ hk => exact encFI_fields hw hk rfl rfl ▸ decode06_encodes h
  case h_10 _ hk | h_11 _ hk => exact encodes_of_checked h rfl fun _ => congrArg Enc.word (encFL_fields hw hk)
  case h_12 _ hk => exact encF3_fields hw hk (ofNat_toNat_self _).symm ▸ decode0B_encodes h
  case h_25 _ hk => exact encF3_fields hw hk (ofNat_toNat_self _).symm ▸ decode1B_encodes h
  case h_26 _ hk => exact encF3_fields hw hk (extractLsb'_amo w) ▸ decode1C_encodes h
  case h_27 _ hk => exact encF3_fields hw hk (ofNat_toNat_self _).symm ▸ decode1D_encodes h
  case h_28 _ hk => exact encFM_fields hw hk ▸ decode1E_encodes h
  case h_29 _ hk => exact encF3_fields hw hk (ofNat_toNat_self _).symm ▸ decode1F_encodes h
  case h_36 _ hk => exact encodes_of_checked h rfl fun hr => congrArg Enc.word (encFI_fields hw hk rfl (by simpa using hr))
  case h_37 _ hk =>
    refine encodes_of_checked h rfl fun hr => ?_
    obtain ⟨hd, ha⟩ : w.extractLsb' 19 6 = 0#6 ∧ w.extractLsb' 13 6 = 0#6 := by simpa using hr
    exact congrArg Enc.word (encFI_fields hw hk hd ha)
  case h_38 _ hk | h_39 _ hk => exact encodes_of_checked h rfl fun _ => congrArg Enc.word (encFJ_fields hw hk)
  case h_41 _ hk => exact encF3_fields hw hk (ofNat_toNat_self _).symm ▸ decode2B_encodes h
  case h_42 _ hk => exact encF3_fields hw hk (ofNat_toNat_self _).symm ▸ decode2C_encodes h
  case h_43 _ hk => exact encF3_fields hw hk (extractLsb'_fp w) ▸ decode2D_encodes h
  case h_44 _ hk => exact encF3_fields hw hk (ofNat_toNat_self _).symm ▸ decode2E_encodes h
  case h_45 _ hk => exact encFV_fields hw hk ▸ decode30_encodes h
  case h_46 _ hk => exact encFV_fields hw hk ▸ decode31_encodes h
  case h_47 _ hk => exact encFV_fields hw hk ▸ decode32_encodes h
  case h_48 _ hk => exact encFV_fields hw hk ▸ decode33_encodes h
  case h_49 _ hk => exact encFV_fields hw hk ▸ decode34_encodes h
  case h_50 _ hk => exact encFV_fields hw hk ▸ decode35_encodes h
  case h_51 _ hk => exact encF3_fields hw hk (ofNat_toNat_self _).symm ▸ decode37_encodes h
  case h_52 _ hk => exact encF3_fields hw hk (ofNat_toNat_self _).symm ▸ decode38_encodes h
  case h_53 _ hk => exact encF3_fields hw hk (ofNat_toNat_self _).symm ▸ decode39_encodes h
  case h_54 _ hk => exact encF3_fields hw hk (ofNat_toNat_self _).symm ▸ decode3B_encodes h
  case h_55 => cases h
  all_goals
    next hk => exact encodes_of_checked h rfl fun _ => congrArg Enc.word (encFI_fields hw hk rfl rfl)

/-! Halfwords -/

theorem encC_fields {h : BitVec 16} {k : Nat} {f : BitVec 11} (hh : h.extractLsb' 15 1 = 0#1) (hk : (h.extractLsb' 11 4).toNat = k)
    (hf : h.extractLsb' 0 11 = f) : encC (BitVec.ofNat 4 k) f = h :=
  (eq_encC_iff.2 ⟨hh, by rw [← hk, ofNat_toNat_self], hf⟩).symm

/-- The rows of Table 03-4, by the fields that they have. -/
theorem decodeHalf_encodes {h : BitVec 16} {i : Instr} (hh : h.extractLsb' 15 1 = 0#1) (hd : decodeHalf h = .ok i) : Encodes i (.half h) := by
  -- the eleven field bits, by the widths of their fields
  have h56 : h.extractLsb' 0 11 = h.extractLsb' 6 5 ++ h.extractLsb' 0 6 := (extractLsb'_eq_append_iff (m := 5) (n := 6)).2 ⟨rfl, rfl⟩
  have h335 : h.extractLsb' 0 11 = h.extractLsb' 8 3 ++ h.extractLsb' 5 3 ++ h.extractLsb' 0 5 :=
    (extractLsb'_eq_append_iff (m := 6) (n := 5)).2 ⟨(extractLsb'_eq_append_iff (m := 3) (n := 3)).2 ⟨rfl, rfl⟩, rfl⟩
  have h38 : h.extractLsb' 0 11 = h.extractLsb' 8 3 ++ h.extractLsb' 0 8 := (extractLsb'_eq_append_iff (m := 3) (n := 8)).2 ⟨rfl, rfl⟩
  have hlow (hr : firstErr [(h.getLsbD 0, 3)] = none) : h.extractLsb' 0 11 = h.extractLsb' 6 5 ++ h.extractLsb' 1 5 ++ 0#1 :=
    (extractLsb'_eq_append_iff (m := 10) (n := 1)).2 ⟨(extractLsb'_eq_append_iff (m := 5) (n := 5)).2 ⟨rfl, rfl⟩,
      (extractLsb'_one_eq (c := false)).2 (firstErr_cons_eq_none.1 hr).1⟩
  unfold decodeHalf at hd
  split at hd
  · cases hd
  · split at hd
    -- C.NOP, C.RET and C.YIELD: a function and eight clear bits
    case h_1 _ hk =>
      have hzero {k : Nat} (hr : firstErr [(decide (h.extractLsb' 0 8 ≠ 0#8), 3)] = none)
          (h8 : (h.extractLsb' 8 3).toNat = k) : encC 0#4 (BitVec.ofNat 3 k ++ 0#8) = h := encC_fields hh hk (by
        rw [h38, ← h8, ofNat_toNat_self, (by simpa using hr : h.extractLsb' 0 8 = 0#8)])
      split at hd
      case h_4 => cases hd
      all_goals
        next h8 => exact encodes_of_checked hd rfl fun hr => congrArg Enc.half (hzero hr h8)
    -- a register and six bits
    case h_2 _ hk | h_3 _ hk | h_12 _ hk | h_13 _ hk => exact encodes_of_checked hd rfl fun _ => congrArg Enc.half (encC_fields hh hk h56)
    -- two registers and a clear bit
    case h_4 _ hk | h_5 _ hk | h_6 _ hk | h_14 _ hk => exact encodes_of_checked hd rfl fun hr => congrArg Enc.half (encC_fields hh hk (hlow hr))
    -- C.LD and C.SD
    case h_7 _ hk | h_8 _ hk => exact encodes_of_checked hd rfl fun _ => congrArg Enc.half (encC_fields hh hk h335)
    -- C.BEQZ, C.BNEZ and C.J
    case h_9 _ hk | h_10 _ hk => exact encodes_of_checked hd rfl fun _ => congrArg Enc.half (encC_fields hh hk h38)
    case h_11 _ hk => exact encodes_of_checked hd rfl fun _ => congrArg Enc.half (encC_fields hh hk rfl)
    case h_15 => cases hd

/-- Settles O2: the top bit of the first halfword tells which of the two decoders runs, and each gives an instruction that these bits encode. -/
theorem encodeDecode : Obligations.EncodeDecode := by
  intro h0 h1 i h
  unfold decodeHalves at h
  split at h
  · next hb =>
    rw [if_pos hb]
    exact decodeWord_encodes ((extractLsb'_one_eq (c := true)).2 (by rwa [BitVec.getLsbD_append, if_neg (by decide)])) h
  · next hb =>
    rw [if_neg hb]
    exact decodeHalf_encodes ((extractLsb'_one_eq (c := false)).2 (Bool.eq_false_of_not_eq_true hb)) h

end Sys2Proof
end

section
/-! Settles O1 and O3. Decoding what encode writes, instruction by instruction (R71, R73, R74, R80, R82). -/

namespace Sys2Proof

theorem decodeEnc_word {w : BitVec 32} (hw : w.extractLsb' 31 1 = 1#1) : decodeEnc (.word w) = decodeWord w := by
  have htop : (w.extractLsb' 16 16).getLsbD 15 = true := by
    rw [BitVec.getLsbD_extractLsb', (extractLsb'_one_eq (c := true)).1 hw]
    rfl
  rw [decodeEnc, decodeHalves, if_pos htop]
  exact congrArg decodeWord (BitVec.extractLsb'_append_extractLsb' (w := 16) (len := 16))

/-! The majors that have a table -/

/-- The words of major maj are decoded by table f, on the fields of format F3. -/
def F3Table (maj : R6) (f : R6 → R6 → R6 → Nat → Except Nat Instr) : Prop :=
  ∀ w : BitVec 32, w.extractLsb' 25 6 = maj → decodeWord w = f (w.extractLsb' 19 6) (w.extractLsb' 13 6) (w.extractLsb' 7 6) (w.extractLsb' 0 7).toNat

/-- The words of major maj are decoded by table f, on the fields of format FV. -/
def FVTable (maj : R6) (f : BitVec 5 → BitVec 5 → BitVec 5 → BitVec 3 → Nat → BitVec 2 → Except Nat Instr) : Prop :=
  ∀ w : BitVec 32, w.extractLsb' 25 6 = maj → decodeWord w =
    f (w.extractLsb' 20 5) (w.extractLsb' 15 5) (w.extractLsb' 10 5) (w.extractLsb' 7 3) (w.extractLsb' 2 5).toNat (w.extractLsb' 0 2)

theorem f3Table_decode01 : F3Table 0x01#6 decode01 := fun w h => by unfold decodeWord; rw [h]; rfl
theorem f3Table_decode0B : F3Table 0x0B#6 decode0B := fun w h => by unfold decodeWord; rw [h]; rfl
theorem f3Table_decode1B : F3Table 0x1B#6 decode1B := fun w h => by unfold decodeWord; rw [h]; rfl
theorem f3Table_decode1D : F3Table 0x1D#6 decode1D := fun w h => by unfold decodeWord; rw [h]; rfl
theorem f3Table_decode1F : F3Table 0x1F#6 decode1F := fun w h => by unfold decodeWord; rw [h]; rfl
theorem f3Table_decode2B : F3Table 0x2B#6 decode2B := fun w h => by unfold decodeWord; rw [h]; rfl
theorem f3Table_decode2C : F3Table 0x2C#6 decode2C := fun w h => by unfold decodeWord; rw [h]; rfl
theorem f3Table_decode2E : F3Table 0x2E#6 decode2E := fun w h => by unfold decodeWord; rw [h]; rfl
theorem f3Table_decode37 : F3Table 0x37#6 decode37 := fun w h => by unfold decodeWord; rw [h]; rfl
theorem f3Table_decode38 : F3Table 0x38#6 decode38 := fun w h => by unfold decodeWord; rw [h]; rfl
theorem f3Table_decode39 : F3Table 0x39#6 decode39 := fun w h => by unfold decodeWord; rw [h]; rfl
theorem f3Table_decode3B : F3Table 0x3B#6 decode3B := fun w h => by unfold decodeWord; rw [h]; rfl
theorem fvTable_decode30 : FVTable 0x30#6 decode30 := fun w h => by unfold decodeWord; rw [h]; rfl
theorem fvTable_decode31 : FVTable 0x31#6 decode31 := fun w h => by unfold decodeWord; rw [h]; rfl
theorem fvTable_decode32 : FVTable 0x32#6 decode32 := fun w h => by unfold decodeWord; rw [h]; rfl
theorem fvTable_decode33 : FVTable 0x33#6 decode33 := fun w h => by unfold decodeWord; rw [h]; rfl
theorem fvTable_decode34 : FVTable 0x34#6 decode34 := fun w h => by unfold decodeWord; rw [h]; rfl
theorem fvTable_decode35 : FVTable 0x35#6 decode35 := fun w h => by unfold decodeWord; rw [h]; rfl

/-! Encoded fields, decoded -/

section
variable {maj d a b : R6}

theorem decodeEnc_encF3 {f} (hf : F3Table maj f) {fn : BitVec 7} : decodeEnc (.word (encF3 maj d a b fn)) = f d a b fn.toNat := by
  obtain ⟨hw, hmaj, hd, ha, hb, hfn⟩ := eq_encF3_iff.1 (rfl : encF3 maj d a b fn = _)
  rw [decodeEnc_word hw, hf _ hmaj, hd, ha, hb, hfn]

theorem decodeEnc_encFV {f} (hf : FVTable maj f) {v a b : BitVec 5} {m : BitVec 3} {fn : BitVec 5} {t : BitVec 2} :
    decodeEnc (.word (encFV maj v a b m fn t)) = f v a b m fn.toNat t := by
  obtain ⟨hw, hmaj, hv, ha, hb, hm, hfn, ht⟩ := eq_encFV_iff.1 (rfl : encFV maj v a b m fn t = _)
  rw [decodeEnc_word hw, hf _ hmaj, hv, ha, hb, hm, hfn, ht]

theorem decodeEnc_encFM {v : BitVec 5} {m : BitVec 3} {fn : BitVec 5} : decodeEnc (.word (encFM 0x1E#6 v a b m fn)) = decode1E v a b m fn.toNat := by
  obtain ⟨hw, hmaj, hv, ha, hb, hm, hfn⟩ := eq_encFM_iff.1 (rfl : encFM 0x1E#6 v a b m fn = _)
  rw [decodeEnc_word hw, decodeWord, hmaj]
  show decode1E _ _ _ _ _ = _
  rw [hv, ha, hb, hm, hfn]

theorem decodeEnc_amo {r : BitVec 1} {o : BitVec 2} {op : BitVec 4} :
    decodeEnc (.word (encF3 0x1C#6 d a b (r ++ o ++ op))) = decode1C d a b op.toNat o (r.getLsbD 0) := by
  obtain ⟨w, hx⟩ : ∃ w, w = encF3 0x1C#6 d a b (r ++ o ++ op) := ⟨_, rfl⟩
  obtain ⟨hw, hmaj, hd, ha, hb, hfn⟩ := eq_encF3_iff.1 hx
  obtain ⟨hro, hop⟩ := (extractLsb'_eq_append_iff (m := 3) (n := 4)).1 hfn
  obtain ⟨hr, ho⟩ := (extractLsb'_eq_append_iff (m := 1) (n := 2)).1 hro
  rw [← hx, decodeEnc_word hw, decodeWord, hmaj]
  show decode1C _ _ _ _ _ _ = _
  rw [hd, ha, hb, hop, ho, ← hr, BitVec.getLsbD_extractLsb']
  rfl

theorem decodeEnc_fp {p : BitVec 2} {fn : BitVec 5} : decodeEnc (.word (encF3 0x2D#6 d a b (p ++ fn))) = decode2D d a b fn.toNat p := by
  obtain ⟨hw, hmaj, hd, ha, hb, hfn⟩ := eq_encF3_iff.1 (rfl : encF3 0x2D#6 d a b (p ++ fn) = _)
  obtain ⟨hp, hf⟩ := (extractLsb'_eq_append_iff (m := 2) (n := 5)).1 hfn
  rw [decodeEnc_word hw, decodeWord, hmaj]
  show decode2D _ _ _ _ _ = _
  rw [hd, ha, hb, hf, hp]

theorem decodeEnc_encFI {i : BitVec 13} {r : Except Nat Instr} (hr : ∀ w : BitVec 32, w.extractLsb' 25 6 = maj →
    w.extractLsb' 19 6 = d → w.extractLsb' 13 6 = a → w.extractLsb' 0 13 = i → decodeWord w = r) : decodeEnc (.word (encFI maj d a i)) = r := by
  obtain ⟨hw, hmaj, hd, ha, hi⟩ := eq_encFI_iff.1 (rfl : encFI maj d a i = _)
  rw [decodeEnc_word hw, hr _ hmaj hd ha hi]

theorem decodeEnc_encFL {i : BitVec 19} {r : Except Nat Instr} (hr : ∀ w : BitVec 32, w.extractLsb' 25 6 = maj →
    w.extractLsb' 19 6 = d → w.extractLsb' 0 19 = i → decodeWord w = r) : decodeEnc (.word (encFL maj d i)) = r := by
  obtain ⟨hw, hmaj, hd, hi⟩ := eq_encFL_iff.1 (rfl : encFL maj d i = _)
  rw [decodeEnc_word hw, hr _ hmaj hd hi]

theorem decodeEnc_encFJ {i : BitVec 25} {r : Except Nat Instr} (hr : ∀ w : BitVec 32, w.extractLsb' 25 6 = maj →
    w.extractLsb' 0 25 = i → decodeWord w = r) : decodeEnc (.word (encFJ maj i)) = r := by
  obtain ⟨hw, hmaj, hi⟩ := eq_encFJ_iff.1 (rfl : encFJ maj i = _)
  rw [decodeEnc_word hw, hr _ hmaj hi]

theorem decodeEnc_shift {q : BitVec 2} {sh : BitVec 6} {r : Except Nat Instr}
    (hr : ∀ n : BitVec 13, n.extractLsb' 11 2 = q → n.extractLsb' 6 5 = 0#5 → n.extractLsb' 0 6 = sh → decode06 d a n = r) :
    decodeEnc (.word (encFI 0x06#6 d a (q ++ 0#5 ++ sh))) = r := by
  obtain ⟨hq, h0, hsh⟩ := eq_shiftFields_iff.1 (rfl : q ++ 0#5 ++ sh = _)
  refine decodeEnc_encFI fun w hmaj hd ha hi => ?_
  rw [decodeWord, hmaj]
  show decode06 _ _ _ = _
  rw [hd, ha, hi, hr _ hq h0 hsh]

theorem decodeEnc_encC {op : BitVec 4} {f : BitVec 11} {r : Except Nat Instr} (h0 : op ≠ 0#4)
    (hr : ∀ h : BitVec 16, h ≠ 0#16 → h.extractLsb' 11 4 = op → h.extractLsb' 0 11 = f → decodeHalf h = r) : decodeEnc (.half (encC op f)) = r := by
  obtain ⟨hh, hop, hf⟩ := eq_encC_iff.1 (rfl : encC op f = _)
  have htop := (extractLsb'_one_eq (c := false)).1 hh
  rw [decodeEnc, if_neg (by rw [htop]; decide), hr _ (fun h => h0 (by rw [← hop, h]; rfl)) hop hf]

end

/-- Decoding what encode writes leaves only the checks on the instruction's own fields. -/
theorem decodeEnc_encode {i : Instr} {e : Enc} (h : encode i = some e) : decodeEnc e = checked [] i := by
  cases i with
  | add | sub | mul | mulh | mulhu | div | divu | rem | remu | and | or | xor | andn | sll | srl | sra | ror | min | max | minu | maxu
  | slt | sltu | seq | clz | ctz | popc | brev | sextb | sexth | sextw | bext | bins =>
    cases h
    exact (decodeEnc_encF3 f3Table_decode01).trans rfl
  | padd | padde | pdiff | pmake | pget | pset | pchk | pabs | prel =>
    cases h
    exact (decodeEnc_encF3 f3Table_decode0B).trans rfl
  | ldf | ldff | ste | stf | feset | feclr | festat =>
    cases h
    exact (decodeEnc_encF3 f3Table_decode1B).trans rfl
  | fence | monarm | monwait | monclr | waitmsg | ccut | quiesce | yield =>
    cases h
    exact (decodeEnc_encF3 f3Table_decode1D).trans rfl
  | eld | est =>
    cases h
    exact (decodeEnc_encF3 f3Table_decode1F).trans rfl
  | spawn | spawnl | quit | dinit | darm | dbind | ddec | dstat | gnew | gjoin | gleave | gbar | gfree | iteri =>
    cases h
    exact (decodeEnc_encF3 f3Table_decode2B).trans rfl
  | qnew | qbind | qunbind | qctl | qtok | qstat | qfree | qref =>
    cases h
    exact (decodeEnc_encF3 f3Table_decode2C).trans rfl
  | hsift | hinit =>
    cases h
    exact (decodeEnc_encF3 f3Table_decode2E).trans rfl
  | mma | mmas | mmax | mdelta | mrefresh | minv | mloadb | mfreeb | mstc | mgroup | mpri | mstat =>
    cases h
    exact (decodeEnc_encF3 f3Table_decode37).trans rfl
  | copy | gather | scatter | isect | rsort | bbinit | bbexpect | bbwait | sendm =>
    cases h
    exact (decodeEnc_encF3 f3Table_decode38).trans rfl
  | elook | ereq | epin | eunpin | ehint | route =>
    cases h
    exact (decodeEnc_encF3 f3Table_decode39).trans rfl
  | trap | brk | sysrd | syswr | cflush | iflush | eret | tinv | freeze | thaw | nudge =>
    cases h
    exact (decodeEnc_encF3 f3Table_decode3B).trans rfl
  | vadd | vsub | vmul | vmin | vmax | vminu | vmaxu | vabs | vneg | vmad =>
    cases h
    exact (decodeEnc_encFV fvTable_decode30).trans rfl
  | vand | vor | vxor | vandn | vnot | vshl | vshr | vsra =>
    cases h
    exact (decodeEnc_encFV fvTable_decode31).trans rfl
  | vfadd | vfsub | vfmul | vfma | vfmin | vfmax | vfabs | vfneg | vexp2b | vrcpb | vrsqb =>
    cases h
    exact (decodeEnc_encFV fvTable_decode32).trans rfl
  | vbcast | vext | vins | vperm | vslide | viota | vcompress | vredadd | vredmax | vfredadd | vfredmax | vscan | vfscan | vsegscan
  | vfsegscan =>
    cases h
    exact (decodeEnc_encFV fvTable_decode34).trans rfl
  | vcvt | vcvti | vcvtf | vquant | vdeq | vpack | vunpk =>
    cases h
    exact (decodeEnc_encFV fvTable_decode35).trans rfl
  | vsel =>
    cases h
    exact (decodeEnc_encFV fvTable_decode33).trans rfl
  | amoadd | amoand | amoor | amoxor | amomin | amomax | amominu | amomaxu | amoswap | amocas | amofadd | amofmin | amofmax | redadd
  | redand | redor | redxor | redmin | redmax | redminu | redmaxu | redfadd | redfmin | redfmax =>
    cases h
    exact decodeEnc_amo.trans rfl
  | fadd | fsub | fmul | fdiv | fsqrt | fma | fmin | fmax | feq | flt | fle | fclass | fneg | fabs | fcvti | fcvtu | icvtf =>
    cases h
    exact decodeEnc_fp.trans rfl
  | vld | vst | vlds | vsts =>
    cases h
    exact decodeEnc_encFM.trans rfl
  | addi | andi | ori | xori | slti | sltiu | paddi | lb | lbu | lh | lhu | lw | lwu | ld | sb | sh | sw | sd | beq | bne | blt | bge
  | bltu | bgeu | jalr =>
    cases h
    refine decodeEnc_encFI fun w hmaj hd ha hi => ?_
    subst hd ha hi
    rw [decodeWord, hmaj]
    rfl
  | btok =>
    cases h
    refine decodeEnc_encFI fun w hmaj hd ha hi => ?_
    subst hd hi
    rw [decodeWord, hmaj, ha]
    rfl
  | next =>
    cases h
    refine decodeEnc_encFI fun w hmaj hd ha hi => ?_
    subst hi
    rw [decodeWord, hmaj, hd, ha]
    rfl
  | lih | lis =>
    cases h
    refine decodeEnc_encFL fun w hmaj hd hi => ?_
    subst hd hi
    rw [decodeWord, hmaj]
    rfl
  | jal | jmp =>
    cases h
    refine decodeEnc_encFJ fun w hmaj hi => ?_
    subst hi
    rw [decodeWord, hmaj]
    rfl
  | slli | srli | srai | rori =>
    cases h
    exact decodeEnc_shift fun n hq h0 hsh => by rw [decode06, hq, h0, hsh]; rfl
  | vldx | vstx | vldb =>
    cases h
    exact decodeEnc_encFM.trans (by simp [decode1E])
  | emov | eget =>
    cases h
    exact (decodeEnc_encF3 f3Table_decode1F).trans (by simp [decode1F])
  | fcvtf =>
    cases h
    exact decodeEnc_fp.trans (by simp [decode2D])
  | vceq | vcne | vclt | vcle | vcltu | vfceq | vfclt | vfcle | mand | mor | mnot | mpopc =>
    cases h
    exact (decodeEnc_encFV fvTable_decode33).trans (by simp [decode33])
  | cNop | cRet | cYield =>
    cases h
    rfl
  | cLi | cAddi | cSlli | cSrli =>
    cases h
    refine decodeEnc_encC (by decide) fun x h0 hop hf => ?_
    obtain ⟨rfl, rfl⟩ := (extractLsb'_eq_append_iff (m := 5) (n := 6)).1 hf
    rw [decodeHalf, if_neg h0, hop]
    rfl
  | cMov | cAdd | cSub | cAnd =>
    cases h
    refine decodeEnc_encC (by decide) fun x h0 hop hf => ?_
    obtain ⟨hda, hlow⟩ := (extractLsb'_eq_append_iff (m := 10) (n := 1)).1 hf
    obtain ⟨rfl, rfl⟩ := (extractLsb'_eq_append_iff (m := 5) (n := 5)).1 hda
    rw [decodeHalf, if_neg h0, hop, (extractLsb'_one_eq (c := false)).1 hlow]
    rfl
  | cLd | cSd =>
    cases h
    refine decodeEnc_encC (by decide) fun x h0 hop hf => ?_
    obtain ⟨hdb, rfl⟩ := (extractLsb'_eq_append_iff (m := 6) (n := 5)).1 hf
    obtain ⟨rfl, rfl⟩ := (extractLsb'_eq_append_iff (m := 3) (n := 3)).1 hdb
    rw [decodeHalf, if_neg h0, hop]
    rfl
  | cBeqz | cBnez =>
    cases h
    refine decodeEnc_encC (by decide) fun x h0 hop hf => ?_
    obtain ⟨rfl, rfl⟩ := (extractLsb'_eq_append_iff (m := 3) (n := 8)).1 hf
    rw [decodeHalf, if_neg h0, hop]
    rfl
  | cJ =>
    cases h
    refine decodeEnc_encC (by decide) fun x h0 hop hf => ?_
    subst hf
    rw [decodeHalf, if_neg h0, hop]
    rfl
  | _ => cases h

/-- Settles O1: a well-formed instruction passes those checks. -/
theorem decodeEncode : Obligations.DecodeEncode := by
  intro i e h hwf
  rw [decodeEnc_encode h]
  exact checked_eq_ok.2 ⟨firstErr_nil, hwf, rfl⟩

/-- Settles O3: a legal word is the encoding of its instruction, and the decoder refuses the others. -/
theorem decodeWords : Obligations.DecodeWords := by
  refine ⟨?_, ?_, ?_, ?_, ?_, ?_, ?_, ?_, ?_, ?_, ?_, ?_, ?_, ?_, ?_, rfl, rfl, rfl, rfl⟩
  all_goals exact decodeEncode _ _ rfl rfl

end Sys2Proof
end

section
/-! Settles O18. The compact forms (R80, R81). -/

namespace Sys2Proof.Machine

section
variable {i : Instr} {len : Nat} {srcs : List R6} {dst : Option R6} {f : State → List W → Except Nat Eff} {s s1 : State} {vs : List W}

/-- What a register instruction completes with, for the operands that its fields deliver. -/
theorem ends_of_regOp (hx : exec i s = .next (s.regOp len srcs dst f)) (ho : Operands s srcs dst false none vs s1) :
    Ends i s s1 dst (s1.effect len dst (f s1 vs)) := by
  rw [Ends, hx, State.regOp, State.withOps_reach ho]

/-- The same for one whose destination is no queue end. -/
theorem exec_of_regOp (hx : exec i s = .next (s.regOp len srcs dst f)) (hd : dst.any isQ = false) (ho : Operands s srcs dst false none vs s1) :
    exec i s = .next (s1.effect len dst (f s1 vs)) := by
  rw [ends_of_regOp hx ho, State.kept, if_neg (by simp [hd])]

theorem gives1_of_alu2 {d a : R6} {g : W → W} (hx : ∀ s, exec i s = .next (s.alu2 len d a g)) : Gives1 i len d a g :=
  fun s _ _ ho => (ends_of_regOp (hx s) ho :)

theorem ends_of_binary {d a b : R6} {g : W → W → W} {x y : W}
    (hx : exec i s = .next (s.regOp len [a, b] (some d) fun _ vs => .ok { val := g (arg vs 0) (arg vs 1) }))
    (ho : Operands s [a, b] (some d) false none [x, y] s1) : Ends i s s1 (some d) (s1.effect len (some d) (.ok { val := g x y })) :=
  (ends_of_regOp hx ho :)

theorem branches_of_branch {a b : R6} {n : Int} {c : W → W → Bool} {p : W → W → Prop} [∀ x y, Decidable (p x y)] (hc : ∀ x y, c x y = true ↔ p x y)
    (hx : ∀ s, exec i s = .next (s.branch len [a, b] n c)) : Branches i len a b n p := fun s s1 x y ho => by
  rw [exec_of_regOp (hx s) rfl ho]
  simp only [arg, List.getD_cons_zero, List.getD_cons_succ, hc]
  rfl

end

/-- The register that a 3-bit field names (R80). -/
theorem r3_eq (p : BitVec 3) : r3 p = BitVec.ofNat 6 (8 + p.toNat) := by decide +revert

/-- Settles O18: every compact form is one of the forms of the 32-bit instructions, with its own length. -/
theorem compactResults : Obligations.CompactResults := by
  intro d a n p i8 i11 x5 x8
  have hx8 : r3 p = x8 := r3_eq p
  refine ⟨gives1_of_alu2 fun _ => rfl, gives1_of_alu2 fun _ => rfl, gives1_of_alu2 fun _ => rfl, gives1_of_alu2 fun s => ?_, gives1_of_alu2 fun _ => rfl,
    gives1_of_alu2 fun _ => rfl, fun s s1 x y ho => ⟨ends_of_binary rfl ho, ends_of_binary rfl ho, ends_of_binary rfl ho⟩,
    branches_of_branch (fun _ _ => beq_iff_eq) fun s => ?_, branches_of_branch (fun _ _ => bne_iff_ne) fun s => ?_,
    fun s s1 x ho => exec_of_regOp (f := fun t vs => .ok { val := t.me.pc + 2#64, pc := some (arg vs 0) }) rfl rfl ho,
    fun s s1 ho => exec_of_regOp (f := fun _ _ => .ok { pc := some (s.target i11.toInt) }) rfl rfl ho⟩
  · have hid : (fun x : W => x + 0#64) = fun x => x := funext BitVec.add_zero
    exact congrArg (fun g => Host.Outcome.next (s.alu2 2 (x5 d) (x5 a) g)) hid
  · rw [← hx8]
    rfl
  · rw [← hx8]
    rfl

end Sys2Proof.Machine
end

section
/-! Settles O19. Branches and jumps (R104, R105). -/

namespace Sys2Proof.Machine

theorem slt_iff (x y : W) : x.slt y = true ↔ x.toInt < y.toInt := decide_eq_true_iff

theorem ult_iff (x y : W) : x.ult y = true ↔ x.toNat < y.toNat := decide_eq_true_iff

theorem not_slt_iff (x y : W) : (!x.slt y) = true ↔ y.toInt ≤ x.toInt := by
  rw [Bool.not_eq_true', ← Bool.not_eq_true, slt_iff, not_lt]

theorem not_ult_iff (x y : W) : (!x.ult y) = true ↔ y.toNat ≤ x.toNat := by
  rw [Bool.not_eq_true', ← Bool.not_eq_true, ult_iff, not_lt]

/-- Settles O19: each branch by its condition, and each jump by the address that it links. -/
theorem branchResults : Obligations.BranchResults := by
  intro d a b i j
  refine ⟨branches_of_branch (fun _ _ => beq_iff_eq) fun _ => rfl, branches_of_branch (fun _ _ => bne_iff_ne) fun _ => rfl,
    branches_of_branch slt_iff fun _ => rfl, branches_of_branch not_slt_iff fun _ => rfl,
    branches_of_branch ult_iff fun _ => rfl, branches_of_branch not_ult_iff fun _ => rfl,
    fun s s1 ho => (ends_of_regOp (f := fun t _ => .ok { val := t.me.pc + 4#64, pc := some (s.target j.toInt) }) ?_ ho :),
    fun s s1 ho => exec_of_regOp (f := fun _ _ => .ok { pc := some (s.target j.toInt) }) ?_ rfl ho,
    fun s s1 x ho => (ends_of_regOp (f := fun t vs => .ok { val := t.me.pc + 4#64, pc := some (arg vs 0 + imm13 i) }) ?_ ho :)⟩
  all_goals rfl

end Sys2Proof.Machine
end

section
/-! Settles O17. The integer instructions (R94, R96, R97). -/

namespace Sys2Proof.Machine

/-! The functions of the model as operations on words -/

theorem shAmt_eq (y : W) : shAmt y = y.toNat % 64 := fld_zero y 6

theorem bit_eq {b : Bool} {p : Prop} [Decidable p] (h : b = true ↔ p) : bit b = if p then 1#64 else 0#64 := by simp [bit, h]

theorem mulhU_eq (x y : W) : mulhU x y = (x.setWidth 128 * y.setWidth 128).extractLsb' 64 64 := by
  apply BitVec.eq_of_toNat_eq
  have h : x.toNat * y.toNat < 2 ^ 64 * 2 ^ 64 := Nat.mul_lt_mul'' x.isLt y.isLt
  have hx := x.isLt
  have hy := y.isLt
  simp only [mulhU, nat, BitVec.toNat_ofNat, BitVec.extractLsb'_toNat, BitVec.toNat_mul, BitVec.toNat_setWidth, Nat.shiftRight_eq_div_pow]
  rw [Nat.mod_eq_of_lt (a := x.toNat) (by omega), Nat.mod_eq_of_lt (a := y.toNat) (by omega), Nat.mod_eq_of_lt (b := 2 ^ 128) (by omega)]

theorem mulhS_eq (x y : W) : mulhS x y = (x.signExtend 128 * y.signExtend 128).extractLsb' 64 64 := by
  have hm : x.signExtend 128 * y.signExtend 128 = BitVec.ofInt 128 (x.toInt * y.toInt) := by
    simp only [BitVec.ofInt_mul, BitVec.signExtend]
  rw [hm, mulhS]
  generalize x.toInt * y.toInt = p
  apply BitVec.eq_of_toNat_eq
  simp only [BitVec.toNat_ofInt, BitVec.extractLsb'_toNat, Nat.shiftRight_eq_div_pow]
  omega

theorem divS_eq (x y : W) : divS x y = if y = 0#64 then BitVec.allOnes 64 else x.sdiv y := by
  have h : BitVec.ofInt 64 (x.toInt.tdiv y.toInt) = x.sdiv y := by
    apply BitVec.eq_of_toInt_eq
    rw [BitVec.toInt_ofInt, BitVec.toInt_sdiv]
  rw [divS, h]

theorem divU_eq (x y : W) : divU x y = if y = 0#64 then BitVec.allOnes 64 else x / y := by
  rw [divU, ← BitVec.toNat_udiv, nat_toNat]

theorem remS_eq (x y : W) : remS x y = if y = 0#64 then x else x.srem y := by
  rw [remS, ← BitVec.toInt_srem, BitVec.ofInt_toInt]

theorem remU_eq (x y : W) : remU x y = if y = 0#64 then x else x % y := by
  rw [remU, ← BitVec.toNat_umod, nat_toNat]

theorem minS_eq (x y : W) : minS x y = if x.toInt ≤ y.toInt then x else y := by
  simp only [minS, slt_iff, ← not_le, ite_not]

theorem maxS_eq (x y : W) : maxS x y = if x.toInt ≤ y.toInt then y else x := by
  rcases lt_trichotomy x.toInt y.toInt with h | h | h
  · rw [maxS, if_pos ((slt_iff x y).2 h), if_pos h.le]
  · simp only [BitVec.eq_of_toInt_eq h, maxS, ite_self]
  · rw [maxS, if_neg (by rw [slt_iff]; exact h.not_gt), if_neg h.not_ge]

theorem minU_eq (x y : W) : minU x y = if x.toNat ≤ y.toNat then x else y := by
  simp only [minU, ult_iff, ← not_le, ite_not]

theorem maxU_eq (x y : W) : maxU x y = if x.toNat ≤ y.toNat then y else x := by
  rcases lt_trichotomy x.toNat y.toNat with h | h | h
  · rw [maxU, if_pos ((ult_iff x y).2 h), if_pos h.le]
  · simp only [BitVec.eq_of_toNat_eq h, maxU, ite_self]
  · rw [maxU, if_neg (by rw [ult_iff]; exact h.not_gt), if_neg h.not_ge]

/-- The sign extension of the low bits, as a field (R93). -/
theorem signExtend_low (n : Nat) (x : W) : (x.setWidth n).signExtend 64 = (x.extractLsb' 0 n).signExtend 64 := by
  rw [show x.extractLsb' 0 n = x.setWidth n from BitVec.eq_of_toNat_eq (by simp)]

/-- The constant of LIH: a signed count of 2^13 (R97). -/
theorem signExtend_shiftLeft (j : BitVec 19) : (j.signExtend 64 : W) <<< 13 = BitVec.ofInt 64 (j.toInt * 2 ^ 13) := by
  rw [BitVec.ofInt_mul, BitVec.shiftLeft_eq_mul_twoPow]
  rfl

/-! The instructions -/

theorem gives2_of_alu3 {i : Instr} {d a b : R6} {f g : W → W → W} (hx : ∀ s, exec i s = .next (s.alu3 d a b f)) (h : ∀ x y, f x y = g x y) : Gives2 i d a b g :=
  fun s s1 x y ho => by
    rw [← h]
    exact ends_of_binary (hx s) ho

theorem gives1_of_alu2_eq {i : Instr} {d a : R6} {f g : W → W} (hx : ∀ s, exec i s = .next (s.alu2 4 d a f)) (h : ∀ x, f x = g x) : Gives1 i 4 d a g :=
  gives1_of_alu2 (funext h ▸ hx)

theorem ends_of_aluDiv {i : Instr} {d a b : R6} {f : W → W → W} {s s1 : State} {x y v : W} (hx : exec i s = .next (s.aluDiv d a b f))
    (ho : Operands s [a, b] (some d) false none [x, y] s1) (h : f x y = v) : Ends i s s1 (some d) (s1.effect 4 (some d) (.ok { val := v, hold := 3 })) := by
  subst h
  exact (ends_of_regOp hx ho :)

theorem aluResults : Rules.AluResults := by
  intro d a b
  have same (f : W → W → W) (x y : W) : f x y = f x y := rfl
  refine ⟨gives2_of_alu3 (fun _ => rfl) (same _), gives2_of_alu3 (fun _ => rfl) (same _), gives2_of_alu3 (fun _ => rfl) (same _),
    gives2_of_alu3 (fun _ => rfl) mulhS_eq, gives2_of_alu3 (fun _ => rfl) mulhU_eq,
    gives2_of_alu3 (fun _ => rfl) (same _), gives2_of_alu3 (fun _ => rfl) (same _), gives2_of_alu3 (fun _ => rfl) (same _), gives2_of_alu3 (fun _ => rfl) (same _),
    gives2_of_alu3 (fun _ => rfl) fun x y => congrArg (x <<< ·) (shAmt_eq y), gives2_of_alu3 (fun _ => rfl) fun x y => congrArg (x >>> ·) (shAmt_eq y),
    gives2_of_alu3 (fun _ => rfl) fun x y => congrArg x.sshiftRight (shAmt_eq y), gives2_of_alu3 (fun _ => rfl) fun x y => congrArg x.rotateRight (shAmt_eq y),
    gives2_of_alu3 (fun _ => rfl) minS_eq, gives2_of_alu3 (fun _ => rfl) maxS_eq, gives2_of_alu3 (fun _ => rfl) minU_eq, gives2_of_alu3 (fun _ => rfl) maxU_eq,
    gives2_of_alu3 (fun _ => rfl) fun x y => bit_eq (slt_iff x y), gives2_of_alu3 (fun _ => rfl) fun x y => bit_eq (ult_iff x y),
    gives2_of_alu3 (fun _ => rfl) fun x y => bit_eq beq_iff_eq,
    gives1_of_alu2_eq (fun _ => rfl) (signExtend_low 8), gives1_of_alu2_eq (fun _ => rfl) (signExtend_low 16), gives1_of_alu2_eq (fun _ => rfl) (signExtend_low 32)⟩

theorem divisionResults : Rules.DivisionResults := fun _ _ _ _ _ x y ho =>
  ⟨ends_of_aluDiv rfl ho (divS_eq x y), ends_of_aluDiv rfl ho (divU_eq x y), ends_of_aluDiv rfl ho (remS_eq x y), ends_of_aluDiv rfl ho (remU_eq x y)⟩

theorem immediateResults : Rules.ImmediateResults := by
  intro d a i n j
  refine ⟨gives1_of_alu2 fun _ => rfl, gives1_of_alu2 fun _ => rfl, gives1_of_alu2 fun _ => rfl, gives1_of_alu2 fun _ => rfl,
    gives1_of_alu2_eq (fun _ => rfl) fun x => (bit_eq (slt_iff x _)).trans ?_,
    gives1_of_alu2_eq (fun _ => rfl) fun x => bit_eq (ult_iff x _),
    gives1_of_alu2 fun _ => rfl, gives1_of_alu2 fun _ => rfl, gives1_of_alu2 fun _ => rfl, gives1_of_alu2 fun _ => rfl, gives1_of_alu2 fun _ => rfl, fun s s1 ho => ?_⟩
  · rw [imm13, BitVec.toInt_signExtend_of_le (by decide)]
  · rw [← signExtend_shiftLeft]
    exact ends_of_regOp (f := fun _ _ => .ok { val := (j.signExtend 64) <<< 13 }) rfl ho

/-- Settles O17: each instruction is one function of its operands, which the model writes in numbers. -/
theorem integerResults : Obligations.IntegerResults := ⟨aluResults, divisionResults, immediateResults⟩

end Sys2Proof.Machine
end

section
/-! Settles O16. Counts of bits and bit fields (R95, Table 04-1), bit by bit. -/

namespace Sys2Proof.Machine

/-! Bits of fields -/

theorem getLsbD_nat {i : Nat} (h : i < 64) (n : Nat) : (nat n).getLsbD i = n.testBit i := by rw [nat, BitVec.getLsbD_ofNat, decide_eq_true h, Bool.true_and]

theorem testBit_bitsOf (v lo n i : Nat) : (bitsOf v lo n).testBit i = (decide (i < n) && v.testBit (lo + i)) := by
  rw [bitsOf, Nat.testBit_mod_two_pow, Nat.testBit_shiftRight]

/-- A field of one bit, as a number. -/
theorem bitsOf_one (v i : Nat) : bitsOf v i 1 = (v.testBit i).toNat := by
  rw [Nat.toNat_testBit, bitsOf, Nat.shiftRight_eq_div_pow, Nat.pow_one]

/-- A field that is replaced takes the new bits, and the others stand. -/
theorem getLsbD_setFld {i : Nat} (h : i < 64) (w : W) (lo n v : Nat) :
    (setFld w lo n v).getLsbD i = if lo ≤ i ∧ i < lo + n then v.testBit (i - lo) else w.getLsbD i := by
  have parts : w.toNat % 2 ^ lo + v % 2 ^ n * 2 ^ lo + w.toNat >>> (lo + n) * 2 ^ (lo + n)
      = 2 ^ lo * (2 ^ n * w.toNat >>> (lo + n) + v % 2 ^ n) + w.toNat % 2 ^ lo := by rw [Nat.pow_add]; ring
  rw [setFld, getLsbD_nat h, parts, Nat.testBit_two_pow_mul_add _ (Nat.mod_lt _ (Nat.two_pow_pos lo)), Nat.testBit_two_pow_mul_add _ (Nat.mod_lt _ (Nat.two_pow_pos n)),
    Nat.testBit_mod_two_pow, Nat.testBit_mod_two_pow, Nat.testBit_shiftRight, BitVec.getLsbD]
  rcases Nat.lt_or_ge i lo with hl | hl
  · simp [hl, Nat.not_le.2 hl]
  · rcases Nat.lt_or_ge i (lo + n) with hn | hn
    · simp [hl, hn, Nat.not_lt.2 hl, show i - lo < n by omega]
    · simp [hl, Nat.not_lt.2 hn, Nat.not_lt.2 hl, show ¬ i - lo < n by omega, show lo + n + (i - lo - n) = i by omega]

/-! Counts -/

theorem leads_zero : Leads 0#64 64 := ⟨le_rfl, fun _ _ => by simp, fun h => absurd h (by decide)⟩

theorem leads_log2 {x : W} (h : x ≠ 0#64) : Leads x (63 - x.toNat.log2) := by
  have h0 : x.toNat ≠ 0 := fun e => h (BitVec.eq_of_toNat_eq e)
  have hl : x.toNat.log2 < 64 := (Nat.log2_lt h0).2 x.isLt
  refine ⟨by omega, fun i hi => ?_, fun _ => ?_⟩
  · have : x.toNat < 2 ^ (63 - i) := (Nat.log2_lt h0).1 (by omega)
    rw [BitVec.getMsbD, BitVec.getLsbD, Nat.testBit_lt_two_pow this, Bool.and_false]
  · rw [BitVec.getMsbD, BitVec.getLsbD, show 64 - 1 - (63 - x.toNat.log2) = x.toNat.log2 by omega, Nat.testBit_log2 h0]
    simp
    omega

/-- The number of leading zeros. -/
theorem leads_clz64 (x : W) : ∃ n, Leads x n ∧ clz64 x = nat n := by
  by_cases h : x = 0#64
  · exact ⟨64, h ▸ leads_zero, if_pos h⟩
  · exact ⟨_, leads_log2 h, if_neg h⟩

/-- Bits gathered from bit 0 on, each one ahead of those before it. -/
theorem testBit_gather (v k : Nat) : (∀ j, ((List.range k).foldl (fun n i => 2 * n + bitsOf v i 1) 0).testBit j = (decide (j < k) && v.testBit (k - 1 - j))) := by
  induction k with
  | zero => simp
  | succ k ih =>
    intro j
    rw [List.range_succ, List.foldl_append, List.foldl_cons, List.foldl_nil, bitsOf_one, ← Nat.bit_val]
    cases j with
    | zero => simp
    | succ j => rw [Nat.testBit_bit_succ, ih, show k + 1 - 1 - (j + 1) = k - 1 - j by omega]; simp

/-- Each bit in its mirrored place. -/
theorem getLsbD_brev64 (x : W) {i : Nat} (h : i < 64) : (brev64 x).getLsbD i = x.getLsbD (63 - i) := by
  rw [brev64, getLsbD_nat h, testBit_gather, BitVec.getLsbD]
  simp [h]

theorem trails_of_leads_brev64 {x : W} {n : Nat} (h : Leads (brev64 x) n) : Trails x n := by
  have mirror (i : Nat) (hi : i < 64) : (brev64 x).getMsbD i = x.getLsbD i := by
    rw [BitVec.getMsbD, getLsbD_brev64 x (by omega), show 63 - (64 - 1 - i) = i by omega]
    simp [hi]
  obtain ⟨hn, hz, ho⟩ := h
  exact ⟨hn, fun i hi => (mirror i (by omega)) ▸ hz i hi, fun hl => (mirror n hl) ▸ ho hl⟩

/-- The number of trailing zeros. -/
theorem trails_ctz64 (x : W) : ∃ n, Trails x n ∧ ctz64 x = nat n := by
  by_cases h : x = 0#64
  · exact ⟨64, h ▸ ⟨le_rfl, fun _ _ => by simp, fun h => absurd h (by decide)⟩, if_pos h⟩
  · obtain ⟨n, hn, hx⟩ := leads_clz64 (brev64 x)
    exact ⟨n, trails_of_leads_brev64 hn, (if_neg h).trans hx⟩

theorem foldl_bits (v : Nat) (l : List Nat) (n : Nat) : l.foldl (fun n i => n + bitsOf v i 1) n = n + l.countP fun i => v.testBit i := by
  induction l generalizing n with
  | nil => rfl
  | cons i l ih => rw [List.foldl_cons, ih, bitsOf_one, List.countP_cons]; cases v.testBit i <;> simp; omega

theorem popc64_eq (x : W) : popc64 x = nat ((List.range 64).countP fun i => x.getLsbD i) := by
  rw [popc64, foldl_bits, Nat.zero_add]
  rfl

/-! Fields -/

theorem getLsbD_bext (x y : W) {i : Nat} (h : i < 64) :
    (bext x y).getLsbD i = (decide (i ≤ y.toNat / 256 % 64) && x.getLsbD (y.toNat % 64 + i)) := by
  rw [bext, getLsbD_nat h, testBit_bitsOf, fld_zero, BitVec.getLsbD, fld, bitsOf, Nat.shiftRight_eq_div_pow]
  simp

theorem getLsbD_bins (x y z : W) {i : Nat} (h : i < 64) : (bins x y z).getLsbD i =
    if y.toNat % 64 ≤ i ∧ i ≤ y.toNat % 64 + y.toNat / 256 % 64 then x.getLsbD (i - y.toNat % 64) else z.getLsbD i := by
  rw [bins, getLsbD_setFld h, fld_zero, fld, bitsOf, Nat.shiftRight_eq_div_pow]
  simp [← Nat.add_assoc, BitVec.getLsbD]

theorem countResults : Rules.CountResults := by
  intro d a s s1 x ho
  have gives {i : Instr} {f : W → W} (hx : ∀ s, exec i s = .next (s.alu2 4 d a f)) : Ends i s s1 (some d) (s1.effect 4 (some d) (.ok { val := f x })) :=
    gives1_of_alu2 hx s s1 x ho
  obtain ⟨n, hn, hc⟩ := leads_clz64 x
  obtain ⟨m, hm, ht⟩ := trails_ctz64 x
  exact ⟨⟨n, hn, hc ▸ gives fun _ => rfl⟩, ⟨m, hm, ht ▸ gives fun _ => rfl⟩, popc64_eq x ▸ gives fun _ => rfl,
    brev64 x, fun i => getLsbD_brev64 x, gives fun _ => rfl⟩

theorem fieldResults : Rules.FieldResults := fun d a b _ _ x y =>
  ⟨fun ho => ⟨bext x y, fun _ => getLsbD_bext x y, ends_of_binary rfl ho⟩,
   fun z ho => ⟨bins x y z, fun _ => getLsbD_bins x y z, (ends_of_regOp (i := .bins d a b) (f := fun _ vs => .ok { val := bins (arg vs 0) (arg vs 1) (arg vs 2) }) rfl ho :)⟩⟩

/-- Settles O16: the counts, the mirrored word and the fields by their bits. -/
theorem bitFieldResults : Obligations.BitFieldResults := ⟨countResults, fieldResults⟩

end Sys2Proof.Machine
end

section
/-! SUPPORT. Fields of a pointer (R38, R98 to R103): a word by its fields, and the field that is replaced. -/

namespace Sys2Proof.Machine

theorem toNat_append_add {m n : Nat} (x : BitVec m) (y : BitVec n) : (x ++ y).toNat = x.toNat * 2 ^ n + y.toNat := by
  rw [BitVec.toNat_append, ← Nat.shiftLeft_add_eq_or_of_lt y.isLt, Nat.shiftLeft_eq]

theorem fld_eq_toNat (w : W) (lo n : Nat) : fld w lo n = (w.extractLsb' lo n).toNat := by
  rw [BitVec.extractLsb'_toNat, fld, bitsOf]

theorem fld_eq (w : W) (lo n : Nat) : fld w lo n = w.toNat / 2 ^ lo % 2 ^ n := by
  rw [fld, bitsOf, Nat.shiftRight_eq_div_pow]

theorem offWidth_le (k : Nat) : offWidth k ≤ 52 := by
  unfold offWidth
  split <;> decide

/-- The field that is replaced reads as the new value. -/
theorem fld_setFld {lo n : Nat} (h : lo + n ≤ 64) (w : W) (v : Nat) : fld (setFld w lo n v) lo n = v % 2 ^ n := by
  apply Nat.eq_of_testBit_eq
  intro i
  rw [fld, testBit_bitsOf, Nat.testBit_mod_two_pow]
  rcases Nat.lt_or_ge i n with hi | hi
  · have := getLsbD_setFld (show lo + i < 64 by omega) w lo n v
    rw [BitVec.getLsbD, if_pos ⟨by omega, by omega⟩, Nat.add_sub_cancel_left] at this
    rw [this]
  · simp [Nat.not_lt.2 hi]

/-- The low field of PtrAdd: the sum, where it stays in the field (R99). -/
theorem ptrAdd_eq_some {p q : W} {n : Int} (h : ptrAdd p n = some q) :
    0 ≤ (fld p 0 (offWidth (spc p)) : Int) + n ∧ (fld p 0 (offWidth (spc p)) : Int) + n < (2 ^ offWidth (spc p) : Nat) ∧
      q = setFld p 0 (offWidth (spc p)) ((fld p 0 (offWidth (spc p)) : Int) + n).toNat := by
  simp only [ptrAdd] at h
  split at h
  · cases h
  · rename_i hin
    cases h
    exact ⟨by omega, by omega, rfl⟩

section
variable {p : W} {sp v c : Nat}

/-- A pointer into a scratchpad, with its new space and cluster. -/
theorem toNat_respace_spd (h : spc p = 1 ∨ spc p = 2) (hs : sp < 4) (hv : v < 2 ^ 31) :
    (respace p sp v c).toNat = fld p 55 9 * 2 ^ 55 + sp * 2 ^ 52 + v * 2 ^ 21 + fld p 0 21 := by
  have hw : offWidth (spc p) = 21 := by rcases h with e | e <;> rw [e] <;> rfl
  have ht := fld_lt p 55 9
  have ho := fld_lt p 0 21
  rw [respace, hw, if_neg (by omega), nat, BitVec.toNat_ofNat]
  omega

/-- A pointer into a core's TCM, with its new space, cluster and core. -/
theorem toNat_respace_tcm (h : spc p = 3 ∨ spc p = 4 ∨ spc p = 5) (hs : sp = 4 ∨ sp = 5) (hv : v < 2 ^ 31) (hc : c < 8) :
    (respace p sp v c).toNat = fld p 55 9 * 2 ^ 55 + sp * 2 ^ 52 + v * 2 ^ 21 + c * 2 ^ 18 + fld p 0 18 := by
  have hw : offWidth (spc p) = 18 := by rcases h with e | e | e <;> rw [e] <;> rfl
  have ht := fld_lt p 55 9
  have ho := fld_lt p 0 18
  rw [respace, hw, if_pos hs, nat, BitVec.toNat_ofNat]
  omega

theorem respace_spd (h : spc p = 1 ∨ spc p = 2) (hs : sp < 4) (hv : v < 2 ^ 31) :
    respace p sp v c = p.extractLsb' 55 9 ++ BitVec.ofNat 3 sp ++ BitVec.ofNat 31 v ++ p.extractLsb' 0 21 := by
  apply BitVec.eq_of_toNat_eq
  rw [toNat_respace_spd h hs hv, toNat_append_add, toNat_append_add, toNat_append_add, ← fld_eq_toNat, ← fld_eq_toNat, BitVec.toNat_ofNat, BitVec.toNat_ofNat]
  omega

theorem respace_tcm (h : spc p = 3 ∨ spc p = 4 ∨ spc p = 5) (hs : sp = 4 ∨ sp = 5) (hv : v < 2 ^ 31) (hc : c < 8) :
    respace p sp v c = p.extractLsb' 55 9 ++ BitVec.ofNat 3 sp ++ BitVec.ofNat 31 v ++ BitVec.ofNat 3 c ++ p.extractLsb' 0 18 := by
  apply BitVec.eq_of_toNat_eq
  rw [toNat_respace_tcm h hs hv hc, toNat_append_add, toNat_append_add, toNat_append_add, toNat_append_add, ← fld_eq_toNat, ← fld_eq_toNat,
    BitVec.toNat_ofNat, BitVec.toNat_ofNat, BitVec.toNat_ofNat]
  omega

end
end Sys2Proof.Machine
end

section
/-! Settles O21. PtrAdd, and PREL after PABS (R99, R103). -/

namespace Sys2Proof.Machine

theorem pointerAdd : Rules.PointerAdd := by
  intro p q n h
  obtain ⟨h0, hw, rfl⟩ := ptrAdd_eq_some h
  have hl := offWidth_le (spc p)
  refine ⟨?_, fun j hj => ?_⟩
  · rw [fld_setFld (by omega), Nat.mod_eq_of_lt (by omega)]
    omega
  · rcases Nat.lt_or_ge j 64 with h64 | h64
    · rw [getLsbD_setFld h64, if_neg (by omega)]
    · rw [BitVec.getLsbD_of_ge _ _ h64, BitVec.getLsbD_of_ge _ _ h64]

/-! What PABS and PREL answer, by space (Table 04-4) -/

section
variable {p : W} {v c : Nat}

theorem pabs_spd (h : spc p = 1) : pabs v c p = .ok { val := respace p 2 v 0 } := by simp [pabs, h]
theorem pabs_tcm (h : spc p = 3) : pabs v c p = .ok { val := respace p 4 v c } := by simp [pabs, h]
theorem pabs_reserved (h : spc p = 7) : pabs v c p = .error 64 := by simp [pabs, h]
theorem pabs_absolute (h : spc p = 0 ∨ spc p = 2 ∨ spc p = 4 ∨ spc p = 6) : pabs v c p = .ok { val := p } := by
  rcases h with h | h | h | h <;> simp [pabs, h]
theorem pabs_relative (h : spc p = 5) (ht : 0 ≤ (v : Int) + sInt (fld p 21 7) 7 ∧ (v : Int) + sInt (fld p 21 7) 7 ≤ 127) :
    pabs v c p = .ok { val := respace p 4 ((v : Int) + sInt (fld p 21 7) 7).toNat (fld p 18 3) } := by
  simp only [pabs, h]
  rw [if_neg (by omega)]
theorem pabs_outOfRange (h : spc p = 5) (ht : (v : Int) + sInt (fld p 21 7) 7 < 0 ∨ 127 < (v : Int) + sInt (fld p 21 7) 7) : pabs v c p = .error 67 := by
  simp only [pabs, h]
  rw [if_pos (by omega)]

theorem prel_spx (h : spc p = 2) : prel v c p = .ok { val := if fld p 21 7 = v then respace p 1 0 0 else p } := by simp [prel, h]
theorem prel_tcm (h : spc p = 3) : prel v c p = .ok { val := respace p 5 0 c } := by simp [prel, h]
theorem prel_reserved (h : spc p = 7) : prel v c p = .error 64 := by simp [prel, h]
theorem prel_relative (h : spc p = 0 ∨ spc p = 1 ∨ spc p = 5 ∨ spc p = 6) : prel v c p = .ok { val := p } := by
  rcases h with h | h | h | h <;> simp [prel, h]
theorem prel_tcx (h : spc p = 4) (ht : -64 ≤ (fld p 21 7 : Int) - v ∧ (fld p 21 7 : Int) - v ≤ 63) :
    prel v c p = .ok { val := respace p 5 (((fld p 21 7 : Int) - v) % 128).toNat (fld p 18 3) } := by
  simp only [prel, h]
  rw [if_neg (by omega)]
theorem prel_outOfRange (h : spc p = 4) (ht : (fld p 21 7 : Int) - v < -64 ∨ 63 < (fld p 21 7 : Int) - v) : prel v c p = .error 67 := by
  simp only [prel, h]
  rw [if_pos (by omega)]

end

/-- A 7-bit displacement of clusters, read with its sign (R39). -/
theorem sInt_seven {d : Nat} (h : d < 128) : sInt d 7 = if d < 64 then (d : Int) else d - 128 := by
  rw [sInt, Nat.mod_eq_of_lt (show d < 2 ^ 7 from h)]
  rfl

/-- A scratchpad pointer, made absolute and relative again. -/
theorem roundTrip_spd {p : W} {v : Nat} (hv : v < 128) (h : spc p = 1) (hz : fld p 21 31 = 0) :
    spc (respace p 2 v 0) = 2 ∧ fld (respace p 2 v 0) 21 7 = v ∧ respace (respace p 2 v 0) 1 0 0 = p := by
  have he := toNat_respace_spd (p := p) (sp := 2) (v := v) (c := 0) (.inl h) (by decide) (by omega)
  generalize respace p 2 v 0 = e at he
  have hs : spc e = 2 := by rw [spc_eq, he, fld_eq, fld_eq]; omega
  refine ⟨hs, by rw [fld_eq, he, fld_eq, fld_eq]; omega, BitVec.eq_of_toNat_eq ?_⟩
  rw [toNat_respace_spd (.inr hs) (by decide) (by decide), fld_eq, fld_eq, he]
  rw [spc_eq] at h
  rw [fld_eq] at hz
  simp only [fld_eq]
  omega

/-- A TCR pointer, made absolute; the way back gives the displacement again. -/
theorem roundTrip_tcr {p : W} {t v : Nat} (ht : t < 128) (h : spc p = 5) (hd : fld p 21 31 = fld p 21 7) (hv : (v : Int) + sInt (fld p 21 7) 7 = t) :
    spc (respace p 4 t (fld p 18 3)) = 4 ∧ fld (respace p 4 t (fld p 18 3)) 21 7 = t ∧
      respace (respace p 4 t (fld p 18 3)) 5 (((t : Int) - v) % 128).toNat (fld (respace p 4 t (fld p 18 3)) 18 3) = p := by
  have hc := fld_lt p 18 3
  have h7 := fld_lt p 21 7
  have he := toNat_respace_tcm (p := p) (sp := 4) (v := t) (c := fld p 18 3) (.inr (.inr h)) (.inl rfl) (by omega) hc
  generalize respace p 4 t (fld p 18 3) = e at he
  have hs : spc e = 4 := by rw [spc_eq, he]; simp only [fld_eq]; omega
  have hback : (((t : Int) - v) % 128).toNat = fld p 21 7 := by
    rw [sInt_seven h7] at hv
    split at hv <;> omega
  refine ⟨hs, by rw [fld_eq, he]; simp only [fld_eq]; omega, BitVec.eq_of_toNat_eq ?_⟩
  rw [hback, toNat_respace_tcm (.inr (.inl hs)) (.inr rfl) (by omega) (fld_lt _ _ _)]
  rw [spc_eq] at h
  simp only [fld_eq] at he hd ⊢
  rw [he]
  omega

theorem pointerRoundTrip : Rules.PointerRoundTrip := by
  rintro v c p q e f hv - ha hr (h | h) hd hz rfl
  · obtain ⟨hs, hf, hp⟩ := roundTrip_spd hv h (hz h)
    rw [pabs_spd h] at ha
    cases ha
    rw [prel_spx hs, if_pos hf] at hr
    cases hr
    exact ⟨.inl hs, hp⟩
  · by_cases ht : 0 ≤ (v : Int) + sInt (fld p 21 7) 7 ∧ (v : Int) + sInt (fld p 21 7) 7 ≤ 127
    · obtain ⟨t, htv⟩ := Int.eq_ofNat_of_zero_le ht.1
      obtain ⟨hs, hf, hp⟩ := roundTrip_tcr (t := t) (by omega) h hd htv
      rw [pabs_relative h ht, htv, Int.toNat_natCast] at ha
      cases ha
      have h7 := fld_lt p 21 7
      rw [prel_tcx hs (by rw [hf, ← htv, sInt_seven h7]; split <;> omega), hf] at hr
      cases hr
      exact ⟨.inr hs, hp⟩
    · rw [pabs_outOfRange h (by omega)] at ha
      cases ha

/-- Settles O21: the way back by the numbers of the fields, and PtrAdd by its low field. -/
theorem pointerForms : Obligations.PointerForms := ⟨pointerRoundTrip, pointerAdd⟩

end Sys2Proof.Machine
end

section
/-! Settles O20. Pointer arithmetic (R98 to R103). -/

namespace Sys2Proof.Machine

/-! The functions of Table 04-3, case by case -/

section
variable {p q : W} {n : Int}

theorem ptrMove_reserved (h : spc p = 7) : ptrMove p n = .error 64 := if_pos h
theorem ptrMove_some (h : spc p ≠ 7) (ha : ptrAdd p n = some q) : ptrMove p n = .ok { val := q } := by rw [ptrMove, if_neg h, ha]
theorem ptrMove_none (h : spc p ≠ 7) (ha : ptrAdd p n = none) : ptrMove p n = .error 71 := by rw [ptrMove, if_neg h, ha]

theorem padde_reserved (h : spc p = 7) : padde p q = .error 64 := if_pos h

theorem padde_noFormat (h : spc p ≠ 7) (hf : fmtOf p > 22) : padde p q = .error 69 := by
  simp only [padde, if_neg h, if_pos hf]

theorem padde_noStep (h : spc p ≠ 7) (hf : (12 ≤ fmtOf p ∧ fmtOf p ≤ 20) ∨ (fmtOf p = 22 ∧ q.toInt % 2 ≠ 0)) : padde p q = .error 72 := by
  rcases hf with hf | ⟨hf, hn⟩
  · simp only [padde, if_neg h, if_neg (show ¬ fmtOf p > 22 by omega), if_pos hf]
  · simp only [padde, if_neg h, hf, if_pos hn]
    rfl

/-- PADDE moves by the bytes of its elements; two of FMT 22 fill one byte. -/
theorem padde_steps (h : spc p ≠ 7) (hf : fmtOf p ≤ 22) (hs : ¬ (12 ≤ fmtOf p ∧ fmtOf p ≤ 20)) (hn : fmtOf p = 22 → q.toInt % 2 = 0) :
    padde p q = ptrMove p (if fmtOf p = 22 then q.toInt / 2 else q.toInt * elemStep (fmtOf p)) := by
  simp only [padde, if_neg h, if_neg (Nat.not_lt.2 hf), if_neg hs]
  split
  · rename_i h22
    exact if_neg (not_not.2 (hn h22))
  · rfl

theorem pdiff_reserved (h : spc p = 7 ∨ spc q = 7) : pdiff p q = .error 64 := if_pos h

theorem pdiff_apart (h : spc p ≠ 7) (hq : spc q ≠ 7) (hd : spc q ≠ spc p ∨ upper p ≠ upper q) : pdiff p q = .error 77 := by
  rw [pdiff, if_neg (not_or.2 ⟨h, hq⟩), if_pos (hd.imp_left Ne.symm)]

theorem pdiff_near (h : spc p ≠ 7) (hs : spc q = spc p) (hu : upper p = upper q) :
    pdiff p q = .ok { val := BitVec.ofInt 64 ((fld p 0 (offWidth (spc p)) : Int) - fld q 0 (offWidth (spc p))) } := by
  rw [pdiff, if_neg (by simp [hs, h]), if_neg (by simp [hs, hu]), hs]

theorem pget_eq (p : W) : nat (fld p 52 12) = (p.extractLsb' 52 12).setWidth 64 := by
  apply BitVec.eq_of_toNat_eq
  rw [fld_eq_toNat, nat, BitVec.toNat_ofNat, BitVec.toNat_setWidth]

theorem pmake_eq (p q : W) : setFld p 52 12 (fld q 0 12) = q.extractLsb' 0 12 ++ p.extractLsb' 0 52 := by
  apply BitVec.eq_of_toNat_eq
  have hp := p.isLt
  rw [toNat_append_add, ← fld_eq_toNat, ← fld_eq_toNat, setFld, nat, BitVec.toNat_ofNat, Nat.shiftRight_eq_div_pow]
  simp only [fld_eq]
  omega

theorem pset_eq (p q : W) : setFld p 55 9 (fld q 3 9) = q.extractLsb' 3 9 ++ p.extractLsb' 0 55 := by
  apply BitVec.eq_of_toNat_eq
  have hp := p.isLt
  rw [toNat_append_add, ← fld_eq_toNat, ← fld_eq_toNat, setFld, nat, BitVec.toNat_ofNat, Nat.shiftRight_eq_div_pow]
  simp only [fld_eq]
  omega

/-- The check of FMT and BLG (R57). -/
theorem fmtCheck_eq (p : W) : fmtCheck p =
    if 22 < fmtOf p then .error 69 else if blgOf p ≠ 0 ∧ ¬ (12 ≤ fmtOf p ∧ fmtOf p ≤ 17 ∧ blgOf p = 3) then .error 70 else .ok () := by
  simp only [fmtCheck, gt_iff_lt]
  by_cases h0 : 22 < fmtOf p
  · simp only [if_pos h0]
  · by_cases h1 : 12 ≤ fmtOf p ∧ fmtOf p ≤ 17 <;> by_cases h2 : blgOf p = 0 <;> by_cases h3 : blgOf p = 3 <;> simp [h0, h1, h2, h3]

end

/-- PCHK: the first check that fails (R102). -/
theorem State.pchk_eq {s : State} {x y : W} (hc : s.myCore < 1024) : s.pchk x y = (match s.resolve s.myCore x with
    | .error c => nat c
    | .ok t =>
      if 22 < fmtOf x then 69#64 else if blgOf x ≠ 0 ∧ ¬(12 ≤ fmtOf x ∧ fmtOf x ≤ 17 ∧ blgOf x = 3) then 70#64
      else if t.off % (if (12 ≤ fmtOf x ∧ fmtOf x ≤ 16) ∨ fmtOf x = 20 then 8 else if fmtOf x = 17 then 4 else if fmtOf x = 19 then 2 else 1) ≠ 0 then 76#64
      else if y = 0#64 then 0#64 else if 2 ^ offWidth (spc x) < t.off + y.toNat then 71#64
      else if spc x = 6 ∧ s.winSize (s.ctxOf s.myCore) (s.vcl s.myCore / 32) < t.off + y.toNat then 68#64 else 0#64) := by
  rw [State.pchk]
  cases hr : s.resolve s.myCore x with
  | error c => rfl
  | ok t =>
    have ht := State.resolved hc hr
    have hlim (h : ¬ 2 ^ offWidth (spc x) < t.off + y.toNat) : (t.limit < t.off + y.toNat ↔ spc x = 6 ∧ s.winSize (s.ctxOf s.myCore) (s.vcl s.myCore / 32) < t.off + y.toNat) := by
      rw [ht.limit]
      split <;> simp_all
    simp only [fmtCheck_eq, ht.width, fmtAlign, gt_iff_lt]
    by_cases h69 : 22 < fmtOf x
    · simp only [if_pos h69]
      rfl
    by_cases h70 : blgOf x ≠ 0 ∧ ¬(12 ≤ fmtOf x ∧ fmtOf x ≤ 17 ∧ blgOf x = 3)
    · simp only [if_neg h69, if_pos h70]
      rfl
    simp only [if_neg h69, if_neg h70]
    refine if_congr Iff.rfl rfl (if_congr Iff.rfl rfl ?_)
    by_cases h71 : 2 ^ offWidth (spc x) < t.off + y.toNat
    · simp only [if_pos h71]
    · simp only [if_neg h71, hlim h71]

section
variable {i : Instr} {srcs : List R6} {dst : Option R6} {f : State → List W → Except Nat Eff} {s s1 : State} {vs : List W} {r : Except Nat Eff}

/-- A register instruction that answers r on its operands completes with r. -/
theorem ends_of_answer (hx : exec i s = .next (s.regOp 4 srcs dst f)) (ho : Operands s srcs dst false none vs s1) (h : f s1 vs = r) :
    Ends i s s1 dst (s1.effect 4 dst r) := h ▸ ends_of_regOp hx ho

end

/-- Settles O20: each instruction by the cases of its function. -/
theorem pointerResults : Obligations.PointerResults := by
  intro d a b i s s1 x y
  refine ⟨fun ho => ⟨fun v h hv => ends_of_answer rfl ho (ptrMove_some h hv), fun h hv => ends_of_answer rfl ho (ptrMove_none h hv),
    fun h => ends_of_answer rfl ho (pdiff_reserved h), fun h => ⟨ends_of_answer rfl ho (ptrMove_reserved h), ends_of_answer rfl ho (padde_reserved h)⟩,
    fun v h hf hs hn hv => ends_of_answer rfl ho ((padde_steps h hf hs hn).trans (ptrMove_some h hv)),
    fun h hf hs hn hv => ends_of_answer rfl ho ((padde_steps h hf hs hn).trans (ptrMove_none h hv)),
    fun h hf => ends_of_answer rfl ho (padde_noFormat h hf), fun h hf => ends_of_answer rfl ho (padde_noStep h hf),
    fun h hs hu => ends_of_answer rfl ho (pdiff_near h hs hu), fun h hq hd => ends_of_answer rfl ho (pdiff_apart h hq hd),
    ?_, ?_, ?_⟩, fun ho => ⟨?_, ?_, ?_, ?_, ?_⟩⟩
  · rw [← pmake_eq]
    exact ends_of_answer rfl ho rfl
  · rw [← pset_eq]
    exact ends_of_answer rfl ho rfl
  · rintro _ v rfl hv hc
    exact ends_of_answer rfl ho (congrArg (fun w : W => Except.ok ({ val := w } : Eff)) ((State.pchk_eq hc).trans hv.symm))
  · rw [← pget_eq]
    exact ends_of_answer rfl ho rfl
  · exact fun h => ⟨ends_of_answer rfl ho (ptrMove_reserved h), ends_of_answer rfl ho (pabs_reserved h), ends_of_answer rfl ho (prel_reserved h)⟩
  · exact fun v h hv => ends_of_answer rfl ho (ptrMove_some h hv)
  · exact fun h hv => ends_of_answer rfl ho (ptrMove_none h hv)
  · rintro v c vf rfl rfl hv rfl put core absTo relTo t back
    have h8 : s1.myCore % 8 < 8 := Nat.mod_lt _ (by decide)
    have absolute {r r' : W} (h : pabs (s1.vcl s1.myCore) (s1.myCore % 8) x = .ok { val := r }) (hr : r = r') : absTo r' := hr ▸ ends_of_answer rfl ho h
    have relative {r r' : W} (h : prel (s1.vcl s1.myCore) (s1.myCore % 8) x = .ok { val := r }) (hr : r = r') : relTo r' := hr ▸ ends_of_answer rfl ho h
    refine ⟨fun h => ⟨absolute (pabs_spd h) (respace_spd (.inl h) (by decide) (by omega)), relative (prel_relative (by omega)) rfl⟩,
      fun h => ⟨absolute (pabs_absolute (by omega)) rfl, relative (prel_spx h) ?_⟩,
      fun h => ⟨absolute (pabs_tcm h) (respace_tcm (.inl h) (.inl rfl) (by omega) h8), relative (prel_tcm h) (respace_tcm (.inl h) (.inr rfl) (by decide) h8)⟩,
      fun h => ⟨absolute (pabs_absolute (by omega)) rfl, fun hb => relative (prel_tcx h hb) (respace_tcm (.inr (.inl h)) (.inr rfl) (by omega) (fld_lt x 18 3)),
        fun hb => ends_of_answer rfl ho (prel_outOfRange h hb)⟩,
      fun h => ⟨relative (prel_relative (by omega)) rfl, fun ht => absolute (pabs_relative h ht) (respace_tcm (.inr (.inr h)) (.inl rfl) (by omega) (fld_lt x 18 3)),
        fun ht => ends_of_answer rfl ho (pabs_outOfRange h ht)⟩,
      fun h => ⟨absolute (pabs_absolute (by omega)) rfl, relative (prel_relative (by omega)) rfl⟩⟩
    rw [respace_spd (.inr h) (by decide) (by decide)]

end Sys2Proof.Machine
end

section
/-! Settles O12. A result for a queue end (R13, R91, R157, R158). -/

namespace Sys2Proof.Machine

section
variable {s t u : State} {len q k : Nat} {d : R6} {e : Eff} {v next : W} {tok irr : Bool} {i : Item}

theorem filter_isQ_some (h : isQ d = true) : (some d).filter isQ = some d := by simp [Option.filter, h]

/-- An instruction that pushes its result notes its next address and its flags, and pushes (R13). -/
theorem State.effect_push (hd : isQ d = true) (hn : e.norm = false ∨ s.me.latch.res.isSome = true) (hf : s.me.fpTrap e.flags = none) :
    s.effect len (some d) (.ok e) = (s.upd fun sl => { sl with latch :=
      { sl.latch with goto := some (e.pc.getD (s.me.pc + nat len)), fin := some (e.flags, if e.norm then 0 else e.hold) } }).finish true len d e.val := by
  have hn' : (e.norm && s.me.latch.res.isNone) = false := by
    rcases hn with h | h
    · simp [h]
    · simp [Option.isNone_eq_false_iff, h]
  simp only [State.effect, hn', hf, filter_isQ_some hd, Bool.false_eq_true, if_false]

/-! The push -/

/-- The home accepts a push at once where nothing waits and its ring has a free place (R157). -/
theorem State.qPush_ring (ho : (s.queue q).closed = false) (hc : (s.queue q).cons = []) (hp : (s.queue q).prod = []) (hr : (s.queue q).ringRoom = true) :
    s.qPush q k i = (.done, (s.ringPut q i).qChanged q) := by
  simp [State.qPush, State.qAccept, ho, hc, hp, hr]

theorem State.qPush_closed (h : (s.queue q).closed = true) : s.qPush q k i = (.fault 198, s) := if_pos h

theorem State.finish_near (hd : isQ d = true) (hs : s.me.latch.stage ≠ 3) (hq : s.endQueue d = some q) (hl : s.qcore q = s.myCore) :
    s.finish irr len d v tok = match s.stampMe.qPush q s.cur ⟨v, tok⟩ with
      | (.done, u) => u.endPush (s.me.latch.goto.getD (s.me.pc + nat len))
      | (.fault c, _) => s.upd fun sl => { sl with latch := { sl.latch with refusal := some (c, some (s.handle q)) } }
      | (_, u) => u.waitEnd d fun l => { l with stage := 2, res := none, out := some ⟨v, tok⟩ } := by
  simp only [State.finish, hd, hq, if_pos hl, Bool.true_and, beq_iff_eq, if_neg hs, if_true] <;> rfl

theorem State.finish_far (hd : isQ d = true) (hs : s.me.latch.stage ≠ 3) (hq : s.endQueue d = some q) (hl : s.qcore q ≠ s.myCore) :
    s.finish irr len d v tok = (s.toHome d fun h => .qpush s.cur h ⟨v, tok⟩).waitEnd d fun l => { l with stage := 2, res := none, out := some ⟨v, tok⟩ } := by
  simp only [State.finish, hd, hq, if_neg hl, Bool.true_and, beq_iff_eq, if_neg hs, if_true]

theorem State.finish_round (hd : isQ d = true) (hs : s.me.latch.stage = 3) :
    s.finish irr len d v tok = s.commitEnds (s.me.latch.goto.getD (s.me.pc + nat len)) ⟨v, tok⟩ := by
  simp only [State.finish, hd, hs, Bool.true_and, beq_iff_eq, if_true]

/-! The commit of an instruction under R91 -/

/-- The ends that the issuing instruction has reserved, each committed, item i into its reserved place. -/
def State.endsCommitted (s : State) (i : Item) : State :=
  s.me.latch.ends.foldl (fun t o => t.finEnd t.cur o true (if o.push then some i else none)) s

theorem State.commitEnds_near (h : ∀ o ∈ s.me.latch.ends, s.homeCore (s.ctxOf s.myCore) o.h = some s.myCore) :
    s.commitEnds next i = (s.endsCommitted i).endPush next := by
  refine if_pos ?_
  rw [List.isEmpty_iff, List.filter_eq_nil_iff]
  intro o ho
  simp [h o ho]

/-- One end of another core: the slot waits for the confirmations, and its latch keeps what it pushes and where it goes on. -/
theorem State.commitEnds_far (h : ∃ o ∈ s.me.latch.ends, ∃ c, s.homeCore (s.ctxOf s.myCore) o.h = some c ∧ c ≠ s.myCore) (hu : u = s.commitEnds next i) :
    u.net = (s.endsCommitted i).net ∧ u.me.st = .parkQ ∧ u.me.wait = .reply ∧ u.me.latch.stage = 2 ∧
      u.me.latch.out = (s.endsCommitted i).me.latch.out ∧ u.me.latch.goto = (s.endsCommitted i).me.latch.goto := by
  obtain ⟨o, ho, c, hc, hne⟩ := h
  rw [State.commitEnds, if_neg] at hu
  · subst hu
    exact ⟨rfl, by simp, by simp, by simp, by rw [State.me_upd]; rfl, by rw [State.me_upd]; rfl⟩
  · rw [List.isEmpty_iff, List.filter_eq_nil_iff]
    intro hnil
    exact hnil o ho (by simp [hc, hne])

/-! The end of a push -/

theorem State.endPush_bare {late : Bool} (h : s.me.latch.fin = none) : s.endPush next late = s.retireIrrTo next := by
  simp only [State.endPush, h]

theorem State.endPush_noted {late : Bool} {f : Nat × Nat} (h : s.me.latch.fin = some f) : s.endPush next late =
    (s.upd fun sl => { sl with fflags := sl.fflags ||| nat (f.1 % 32), hold := if late then 0 else f.2 }).retireIrrTo next := by
  simp only [State.endPush, h, Slot.orFlags]

end

/-- Settles O12: the push at home, the push elsewhere, the commit under R91, and what comes with the end of each. -/
theorem resultQueue : Obligations.ResultQueue := by
  rintro s s' len d e q next f wait hd hn hf hnext hf' hs' rfl
  have heff : s.effect len (some d) (.ok e) = s'.finish true len d e.val := by
    rw [State.effect_push hd hn hf, hs', hf', hnext]
  have hlatch : s'.me.latch = { s.me.latch with goto := some next, fin := some f } := by rw [hs', State.me_upd]
  have hcur : s'.cur = s.cur := by rw [hs']; rfl
  have hstage : s'.me.latch.stage = s.me.latch.stage := by rw [hlatch]
  have hgoto (w : W) : s'.me.latch.goto.getD w = next := by rw [hlatch]; rfl
  refine ⟨fun h3 hq => ?_, fun t h3 ht => ?_, fun u late => ⟨State.endPush_bare, State.endPush_noted⟩⟩
  · have hq' : s'.endQueue d = some q := by rw [hs']; exact hq
    have hc' : s'.qcore q = s.qcore q := by rw [hs']; rfl
    have hm' : s'.myCore = s.myCore := by rw [hs']; rfl
    have hqueue : s'.stampMe.queue q = s.queue q := by rw [hs']; rfl
    refine ⟨fun hl ho hc hp hr => ?_, fun hl u hu => ?_, fun hl => ?_, fun hl hclosed => ?_⟩
    · rw [heff, State.finish_near hd (hstage ▸ h3) hq' (by rw [hc', hl, hm']), State.qPush_ring (by rw [hqueue, ho]) (by rw [hqueue, hc]) (by rw [hqueue, hp]) (by rw [hqueue, hr])]
      simp only [hgoto]
    · rw [heff, State.finish_near hd (hstage ▸ h3) hq' (by rw [hc', hl, hm']), hcur, hu]
    · rw [heff, State.finish_far hd (hstage ▸ h3) hq' (by rw [hc', hm']; exact hl), hcur]
    · rw [heff, State.finish_near hd (hstage ▸ h3) hq' (by rw [hc', hl, hm']), State.qPush_closed (by rw [hqueue, hclosed])]
      have hh : s'.handle q = s.handle q := by rw [hs']; rfl
      rw [State.kept_refused (c := (198, some (s.handle q))) (by simp [hd])]
      · rfl
      · rw [← hcur]
        show (State.me (s'.upd _)).latch.refusal = _
        rw [State.me_upd, hh]
  · have ht' : t = s'.endsCommitted ⟨e.val, false⟩ := ht
    have hfin : s.effect len (some d) (.ok e) = s'.commitEnds next ⟨e.val, false⟩ := by rw [heff, State.finish_round hd (hstage.trans h3), hgoto]
    have hends : s'.me.latch.ends = s.me.latch.ends := by rw [hlatch]
    have hhome (h : W) : s'.homeCore (s'.ctxOf s.myCore) h = s.homeCore (s.ctxOf s.myCore) h := by rw [hs']; rfl
    have hm' : s'.myCore = s.myCore := by rw [hs']; rfl
    refine ⟨fun h => ?_, fun h u hu => ?_⟩
    · rw [hfin, ht', State.commitEnds_near]
      simpa only [hends, hhome, hm'] using h
    · rw [ht']
      refine State.commitEnds_far ?_ (hu.trans hfin)
      simpa only [hends, hhome, hm'] using h

end Sys2Proof.Machine
end

section
/-! Settles O43. The queue instructions (R106, R155 to R160). -/

namespace Sys2Proof.Machine

section
variable {i : Instr} {len : Nat} {srcs : List R6} {dst : Option R6} {irr : Bool} {rel : Option Nat} {body : List W → State → State} {s s1 t : State} {vs : List W}

/-- What an instruction ends in, for the operands that its fields deliver. -/
theorem ends_of_withOps (hx : exec i s = .next (s.withOps len srcs dst irr rel body)) (ho : Operands s srcs dst irr rel vs s1) (h : body vs s1 = t) :
    Ends i s s1 dst t := by
  rw [Ends, hx, State.withOps_reach ho, h]

/-- The same for one that has no destination. -/
theorem exec_of_withOps (hx : exec i s = .next (s.withOps len srcs none irr rel body)) (ho : Operands s srcs none irr rel vs s1) (h : body vs s1 = t) :
    exec i s = .next t := ends_of_withOps hx ho h

end

/-! An operation at the home of a queue, and through an end -/

section
variable {E : State → Prop} {s : State} {h : W} {d : R6} {op : QCtlOp} {done issue : V512 → State → State} {next : State → State} {v : V512}

theorem State.onReply_some (hr : s.me.latch.res = some v) : s.onReply done next = done v s := by rw [State.onReply, hr]

theorem State.onReply_none (hr : s.me.latch.res = none) : s.onReply done next = next s := by rw [State.onReply, hr]

theorem State.onEnd_none {body : QEnd → State → State} (hq : s.qend d = none) : s.onEnd d body = s.raiseOpen 192 := by rw [State.onEnd, hq]

theorem State.onEnd_some {body : QEnd → State → State} {e : QEnd} (hq : s.qend d = some e) : s.onEnd d body = body e s := by rw [State.onEnd, hq]

theorem State.qCtlOp_away (hr : s.me.latch.res = none) (hh : s.homeCore (s.ctxOf s.myCore) h = none) : s.qCtlOp h op done = s.raise 197 h := by
  simp only [State.qCtlOp, State.onReply_none hr, hh]

theorem State.qCtlOp_far {c : Nat} (hr : s.me.latch.res = none) (hh : s.homeCore (s.ctxOf s.myCore) h = some c) (hc : c ≠ s.myCore) :
    s.qCtlOp h op done = awaits .parkMem .reply (s.send (s.ctxOf s.myCore) s.myCore c (.qctl s.cur h op)) := by
  simp only [State.qCtlOp, State.onReply_none hr, hh, if_neg hc]
  rfl

theorem State.qCtlOp_near (hr : s.me.latch.res = none) (hh : s.homeCore (s.ctxOf s.myCore) h = some s.myCore) :
    s.qCtlOp h op done = match s.qCtlStep s.cur h op with
      | (.ok v, u) => done v u
      | (.error e, u) => u.raise e h := by
  simp only [State.qCtlOp, State.onReply_none hr, hh, if_true] <;> rfl

/-- An instruction that is an operation at the home of the queue with handle h does all that `AtQueue` says. -/
theorem atQueue (hE : E (s.qCtlOp h op done)) : AtQueue E s h op done := by
  refine ⟨fun v hv => ?_, fun hr => ⟨fun hh => ?_, fun c hh => ⟨fun hc => ?_, ?_⟩⟩⟩
  · rwa [State.qCtlOp, State.onReply_some hv] at hE
  · rwa [State.qCtlOp_away hr hh] at hE
  · rwa [State.qCtlOp_far hr hh hc] at hE
  · rintro rfl u
    rw [State.qCtlOp_near hr hh] at hE
    exact ⟨fun v hv => by rwa [hv] at hE, fun e he => by rwa [he] at hE⟩

/-- The same through an end: what the instruction does with a bound end is the fault of a held one, or that operation. -/
theorem atEnd {held : Bool} {body : QEnd → State → State} (hE : E (s.onReply done fun s => s.onEnd d body))
    (hheld : ∀ e, held = true → e.stream = true → body e s = s.raise 200 e.h)
    (hfree : ∀ e, held = false ∨ e.stream = false → body e s = s.qCtlOp e.h op done) : AtEnd E s d held op done := by
  refine ⟨fun v hv => ?_, fun hr hq => ?_, fun e hr hq => ⟨fun h1 h2 => ?_, fun hf => atQueue ?_⟩⟩
  · rwa [State.onReply_some hv] at hE
  · rwa [State.onReply_none hr, State.onEnd_none hq] at hE
  · rwa [State.onReply_none hr, State.onEnd_some hq, hheld e h1 h2] at hE
  · rwa [State.onReply_none hr, State.onEnd_some hq, hfree e hf] at hE

/-- A QCTL operation through an end (R158, R161). -/
theorem atEnd_qctl (hE : E (s.qctl d op)) : AtEnd E s d true op noRd :=
  atEnd hE (fun _ _ h => if_pos h) fun e h => if_neg (by simpa using h)

end

/-- The first number below n with a property. -/
theorem find?_range_some {p : Nat → Bool} {n j : Nat} (hj : j < n) (hp : p j = true) (hl : ∀ l < j, p l = false) : (List.range n).find? p = some j := by
  rw [List.find?_range_eq_some]
  exact ⟨hp, List.mem_range.2 hj, fun l h => by simp [hl l h]⟩

theorem find?_range_none {p : Nat → Bool} {n : Nat} (h : ∀ l < n, p l = false) : (List.range n).find? p = none := by
  rw [List.find?_eq_none]
  exact fun l hl => by simp [h l (List.mem_range.1 hl)]

/-! BTOK -/

section
variable {s : State} {a : R6} {i : BitVec 13}

/-- What BTOK does at an end that it may read, its chunk ended. -/
def State.btokAt (s : State) (a : R6) (i : BitVec 13) : State :=
  if s.endLocal a then
    match s.endQueue a with
    | none => s
    | some q => match s.stampMe.qPop q s.cur (qIx a) true with
      | (.item v, u) => u.btokDone i (v.getLsbD 64)
      | (_, u) => u.waitEnd a id
  else (s.toHome a fun h => .qpop s.cur (qIx a) h true).waitEnd a id

theorem exec_btok_reply {v : V512} (h : s.me.latch.res = some v) : exec (.btok a i) s = .next (s.btokDone i (v.getLsbD 64)) :=
  congrArg Host.Outcome.next (State.onReply_some h)

theorem exec_btok_closed {c : Nat × Option W} (hr : s.me.latch.res = none) (h : s.endCheck 1 a = some c) : exec (.btok a i) s = .next (s.raiseWith c) := by
  refine congrArg Host.Outcome.next ((State.onReply_none hr).trans ?_)
  simp only [h]

theorem exec_btok (hr : s.me.latch.res = none) (h : s.endCheck 1 a = none) (hg : s.me.chunk.global = false) :
    exec (.btok a i) s = .next ((s.chunkDone s.cur).btokAt a i) := by
  refine congrArg Host.Outcome.next ((State.onReply_none hr).trans ?_)
  simp only [h]
  exact State.afterCommit_done hg _

end

/-- QCTL with no operation in its register (R158). -/
theorem qctl_other {s : State} {d : R6} {w : W} (h : 3 ≤ w.toNat) :
    (match w.toNat with
      | 0 => s.qctl d .drain
      | 1 => s.qctl d .close
      | 2 => s.qctl d .opn
      | _ => match s.qend d with | none => s.raiseOpen 192 | some _ => s.raiseOpen 193) = s.raiseOpen (if s.qend d = none then 192 else 193) := by
  split
  · omega
  · omega
  · omega
  · cases s.qend d <;> rfl

theorem queueResults : Rules.QueueResults := by
  intro d a b i s s1 h w
  refine ⟨fun ho => ⟨fun hq => ?_, fun r hq => ⟨fun hall => ?_, fun j hj hfree hl => ⟨_, rfl, ?_⟩⟩, ?_⟩, fun ho => ⟨fun v hv => ?_, fun hr hw => ?_, fun hr h1 h3 hq => ?_, fun h1 h3 hq => ?_⟩,
    fun ho => ⟨?_, ?_, ?_, ?_⟩, fun ho => ⟨?_, ?_, ?_, fun h3 => ?_⟩, fun ho => ends_of_withOps rfl ho rfl, fun ho => atQueue (ends_of_withOps rfl ho rfl),
    fun v hv => exec_btok_reply hv, fun hr => ⟨fun c hc => exec_btok_closed hr hc, fun hc hg h1 => ?_⟩⟩
  · refine ends_of_withOps (t := s1.raiseOpen 193) rfl ho ?_
    simp only [hq]
  · refine ends_of_withOps (t := s1.raiseOpen 194) rfl ho ?_
    simp only [hq, find?_range_none (n := 64) (p := fun l => !(s1.queue (cluOf s1.cur * 64 + l)).alloc) fun l hl => by simp [hall l hl]]
  · refine ends_of_withOps rfl ho ?_
    simp only [hq, find?_range_some (n := 64) (p := fun l => !(s1.queue (cluOf s1.cur * 64 + l)).alloc) hj (by simp [hfree]) fun l hlj => by simp [hl l hlj]]
  · exact atEnd (body := fun e s => s.qCtlOp e.h .stat (readRd d)) (ends_of_withOps rfl ho rfl) (fun _ h _ => by cases h) fun _ _ => rfl
  · exact exec_of_withOps rfl ho (State.onReply_some hv)
  · exact exec_of_withOps rfl ho ((State.onReply_none hr).trans (if_pos (by simpa [arg] using hw)))
  · refine exec_of_withOps rfl ho ((State.onReply_none hr).trans ((if_neg ?_).trans (if_pos ?_)))
    · show ¬ (w.toNat < 1 ∨ w.toNat > 3)
      omega
    · exact Option.isSome_iff_ne_none.2 hq
  · refine atQueue (ends_of_withOps rfl ho ?_)
    cases hr : s1.me.latch.res with
    | some v => rw [State.onReply_some hr, State.qCtlOp, State.onReply_some hr, noRd]
    | none =>
      refine (State.onReply_none hr).trans ((if_neg ?_).trans (if_neg ?_))
      · show ¬ (w.toNat < 1 ∨ w.toNat > 3)
        omega
      · simp [hq]
  · exact atEnd (body := fun e s => s.qCtlOp e.h (.unbind (qIx d)) noRd) (ends_of_withOps rfl ho rfl) (fun _ h _ => by cases h) fun _ _ => rfl
  · exact atEnd_qctl (ends_of_withOps rfl ho rfl)
  · exact atEnd_qctl (ends_of_withOps rfl ho rfl)
  · exact atEnd_qctl (ends_of_withOps rfl ho rfl)
  · rintro rfl
    exact atEnd_qctl (ends_of_withOps rfl ho rfl)
  · rintro rfl
    exact atEnd_qctl (ends_of_withOps rfl ho rfl)
  · rintro rfl
    exact atEnd_qctl (ends_of_withOps rfl ho rfl)
  · exact exec_of_withOps rfl ho (qctl_other h3)
  · have hx := exec_btok (i := i) hr hc hg
    rw [← h1] at hx
    refine ⟨fun hl => ?_, fun q u hl hq => ⟨fun v hp => ?_, fun hp => ?_⟩⟩
    · rw [hx, State.btokAt, if_neg (by simp [hl])]
    · rw [hx, State.btokAt, if_pos hl]
      simp only [hq, hp]
    · rw [hx, State.btokAt, if_pos hl]
      simp only [hq, hp]

/-! QREF -/

section
variable {s s1 : State} {d a b : R6} {p : W} {t : Tgt}

/-- The core's ends once a stream from a to d holds them. -/
def State.streamEnds (s : State) (d a : R6) : State := (s.holdEnd s.myCore (qIx a) true).holdEnd s.myCore (qIx d) true

/-- The stream that QREF starts from end a to end d with the record r. -/
def State.newStream (s : State) (d a : R6) (r : W × Bool × Nat × W × W) : Stream :=
  let u := s.streamEnds d a
  { c := s.myCore, qs := qIx a, qd := qIx d, x := u.ctxOf s.myCore, base := r.1, sm := r.2.1, bound := r.2.2.1, sentinel := r.2.2.2.1, fill := r.2.2.2.2
    vtid := u.tid u.cur, hs := (u.qend a).elim 0#64 (·.h), hd := (u.qend d).elim 0#64 (·.h) }

/-- QREF with the stream in place j of its cluster's engine. -/
def State.startStream (s : State) (d a : R6) (j : Nat) (r : W × Bool × Nat × W × W) : State :=
  ((s.streamEnds d a).modClu (cluOf s.cur) fun cl => { cl with streams := cl.streams.put j (s.newStream d a r) }).retireIrr 4

/-- What QREF does with the record that it has read: the fault of a bad one, the wait for a free place, or the start of its stream. -/
def State.qrefStart (s : State) (d a : R6) (p : W) (bytes : List Byte) : State :=
  match qrefRecord ((List.range 4).map fun i => leNat ((bytes.drop (8 * i)).take 8)) with
  | none => s.raise 193 p
  | some r =>
    match (List.range 4).find? fun i => ((s.clu (cluOf s.cur)).streams.find i).isNone with
    | none => s.parkRe .parkEng .stream
    | some j => s.startStream d a j r

theorem State.pc_startStream {j : Nat} {r : W × Bool × Nat × W × W} : (s.startStream d a j r).me.pc = s.me.pc + 4#64 := by
  rw [State.startStream, State.retireIrr, State.retireIrrTo, State.me_upd]
  rfl

theorem State.find_startStream {j : Nat} {r : W × Bool × Nat × W × W} :
    ((s.startStream d a j r).clu (cluOf s.cur)).streams.find j = some (s.newStream d a r) := by
  rw [State.startStream, State.retireIrr, State.retireIrrTo, State.clu_upd, State.clu_modClu, if_pos rfl, Tbl.find_put, if_pos rfl]

theorem exec_qref_source {c : Nat × Option W} (ho : Operands s [b] none true none [p] s1) (ha : s1.endCheck 1 a = some c) : exec (.qref d a b) s = .next (s1.raiseWith c) :=
  exec_of_withOps rfl ho (by simp only [ha])

theorem exec_qref_dest {c : Nat × Option W} (ho : Operands s [b] none true none [p] s1) (ha : s1.endCheck 1 a = none) (hd : s1.endCheck 2 d = some c) :
    exec (.qref d a b) s = .next (s1.raiseWith c) :=
  exec_of_withOps rfl ho (by simp only [ha, hd])

theorem exec_qref_pointer {c : Nat} (ho : Operands s [b] none true none [p] s1) (ha : s1.endCheck 1 a = none) (hd : s1.endCheck 2 d = none)
    (ht : s1.access s1.myCore p 8 32 = .error c) : exec (.qref d a b) s = .next (s1.raise c p) :=
  exec_of_withOps rfl ho (by simp only [ha, hd, arg, List.getD_cons_zero, State.piece, ht])

theorem exec_qref_record {q : Piece} (ho : Operands s [b] none true none [p] s1) (ha : s1.endCheck 1 a = none) (hd : s1.endCheck 2 d = none)
    (ht : s1.access s1.myCore p 8 32 = .ok t) (hq : q = ⟨0, p, t, 32, []⟩) (hb : s1.behind true [q] = false) (hal : s1.allows false [q]) (hr : s1.replied [q]) :
    exec (.qref d a b) s = .next (s1.qrefStart d a p (s1.pieceBytes q)) := by
  refine exec_of_withOps rfl ho ?_
  simp only [ha, hd, arg, List.getD_cons_zero, State.piece, ht]
  rw [← hq]
  refine (State.loadAll_done hb hal hr).trans ?_
  simp only [State.qrefStart, List.map_cons, List.headD_cons]
  rcases qrefRecord _ with _ | r <;> rfl

/-! The ends that a stream holds -/

theorem State.find_holdEnd (s : State) (c ix : Nat) (on : Bool) (j : Nat) :
    ((s.holdEnd c ix on).core c).q.find j = if j = ix then ((s.core c).q.find ix).map fun e => { e with stream := on } else (s.core c).q.find j := by
  rw [State.holdEnd, State.core_modCore, if_pos rfl]
  cases he : (s.core c).q.find ix with
  | none =>
    by_cases hj : j = ix
    · rw [if_pos hj, hj]
      exact he
    · rw [if_neg hj]
  | some e => exact Tbl.find_put ..

/-- An end that a stream takes, or has taken, is held. -/
theorem State.held_holdEnd {c ix j : Nat} {e : QEnd} (h : ((s.core c).q.find j).map (·.stream) = some true ∨ (j = ix ∧ (s.core c).q.find j = some e)) :
    (((s.holdEnd c ix true).core c).q.find j).map (·.stream) = some true := by
  rw [State.find_holdEnd]
  by_cases hj : j = ix
  · subst hj
    rw [if_pos rfl]
    rcases h with h | ⟨-, h⟩
    · obtain ⟨f, hf, -⟩ := Option.map_eq_some_iff.1 h
      rw [hf]
      rfl
    · rw [h]
      rfl
  · rw [if_neg hj]
    rcases h with h | ⟨h, -⟩
    · exact h
    · exact absurd h hj

end

theorem streamStart : Rules.StreamStart := by
  intro d a b s s1 p ho
  refine ⟨fun c hc => exec_qref_source ho hc, fun c ha hd => exec_qref_dest ho ha hd, fun ha hd => ⟨fun c hc => exec_qref_pointer ho ha hd hc, fun t ht q hq hb hal hr w hw => ?_⟩⟩
  have hx := exec_qref_record ho ha hd ht hq hb hal hr
  rw [State.qrefStart, ← hw] at hx
  refine ⟨fun hn => by simpa only [hn] using hx, fun hn hall => ?_, fun base sm bound sen fill j hrec hj hfree hl => ?_⟩
  · obtain ⟨r, hrec⟩ := Option.ne_none_iff_exists'.1 hn
    simpa only [hrec, find?_range_none (n := 4) (p := fun l => ((s1.clu (cluOf s1.cur)).streams.find l).isNone) fun l hl => by simp [Option.isNone_eq_false_iff, hall l hl]] using hx
  · simp only [hrec, find?_range_some (n := 4) (p := fun l => ((s1.clu (cluOf s1.cur)).streams.find l).isNone) hj (by simp [hfree])
      fun l hlj => by simp [Option.isNone_eq_false_iff, hl l hlj]] at hx
    have hcur : s1.cur = s.cur := ho.cur
    have hheld {e : QEnd} (he : s1.qend a = some e) : (((s1.holdEnd s1.myCore (qIx a) true).core s1.myCore).q.find (qIx a)).map (·.stream) = some true :=
      State.held_holdEnd (.inr ⟨rfl, he⟩)
    exact ⟨_, _, hx, State.pc_startStream, .of_eq rfl rfl rfl rfl, State.find_startStream, rfl, rfl, rfl, rfl, rfl, rfl, rfl, congrArg s1.tid hcur, rfl, rfl, rfl,
      fun e he => State.held_holdEnd (e := e) (.inl (hheld he))⟩

/-- Settles O43: the instructions at the home of a queue, and the start of a stream. -/
theorem queueInstructions : Obligations.QueueInstructions := ⟨queueResults, streamStart⟩

end Sys2Proof.Machine
end

section
/-! SUPPORT. What a write to any place below the GLB views leaves of memory: its own bytes alone have changed (R119, R253). -/

namespace Sys2Proof.Machine

/-- The bytes of both states are held alike. -/
structure SameStore (s t : State) : Prop where
  mem : t.mem = s.mem
  lines : t.lines = s.lines

theorem SameStore.trans {s t u : State} (h : SameStore s t) (g : SameStore t u) : SameStore s u := ⟨g.mem.trans h.mem, g.lines.trans h.lines⟩

theorem SameStore.byteAt {s t : State} (h : SameStore s t) (a : Nat) : t.byteAt a = s.byteAt a := by
  simp only [State.byteAt, h.mem, h.lines]

theorem Wakes.sameStore {s t : State} (h : Wakes s t) : SameStore s t := ⟨by rw [h.rest], by rw [h.rest]⟩

theorem sameStore_normNext (s : State) (c : Nat) : SameStore s (s.normNext c) := by
  unfold State.normNext
  split <;> exact ⟨rfl, rfl⟩

theorem sameStore_leaveNorm (s : State) (k : Nat) : SameStore s (s.leaveNorm k) := by
  unfold State.leaveNorm
  split
  · refine .trans ?_ (sameStore_normNext _ _)
    exact ⟨rfl, rfl⟩
  · exact ⟨rfl, rfl⟩

theorem sameStore_withdraw (s : State) (k : Nat) : SameStore s (s.withdraw k) := by
  refine .trans ?_ (sameStore_leaveNorm _ k)
  exact ⟨rfl, rfl⟩

theorem sameStore_squash (s : State) (k : Nat) : SameStore s (s.squash k) := by
  refine (sameStore_withdraw s k).trans ?_
  simp only [State.squash, State.askSolo]
  split
  · split <;> exact ⟨rfl, rfl⟩
  · exact ⟨rfl, rfl⟩

theorem sameStore_squashReaders (s : State) (b : Option Nat) (ls : List Nat) : SameStore s (s.squashReaders b ls) :=
  foldl_keeps (P := SameStore s) (fun t ⟨k, _⟩ h => by
    dsimp only
    split
    · exact h.trans (sameStore_squash t k)
    · exact h) _ s ⟨rfl, rfl⟩

/-- Whatever a write wakes or squashes, it puts its bytes and no others. -/
theorem sameStore_write (s : State) (by_ : Option Nat) (r : Bool) (a : Nat) (d : List Byte) :
    SameStore ((s.healPoison a d.length).putBytes a d) (s.write by_ r a d) := by
  unfold State.write
  extract_lets n olds old ls s1 s2 s3 s4
  have h2 : Wakes s1 s2 := by
    unfold s2
    split
    · exact wakes_foldl (fun t ⟨_, _⟩ => wakes_codeWrite t _ _ _) _ _
    · exact .refl _
  have h4 : SameStore s1 s4 := ((h2.trans (wakes_trigger s2 ls)).trans (wakes_foldl (fun t ⟨_, _⟩ => wakes_phaseWake t _ _) _ _)).sameStore
  split
  · exact h4.trans (SameStore.trans (sameStore_squashReaders s4 by_ ls) ⟨rfl, rfl⟩)
  · exact h4

section
variable {s : State} {a : Nat} {d : List Byte}

/-- A byte after a write within one word below the GLB views. -/
theorem State.byteAt_write (by_ : Option Nat) (r : Bool) (h : s.memWf = true) (hn : 0 < d.length) (hw : a % 8 + d.length ≤ 8) (ha : a + d.length ≤ glb0) (j : Nat) :
    (s.write by_ r a d).byteAt j = if a ≤ j then (d[j - a]?).getD (s.byteAt j) else s.byteAt j := by
  have hheal := heals_healPoison (s := s) h (show a < glb0 by omega) hn hw
  have hb : (s.healPoison a d.length).byteAt j = s.byteAt j := by
    rw [hheal.rest]
    rfl
  rw [(sameStore_write s by_ r a d).byteAt, State.byteAt_putBytes (State.memWf_healPoison h _ _) _ _ ha, hb]

/-- A number written within one word reads back. -/
theorem State.num_write_same (by_ : Option Nat) (r : Bool) {v n : Nat} (h : s.memWf = true) (hn : 0 < n) (hw : a % 8 + n ≤ 8) (ha : a + n ≤ glb0) :
    (s.write by_ r a (leBytes v n)).num a n = v % 256 ^ n := by
  have hl := length_leBytes v n
  have hb : (s.write by_ r a (leBytes v n)).bytes a n = (List.range n).map fun i => BitVec.ofNat 8 (v / 256 ^ i) := by
    refine List.map_congr_left fun i hi => ?_
    rw [State.byteAt_write by_ r h (by omega) (by omega) (by omega), if_pos (by omega), Nat.add_sub_cancel_left, getElem?_leBytes _ _ _ (List.mem_range.1 hi)]
    rfl
  rw [State.num, hb, leNat_ofNat]

theorem State.byteAt_write_ne (by_ : Option Nat) (r : Bool) (h : s.memWf = true) (hn : 0 < d.length) (hw : a % 8 + d.length ≤ 8) (ha : a + d.length ≤ glb0)
    {c : Nat} (hc : c < a ∨ a + d.length ≤ c) : (s.write by_ r a d).byteAt c = s.byteAt c := by
  rw [State.byteAt_write by_ r h hn hw ha]
  split
  · rw [List.getElem?_eq_none (by omega)]
    rfl
  · rfl

end

/-- A number of n bytes. -/
theorem leNat_lt (l : List Byte) : leNat l < 256 ^ l.length := by
  induction l with
  | nil => simp [leNat]
  | cons b l ih =>
    have := b.isLt
    rw [leNat, List.length_cons, Nat.pow_succ]
    omega

theorem State.num_lt (s : State) (a n : Nat) : s.num a n < 256 ^ n := by
  have h := leNat_lt (s.bytes a n)
  rwa [State.bytes, List.length_map, List.length_range] at h

end Sys2Proof.Machine
end

section
/-! Settles O42. Loop nests (R107, R151, R152). -/

namespace Sys2Proof.Machine

/-- An operation at the home of a target does all that `AtHome` says. -/
theorem atHome {E : State → Prop} {s : State} {t : Tgt} {op : HomeOp} {ptr : W} {done : V512 → State → State} (hE : E (s.atHome t op ptr done)) :
    AtHome E s t op ptr done := by
  refine ⟨fun v hv => ?_, fun hr hg => ?_, fun hr hg hf => ?_, fun hr hg hn s2 => ?_⟩
  · rwa [State.atHome, State.onReply_some hv] at hE
  all_goals rw [State.atHome, State.onReply_none hr] at hE
  · simpa only [hg, if_true] using hE
  · simpa only [hg, hf, if_true, Bool.false_eq_true, if_false] using hE
  · simp only [hg, hn, Bool.false_eq_true, if_false, State.homeNow] at hE
    exact ⟨fun v hv => by rwa [hv] at hE, fun hw => by rwa [hw] at hE, fun c u hc => by rwa [hc] at hE⟩

/-! ITERI -/

section
variable {s s1 : State} {a : R6} {p : W} {t : Tgt}

/-- What ITERI does with the descriptor that it has read (R151). -/
def State.iteriBind (s : State) (p : W) (bytes : List Byte) : State :=
  match nestOf ((List.range 6).map fun i => leNat ((bytes.drop (8 * i)).take 8)) with
  | none => (s.upd fun sl => { sl with iter := none }).raise 234 p
  | some it => (s.upd fun sl => { sl with iter := some it, nestp := p, nestc := 0#64 }).retireIrr 4

theorem exec_iteri_unbind (ho : Operands s [a] none true none [0#64] s1) :
    exec (.iteri a) s = .next ((s1.upd fun sl => { sl with nestp := 0#64, nestc := 0#64, iter := none }).retireIrr 4) :=
  exec_of_withOps rfl ho (if_pos rfl)

theorem exec_iteri_pointer {c : Nat} (ho : Operands s [a] none true none [p] s1) (hp : p ≠ 0#64) (ht : s1.access s1.myCore p 64 64 = .error c) :
    exec (.iteri a) s = .next (s1.raise c p) :=
  exec_of_withOps rfl ho (by simp only [arg, List.getD_cons_zero, if_neg hp, ht])

theorem exec_iteri_tcm (ho : Operands s [a] none true none [p] s1) (hp : p ≠ 0#64) (ht : s1.access s1.myCore p 64 64 = .ok t) (hs : 3 ≤ spc p ∧ spc p ≤ 5) :
    exec (.iteri a) s = .next ((s1.upd fun sl => { sl with iter := none }).raise 234 p) :=
  exec_of_withOps rfl ho (by simp only [arg, List.getD_cons_zero, if_neg hp, ht, if_pos hs])

theorem exec_iteri_descriptor {q : Piece} (ho : Operands s [a] none true none [p] s1) (hp : p ≠ 0#64) (ht : s1.access s1.myCore p 64 64 = .ok t)
    (hs : ¬ (3 ≤ spc p ∧ spc p ≤ 5)) (hq : q = ⟨0, p, { t with off := t.off + 8 }, 48, []⟩) (hb : s1.behind true [q] = false) (hal : s1.allows false [q]) (hr : s1.replied [q]) :
    exec (.iteri a) s = .next (s1.iteriBind p (s1.pieceBytes q)) := by
  refine exec_of_withOps rfl ho ?_
  simp only [arg, List.getD_cons_zero, if_neg hp, ht, if_neg hs]
  rw [← hq]
  exact State.loadAll_done hb hal hr

end

/-! NEXT -/

section
variable {s s1 : State} {i : BitVec 13} {it : Iter}

theorem exec_next_unbound (h : s.me.nestp = 0#64) : exec (.next i) s = .next (s.retire 4) := congrArg Host.Outcome.next (if_pos h)

theorem exec_next_invalid (h : s.me.nestp ≠ 0#64) (hi : s.me.iter = none) : exec (.next i) s = .next (s.raise 234 s.me.nestp) := by
  refine congrArg Host.Outcome.next ((if_neg h).trans ?_)
  simp only [hi]

theorem exec_next_step (h : s.me.nestp ≠ 0#64) (hi : s.me.iter = some it) (hc : fld s.me.nestc 40 24 ≠ 0) :
    exec (.next i) s = .next ((s.nextStep it (fld s.me.nestc 40 24) (fld s.me.nestc 0 40)).retireTo (s.target i.toInt)) := by
  refine congrArg Host.Outcome.next ((if_neg h).trans ?_)
  simp only [hi, if_pos hc]

/-- What NEXT does once its chunk has ended: the checks of its descriptor, and the claim. -/
def State.nextClaim (s : State) (p : W) (it : Iter) (t : W) : State :=
  match s.access s.myCore p 64 64 with
  | .error e => s.raise e p
  | .ok g => s.atHome g (.claim (it.g * it.p) it.total) p fun v s =>
    if fld (asW v) 0 24 = 0 then s.retireIrr 4 else (s.nextStep it (fld (asW v) 0 24) (lane v 64 1)).retireIrrTo t

theorem exec_next_claim (h : s.me.nestp ≠ 0#64) (hi : s.me.iter = some it) (hc : fld s.me.nestc 40 24 = 0) :
    exec (.next i) s = .next (s.afterCommit fun u => u.nextClaim s.me.nestp it (s.target i.toInt)) := by
  refine congrArg Host.Outcome.next ((if_neg h).trans ?_)
  simp only [hi, hc, ne_eq, not_true_eq_false, if_false]
  rfl

end

theorem nestResults : Rules.NestResults := by
  intro a i s s1 p
  refine ⟨fun ho => ⟨?_, fun hp => ⟨fun c hc => exec_iteri_pointer ho hp hc, fun t ht => ⟨fun h3 h5 => exec_iteri_tcm ho hp ht ⟨h3, h5⟩, fun hs q hq hb hal hr w hw => ?_⟩⟩⟩,
    exec_next_unbound, exec_next_invalid, fun it h hi => ⟨exec_next_step h hi, fun hc hg => ?_, fun hc hg h1 => ?_⟩⟩
  · rintro rfl
    exact exec_iteri_unbind ho
  · have hx := exec_iteri_descriptor ho hp ht hs hq hb hal hr
    rw [State.iteriBind, ← hw] at hx
    exact ⟨fun hn => by simpa only [hn] using hx, fun it hit => by simpa only [hit] using hx⟩
  · rw [exec_next_claim h hi hc, State.afterCommit_waits hg]
  · have hx := exec_next_claim (i := i) h hi hc
    rw [State.afterCommit_done hg, ← h1, State.nextClaim] at hx
    exact ⟨fun e he => by simpa only [he] using hx, fun t ht => atHome (by rw [ht] at hx; exact hx)⟩

/-! The loop step -/

section
variable {s : State} {it : Iter} {left idx : Nat}

/-- The position of a nest after a step. -/
theorem nestc_fields (h : 1 ≤ left) (hl : left < 2 ^ 24) :
    fld (nat ((left - 1) * 2 ^ 40 + (idx + 1) % 2 ^ 40)) 40 24 = left - 1 ∧ fld (nat ((left - 1) * 2 ^ 40 + (idx + 1) % 2 ^ 40)) 0 40 = (idx + 1) % 2 ^ 40 := by
  constructor <;> rw [fld_eq, nat, BitVec.toNat_ofNat] <;> omega

/-- The loop step writes the four index registers and the position. -/
theorem State.nextStep_eq : s.nextStep it left idx =
    ((((s.xset s.cur 24 (nat (idx % it.e0))).xset s.cur 25 (nat (idx / it.e0 % it.e1))).xset s.cur 26 (nat (idx / it.e0 / it.e1 % it.e2))).xset s.cur 27
      (nat (idx / it.e0 / it.e1 / it.e2 % it.e3))).upd fun sl => { sl with nestc := nat ((left - 1) * 2 ^ 40 + (idx + 1) % 2 ^ 40) } := rfl

theorem State.cur_xset {k r : Nat} {v : W} : (s.xset k r v).cur = s.cur := by
  unfold State.xset
  split <;> rfl

theorem State.nestp_xset {k r : Nat} {v : W} : (s.xset k r v).me.nestp = s.me.nestp := by
  unfold State.xset
  split
  · rfl
  · simp only [State.me, State.modSlot_cur, State.slot_modSlot]
    split
    · subst_vars
      rfl
    · rfl

theorem nextStep_results {t : State} (ht : t = s.nextStep it left idx) :
    t.xget s.cur 24 = nat (idx % it.e0) ∧ t.xget s.cur 25 = nat (idx / it.e0 % it.e1) ∧ t.xget s.cur 26 = nat (idx / it.e0 / it.e1 % it.e2) ∧
      t.xget s.cur 27 = nat (idx / it.e0 / it.e1 / it.e2 % it.e3) ∧ (∀ r, r < 24 ∨ 27 < r → t.xget s.cur r = s.xget s.cur r) ∧
      (1 ≤ left → left < 2 ^ 24 → fld t.me.nestc 40 24 = left - 1 ∧ fld t.me.nestc 0 40 = (idx + 1) % 2 ^ 40) ∧ t.me.nestp = s.me.nestp := by
  rw [State.nextStep_eq] at ht
  subst ht
  refine ⟨?_, ?_, ?_, ?_, fun r hr => ?_, fun h1 h2 => ?_, ?_⟩
  · rw [State.xget_upd rfl, State.xget_xset_ne (by omega), State.xget_xset_ne (by omega), State.xget_xset_ne (by omega), State.xget_xset_same (by omega)]
  · rw [State.xget_upd rfl, State.xget_xset_ne (by omega), State.xget_xset_ne (by omega), State.xget_xset_same (by omega)]
  · rw [State.xget_upd rfl, State.xget_xset_ne (by omega), State.xget_xset_same (by omega)]
  · rw [State.xget_upd rfl, State.xget_xset_same (by omega)]
  · rw [State.xget_upd rfl, State.xget_xset_ne (by omega), State.xget_xset_ne (by omega), State.xget_xset_ne (by omega), State.xget_xset_ne (by omega)]
  · rw [State.me_upd]
    exact nestc_fields h1 h2
  · rw [State.me_upd]
    simp only [State.nestp_xset]

end

/-! The claim -/

section
variable {s t : State} {k a gp total : Nat} {r : HomeRes}

/-- A claim takes a share of what remains, at least one iteration and at most 2^24 − 1. -/
theorem claimSize_spec {old : Nat} (h : old ≠ 0) (hg : 1 ≤ gp) :
    1 ≤ claimSize old gp ∧ claimSize old gp ≤ old ∧ claimSize old gp < 2 ^ 24 ∧
      (claimSize old gp < 2 ^ 24 - 1 → old ≤ claimSize old gp * gp ∧ (claimSize old gp = 1 ∨ (claimSize old gp - 1) * gp < old)) := by
  have hq : ceilDiv old gp * gp < old + gp ∧ old ≤ ceilDiv old gp * gp := by
    have hd := Nat.div_add_mod (old + gp - 1) gp
    have hm := Nat.mod_lt (old + gp - 1) (show 0 < gp by omega)
    rw [ceilDiv, Nat.mul_comm]
    omega
  have h1 : 1 ≤ ceilDiv old gp := by
    by_contra h0
    rw [show ceilDiv old gp = 0 by omega] at hq
    omega
  have hle : ceilDiv old gp ≤ old := by
    have := Nat.mul_le_mul_left (ceilDiv old gp - 1) hg
    have := Nat.sub_one_mul (ceilDiv old gp) gp
    omega
  have hs : claimSize old gp = min (ceilDiv old gp) (2 ^ 24 - 1) := by
    rw [claimSize]
    exact congrArg (Nat.min · _) (Nat.max_eq_right h1)
  rw [hs]
  refine ⟨by omega, by omega, by omega, fun hlt => ?_⟩
  rw [show min (ceilDiv old gp) (2 ^ 24 - 1) = ceilDiv old gp by omega]
  refine ⟨hq.2, .inr ?_⟩
  rw [Nat.sub_one_mul]
  omega

theorem State.homeStep_claim_over (hp : s.poisonAt a = false) (h : s.num a 5 = 0) : s.homeStep k false a (.claim gp total) = (.val 0#512, s) := by
  simp [State.homeStep, hp, h]

theorem State.homeStep_claim (hp : s.poisonAt a = false) (ha : a < glb0) (h : s.num a 5 ≠ 0) : s.homeStep k false a (.claim gp total) =
    (.val (BitVec.ofNat 512 (claimSize (s.num a 5) gp + 2 ^ 64 * ((total + 2 ^ 40 - s.num a 5) % 2 ^ 40))),
      s.write (some k) false a (leBytes (s.num a 5 - claimSize (s.num a 5) gp) 5)) := by
  simp [State.homeStep, State.homeWrite, hp, h, Nat.not_le.2 ha]

end

theorem nestSteps : Rules.NestSteps := by
  refine fun s t it left idx => ⟨nextStep_results, fun k a gp total r hwf ha8 ha hp hstep => ⟨fun h0 => ?_, fun h0 hg => ?_⟩⟩
  · rw [State.homeStep_claim_over hp h0] at hstep
    cases hstep
    exact ⟨rfl, .of_eq rfl rfl rfl rfl⟩
  · obtain ⟨h1, hle, hlt, hshare⟩ := claimSize_spec h0 hg
    have hold : s.num a 5 < 256 ^ 5 := s.num_lt a 5
    have hglb : a + 8 ≤ glb0 := by
      have : glb0 = 2 ^ 87 * 8 := by decide
      omega
    rw [State.homeStep_claim hp ha h0] at hstep
    cases hstep
    refine ⟨_, h1, hle, hlt, hshare, ?_, fun c hc => ?_, fun ht h40 => ?_⟩
    · rw [State.num_write_same _ _ hwf (by decide) (by omega) (by omega), Nat.mod_eq_of_lt (by omega)]
    · exact State.byteAt_write_ne _ _ hwf (by rw [length_leBytes]; decide) (by rw [length_leBytes]; omega) (by rw [length_leBytes]; omega) (by rw [length_leBytes]; exact hc)
    · rw [show (total + 2 ^ 40 - s.num a 5) % 2 ^ 40 = total - s.num a 5 by omega]

/-- Settles O42: the instructions, and the steps of the loop and of the claim. -/
theorem nestInstructions : Obligations.NestInstructions := ⟨nestResults, nestSteps⟩

end Sys2Proof.Machine
end

section
/-! Settles O50. What each message does at the unit that it reaches (R122, R127, R143, R146, R148, R204, R222, R229, R236, R276, R280, R308),
and what reaches the home of a queue (R91, R157, R281). -/

namespace Sys2Proof.Machine

/-! Deliveries and refusals -/

theorem State.net_of_deliverable {s : State} {n : Nat} {m : Msg} (hd : s.deliverable n = some m) : s.net[n]? = some m := by
  unfold State.deliverable at hd
  split at hd
  · cases hd
  · next o ho =>
    split at hd
    · rwa [Option.some.inj hd] at ho
    · cases hd

/-- The back-off is counted by the sender of the message refused, which is the n-th. -/
theorem State.modify_back {s : State} {n : Nat} {m : Msg} (hn : s.net[n]? = some m) (h : Nat) :
    (s.net.modify n fun o => { o with back := some (s.senderCyc o + h) }) = s.net.modify n fun o => { o with back := some (s.senderCyc m + h) } := by
  refine List.ext_getElem? fun i => ?_
  rw [List.getElem?_modify, List.getElem?_modify]
  by_cases hi : n = i
  · subst hi
    simp only [hn, Option.map_eq_map, Option.map_some]
  · simp only [if_neg hi]

theorem State.refuseMsg_eq {s : State} {n : Nat} {m : Msg} (hn : s.net[n]? = some m) (h : Nat) :
    s.refuseMsg n h = .next (if 16 ≤ h ∧ h ≤ 1024 then s.sentBack n m h else s) := by
  simp only [State.refuseMsg, State.sentBack, State.modify_back hn]

/-- A unit that hands a message to `refuseMsg` refuses it. -/
theorem refuses_of_refuseMsg {i : Nat → Instr} {s : State} {n : Nat} {m : Msg} (hd : s.deliverable n = some m)
    (hi : ∀ h, exec (i h) s = s.refuseMsg n h) : Refuses i s n m := by
  intro h
  rw [hi, State.refuseMsg_eq (State.net_of_deliverable hd)]
  exact ⟨fun h16 h1024 => by rw [if_pos ⟨h16, h1024⟩], fun hh => by rw [if_neg (by omega)]⟩

theorem State.freed_of_lt {s : State} {c : Nat} (hc : c < 1024) : s.freed c = s.niqWake c := if_pos hc

theorem State.net_send (s : State) (x i j : Nat) (b : Body) : (s.send x i j b).net = s.net ++ [⟨i, j, b, x, none⟩] :=
  (congrArg State.net (State.send_eq ..) :)

theorem State.cores_send (s : State) (x i j : Nat) (b : Body) : (s.send x i j b).cores = s.cores := (congrArg State.cores (State.send_eq ..) :)

section
variable {s t : State} {n h : Nat} {m : Msg} (hd : s.deliverable n = some m)
include hd

/-! Accesses of other cores (R122, R127, R141) -/

section
variable {k part a vc : Nat} {op : HomeOp} {ret : Bool} {ptr : W}

theorem exec_access_val {v : V512} (hb : m.body = .access k part a op ret vc ptr) (hs : (s.accept n m).homeStep k true a op = (.val v, t)) :
    exec (.remoteAccessArrival n) s =
      .next ((t.send m.ctx m.dst (coreOf k) (if ret then .reply k part (.val v) else .ack k vc)).homeAfter a op) := by
  show execRemoteAccessArrival n s = _
  simp only [execRemoteAccessArrival, hd, hb, hs]
  cases ret <;> rfl

theorem exec_access_wait (hb : m.body = .access k part a op ret vc ptr) (hs : (s.accept n m).homeStep k true a op = (.wait, t)) :
    exec (.remoteAccessArrival n) s = .next (t.parkAt k op.parked.1 op.parked.2) := by
  show execRemoteAccessArrival n s = _
  simp only [execRemoteAccessArrival, hd, hb, hs]

theorem exec_access_fault {c : Nat} (hb : m.body = .access k part a op ret vc ptr) (hs : (s.accept n m).homeStep k true a op = (.fault c, t)) :
    exec (.remoteAccessArrival n) s = .next (if ret then t.send m.ctx m.dst (coreOf k) (.reply k part (.fault c ptr))
      else (t.lateFault (dieOfPlace a) k m.ctx c ptr).send m.ctx m.dst (coreOf k) (.ack k vc)) := by
  show execRemoteAccessArrival n s = _
  simp only [execRemoteAccessArrival, hd, hb, hs, Option.getD_none]

end

section
variable {k j r : Nat} {w : Option W} {v : W}

theorem exec_slotReg_some {g : W} (hb : m.body = .slotReg k j r w v) (ha : (s.accept n m).slotAccess j r w v = some (g, t)) :
    exec (.remoteAccessArrival n) s = .next (t.send m.ctx m.dst (coreOf k) (.reply k 0 (.val (g.setWidth 512)))) := by
  show execRemoteAccessArrival n s = _
  simp only [execRemoteAccessArrival, hd, hb, ha]

theorem exec_slotReg_none (hb : m.body = .slotReg k j r w v) (ha : (s.accept n m).slotAccess j r w v = none) :
    exec (.remoteAccessArrival n) s =
      .next ((s.accept n m).free.2.send m.ctx m.dst (coreOf k) (.reply k 0 (.fault 44 (s.accept n m).free.1))) := by
  show execRemoteAccessArrival n s = _
  simp only [execRemoteAccessArrival, hd, hb, ha]

theorem exec_nudge (hb : m.body = .nudge k j) : exec (.remoteAccessArrival n) s =
    .next (((s.accept n m).nudge j).send m.ctx m.dst (coreOf k) (.reply k 0 (.val ((nat ((s.accept n m).slot j).st.code).setWidth 512)))) := by
  show execRemoteAccessArrival n s = _
  simp only [execRemoteAccessArrival, hd, hb]

end

/-! Mailboxes and engines (R222, R229, R236) -/

section
variable {k x : Nat} {d : Mail}

theorem refuses_mail (hb : m.body = .mail k d x) (hl : 64 ≤ (s.core m.dst).mail.length) : Refuses (.mailboxMessageArrival n) s n m := by
  refine refuses_of_refuseMsg hd fun h => ?_
  show execMailboxMessageArrival n h s = _
  simp only [execMailboxMessageArrival, hd, hb, ge_iff_le, if_pos hl]

theorem exec_mail (hb : m.body = .mail k d x) (hl : (s.core m.dst).mail.length < 64) (hm : m.src < 1024) :
    exec (.mailboxMessageArrival n h) s = .next (((s.accept n m).mailAccept m.dst d).niqWake m.src) := by
  show execMailboxMessageArrival n h s = _
  simp only [execMailboxMessageArrival, hd, hb, ge_iff_le, if_neg (Nat.not_le.2 hl), if_pos hm, State.freed_of_lt hm]

end

section
variable {r : EngReq}

theorem refuses_engine (hb : m.body = .engine r) (hl : (if r.kind = 0 then 16 else 8) ≤ (s.engOps (r.engine m.dst)).length) :
    Refuses (.engineRequestArrival n) s n m := by
  refine refuses_of_refuseMsg hd fun h => ?_
  show execEngineRequestArrival n h s = _
  simp only [execEngineRequestArrival, hd, hb, ge_iff_le, if_pos hl]

theorem exec_engine (hb : m.body = .engine r) (hl : (s.engOps (r.engine m.dst)).length < if r.kind = 0 then 16 else 8) :
    exec (.engineRequestArrival n h) s =
      .next ((({ s.accept n m with serial := (s.accept n m).serial + 1 } : State).setEngOps (r.engine m.dst)
        (s.engOps (r.engine m.dst) ++ [{ id := (s.accept n m).serial, req := r }])).freed m.src) := by
  show execEngineRequestArrival n h s = _
  simp only [execEngineRequestArrival, hd, hb, ge_iff_le, if_neg (Nat.not_le.2 hl)]

end

/-- What a credit does once it has been counted at its engine (R229). -/
theorem exec_credit {e id a k : Nat} {x : Nat} (hb : m.body = .credit e id a k x)
    (hv : t = (s.accept n m).modEng e id fun o => { o with credits := o.credits - 1 }) :
    (t.poisonAt a = true → exec (.credit n) s = .next ((t.engStop e id 128 true).engEnd e id)) ∧
    (t.poisonAt a = false → ∀ ws bad w, creditWords (t.num a 8) k = (ws, bad) → w = ws.foldl (fun s w => s.write none true a (leBytes w 8)) t →
      exec (.credit n) s = .next ((if bad then w.engStop e id 296 true else w).engEnd e id)) := by
  have hx : exec (.credit n) s = execCredit n s := rfl
  rw [hx]
  simp only [execCredit, hd, hb, ← hv]
  refine ⟨fun hp => by rw [if_pos hp], fun hp ws bad w hc hw => ?_⟩
  simp only [hp, hc, hw, Bool.false_eq_true, if_false]

/-! Task records, start messages and thefts (R143, R276 to R280) -/

section
variable {r : TaskRec}

theorem exec_task (hb : m.body = .task r) (ha : (s.accept n m).arrive m.dst r = some t) :
    exec (.taskRecordArrival n h) s =
      .next ((if r.stolen then t.modCore m.dst fun co => { co with stealing := false, ended := false } else t).freed m.src) := by
  show execTaskRecordArrival n h s = _
  simp only [execTaskRecordArrival, hd, hb, ha]

theorem refuses_task (hb : m.body = .task r) (ha : (s.accept n m).arrive m.dst r = none) : Refuses (.taskRecordArrival n) s n m := by
  refine refuses_of_refuseMsg hd fun h => ?_
  show execTaskRecordArrival n h s = _
  simp only [execTaskRecordArrival, hd, hb, ha]

end

theorem exec_start {ks : List Nat} (hb : m.body = .start ks) : exec (.pinnedStart n) s = .next (ks.foldl State.startSlot (s.accept n m)) := by
  show execPinnedStart n s = _
  simp only [execPinnedStart, hd, hb]

theorem exec_steal {th : Nat} (hb : m.body = .steal th) : exec (.stealAnswer n) s = .next ((s.accept n m).stealAnswer m.ctx m.dst th) := by
  show execStealAnswer n s = _
  simp only [execStealAnswer, hd, hb]

theorem exec_stealNo {v : Nat} (hb : m.body = .stealNo v) : exec (.stealAnswer n) s = .next ((s.accept n m).stealRefused m.dst) := by
  show execStealAnswer n s = _
  simp only [execStealAnswer, hd, hb]

end

/-- The record that a victim sends to its thief. -/
theorem State.net_stealAnswer_some {u : State} {x v th l : Nat} {r : TaskRec} (hres : (u.core v).reserved = [])
    (hl : (u.core v).stealLevel = some l) (hr : ((u.core v).level l).head? = some r) :
    (u.stealAnswer x v th).net =
      u.net ++ [⟨v, th, .task { r with src := u.vcl v * 128 + v % 8 * 16, reply := none, rel := false, stolen := true, ctx := x }, x, none⟩] := by
  simp only [State.stealAnswer, hres, List.isEmpty_nil, if_true, hl, Option.bind_some, hr, Option.map_some]
  exact State.net_send ..

/-- A core with a reservation for a record gives none away. -/
theorem State.stealAnswer_reserved {u : State} {x v th : Nat} (hres : (u.core v).reserved ≠ []) :
    u.stealAnswer x v th = u.send x v th (.stealNo v) := by
  have hne : (u.core v).reserved.isEmpty = false := by simpa using hres
  simp only [State.stealAnswer, hne, Bool.false_eq_true, if_false, Option.bind_none]

section
variable {s t : State} {n : Nat} {m : Msg} (hd : s.deliverable n = some m)
include hd

/-! Banks, groups, residency and the matrix engine (R146, R148, R204, R238) -/

section
variable {k name : Nat}

theorem exec_bank_ok {op : BankOp} {v : V512} (hb : m.body = .bank k name op)
    (hs : (s.accept n m).bankStep (m.dst - 2304) m.ctx ((s.accept n m).tid k) (name % 1024) op = (.ok v, t)) :
    exec (.counterBankStep n) s = .next (t.answer m.ctx m.dst k 0 (.val v)) := by
  show execCounterBankStep n s = _
  simp only [execCounterBankStep, hd, hb, hs]

theorem exec_bank_error {op : BankOp} {c : Nat} (hb : m.body = .bank k name op)
    (hs : (s.accept n m).bankStep (m.dst - 2304) m.ctx ((s.accept n m).tid k) (name % 1024) op = (.error c, t)) :
    exec (.counterBankStep n) s = .next (t.answer m.ctx m.dst k 0 (.fault c (nat name))) := by
  show execCounterBankStep n s = _
  simp only [execCounterBankStep, hd, hb, hs]

section
variable {x : Nat} {op : GroupOp}

theorem exec_group_none (hb : m.body = .group k x name op) (hs : (s.accept n m).groupStep k x name op = (none, t)) :
    exec (.groupRequestArrival n) s = .next (t.freed m.src) := by
  show execGroupRequestArrival n s = _
  simp only [execGroupRequestArrival, hd, hb, hs]

theorem exec_group_ok {v : V512} (hb : m.body = .group k x name op) (hs : (s.accept n m).groupStep k x name op = (some (.ok v), t)) :
    exec (.groupRequestArrival n) s = .next ((t.freed m.src).answer x m.dst k 0 (.val v)) := by
  show execGroupRequestArrival n s = _
  simp only [execGroupRequestArrival, hd, hb, hs]

theorem exec_group_error {c : Nat} (hb : m.body = .group k x name op) (hs : (s.accept n m).groupStep k x name op = (some (.error c), t))
    (hop : op = .gjoin ∨ op = .gleave ∨ op = .gfree ∨ op = .gbar) :
    exec (.groupRequestArrival n) s = .next ((t.freed m.src).answer x m.dst k 0 (.fault c (nat name))) := by
  show execGroupRequestArrival n s = _
  simp only [execGroupRequestArrival, hd, hb, hs]
  rcases hop with rfl | rfl | rfl | rfl <;> rfl

end
end

section
variable {k x op w : Nat} {key : W} {e : Expert}

/-- A key without an entry, or with one of another context, is refused; a hint for it is discarded. -/
theorem exec_expert_refused (hb : m.body = .expert k key x op w)
    (he : ∀ e, (s.accept n m).expertOf key.toNat = some e → ownerOf e.rcd ≠ x) :
    exec (.residencyStep n) s = .next (if op = 4 then (s.accept n m).freed m.src else (s.accept n m).answer x m.dst k 0 (.fault 320 key)) := by
  show execResidencyStep n s = _
  simp only [execResidencyStep, hd, hb]
  cases hx : (s.accept n m).expertOf key.toNat with
  | none => rfl
  | some e => exact if_pos (he e hx)

theorem exec_expert_wide (hb : m.body = .expert k key x 1 w) (hw : 1 < w) (he : (s.accept n m).expertOf key.toNat = some e)
    (ho : ownerOf e.rcd = x) :
    exec (.residencyStep n) s = .next (((s.accept n m).cacheModel e).answer x m.dst k 0 (.fault 327 (nat w))) := by
  show execResidencyStep n s = _
  simp [execResidencyStep, hd, hb, he, ho, hw]

theorem exec_expert_step (hb : m.body = .expert k key x op w) (h4 : op ≠ 4) (h1 : op ≠ 1 ∨ w ≤ 1)
    (he : (s.accept n m).expertOf key.toNat = some e) (ho : ownerOf e.rcd = x) {r : Option (Except Nat W)}
    (hs : ((s.accept n m).cacheModel e).exStep k e key op (nat w) = (r, t)) :
    (r = none → exec (.residencyStep n) s = .next t) ∧
    (∀ v, r = some (.ok v) → exec (.residencyStep n) s = .next (t.answer x m.dst k 0 (.val (v.setWidth 512)))) ∧
    (∀ c, r = some (.error c) → exec (.residencyStep n) s = .next (t.answer x m.dst k 0 (.fault c key))) := by
  have hx : exec (.residencyStep n) s = execResidencyStep n s := rfl
  have hwide : ¬ (op = 1 ∧ w > 1) := by omega
  rw [hx]
  simp only [execResidencyStep, hd, hb, he, ho, ne_eq, not_true_eq_false, if_false, h4, hwide, hs]
  refine ⟨?_, ?_, ?_⟩ <;> intros <;> simp only [*]

/-- A hint about an entry of its own context. -/
theorem exec_expert_hint (hb : m.body = .expert k key x 4 w) (he : (s.accept n m).expertOf key.toNat = some e) (ho : ownerOf e.rcd = x)
    (hv : t = ((s.accept n m).cacheModel e).freed m.src) :
    exec (.residencyStep n) s = .next (if t.exImage e.at_ = 0#64 then t.lateFault (e.sl / 32) k x 328 key
      else if w = 1 then (t.exWord (e.at_ + 24) (setFld (t.exW3 e.at_) 61 2 (w % 4))).exPageIn e key.toNat
      else t.exWord (e.at_ + 24) (setFld (t.exW3 e.at_) 61 2 (w % 4))) := by
  show execResidencyStep n s = _
  simp only [execResidencyStep, hd, hb, he, ho, ne_eq, not_true_eq_false, if_false, if_true, ← hv]
  split <;> rfl

end

theorem exec_mat {r : MatReq} (hb : m.body = .mat r) :
    (r.bad = none → exec (.matrixLaunchArrival n) s = .next ((s.accept n m).matEnter (m.dst - 1024) r)) ∧
    (∀ v, r.bad = some v → exec (.matrixLaunchArrival n) s = .next (((s.accept n m).expertDone r).reqFault (m.dst - 1024) r 134 v)) := by
  have hx : exec (.matrixLaunchArrival n) s = execMatrixLaunchArrival n s := rfl
  rw [hx]
  simp only [execMatrixLaunchArrival, hd, hb]
  exact ⟨fun h => by rw [h], fun v h => by rw [h]⟩

end

/-! The turnstile and its overflow lists (R308, R309) -/

section
variable {s t : State} {n d : Nat} {m : Msg} {q : Parked}

/-- A message that releases the records parked on die d. -/
def Body.releasesOn (d : Nat) : Body → Bool
  | .tsRelease e _ _ => e == d
  | _ => false

theorem Body.releasesOn_iff {b : Body} : b.releasesOn d = true ↔ ∃ key f, b = .tsRelease d key f := by
  cases b <;> simp [Body.releasesOn]

/-- A release on die d stands behind message n = m in its channel. -/
def State.releaseBehind (s : State) (n d : Nat) (m : Msg) : Bool := (s.net.drop (n + 1)).any fun o => o.src == m.src && o.body.releasesOn d

theorem State.releaseBehind_iff : s.releaseBehind n d m = true ↔ ∃ o ∈ s.net.drop (n + 1), o.src = m.src ∧ ∃ key f, o.body = .tsRelease d key f := by
  simp only [State.releaseBehind, List.any_eq_true, Bool.and_eq_true, beq_iff_eq, Body.releasesOn_iff]

/-- The parked record is not for the list: the list is empty and the record finds an entry or no list, or the list has failed. -/
def State.parksInside (s : State) (d x : Nat) : Prop :=
  (s.ovf x d).len = 0 ∧ (s.tsFree d x = true ∨ fld (Tbl.get 0#64 (s.ctx x).tsctl d) 0 16 = 0) ∨ (s.ovf x d).bad = true

theorem State.parksInside_iff {x : Nat} : s.parksInside d x ↔
    ((decide ((s.ovf x d).len = 0) && (s.tsFree d x || decide (fld (Tbl.get 0#64 (s.ctx x).tsctl d) 0 16 = 0))) || (s.ovf x d).bad) = true := by
  simp only [State.parksInside, Bool.or_eq_true, Bool.and_eq_true, decide_eq_true_eq]

theorem State.not_parksInside {x : Nat} (h : 0 < (s.ovf x d).len ∨ s.tsFree d x = false) (hbad : (s.ovf x d).bad = false)
    (hl : (s.ovf x d).len < fld (Tbl.get 0#64 (s.ctx x).tsctl d) 0 16 ∨ 0 < (s.ovf x d).len) : ¬ s.parksInside d x := by
  rintro (⟨hlen, hf | hcap⟩ | hb)
  · rcases h with h | h
    · omega
    · simp [h] at hf
  · omega
  · simp [hbad] at hb

section
variable (hd : s.deliverable n = some m) (hb : m.body = .tsPark d q)
include hd hb

/-- A record that is not for the list enters the turnstile, or waits. -/
theorem exec_park_inside (h : s.parksInside d q.ctx) : exec (.turnstilePark n) s =
    if (decide ((s.die d).turnstile.length < 1024) && (s.tsFree d q.ctx || s.releaseBehind n d m || !(s.ovf q.ctx d).bad)) = true
    then .next ((s.accept n m).tsPut d { q with late := decide ((s.ovf q.ctx d).len ≠ 0) }) else .next s := by
  show execTurnstilePark n s = _
  simp only [execTurnstilePark, hd, hb, State.parksInside_iff.1 h, if_true]
  rfl

theorem exec_park_enters (h : s.parksInside d q.ctx) (hlen : (s.die d).turnstile.length < 1024)
    (hfree : s.tsFree d q.ctx = true ∨ (s.ovf q.ctx d).bad = false ∨ s.releaseBehind n d m = true) :
    exec (.turnstilePark n) s = .next ((s.accept n m).tsPut d { q with late := decide ((s.ovf q.ctx d).len ≠ 0) }) := by
  rw [exec_park_inside hd hb h, if_pos]
  rcases hfree with hf | hf | hf <;> simp [hlen, hf]

theorem exec_park_waits (h : s.parksInside d q.ctx)
    (hfull : 1024 ≤ (s.die d).turnstile.length ∨ s.tsFree d q.ctx = false ∧ (s.ovf q.ctx d).bad = true ∧ ¬ s.releaseBehind n d m = true) :
    exec (.turnstilePark n) s = .next s := by
  rw [exec_park_inside hd hb h, if_neg]
  rcases hfull with hf | ⟨hf, hbad, hno⟩
  · simp [Nat.not_lt.2 hf]
  · simp [hf, hbad, hno]

/-- A record for a full list moves the oldest one of the list into the turnstile, if there is room. -/
theorem exec_park_full (h : ¬ s.parksInside d q.ctx) (hw : s.walking (dieAgent d) = false)
    (hl : fld (Tbl.get 0#64 (s.ctx q.ctx).tsctl d) 0 16 ≤ (s.ovf q.ctx d).len) : exec (.turnstilePark n) s = .next (s.tsRefill d q.ctx) := by
  have hout := mt State.parksInside_iff.2 h
  show execTurnstilePark n s = _
  simp only [execTurnstilePark, hd, hb, if_neg hout, hw, Bool.false_eq_true, if_false, ge_iff_le, if_pos hl]

/-- A record for a list with room is written to its tail. -/
theorem exec_park_list {a : Nat} (h : ¬ s.parksInside d q.ctx) (hw : s.walking (dieAgent d) = false)
    (hl : (s.ovf q.ctx d).len < fld (Tbl.get 0#64 (s.ctx q.ctx).tsctl d) 0 16) (ha : a = s.ovPlace q.ctx d ((s.ovf q.ctx d).head + (s.ovf q.ctx d).len)) :
    (∀ va, s.reachAll q.ctx (placesFrom a 32) false true = .error (.walk va) → exec (.turnstilePark n) s = .next (s.askWalk (dieAgent d) q.ctx va true)) ∧
    (∀ w, s.reachAll q.ctx (placesFrom a 32) false true = .ok w → w.mustWait none a 32 = false → exec (.turnstilePark n) s =
      .next ((((w.accept n m).unitWrite a (q.words.flatMap fun w => leBytes w.toNat 8)).modOvf q.ctx d fun v => { v with len := v.len + 1 }).tsRefill d q.ctx)) := by
  have hout := mt State.parksInside_iff.2 h
  have hx : exec (.turnstilePark n) s = execTurnstilePark n s := rfl
  rw [hx]
  simp only [execTurnstilePark, hd, hb, if_neg hout, hw, Bool.false_eq_true, if_false, ge_iff_le, if_neg (Nat.not_le.2 hl), ← ha]
  refine ⟨fun va hr => ?_, fun w hr hwait => ?_⟩
  · simp only [hr]
  · simp only [hr, hwait, Bool.false_eq_true, if_false]

end

theorem exec_release_none {key : W} {fail : Bool} (hd : s.deliverable n = some m) (hb : m.body = .tsRelease d key fail)
    (hw : s.walking (dieAgent d) = false) (hf : s.tsFind d m.ctx key = .ok (none, t)) : exec (.turnstileRelease n) s = .next (t.accept n m) := by
  show execTurnstileRelease n s = _
  simp only [execTurnstileRelease, hd, hb, hw, Bool.false_eq_true, if_false, hf]

end

theorem arrivalResults : Rules.ArrivalResults := by
  intro s n h m hd u
  refine ⟨?access, ?accessEnds, ?slotReg, fun k t hb => exec_nudge hd hb,
    fun k d x hb => ⟨refuses_mail hd hb, exec_mail hd hb⟩, fun r hb => refuses_engine hd hb, fun r hb => exec_engine hd hb, ?task, fun ks hb => exec_start hd hb,
    fun th hb hres l r hl hr => ⟨_, exec_steal hd hb, State.net_stealAnswer_some hres hl hr⟩, fun th hb hres => ⟨_, exec_steal hd hb, ?stealRefused⟩,
    fun v hb => exec_stealNo hd hb, fun e id a k x hb => exec_credit hd hb rfl, ?bank, ?group,
    fun k key x w e hb hw he ho => exec_expert_wide hd hb hw he ho, ?expert, ?hint, fun r hb => exec_mat hd hb, ?park,
    fun d key fail t hb hw hf => exec_release_none hd hb hw hf⟩
  case access =>
    intro k part a op ret vc ptr v t hb hs
    refine ⟨?_, ?_⟩ <;> rintro rfl <;> exact exec_access_val hd hb hs
  case accessEnds =>
    intro k part a op ret vc ptr t hb
    refine ⟨fun hs => exec_access_wait hd hb hs, fun c hs => ⟨?_, ?_⟩⟩ <;> rintro rfl <;> exact exec_access_fault hd hb hs
  case slotReg => exact fun k t r w v hb => ⟨fun g q ha => exec_slotReg_some hd hb ha, fun ha => exec_slotReg_none hd hb ha⟩
  case task =>
    refine fun r hb => ⟨fun t ha hst => ?_, fun t ha hst => ?_, refuses_task hd hb⟩
    · rw [exec_task hd hb ha, if_neg (by simp [hst])]
    · rw [exec_task hd hb ha, if_pos hst]
  case stealRefused =>
    rw [State.stealAnswer_reserved hres]
    exact ⟨State.net_send .., State.cores_send ..⟩
  case bank =>
    intro k name op hb r t hs
    refine ⟨?_, ?_⟩ <;> rintro v rfl
    · exact exec_bank_ok hd hb hs
    · exact exec_bank_error hd hb hs
  case group =>
    intro k x name op hb r t hs
    refine ⟨?_, ?_, ?_⟩
    · rintro rfl
      exact exec_group_none hd hb hs
    · rintro v rfl
      exact exec_group_ok hd hb hs
    · rintro c rfl hop
      exact exec_group_error hd hb hs hop
  case expert =>
    refine fun k key x op w hb h4 h1 => ⟨fun he => ?_, fun e he => ⟨fun ho => ?_, fun ho r t hs => exec_expert_step hd hb h4 h1 he ho hs⟩⟩
    · rw [exec_expert_refused hd hb (fun _ h => nomatch he.symm.trans h), if_neg h4]
    · rw [exec_expert_refused hd hb (fun _ h => Option.some.inj (he.symm.trans h) ▸ ho), if_neg h4]
  case hint =>
    refine fun k key x w hb => ⟨fun he => ?_, fun e he => ⟨fun ho => ?_, fun ho => ⟨fun hi => ?_, fun hi y hy => ?_⟩⟩⟩
    · exact exec_expert_refused hd hb fun _ h => nomatch he.symm.trans h
    · exact exec_expert_refused hd hb fun _ h => Option.some.inj (he.symm.trans h) ▸ ho
    · rw [exec_expert_hint hd hb he ho rfl, if_pos hi]
    · rw [exec_expert_hint hd hb he ho rfl, if_neg hi, ← hy]
  case park =>
    refine fun d q hb => ⟨fun hin => ⟨fun hlen hfree => ?_, fun hfull => ?_⟩, fun hlen hl hbad hw => ?_, fun hlen hbad hl hw => ?_⟩
    · exact exec_park_enters hd hb hin hlen (by rwa [State.releaseBehind_iff])
    · refine exec_park_waits hd hb hin ?_
      rwa [State.releaseBehind_iff]
    · exact exec_park_full hd hb (State.not_parksInside (.inl hlen) hbad (.inr hlen)) hw hl
    · exact exec_park_list hd hb (State.not_parksInside hlen hbad (.inl hl)) hw hl rfl

/-! What reaches the home of a queue (R91, R157, R281) -/

section
variable {s t : State} {n k ix e q : Nat} {m : Msg} {h : W} (hd : s.deliverable n = some m)
include hd

theorem exec_push {it : Item} (hb : m.body = .qpush k h it) :
    ((s.accept n m).findQueue m.ctx h = none → exec (.queuePushArrival n) s = .next ((s.accept n m).answer m.ctx m.dst k 0 (.fault 197 h))) ∧
    (∀ q r t, (s.accept n m).findQueue m.ctx h = some q → (s.accept n m).qPush q k it = (r, t) →
      exec (.queuePushArrival n) s = .next (t.qReply m.ctx m.dst k h r)) := by
  have hx : exec (.queuePushArrival n) s = execQueuePushArrival n s := rfl
  rw [hx]
  simp only [execQueuePushArrival, hd, hb]
  exact ⟨fun hq => by simp only [hq], fun q r t hq hp => by simp only [hq, hp]⟩

theorem exec_pop {b : Bool} (hb : m.body = .qpop k e h b) :
    ((s.accept n m).findQueue m.ctx h = none → exec (.queuePopArrival n) s = .next ((s.accept n m).answer m.ctx m.dst k 0 (.fault 197 h))) ∧
    (∀ q r t, (s.accept n m).findQueue m.ctx h = some q → (s.accept n m).qPop q k e b = (r, t) →
      exec (.queuePopArrival n) s = .next (t.qReply m.ctx m.dst k h r)) := by
  have hx : exec (.queuePopArrival n) s = execQueuePopArrival n s := rfl
  rw [hx]
  simp only [execQueuePopArrival, hd, hb]
  exact ⟨fun hq => by simp only [hq], fun q r t hq hp => by simp only [hq, hp]⟩

theorem exec_control {op : QCtlOp} (hb : m.body = .qctl k h op) :
    (∀ v, (s.accept n m).qCtlStep k h op = (.ok v, t) → exec (.queueControlArrival n) s = .next (t.answer m.ctx m.dst k 0 (.val v))) ∧
    (∀ c, (s.accept n m).qCtlStep k h op = (.error c, t) → exec (.queueControlArrival n) s = .next (t.answer m.ctx m.dst k 0 (.fault c h))) := by
  have hx : exec (.queueControlArrival n) s = execQueueControlArrival n s := rfl
  rw [hx]
  simp only [execQueueControlArrival, hd, hb]
  exact ⟨fun v hs => by simp only [hs], fun c hs => by simp only [hs]⟩

section
variable {push : Bool} (hb : m.body = .qrsv k ix e h push)
include hb

theorem exec_reserve_away (hq : (s.accept n m).findQueue m.ctx h = none) :
    exec (.reservationRound n) s = .next ((s.accept n m).answer m.ctx m.dst k ix (.fault 197 h)) := by
  show execReservationRound n s = _
  simp only [execReservationRound, hd, hb, hq]

theorem exec_reserve_closed (hq : (s.accept n m).findQueue m.ctx h = some q) (hp : push = true) (hc : ((s.accept n m).queue q).closed = true) :
    exec (.reservationRound n) s = .next ((s.accept n m).answer m.ctx m.dst k ix (.fault 198 h)) := by
  show execReservationRound n s = _
  simp only [execReservationRound, hd, hb, hq, hp, hc, Bool.and_true, if_true]

theorem exec_reserve {v : V512} (hq : (s.accept n m).findQueue m.ctx h = some q) (hp : push = false ∨ ((s.accept n m).queue q).closed = false)
    (hr : (s.accept n m).qReserve q k ix e push = (v, t)) : exec (.reservationRound n) s = .next (t.answer m.ctx m.dst k ix (.val v)) := by
  have hopen : (push && ((s.accept n m).queue q).closed) = false := by rcases hp with hp | hp <;> simp [hp]
  show execReservationRound n s = _
  simp only [execReservationRound, hd, hb, hq, hopen, hr, Bool.false_eq_true, if_false]

end

/-- The commit round of an end at its queue; a commit, not a release, is confirmed. -/
theorem exec_qfin {commit : Bool} {it : Option Item} (hb : m.body = .qfin k ix h commit it) (hq : (s.accept n m).findQueue m.ctx h = some q) :
    exec (.commitRound n) s = .next (if commit = true then ((s.accept n m).qFinish q k ix commit it).answer m.ctx m.dst k ix (.val 0#512)
      else (s.accept n m).qFinish q k ix commit it) := by
  show execCommitRound n s = _
  simp only [execCommitRound, hd, hb, hq]

theorem exec_qback {o : Took} (hb : m.body = .qback k o) :
    (∀ q, (s.accept n m).findQueue m.ctx o.h = some q → exec (.commitRound n) s = .next ((s.accept n m).qBack q k o.seq o.it o.was)) ∧
    ((s.accept n m).findQueue m.ctx o.h = none → exec (.commitRound n) s = .next (s.accept n m)) := by
  have hx : exec (.commitRound n) s = execCommitRound n s := rfl
  rw [hx]
  simp only [execCommitRound, hd, hb]
  exact ⟨fun q hq => by simp only [hq], fun hq => by simp only [hq]⟩

end

theorem queueArrivals : Rules.QueueArrivals := by
  intro s n m hd u
  refine ⟨fun k h it hb => ?push, fun k e h b hb => ?pop, fun k h op t hb => exec_control hd hb,
    fun k ix e h push hb => ⟨exec_reserve_away hd hb, fun q hq => ⟨exec_reserve_closed hd hb hq, fun hp v t hr => exec_reserve hd hb hq hp hr⟩⟩,
    fun k ix h it q hb hq => (exec_qfin hd hb hq).trans (congrArg _ (if_pos rfl)),
    fun k ix h it q hb hq => (exec_qfin hd hb hq).trans (congrArg _ (if_neg Bool.false_ne_true)), fun k o hb => exec_qback hd hb⟩
  case push =>
    obtain ⟨away, home⟩ := exec_push hd hb
    exact ⟨away, fun q t hq => ⟨home q _ t hq, home q _ t hq, fun c => home q _ t hq⟩⟩
  case pop =>
    obtain ⟨away, home⟩ := exec_pop hd hb
    exact ⟨away, fun q t hq => ⟨fun v => home q _ t hq, home q _ t hq⟩⟩

/-- Settles O50: what each message does at the unit that it reaches, and at the home of a queue. -/
theorem networkArrivals : Obligations.NetworkArrivals := ⟨arrivalResults, queueArrivals⟩

end Sys2Proof.Machine
end
